-- ==== Sys2Proof/Word.lean ====
section
/-! DEFINITION. The words of the machine and tables kept as plain data (R4, R160, R271). -/

set_option Elab.async false

namespace Sys2Proof

/-- A byte of memory (R4). -/
abbrev Byte := BitVec 8
/-- A 32-bit word. -/
abbrev W32 := BitVec 32
/-- A prompter register (R160). -/
abbrev W64 := BitVec 64

/-- A 33-bit token of the fabric: 32 data bits and a predicate bit (R17, R271). -/
structure Token where
  data : W32 := 0
  pred : Bool := false
deriving DecidableEq, Repr, Inhabited

/-- A table by key, kept as plain data: keys strictly rising, and no entry that equals the table's default. -/
abbrev Tab (α : Type) := List (Nat × α)

end Sys2Proof
end

