-- ==== Sys2Proof/Machine/Bits.lean ====
section
/-! DEFINITION. Bit fields, sign extension, byte order (R4, R8) and the operations of a table kept in canonical form. -/

namespace Sys2Proof.Machine

/-- Bits(x, hi, lo) of R8. -/
def bits (x hi lo : Nat) : Nat := x / 2 ^ lo % 2 ^ (hi + 1 - lo)
/-- Bit i of x. -/
def bit (x i : Nat) : Bool := x / 2 ^ i % 2 == 1
/-- SignExt(x, n) of R8. -/
def sx (n x : Nat) : Int := if x % 2 ^ n < 2 ^ (n - 1) then (x % 2 ^ n : Nat) else (x % 2 ^ n : Nat) - (2 ^ n : Nat)
/-- Trunc(x, n) of R8 on an unbounded integer. -/
def tr (n : Nat) (x : Int) : Nat := (x % (2 ^ n : Nat)).toNat
/-- Sat(x, lo, hi) of R8. -/
def sat (x lo hi : Int) : Int := if x < lo then lo else if x > hi then hi else x
/-- 1 for true, 0 for false. -/
def b2n (b : Bool) : Nat := if b then 1 else 0
/-- A 64-bit register from a number. -/
def w64 (n : Nat) : W64 := BitVec.ofNat 64 n
/-- x with bits [hi:lo] replaced by v. -/
def setBits (x hi lo v : Nat) : Nat := x - bits x hi lo * 2 ^ lo + v % 2 ^ (hi + 1 - lo) * 2 ^ lo
/-- ceil(a / b). -/
def cdiv (a b : Nat) : Nat := (a + b - 1) / b
/-- Number of 1 bits among the low n bits. -/
def popcount : Nat → Nat → Nat
  | 0, _ => 0
  | n + 1, x => x % 2 + popcount n (x / 2)
/-- Number of bits of x up to its highest 1 bit, of at most n bits. -/
def bitLen : Nat → Nat → Nat
  | 0, _ => 0
  | n + 1, x => if x = 0 then 0 else 1 + bitLen n (x / 2)

/-- The entry of a table at key k, or its default d. -/
def tget {α : Type} (t : Tab α) (d : α) (k : Nat) : α :=
  match t with
  | [] => d
  | (a, v) :: r => if a = k then v else tget r d k

/-- A table without key k. -/
def tdel {α : Type} (t : Tab α) (k : Nat) : Tab α :=
  match t with
  | [] => []
  | (a, v) :: r => if a = k then tdel r k else (a, v) :: tdel r k

/-- A table with v at key k, whatever v is. -/
def tins {α : Type} (t : Tab α) (k : Nat) (v : α) : Tab α :=
  match t with
  | [] => [(k, v)]
  | (a, w) :: r => if a < k then (a, w) :: tins r k v else if a = k then (k, v) :: r else (k, v) :: (a, w) :: r

/-- A table with v at key k; writing the default d removes the entry. -/
def tput {α : Type} [DecidableEq α] (t : Tab α) (d : α) (k : Nat) (v : α) : Tab α :=
  if v = d then tdel t k else tins t k v

/-- The canonical form of a table of default d: keys strictly rising, no entry equal to d. -/
def tabWf {α : Type} [DecidableEq α] (d : α) : Tab α → Bool
  | [] => true
  | [(_, v)] => v != d
  | (a, v) :: (b, w) :: r => decide (a < b) && v != d && tabWf d ((b, w) :: r)

/-- A sorted list of numbers with x in it. -/
def nins (l : List Nat) (x : Nat) : List Nat :=
  match l with
  | [] => [x]
  | a :: r => if a < x then a :: nins r x else if a = x then a :: r else x :: a :: r

/-- Little-endian value of bytes (R4). -/
def leNat : List Byte → Nat
  | [] => 0
  | b :: r => b.toNat + 256 * leNat r

/-- The n low bytes of v, least significant first (R4). -/
def leBytes : Nat → Nat → List Byte
  | 0, _ => []
  | n + 1, v => BitVec.ofNat 8 v :: leBytes n (v / 256)

/-- n bytes of a memory from address a; a byte that nothing has written reads as 0 (DESIGN CHOICE, log 3). -/
def rdBytes (m : Tab Byte) (a : Nat) : Nat → List Byte
  | 0 => []
  | n + 1 => tget m 0 a :: rdBytes m (a + 1) n

/-- A memory with bytes stored from address a. -/
def wrBytes (m : Tab Byte) (a : Nat) : List Byte → Tab Byte
  | [] => m
  | b :: r => wrBytes (tput m 0 a b) (a + 1) r

/-- First element of a list that satisfies p, removed from it. -/
def takeFirst {α : Type} (p : α → Bool) : List α → Option (α × List α)
  | [] => none
  | a :: r => if p a then some (a, r) else (takeFirst p r).map fun x => (x.1, a :: x.2)

/-- The pairs of a table under a key. -/
def lookup {α : Type} (l : List (Nat × α)) (k : Nat) : Option α :=
  match l with
  | [] => none
  | (a, v) :: r => if a = k then some v else lookup r k

end Sys2Proof.Machine
end

