-- ==== Sys2Proof/Config.lean ====
section
/-! DEFINITION. Constants the manual fixes for the device, and the free values: what the manual leaves open has no value here. -/

namespace Sys2Proof

/-- A free natural number for draw n: a time or a count the manual does not fix (DESIGN CHOICE, log 8). -/
opaque Config.freeNat : Nat → Nat
/-- A free 64-bit value for draw n: contents the manual does not define (DESIGN CHOICE, log 8). -/
opaque Config.freeW64 : Nat → W64
/-- A free temperature sample in degrees Celsius for draw n: the sensor of R421 is outside the model (DESIGN CHOICE, log 8). -/
opaque Config.freeTemp : Nat → BitVec 8

/-- The admission of a job of a launch tick, modulo 3: one tick early, at the tick, one tick late (R60, DESIGN CHOICE, log 8). -/
opaque Config.freeAdmit : Nat → Nat

/-- The array data that a link register holds (R320), by the region's counted cycle and the register: 4 x element key + side (DESIGN CHOICE, log 8). -/
opaque Config.freeLink : Nat → Nat → W64
/-- Word i of a readout item whose inner layout the manual does not give (R375): a function of the item's contents (DESIGN CHOICE, log 8). -/
opaque Config.freeLayout : List Nat → Nat → W64

namespace Config

/-- Master cycles of the die clock in a 1 ms completion timeout counted in ticks (R427). -/
def cxlTimeoutTicks : Nat := 100000
/-- Greatest number of cycles from a fire tick's boundary to the first issue (R48). -/
def fireLimit : Nat := 48
/-- L_ctl of R121, in ticks. -/
def lCtl : Nat := 9
/-- Request and reply of a sync operation on one die, in cycles (R208). -/
def syncNear : Nat := 20
/-- Request and reply of a sync operation to another die, in cycles (R208). -/
def syncFar : Nat := 60
/-- Nominal latency of a PEER or DIE load (R113). -/
def peerLatency : Nat := 24
/-- Longest retrain, in ticks (R410). -/
def retrainLimit : Nat := 800
/-- TotalVFs and the VF stride of the SR-IOV capability (R428). -/
def totalVfs : Nat := 15
def vfStride : Nat := 1
/-- Device Capabilities 2: completion timeout range A only, and no Completion Timeout Disable; Device Control 2, whose timeout value is read only (R427). -/
def devCap2 : Nat := 1
def devCtl2 : Nat := 0
/-- Bound of a function-level reset, in ticks (R401). -/
def flrLimit : Nat := 200000
/-- Default of RESTHR (R379). -/
def resthr : Nat := 16
/-- First DRAM address after the range of device memory (R114). -/
def dramTop : Nat := 0x004000000000
/-- Base of the die buffers (R114). -/
def dieBase : Nat := 0x010000000000
/-- Base of the pools (R114). -/
def poolBase : Nat := 0x020000000000
/-- Base of the sync-engine SRAM (R114). -/
def syncBase : Nat := 0x030000000000
/-- Base of the device registers (R114). -/
def regBase : Nat := 0x040000000000

end Config

end Sys2Proof
end

