-- ==== Sys2Proof/Syntax.lean ====
section
/-! DEFINITION. The instructions of Ngamet and the device's steps: one constructor for each row of the opcode table. -/

namespace Sys2Proof

/-- Conditions of BC (R161). -/
inductive Cond where
  | eqz | nez | ltz | gez | lez | gtz
deriving DecidableEq, Repr

/-- Member modes of a phaser (R165, R210). -/
inductive PhMode where
  | sig | wait | sigwait
deriving DecidableEq, Repr

/-- Planes of a configuration image that CFGLD names (R165). -/
inductive Plane where
  | op | rt | cn | all
deriving DecidableEq, Repr

/-- Queue banks (R165). -/
inductive Bank where
  | a | b
deriving DecidableEq, Repr

/-- Order field of an atomic (R166). -/
inductive Order where
  | relaxed | acquire | release | acqRel
deriving DecidableEq, Repr

/-- Scopes (R166, R333). -/
inductive Scope where
  | core | cluster | die | package | system
deriving DecidableEq, Repr

/-- Overflow policy of RREV (R139, R176). -/
inductive OvfPolicy where
  | sat | trap
deriving DecidableEq, Repr

/-- Rounding modes (R130). The epilogue and QMX use the first four. -/
inductive RMode where
  | rne | rz | rd | ru | sr
deriving DecidableEq, Repr

/-- Operand fields of a 48-bit element entry (R168). Its opcode is the constructor. -/
structure Ent where
  sa : Nat
  sb : Nat
  sc : Nat
  dst : Nat
  lnk : Nat
  grd : Nat
  imm : Nat
deriving DecidableEq, Repr, Inhabited

/-- Fields of a 256-bit copy schedule entry (R178). Its KIND is the constructor. -/
structure CopyEnt where
  bank : Nat
  stage : Nat
  start : Nat
  stid : Nat
  dtid : Nat
  itid : Nat
  rid : Nat
  w1 : Nat
  w2 : Nat
  rows : Nat
  cols : Nat
  cvtFmt : Nat
  cvtRm : Nat
  cvtScale : Nat
  ph : Nat
  ctr : Nat
deriving DecidableEq, Repr, Inhabited

/-- The steps of the part, one constructor for each row of the opcode table. A prompter word, an element entry,
an epilogue word and a copy entry carry the fields of their word; the thread, element, beat or schedule position that
issues it is the state's `cur`. An event has no word: what it happens to, and the values it carries, stand in `cur`, in
the fields its docstring names. -/
inductive Instr where
  /-- ADD (R225) -/
  | add (d a b : Nat)
  /-- SUB (R225) -/
  | sub (d a b : Nat)
  /-- MUL (R225) -/
  | mul (d a b : Nat)
  /-- MULH (R225) -/
  | mulh (d a b : Nat)
  /-- MULHU (R225) -/
  | mulhu (d a b : Nat)
  /-- AND (R225) -/
  | andR (d a b : Nat)
  /-- OR (R225) -/
  | orR (d a b : Nat)
  /-- XOR (R225) -/
  | xorR (d a b : Nat)
  /-- ANDN (R225) -/
  | andnR (d a b : Nat)
  /-- SHL (R225) -/
  | shl (d a b : Nat)
  /-- SHR (R225) -/
  | shr (d a b : Nat)
  /-- SAR (R225) -/
  | sar (d a b : Nat)
  /-- MIN (R225) -/
  | minS (d a b : Nat)
  /-- MAX (R225) -/
  | maxS (d a b : Nat)
  /-- MINU (R225) -/
  | minU (d a b : Nat)
  /-- MAXU (R225) -/
  | maxU (d a b : Nat)
  /-- SLT (R225) -/
  | slt (d a b : Nat)
  /-- SLTU (R225) -/
  | sltu (d a b : Nat)
  /-- SEQ (R225) -/
  | seq (d a b : Nat)
  /-- POPC (R225) -/
  | popc (d a : Nat)
  /-- CLZ (R225) -/
  | clz (d a : Nat)
  /-- ADDI (R226) -/
  | addi (d a i : Nat)
  /-- ANDI (R226) -/
  | andi (d a i : Nat)
  /-- ORI (R226) -/
  | ori (d a i : Nat)
  /-- XORI (R226) -/
  | xori (d a i : Nat)
  /-- SHLI (R226) -/
  | shli (d a n : Nat)
  /-- SHRI (R226) -/
  | shri (d a n : Nat)
  /-- SARI (R226) -/
  | sari (d a n : Nat)
  /-- SLTI (R226) -/
  | slti (d a i : Nat)
  /-- LIS (R226) -/
  | lis (d lane i : Nat)
  /-- LDD (R227, R228) -/
  | ldd (d a tid off : Nat)
  /-- LDW (R227, R228) -/
  | ldw (d a tid off : Nat)
  /-- STD (R227, R228) -/
  | std (d a tid off : Nat)
  /-- STW (R227, R228) -/
  | stw (d a tid off : Nat)
  /-- SRRD (R231) -/
  | srrd (d sr : Nat)
  /-- SRWR (R231) -/
  | srwr (a sr : Nat)
  /-- B (R233) -/
  | br (off : Nat)
  /-- CALL (R233, R236) -/
  | call (off : Nat)
  /-- BC (R233) -/
  | bc (c : Cond) (a off : Nat)
  /-- BST_S (R233) -/
  | bstS (line off : Nat)
  /-- BST_C (R233) -/
  | bstC (line off : Nat)
  /-- BCT (R233) -/
  | bct (k off : Nat)
  /-- JR (R233) -/
  | jr (a : Nat)
  /-- RET (R233, R236) -/
  | ret
  /-- CALLR (R233, R236) -/
  | callr (a : Nat)
  /-- KSET (R239) -/
  | kset (a k : Nat)
  /-- KRD (R239) -/
  | krd (d k : Nat)
  /-- KSTART (R241) -/
  | kstart (a s : Nat)
  /-- KWAIT (R242) -/
  | kwait (s : Nat)
  /-- KSTOP (R242) -/
  | kstop (s : Nat)
  /-- CFGLD (R243) -/
  | cfgld (p : Plane) (a b s : Nat)
  /-- CONSTW (R244) -/
  | constw (a b j s : Nat)
  /-- VSEL (R244) -/
  | vsel (a s : Nat)
  /-- EPSEL (R245) -/
  | epsel (a s : Nat)
  /-- QARM (R204) -/
  | qarm
  /-- QSEL (R204) -/
  | qsel (k : Bank)
  /-- QCANCEL (R204) -/
  | qcancel (k : Bank)
  /-- STAGE (R191) -/
  | stage
  /-- STAGESET (R191) -/
  | stageset (a : Nat)
  /-- TIDRD (R248) -/
  | tidrd (d tid w : Nat)
  /-- TIDWR (R248) -/
  | tidwr (d a tid w : Nat)
  /-- RESCLR (R249) -/
  | resclr (a tid : Nat)
  /-- RESTST (R249) -/
  | restst (d a tid : Nat)
  /-- PHREG (R210) -/
  | phreg (m : PhMode) (a : Nat)
  /-- PHDROP (R210) -/
  | phdrop (a : Nat)
  /-- PHSIG (R210) -/
  | phsig (a : Nat)
  /-- PHWAIT (R210) -/
  | phwait (a b : Nat)
  /-- PHSW (R210) -/
  | phsw (a b : Nat)
  /-- PHQRY (R210) -/
  | phqry (d a : Nat)
  /-- CTRWAIT (R203) -/
  | ctrwait (d a b : Nat)
  /-- CTRINIT (R203) -/
  | ctrinit (a b : Nat)
  /-- CTRRD (R203) -/
  | ctrrd (d a : Nat)
  /-- CTRSTAT (R203) -/
  | ctrstat (d a : Nat)
  /-- AADD (R212) -/
  | aadd (d a b : Nat) (wide : Bool) (o : Order) (sc : Scope)
  /-- AMIN (R212) -/
  | amin (d a b : Nat) (wide : Bool) (o : Order) (sc : Scope)
  /-- AMAX (R212) -/
  | amax (d a b : Nat) (wide : Bool) (o : Order) (sc : Scope)
  /-- AMINU (R212) -/
  | aminu (d a b : Nat) (wide : Bool) (o : Order) (sc : Scope)
  /-- AMAXU (R212) -/
  | amaxu (d a b : Nat) (wide : Bool) (o : Order) (sc : Scope)
  /-- AAND (R212) -/
  | aand (d a b : Nat) (wide : Bool) (o : Order) (sc : Scope)
  /-- AOR (R212) -/
  | aor (d a b : Nat) (wide : Bool) (o : Order) (sc : Scope)
  /-- AXOR (R212) -/
  | axor (d a b : Nat) (wide : Bool) (o : Order) (sc : Scope)
  /-- AXCH (R212) -/
  | axch (d a b : Nat) (wide : Bool) (o : Order) (sc : Scope)
  /-- ACAS (R212) -/
  | acas (d a b : Nat) (wide : Bool) (o : Order) (sc : Scope)
  /-- AFADD (R212) -/
  | afadd (d a b : Nat) (o : Order) (sc : Scope)
  /-- FENCE_P (R340) -/
  | fenceP (src dst : Nat) (sc : Scope)
  /-- FENCE_SC (R341) -/
  | fenceSc
  /-- FENCE_D (R252, R341) -/
  | fenceD
  /-- REL (R253) -/
  | rel (sc : Scope)
  /-- ACQ (R253) -/
  | acq (sc : Scope)
  /-- JOBPOST (R254) -/
  | jobpost (d a : Nat)
  /-- TIMERD (R255) -/
  | timerd (d : Nat)
  /-- TIMEFR (R255) -/
  | timefr (d : Nat)
  /-- TICKRD (R255) -/
  | tickrd (d : Nat)
  /-- WAITT (R256) -/
  | waitt (a : Nat)
  /-- WAITT_CUE (R256) -/
  | waittCue (a : Nat)
  /-- TRAP (R257) -/
  | trap (i : Nat)
  /-- ERET (R259) -/
  | eret
  /-- END (R260) -/
  | endBlock
  /-- BRK (R257) -/
  | brk (i : Nat)
  /-- STATERD (R261) -/
  | staterd (d a space : Nat)
  /-- ILLEGAL_WORD (R157: the word fetched by the current thread fails decode) -/
  | illegalWord (w : Nat)
  /-- INSTRUCTION_FETCH_FAULT (R220: the current thread's PC is misaligned or outside its image) -/
  | fetchFault
  /-- QUEUED_RECORD_DELIVERY (R360; core, slot the thread) -/
  | recordDelivery
  /-- DEBUG_RESUME (R257; core, slot the thread) -/
  | debugResume
  /-- DEBUG_REGISTER_ACCESS (R257; core, slot the thread, flag a write, ix the register (0 to 31 as R160, 32 to 39 k0 to k7, 40 PC), val) -/
  | debugAccess
  /-- NOP (R278) -/
  | eNop (x : Ent)
  /-- MOV (R278) -/
  | eMov (x : Ent)
  /-- SEL (R278) -/
  | eSel (x : Ent)
  /-- PICK (R278) -/
  | ePick (x : Ent)
  /-- PSET (R278) -/
  | ePset (x : Ent)
  /-- VOTE3 (R279) -/
  | eVote3 (x : Ent)
  /-- DELAY (R280) -/
  | eDelay (x : Ent)
  /-- FLAG (R281) -/
  | eFlag (x : Ent)
  /-- ETRAP (R282) -/
  | eTrap (x : Ent)
  /-- IADD (R283) -/
  | eIadd (x : Ent)
  /-- ISUB (R283) -/
  | eIsub (x : Ent)
  /-- IMUL (R283) -/
  | eImul (x : Ent)
  /-- IMULH (R283) -/
  | eImulh (x : Ent)
  /-- IMAD (R283) -/
  | eImad (x : Ent)
  /-- IABS (R283) -/
  | eIabs (x : Ent)
  /-- INEG (R283) -/
  | eIneg (x : Ent)
  /-- IMIN (R283) -/
  | eImin (x : Ent)
  /-- IMAX (R283) -/
  | eImax (x : Ent)
  /-- IMINU (R283) -/
  | eIminu (x : Ent)
  /-- IMAXU (R283) -/
  | eImaxu (x : Ent)
  /-- ISAT (R284) -/
  | eIsat (x : Ent)
  /-- ELEM_SHL (R283) -/
  | eShl (x : Ent)
  /-- ELEM_SHR (R283) -/
  | eShr (x : Ent)
  /-- ELEM_SAR (R283) -/
  | eSar (x : Ent)
  /-- ROL (R283) -/
  | eRol (x : Ent)
  /-- ELEM_AND (R283) -/
  | eAnd (x : Ent)
  /-- ELEM_OR (R283) -/
  | eOr (x : Ent)
  /-- ELEM_XOR (R283) -/
  | eXor (x : Ent)
  /-- ELEM_ANDN (R283) -/
  | eAndn (x : Ent)
  /-- NOT (R283) -/
  | eNot (x : Ent)
  /-- ELEM_POPC (R283) -/
  | ePopc (x : Ent)
  /-- ELEM_CLZ (R283) -/
  | eClz (x : Ent)
  /-- BFX (R285) -/
  | eBfx (x : Ent)
  /-- BFI (R285) -/
  | eBfi (x : Ent)
  /-- ICMP (R286) -/
  | eIcmp (x : Ent)
  /-- FCMP (R286) -/
  | eFcmp (x : Ent)
  /-- PAND (R286) -/
  | ePand (x : Ent)
  /-- POR (R286) -/
  | ePor (x : Ent)
  /-- PNOT (R286) -/
  | ePnot (x : Ent)
  /-- FADD (R287) -/
  | eFadd (x : Ent)
  /-- FSUB (R287) -/
  | eFsub (x : Ent)
  /-- FMUL (R287) -/
  | eFmul (x : Ent)
  /-- FFMA (R287) -/
  | eFfma (x : Ent)
  /-- FMIN (R288) -/
  | eFmin (x : Ent)
  /-- FMAX (R288) -/
  | eFmax (x : Ent)
  /-- FABS (R288) -/
  | eFabs (x : Ent)
  /-- FNEG (R288) -/
  | eFneg (x : Ent)
  /-- FRCP (R288) -/
  | eFrcp (x : Ent)
  /-- FRSQ (R288) -/
  | eFrsq (x : Ent)
  /-- FEXP2 (R288) -/
  | eFexp2 (x : Ent)
  /-- FLOG2 (R288) -/
  | eFlog2 (x : Ent)
  /-- FTANH (R288) -/
  | eFtanh (x : Ent)
  /-- FADD_B2 (R289) -/
  | eFaddB2 (x : Ent)
  /-- FMUL_B2 (R289) -/
  | eFmulB2 (x : Ent)
  /-- FFMA_B2 (R289) -/
  | eFfmaB2 (x : Ent)
  /-- FADD_H2 (R289) -/
  | eFaddH2 (x : Ent)
  /-- FMUL_H2 (R289) -/
  | eFmulH2 (x : Ent)
  /-- FFMA_H2 (R289) -/
  | eFfmaH2 (x : Ent)
  /-- CVT_RN (R290) -/
  | eCvtRn (x : Ent)
  /-- CVT_RZ (R290) -/
  | eCvtRz (x : Ent)
  /-- CVT_RD (R290) -/
  | eCvtRd (x : Ent)
  /-- CVT_RU (R290) -/
  | eCvtRu (x : Ent)
  /-- CVT_SR (R291) -/
  | eCvtSr (x : Ent)
  /-- QMAX (R292) -/
  | eQmax (x : Ent)
  /-- SCLE (R293) -/
  | eScle (x : Ent)
  /-- QMX (R294) -/
  | eQmx (x : Ent)
  /-- RFWD (R296) -/
  | eRfwd (x : Ent)
  /-- RADD (R296) -/
  | eRadd (x : Ent)
  /-- RSUB (R296) -/
  | eRsub (x : Ent)
  /-- RMUL (R296) -/
  | eRmul (x : Ent)
  /-- RMAC (R296) -/
  | eRmac (x : Ent)
  /-- LDP (R298) -/
  | eLdp (x : Ent)
  /-- STP (R298) -/
  | eStp (x : Ent)
  /-- LDPX (R298) -/
  | eLdpx (x : Ent)
  /-- STPX (R298) -/
  | eStpx (x : Ent)
  /-- AMODE (R311) -/
  | aMode (x : Ent)
  /-- WPRE_I (R312) -/
  | aWpreI (x : Ent)
  /-- WPRE_A (R312) -/
  | aWpreA (x : Ent)
  /-- WSWAP (R314) -/
  | aWswap (x : Ent)
  /-- APASS (R315) -/
  | aPass (x : Ent)
  /-- ADRAIN (R322) -/
  | aDrain (x : Ent)
  /-- ACLR (R318) -/
  | aClr (x : Ent)
  /-- ABIND (R321) -/
  | aBind (x : Ent)
  /-- ABIND_OFF (R321) -/
  | aBindOff (x : Ent)
  /-- WEIGHT_FETCH (R312; core, slot, ix j: stored rows 2j and 2j + 1) -/
  | weightFetch
  /-- PRELOAD_COMPLETE (R312; core, slot) -/
  | preloadComplete
  /-- A_OPERAND_FETCH (R316; core, slot, ix the pass, val the row m) -/
  | aOperandFetch
  /-- AC_ACCUMULATE (R317; core, slot, ix the pass, val the row m) -/
  | acAccumulate
  /-- PASS_COMPLETE (R316; core, slot, ix the pass) -/
  | passComplete
  /-- ACLR_ZERO_WRITE (R318; core, slot, ix j: rows 2j and 2j + 1) -/
  | aclrZeroWrite
  /-- DRAIN_START (R323; core) -/
  | drainStart
  /-- EPILOGUE_BEAT (R325; core, ix the beat) -/
  | epilogueBeat
  /-- EPILOGUE_STORE (R325; core, ix the beat) -/
  | epilogueStore
  /-- DRAIN_COMPLETE (R325; core) -/
  | drainComplete
  /-- EEND (R327) -/
  | pEend
  /-- ERD (R327) -/
  | pErd (d : Nat)
  /-- RREV (R327) -/
  | pRrev (d a : Nat) (p : OvfPolicy)
  /-- SCLX (R327) -/
  | pSclx (d a f : Nat)
  /-- CVF (R327) -/
  | pCvf (d a f : Nat) (rm : RMode)
  /-- BIAS (R327) -/
  | pBias (d a tid : Nat)
  /-- EADD (R327) -/
  | pEadd (d a b : Nat) (fp : Bool)
  /-- EMUL (R327) -/
  | pEmul (d a b : Nat) (fp : Bool)
  /-- EMAX (R327) -/
  | pEmax (d a b : Nat) (fp : Bool)
  /-- EMIN (R327) -/
  | pEmin (d a b : Nat) (fp : Bool)
  /-- CLMP (R327) -/
  | pClmp (d a f : Nat)
  /-- RELU (R327) -/
  | pRelu (d a : Nat) (fp : Bool)
  /-- ELUT (R329) -/
  | pElut (d a : Nat)
  /-- QNT (R327, R328) -/
  | pQnt (d a f : Nat) (rm : RMode)
  /-- EST (R327) -/
  | pEst (a f : Nat)
  /-- EBYP (R327) -/
  | pEbyp (a : Nat)
  /-- ESUM (R327) -/
  | pEsum (d a : Nat) (fp : Bool)
  /-- ESEL (R327) -/
  | pEsel (d a b c : Nat)
  /-- EMOV (R327) -/
  | pEmov (d a : Nat)
  /-- EFLG (R327) -/
  | pEflg (a line : Nat)
  /-- COPY (R196) -/
  | cCopy (e : CopyEnt)
  /-- GATHER (R196) -/
  | cGather (e : CopyEnt)
  /-- FILL (R196) -/
  | cFill (e : CopyEnt)
  /-- CVTCOPY (R197) -/
  | cCvtcopy (e : CopyEnt)
  /-- REDCOPY (R198) -/
  | cRedcopy (e : CopyEnt)
  /-- DIGEST (R198) -/
  | cDigest (e : CopyEnt)
  /-- COPY_LINE_TRANSFER (R193; core, ix the journal entry, val the line's address) -/
  | lineTransfer
  /-- CARAVAN_SLOT (R120; ix the channel) -/
  | caravanSlot
  /-- COPY_COMPLETION (R199; core, ix the journal entry) -/
  | copyCompletion
  /-- JOURNAL_RELEASE (R199; core, ix the journal entry) -/
  | journalRelease
  /-- COPY_BLOCK_RETIREMENT (R190; core) -/
  | copyBlockRetirement
  /-- PEER_REQUEST (R105; ix the request) -/
  | peerRequest
  /-- PROMPTER_ACCESS_PERFORM (R230; ix the request) -/
  | prompterPerform
  /-- PORT_ACCESS_PERFORM (R300; ix the request) -/
  | portPerform
  /-- PORT_REPLY (R301; ix the request) -/
  | portReply
  /-- STALL_WIRE_FREEZE (R301; core, slot, ix the request) -/
  | stallFreeze
  /-- II_BOUNDARY (R266; core, slot) -/
  | iiBoundary
  /-- KERNEL_RUN_END (R241; core, slot) -/
  | kernelRunEnd
  /-- TICK_BOUNDARY (R44) -/
  | tickBoundary
  /-- HEARTBEAT (R37) -/
  | heartbeat
  /-- CUE_START (R46; core, ix the cue, flag its inputs were resident before the boundary) -/
  | cueStart
  /-- SLACK_EXPIRY (R46; core, ix the cue, flag its inputs were resident before the boundary) -/
  | slackExpiry
  /-- DEADLINE_EXPIRY (R49; core, ix the cue) -/
  | deadlineExpiry
  /-- UNDERSTUDY_FIRE (R50; core, ix the cue) -/
  | understudyFire
  /-- BLOCK_RETIREMENT (R45; core, slot the sheet) -/
  | blockRetirement
  /-- RESUME (R91; ix the scene, val the gang slot) -/
  | resume
  /-- SCENE_CHANGE (R57; ix the scene) -/
  | sceneChange
  /-- SCENE_STOP (R58; ix the scene) -/
  | sceneStop
  /-- RECOVERY_REPLACEMENT (R83; ix the scene) -/
  | recovery
  /-- JOB_RECORD_READ (R59; ix the stream) -/
  | jobRecordRead
  /-- START_SCENE (R56; ix the stream, 64 + n for device queue n) -/
  | startScene
  /-- LAUNCH_GANG (R93; ix the stream, 64 + n for device queue n) -/
  | launchGang
  /-- CHANGE_SCENE (R57; ix the stream, 64 + n for device queue n) -/
  | changeScene
  /-- STOP_SCENE (R58; ix the stream) -/
  | stopScene
  /-- LOAD_SCENE (R64; ix the stream) -/
  | loadScene
  /-- UNLOAD_SCENE (R64; ix the stream) -/
  | unloadScene
  /-- SCENE_LOAD_COMPLETE (R64; ix the scene) -/
  | sceneLoadComplete
  /-- SCENE_UNLOAD_COMPLETE (R64; ix the scene) -/
  | sceneUnloadComplete
  /-- GANG_LAUNCH_COMPLETE (R93; ix the launch) -/
  | gangLaunchComplete
  /-- PHASE_BOUNDARY (R211; ix the phaser) -/
  | phaseBoundary
  /-- CHORUS_SIGNATURE (R389; core, slot the thread, val the signature) -/
  | chorusSignature
  /-- CHORUS_LAG_EXPIRY (R394; core, slot the thread) -/
  | chorusLagExpiry
  /-- TBINC_WRITE (R32; val) -/
  | tbincWrite
  /-- TBCTL_WRITE (R36; val) -/
  | tbctlWrite
  /-- TBSTEP_WRITE (R34; val) -/
  | tbstepWrite
  /-- STEP_APPLY (R34) -/
  | stepApply
  /-- PTP_SYNC_MESSAGE (R437; int the offset in nanoseconds, flag two-step) -/
  | ptpSync
  /-- PTP_FOLLOW_UP_MESSAGE (R436; int the offset in nanoseconds) -/
  | ptpFollowUp
  /-- PTP_PDELAY_MESSAGE (R436; val the delay in nanoseconds) -/
  | ptpPdelay
  /-- PTP_ANNOUNCE_MESSAGE (R437) -/
  | ptpAnnounce
  /-- NON_PTP_FRAME (R436) -/
  | nonPtpFrame
  /-- SYNC_RECEIPT_TIMEOUT (R437) -/
  | syncTimeout
  /-- ANNOUNCE_RECEIPT_TIMEOUT (R437) -/
  | announceTimeout
  /-- PPS_OUT_RISE (R438) -/
  | ppsRise
  /-- PPS_OUT_FALL (R438) -/
  | ppsFall
  /-- PPS_IN_EDGE (R438) -/
  | ppsIn
  /-- PARTCFG_WRITE (R68; ix the partition, val) -/
  | partcfgWrite
  /-- PARTWORD_WRITE (R98; core, val) -/
  | partwordWrite
  /-- PTROOT_WRITE (R116; ix the partition, val) -/
  | ptrootWrite
  /-- TLBINV_ONE_PAGE (R116; ix the partition, val the page) -/
  | tlbinvPage
  /-- TLBINV_PARTITION (R116; ix the partition) -/
  | tlbinvPartition
  /-- TLBINV_ALL (R116) -/
  | tlbinvAll
  /-- TLBINV_COMPLETE (R116) -/
  | tlbinvComplete
  /-- POOL_OWNER_WRITE (R101; core, ix the granule, val) -/
  | poolOwnerWrite
  /-- DIE_BUFFER_OWNER_WRITE (R106; core the die, ix the granule, val) -/
  | dieOwnerWrite
  /-- CARAVAN_MAP_WRITE (R120; core the channel, ix the slot, val) -/
  | caravanMapWrite
  /-- RESERVATION_TABLE_WRITE (R120; ix the reservation, val) -/
  | reservationWrite
  /-- SYNC_ALLOTMENT_WRITE (R434; ix the partition, core the die, flag SYNCO, val) -/
  | syncAllotWrite
  /-- CTX_WRITE (R435; ix the partition, val) -/
  | ctxWrite
  /-- THRCFG_WRITE (R420; val) -/
  | thrcfgWrite
  /-- PWRCAP_WRITE (R418; val) -/
  | pwrcapWrite
  /-- REGISTER_WRITE (R6; ix: a special register, 0x10000 + 0x4000 x function + BAR0 offset, 0x100000 + port B offset, or 0x200000 VF Enable; val) -/
  | registerWrite
  /-- MAILBOX_READ (R433) -/
  | mailboxRead
  /-- MAILBOX_WRITE (R433) -/
  | mailboxWrite
  /-- WRIDX_WRITE (R430; ix the stream, val) -/
  | wridxWrite
  /-- RCTL_WRITE (R430; ix the stream, val) -/
  | rctlWrite
  /-- HOST_WINDOW_ACCESS (R433; flag a write, ix the offset, data; a read of as many bytes as data holds) -/
  | hostWindow
  /-- CXL_COMPLETION_TIMEOUT (R427; ix the request) -/
  | cxlTimeout
  /-- CXL_LINK_DOWN (R427; flag port B) -/
  | cxlLinkDown
  /-- SCREQ_WRITE (R442; val) -/
  | screqWrite
  /-- WDKICK_WRITE (R442) -/
  | wdkickWrite
  /-- WATCHDOG_EXPIRY (R442) -/
  | watchdogExpiry
  /-- INITIATE_FUNCTION_LEVEL_RESET (R401; ix the function) -/
  | initiateFlr
  /-- FLR_STOP (R402; ix the function) -/
  | flrStop
  /-- FLR_DRAIN_END (R402; ix the function) -/
  | flrDrainEnd
  /-- FLR_COMPLETE (R402; ix the function) -/
  | flrComplete
  /-- CHANNEL_FENCE (R379; core, ix the unit) -/
  | channelFence
  /-- CAPABILITY_MASK_CLEAR (R83; core, val the bits) -/
  | capClear
  /-- RETRAIN_START (R410; ix the module) -/
  | retrainStart
  /-- RETRAIN_END (R411; ix the module) -/
  | retrainEnd
  /-- RETRAIN_TIMEOUT (R412; ix the module) -/
  | retrainTimeout
  /-- BUDGET_PERIOD (R419) -/
  | budgetPeriod
  /-- EMERGENCY_SAVE_START (R423; ix the cause) -/
  | saveStart
  /-- SAVE_UNIT_COMPLETE (R424) -/
  | saveUnit
  /-- PWRGOOD_LOSS (R441) -/
  | pwrgoodLoss
  /-- POWER_OFF_TRIP (R421) -/
  | powerOff
  /-- COLD_RESET (R441) -/
  | coldReset
  /-- BOOT_STAGE_COMPLETE (R444; ix the stage, flag passed, val the failure code) -/
  | bootStage
  /-- SYNC_ENGINE_SERVICE (R208; ix the die) -/
  | syncService
  /-- CXL_PORT_TRAINED (R427; flag port B, ix the width, val the rate) -/
  | cxlTrained
  /-- CXL_CACHE_SNOOP (R351; flag a write, ix the address, data) -/
  | cxlSnoop
  /-- BOUNDARY_SCAN_INSTRUCTION (R441; ix the instruction, flag a vendor instruction) -/
  | boundaryScan
deriving DecidableEq, Repr

end Sys2Proof
end

