-- ==== Sys2Proof/Machine/State.lean ====
section
/-! DEFINITION. The whole state of the device, as plain data, and the state after reset. -/

namespace Sys2Proof.Machine

/-- Reasons for which a step stops with a fault of the model. -/
inductive Fault where
  /-- The row of a prompter, element, epilogue or copy word was run for an agent that runs nothing (no thread, no issuing
  element, no beat, no schedule entry). Raised by the meanings of those rows. Safe: the device never issues it. -/
  | noAgent
deriving DecidableEq, Repr

/-- Reasons for which a step is refused. -/
inductive Refusal where
  /-- The instruction has no meaning in this model yet. Raised by the dispatch only. Safe. -/
  | notModelled (mnemonic : String)
  /-- A vendor debug instruction of the boundary-scan port while the OTP debug enable is set (R441): the manual gives it no
  effect. Raised by BOUNDARY_SCAN_INSTRUCTION. Safe. -/
  | vendorDebug
deriving DecidableEq, Repr

/-- The clocks on which the model schedules a step: master cycles, enabled cycles of a cluster (R217), counted cycles of
a region (R264), ticks (R5), or at once. -/
inductive Clk where
  | now | master | cluster (k : Nat) | region (rk : Nat) | tick
deriving DecidableEq, Repr

/-- The agent whose step is executed (a core, a slot or thread, an element), and the operands of an event, which its
constructor of Instr names. -/
structure Cur where
  core : Nat := 0
  slot : Nat := 0
  row : Nat := 0
  col : Nat := 0
  ix : Nat := 0
  val : Nat := 0
  flag : Bool := false
  int : Int := 0
  data : List Byte := []
deriving DecidableEq, Repr, Inhabited

/-- What one step of the model does: an issue slot of a thread, an issue of one element, one cycle's delivery of a region,
one word of the epilogue, an issue attempt of a copy engine, the phases of a pool, a record delivery check, or a row of the table. -/
inductive Act where
  | thread (core t : Nat)
  | elem (core slot row col : Nat)
  | deliver (core slot : Nat)
  | epiWord (core : Nat)
  | epLoaded (core slot off : Nat) (prog tab : List Nat)
  | setFlag (core slot line : Nat)
  | seedCopier (core x : Nat)
  | copyIssue (core : Nat)
  | fabric (core : Nat)
  | copyPhase (core : Nat)
  | curtains
  | tickRest
  | cueChecks
  | waits
  | post (core kind slot row col : Nat) (i : Instr) (c : Cur)
  | row (i : Instr) (c : Cur)
deriving DecidableEq, Repr

/-- A scheduled step. -/
structure Due where
  clk : Clk
  tm : Nat
  act : Act
deriving DecidableEq, Repr

/-- The timebase, its servo and the PPS pins (R31 to R37, R436 to R438): syncTs and pdelayTs are the hardware timestamps of the Sync that waits for its
Follow_Up and of the last peer-delay request, phyRx and phyTx the latency constants of the PHY, and own the timebases of C-dies that go on alone (R411): die,
tick, fraction and INC. -/
structure TimeBase where
  ticks : Nat := 0
  frac : Nat := 0
  inc : Nat := 0x11111111
  hbexp : Nat := 6
  stepPend : Option Int := none
  stepref : Bool := false
  holdover : Bool := false
  locked : Bool := false
  goodSyncs : Nat := 0
  pendSync : Bool := false
  pathDelay : Int := 0
  syncTs : Int := 0
  pdelayTs : Int := 0
  phyRx : Int := 0
  phyTx : Int := 0
  own : List (Nat × Nat × Nat × Nat) := []
  ppsHigh : Bool := false
  ppsIn : W64 := 0
deriving DecidableEq, Repr

/-- A branch whose delay slot is next (R232): the branch's address, its kind (0 jump, 1 call, 2 return), its decision
and its target; eret says that ERET executes the slot again (R259). -/
structure Branch where
  addr : Nat
  kind : Nat
  taken : Bool
  target : Nat
  eret : Bool := false
deriving DecidableEq, Repr

/-- What a stalled thread waits for (R219, R252 to R260). -/
inductive Wait where
  /-- nothing -/
  | none
  /-- an enabled-cycle number (R219) -/
  | untilN (n : Nat)
  /-- a load's data (R219): the next issue follows the reply -/
  | load (id : Nat)
  /-- room among the eight stores (R219) -/
  | stores
  /-- the reply of a sync engine to the request of this identity (R250) -/
  | sync (id : Nat)
  /-- a load's data on its way (R230): the enabled cycle in which it returns, a cause or none, and the register's value; with a cause, INFO1 and INFO0 -/
  | loaded (n cause : Nat) (v : W64) (d : Nat)
  /-- a sync engine's reply on its way (R208): the engine's C-die, the master cycle in which it arrives, a cause or none, register and value; with
  a cause, INFO1 stands for the value and INFO0 for the register -/
  | reply (die cyc cause : Nat) (v : W64) (d : Option Nat)
  /-- RIDLE and DIDLE of a slot (R242) -/
  | kwait (slot : Nat)
  /-- a tick (R256) -/
  | tick (t : Nat)
  /-- a tick relative to the block's fire tick (R256) -/
  | cueTick (t : Nat)
  /-- FENCE.P and FENCE.D: source mask, destination mask, scope code, and the accesses it waits for (R252, R340) -/
  | fence (src dst sc : Nat) (ids : List Nat)
  /-- the reply of an engine to a race check on its way (R346): the engine's C-die, the master cycle in which it arrives, and a conflict's cause and INFO0
  to INFO2, or none -/
  | raced (die cyc : Nat) (bad : Option (Nat × Nat × Nat × Nat))
  /-- the round trip of a fence to the engines that hold race tags (R340): the master cycle of its end -/
  | fenceTrip (src dst cyc : Nat)
  /-- FENCE.SC, the accesses its drain waits for, and whether the drain has ended; the wait ends at the heartbeat boundary after that (R252) -/
  | fenceSc (ids : List Nat) (drained : Bool)
  /-- a release: the accesses issued before it (R338) -/
  | rel (ids : List Nat)
  /-- the release of a JOBPOST of the record at an SP offset, status to a register (R254) -/
  | jobpost (d off : Nat) (ids : List Nat)
  /-- the release of a sync operation before it is sent (R337) -/
  | relSync (ids : List Nat)
  /-- a master cycle, in which the block begins (R48) -/
  | start (cyc : Nat)
  /-- END's conditions (R260) -/
  | ending
  /-- a compare point: idle regions first, then the home's decision (R387) -/
  | compare (sent : Bool)
  /-- a decided compare point, whose word has its own effect from a master cycle on, through the lead (R389) -/
  | decided (cyc : Nat) (lead : Bool)
  /-- the tick in which a re-run starts (R391) -/
  | restart (t : Nat)
deriving DecidableEq, Repr

/-- One prompter thread (R160, R218 to R223, R357, R366). -/
structure Thread where
  running : Bool := false
  pc : Nat := 0
  g : Tab W64 := []
  win : Tab W64 := []
  winLo : Nat := 0
  depth : Nat := 0
  k : Tab W32 := []
  mode : Bool := false
  pmode : Bool := false
  ds : Bool := false
  taken : Bool := false
  dsk : Nat := 0
  skip : Bool := false
  dbg : Bool := false
  cause : Nat := 0
  async : Bool := false
  more : Bool := false
  trappc : W64 := 0
  info0 : W64 := 0
  info1 : W64 := 0
  info2 : W64 := 0
  info3 : W64 := 0
  traptick : W64 := 0
  vecbase : W64 := 0
  branch : Option Branch := none
  wait : Wait := .none
  halted : Bool := false
  frozen : Bool := false
  shadow : Tab W64 := []
  shadowPart : Tab Nat := []
  flags : Nat := 0
  trapAt : Nat := 0
deriving DecidableEq, Repr, Inhabited

/-- A result in flight in an element (R267): its token, destination code, link outputs and delivery cycle. A load's result
waits for its reply under the identity of its request. -/
structure Flight where
  due : Nat
  tok : Token
  dst : Nat
  lnk : Nat
  rte : Nat
  req : Option Nat
  pos : Nat := 0
deriving DecidableEq, Repr

/-- One element's state (R17, R266 to R280, R292, R294). -/
structure Elem where
  q : Tab Token := []
  lnN : Token := {}
  lnE : Token := {}
  lnS : Token := {}
  lnW : Token := {}
  port : Token := {}
  last : Token := {}
  pipe : List Flight := []
  fifo : Tab (List Token) := []
  qmK : Tab Nat := []
  qmG : Tab Nat := []
  qmNf : List Nat := []
  qxEs : Tab Nat := []
  qxLatched : List Nat := []
  gen : W32 := 1
  nxt : Tab Token := []
deriving DecidableEq, Repr, Inhabited

/-- A preload in flight (R312). -/
structure Preload where
  id : Nat
  active : Bool
  start : Nat
  tid : Nat
  ix : Nat
  n0 : Nat
  w0 : Nat
  fmt : Nat := 0
  bad : Bool := false
  pos : Nat := 0
deriving DecidableEq, Repr

/-- A pass in flight (R315, R316): its identity, its operands and the slot it multiplies by. -/
structure Pass where
  id : Nat
  start : Nat
  src : Nat
  ovw : Bool
  k0 : Nat
  m0 : Nat
  h0 : Nat
  rows : Nat
  acTid : Nat
  aTid : Nat
  wsel : Nat
  wFmt : Nat := 0
  done : Nat := 0
  arrived : Tab (List Nat) := []
  pos : Nat := 0
deriving DecidableEq, Repr

/-- An ACLR in flight (R318). -/
structure Clear where
  id : Nat
  start : Nat
  tid : Nat
  h0 : Nat
  rows : Nat
  pos : Nat := 0
deriving DecidableEq, Repr

/-- A drain (R322 to R325). -/
structure Drain where
  id : Nat
  core : Nat
  slot : Nat
  acTid : Nat
  outTid : Nat
  mxe : Bool
  rows : Nat
  h0 : Nat
  o0 : Nat
  ctr : Nat
  start : Option Nat := none
  prog : List Nat := []
  table : List Nat := []
  flags : Nat := 0
  busy : Bool := false
  stored : Nat := 0
  tiles : List Nat := []
deriving DecidableEq, Repr

/-- What a beat, or a pair of beats, of a drain stores (R325): elements of the output and scale TIDs as (TID, column, row, value),
and elements of a bypass as (row, column, value). -/
structure BeatOut where
  drain : Nat
  beat : Nat
  stores : List (Nat × Nat × Nat × Nat) := []
  byps : List (Nat × Nat × Nat) := []
deriving DecidableEq, Repr

/-- A vote-log entry (R279, R374). -/
structure Vote where
  tick : Nat
  row : Nat
  col : Nat
  slot : Nat
  iter : Nat
  id : Nat
  odd : Nat
deriving DecidableEq, Repr

/-- What a trap record says of a cause (R363 to R365), beside the block that its core and sheet run. -/
structure Why where
  cause : Nat
  eng : Nat
  slot : Nat := 0
  fatal : Bool := true
  count : Nat := 1
  pos : Nat := 0
  i0 : Nat := 0
  i1 : Nat := 0
  i2 : Nat := 0
deriving DecidableEq, Repr

/-- One placed region: placement (R71, R447, R448), planes (R73), run (R241, R264 to R266), array state (R309, R321). -/
structure Region where
  placed : Bool := false
  part : Nat := 0
  scene : Nat := 0
  gslot : Nat := 0
  lc : Nat := 0
  voice : Nat := 0
  px : Nat := 0
  py : Nat := 0
  pw : Nat := 0
  ph : Nat := 0
  hdr : W64 := 0
  opuse : W64 := 0
  fenced : Nat := 0
  opc : Tab Nat := []
  rte : Tab Nat := []
  con : Tab W32 := []
  opLoaded : List Nat := []
  rtLoaded : List Nat := []
  stageMask : Nat := 63
  maskPend : Option Nat := none
  conPend : Tab W32 := []
  seedPend : Option W32 := none
  count : Nat := 0
  countedAt : Nat := 0
  carriedEs : Bool := false
  carriedW : Bool := false
  start : Nat := 0
  trip : Nat := 0
  runs : Bool := false
  stopReq : Bool := false
  runNo : Nat := 0
  fireTick : Nat := 0
  starter : Nat := 0
  killed : Bool := false
  frozen : Bool := false
  stalls : List Nat := []
  fmt : Option Nat := none
  fmtNext : Option Nat := none
  wFmt : Tab Nat := []
  wActive : Nat := 0
  weights : Tab Nat := []
  wIndex : Tab Nat := []
  wScale : Tab Nat := []
  preload : Option Preload := none
  passes : List Pass := []
  clear : List Clear := []
  bypTo : Option Nat := none
  bypFmt : Nat := 0
  bypKl : Nat := 0
  byp : Tab Nat := []
  bypRows : Nat := 0
  epSel : Option Nat := none
  epProg : List Nat := []
  epTab : List Nat := []
  votes : List Vote := []
  voteNext : Nat := 0
  voteOvf : Nat := 0
  drops : Tab Nat := []
  dropTick : Tab Nat := []
  dropPos : Tab Nat := []
  faults : List Why := []
deriving DecidableEq, Repr, Inhabited

/-- A block that runs on a sheet of a core (R48, R218, R383): its cue, block, variant, fire tick, deadline and image; firing names its cue's period and start
offset, by which the voices of a chorus know that they run the same one. -/
structure Run where
  scene : Nat
  cue : Nat
  block : Nat
  variant : Nat
  under : Bool
  fire : Nat
  deadline : Nat
  fireN : Nat
  part : Nat
  gslot : Nat
  gang : Nat
  lc : Nat
  voice : Nat
  chorus : Bool
  len : Nat
  entry : Nat
  base : Nat
  firing : Nat := 0
  frozenAt : Option Nat := none
deriving DecidableEq, Repr

/-- State of a cue in its period (R46), with the accounting of its occupancy entry. -/
inductive CuePhase where
  | idle | wait | gated | run | under | done | held
deriving DecidableEq, Repr

/-- One cue in a core's cue store (R40, R41, R46, R53); elig is the tick from which its slack runs
(R85), drained the mark of a curtain drain (R55), sizeSeen its selector's counter as it stood before the present boundary (R84). -/
structure Cue where
  word0 : W64 := 0
  word1 : W64 := 0
  lc : Nat := 0
  voice : Nat := 0
  part : Nat := 0
  scene : Nat := 0
  st : CuePhase := .idle
  period : Nat := 0
  startTick : Nat := 0
  deadTick : Nat := 0
  elig : Nat := 0
  drained : Bool := false
  understudyDue : Option Nat := none
  failCause : Nat := 0
  occ : W64 := 0
  endN : Option Nat := none
  sizeSeen : Option Nat := none
deriving DecidableEq, Repr, Inhabited

/-- A journal entry of a copy engine (R206) in one of the 64 places, with what is left of its transfers; startAt is the first cycle in which they come
(DESIGN CHOICE, log 8); granted, asked and denied are the units whose race checks the engines have granted, those on their way, and those in conflict
with the cause and INFO0 to INFO2 (R346); failAfter is an index beyond the source that ends
a GATHER (R196). A unit of the sources has a tag above its address (see Copy). -/
structure JEntry where
  no : Nat
  slot : Nat := 0
  index : Nat
  words : List W64
  bank : Nat
  dests : List Nat
  gen : W32
  ctr : Nat
  phaser : Nat
  bytes : Nat
  left : List Nat
  waiting : List Nat
  stage : Tab Byte := []
  part : Nat := 0
  dtid : Nat := 0xFF
  tiles : List Nat := []
  idx : List Nat := []
  failAfter : Option Nat := none
  startAt : Nat := 0
  granted : List Nat := []
  asked : List Nat := []
  denied : List (Nat × Nat × Nat × Nat × Nat) := []
  ready : List (Nat × Nat) := []
  flags : Nat := 0
  noticed : Bool := false
  sent : Bool := false
  performed : Bool := false
  discarded : Bool := false
deriving DecidableEq, Repr

/-- Bank states of a copy-engine block (R204). -/
inductive BankSt where
  | idle | armed | kept | cancelled
deriving DecidableEq, Repr

/-- One copy engine (R190 to R206). -/
structure Copier where
  stage : Nat := 0
  stagePrev : Nat := 0
  stageAt : Nat := 0
  bankA : BankSt := .idle
  bankB : BankSt := .idle
  pos : Nat := 0
  nent : Nat := 0
  sched : List (List W64) := []
  gen : W32 := 1
  journal : List JEntry := []
deriving DecidableEq, Repr, Inhabited

/-- The memories of R113 and R114: device physical addresses, host memory, safety-processor memory. -/
inductive Store where
  | dev | host | safety
deriving DecidableEq, Repr

/-- A place in a memory. -/
structure Place where
  store : Store
  addr : Nat
deriving DecidableEq, Repr

/-- Who waits for a request (R102, R229, R300): a thread, a port, an array operation's row, or a thread whose slice moves (R237). -/
inductive Asker where
  | thread (t : Nat)
  | port (slot row col : Nat)
  | aRow (slot pass m : Nat)
  | spill (t slice : Nat)
deriving DecidableEq, Repr

/-- An access issued and not yet performed (R105, R229, R230, R300): issue cycle, core, partition, place, length, store data,
destination register, TID and linear index, and the least enabled cycle in which it may perform; race says whether its race check is not made
(0), on its way (1), granted (2) or in conflict (3) with the cause and INFO0 to INFO2 in denied, voice that it is a user-mode access of a chorus block (R346, R385). -/
structure Req where
  id : Nat
  core : Nat
  part : Nat
  asker : Asker
  store : Bool
  place : Place
  bytes : List Byte
  bits : Option (Nat × Nat) := none
  dst : Nat := 0
  sext : Bool := false
  fmt : Nat := 0
  tid : Nat := 0
  len : Nat := 0
  off : Nat := 0
  index : Nat := 0
  notBefore : Nat := 0
  done : Bool := false
  arrived : Bool := false
  data : List Byte := []
  iter : Nat := 0
  pos : Nat := 0
  space : Nat := 0
  race : Nat := 0
  denied : Option (Nat × Nat × Nat × Nat) := none
  voice : Bool := false
deriving DecidableEq, Repr

/-- A fabric-phase request (R102): the least enabled cycle in which it performs, requester kind, slot, banks, coordinates of a
port, the position its record would name, and the row that performs it. -/
structure FabReq where
  due : Nat
  pos : Nat := 0
  kind : Nat
  slot : Nat
  banks : List Nat
  row : Nat
  col : Nat
  act : Instr
  cur : Cur
deriving DecidableEq, Repr

/-- A DRAM access awaiting its caravan slot, or served and on its way (R120): core, journal entry or request, the unit (of a copy's
writes, its transfer), physical address, reservation, partition, cluster. -/
structure Access where
  id : Nat
  store : Bool
  core : Nat
  entry : Option Nat
  req : Option Nat
  unit : Nat
  pa : Nat
  rid : Nat
  part : Nat
  cluster : Nat
  served : Bool := false
deriving DecidableEq, Repr

/-- A request at a sync engine (R208): class, operation code, operands and the thread that waits. -/
structure SyncReq where
  id : Nat
  core : Nat
  t : Nat
  home : Nat
  p0 : Bool
  op : Nat
  arg : Nat
  val : Nat
  cmp : Nat
  d : Nat
  arrive : Nat
  key : List Nat := []
deriving DecidableEq, Repr

/-- A completion object (R202, R434). -/
structure SyncObj where
  count : W64 := 0
  status : W64 := 0
  out : Nat := 0
  ref : Option W64 := none
deriving DecidableEq, Repr, Inhabited

/-- A member of a phaser (R210): the thread's gang, LC and number, its mode and marks. -/
structure Member where
  gang : Nat
  lc : Nat
  t : Nat
  mode : PhMode
  signalled : Bool := false
  held : Nat := 0
  dropping : Bool := false
  ext : Bool := false
deriving DecidableEq, Repr

/-- A waiter at a phaser or object: the requesting core, thread, its register and the target. -/
structure Waiter where
  id : Nat
  core : Nat
  t : Nat
  d : Nat
  target : Nat
deriving DecidableEq, Repr

/-- A phaser (R209 to R211). -/
structure Phaser where
  live : Bool := false
  home : Nat := 0
  curt : Bool := false
  gslot : Nat := 0
  phase : Nat := 0
  pending : Nat := 0
  members : List Member := []
  queued : List Member := []
  waiters : List Waiter := []
  lastB : Nat := 0
  ext : Bool := false
deriving DecidableEq, Repr, Inhabited

/-- A race tag (R214). -/
structure RaceTag where
  phase : Nat := 0
  rmask : Nat := 0
  wlc : Nat := 0xFF
  wpath : Nat := 0
deriving DecidableEq, Repr, Inhabited

/-- A grant of a race tag that a core keeps for an agent and a path (R346): the tag's key, the race phase, and whether it is a write grant. -/
structure Grant where
  core : Nat
  lc : Nat
  path : Nat
  key : Nat
  phase : Nat
  write : Bool
deriving DecidableEq, Repr

/-- A translation that a TLB holds (R117, R118): partition, first virtual address and log2 of the size of its page, frame, rights and the PIN bit; host
marks one of HOST space. -/
structure Xlat where
  part : Nat
  va : Nat
  log2 : Nat
  pa : Nat
  rd : Bool
  wr : Bool
  pin : Bool
  host : Bool := false
deriving DecidableEq, Repr

/-- A request of a voice of a chorus atomic group (R213), with the voice's partition. -/
structure GroupReq where
  voice : Nat
  key : List Nat
  part : Nat
  id : Nat
  core : Nat
  d : Nat
deriving DecidableEq, Repr

/-- A chorus atomic group (R213, R393). -/
structure Group where
  no : Nat
  reqs : List GroupReq := []
  result : Option Nat := none
  key : List Nat := []
deriving DecidableEq, Repr

/-- A trap record (R362): its eight words, with the cause and partition it carries. -/
structure Record where
  cause : Nat
  part : Nat
  words : List W64
deriving DecidableEq, Repr

/-- Held stores, and undo lines by the offset in the pool of the voice's core (R386). -/
inductive RelRec where
  | held (mask tid off : Nat) (data : W64) (place : Place)
  | undo (off : Nat) (old : List Byte)
deriving DecidableEq, Repr

/-- What a chorus checkpoint or a context image holds of a region and its elements (R375, R390). -/
structure RegionSnap where
  slot : Nat
  region : Region
  elems : Tab Elem
deriving DecidableEq, Repr

/-- The chorus part of a voice's thread (R386, R388, R390, R396). -/
structure Voice where
  matched : Nat := 0
  recs : List RelRec := []
  used : Nat := 0
  ckBytes : Nat := 0
  ckThread : Option Thread := none
  ckRegions : List RegionSnap := []
  units : List (List Nat) := []
  atoms : List (List Nat) := []
  groupNo : Nat := 0
  ckGroup : Nat := 0
  ckDue : Bool := false
deriving DecidableEq, Repr, Inhabited

/-- A compare point at the home (R389, R394): its number, the signatures that have arrived, the tick of the first, and the
signature and lead of its match; asked and granted are the race granules of the lead's stores whose checks are on their way or have been granted, denied
those in conflict (R354). -/
structure Point where
  no : Nat
  arrived : List (Nat × W64) := []
  first : Nat
  decided : Option (W64 × Nat) := none
  asked : List Nat := []
  granted : List Nat := []
  denied : List (Nat × Nat × Nat × Nat × Nat) := []
deriving DecidableEq, Repr

/-- The compare state of one firing of a chorus thread at its home (R389, R393, R394); an echo that waits stands with its voice and the voice's own value. -/
structure Home where
  voices : List Nat := []
  points : List Point := []
  mismatches : Nat := 0
  groups : List Group := []
  samples : List (Nat × Nat) := []
  sampleIx : Tab Nat := []
  echoes : List (Nat × Nat × Waiter) := []
  leadFire : Option Nat := none
deriving DecidableEq, Repr, Inhabited

/-- A context image of one region slot of a pre-empted gang (R375), with the journal kept and the queue of records, the 4 KiB pages of
the context area that hold it, and its length in words; a gang that has not been placed yet has images without pages. -/
structure Image where
  gang : Nat
  part : Nat
  lc : Nat
  voice : Nat
  slot : Nat
  core : Nat
  freezeTick : Nat
  thread : Thread
  snap : RegionSnap
  run : Option Run
  copyRun : Option Run := none
  copier : Option Copier
  records : List Record
  chorus : Option Voice
  more : Bool := false
  pages : List Nat := []
  words : Nat := 0
deriving DecidableEq, Repr

/-- A block header (R75). -/
structure Block where
  id : Nat
  ekind : Nat
  sztid : Nat
  szsrc : Nat
  szidx : Nat
  ub : Nat
  szaddr : Nat
  caps : List Nat
  voffs : List Nat
deriving DecidableEq, Repr

/-- A placement word of a gang (R79), where the pager put it, and the capability mask there at that time (R78). -/
structure Placement where
  lc : Nat
  slot : Nat
  voice : Nat
  any : Bool
  pref : Nat
  core : Nat := 0
  cap : Nat := 0
deriving DecidableEq, Repr

/-- A gang of a scene (R79), whether it holds its pages, and its pre-emption: 0 none, 1 array operations end, 2 frozen (R89 to R91). -/
structure Gang where
  id : Nat
  nlc : Nat
  phase : Nat
  chor : Nat
  skew : Nat
  words : List Placement
  resident : Bool := true
  heldSince : Nat := 0
  recover : Bool := false
  preempt : Nat := 0
  freezeTick : Nat := 0
  bad : Bool := false
deriving DecidableEq, Repr

/-- A sheet record of a scene (R63). -/
structure Sheet where
  gslot : Nat
  lc : Nat
  engine : Nat
  cues : List (W64 × W64)
deriving DecidableEq, Repr

/-- A loaded scene (R38, R56 to R64). -/
structure Scene where
  live : Bool := false
  loaded : Bool := false
  id : Nat := 0
  part : Nat := 0
  period : Nat := 0
  base : Nat := 0
  image : List Byte := []
  sheets : List Sheet := []
  decls : List Nat := []
  blocks : List Block := []
  gangs : List Gang := []
  tids : List (Nat × List W64) := []
  phasers : List Nat := []
  running : Bool := false
  origin : Nat := 0
  args : List W64 := []
  job : Option Nat := none
  stopAt : Option Nat := none
  stopJobs : List Nat := []
  change : Option (Nat × Nat × Option Nat) := none
  unloading : Bool := false
  recover : Bool := false
  tagDie : Nat := 0
  stopTick : Option Nat := none
deriving DecidableEq, Repr, Inhabited

/-- A gang launch in progress (R93). -/
structure Launch where
  scene : Nat
  gslot : Nat
  origin : Nat
  args : List W64
  job : Nat
deriving DecidableEq, Repr

/-- A job record read from a stream (R58) and the tick of its admission (R60), kept until its completion is signalled. -/
structure Job where
  stream : Nat := 0
  index : Nat := 0
  fn : Nat := 0
  words : List W64 := []
  scene : Nat := 0
  due : Nat := 0
deriving DecidableEq, Repr, Inhabited

/-- A host stream (R59, R429, R430), or a device queue (R92). -/
structure Stream where
  rbase : W64 := 0
  err : Bool := false
  en : Bool := false
  log2n : Nat := 4
  wridx : Nat := 0
  rdidx : Nat := 0
  cmaddr : W64 := 0
  pending : Option Nat := none
deriving DecidableEq, Repr, Inhabited

/-- The fault ring and mailbox registers of a function (R429, R431). -/
structure Ring where
  base : W64 := 0
  ovf : Bool := false
  en : Bool := false
  log2n : Nat := 4
  wr : Nat := 0
  rd : Nat := 0
deriving DecidableEq, Repr, Inhabited

/-- A partition's registers (R68, R116, R403, R435), and its function's pending reset. -/
structure Part where
  quant : Nat := 1
  enable : Bool := false
  rt : Bool := false
  root : Nat := 0
  rootEn : Bool := false
  flrState : Nat := 0
  flrDrained : Nat := 0
  flrLeft : Nat := 0
  flrTicks : Nat := 0
  flrStart : Option Nat := none
  transPending : Bool := false
  ctxBase : Nat := 0
  ctxSize : Nat := 0
  devQueue : List (List W64) := []
deriving DecidableEq, Repr, Inhabited

/-- One core's tables and registers (R97, R101, R180, R374, R380, R407). -/
structure Core where
  partword : W32 := 0x00413004
  owners : Tab Byte := []
  capClr : W64 := 0
  prevClr : W64 := 0
  selfFail : W64 := 0
  excl : Bool := false
  resK0 : Tab Nat := []
  resK1 : Tab Nat := []
  resTick : Nat := 0
  resCause : Nat := 0
  guards : List (Nat × Nat × Nat × Nat × Nat) := []
  fabQ : List FabReq := []
  drains : List Drain := []
  lanes : Tab W64 := []
  exps : Tab W64 := []
  pcEpi : Nat := 0
  beat : Option (Nat × Nat) := none
  beatOut : List (Nat × Nat × Nat × Nat) := []
  beatByp : List (Nat × Nat × Nat) := []
  beatEvents : List (Nat × Nat × Nat × Nat × Nat) := []
  acRow : Tab (List Byte) := []
  biases : Tab Nat := []
  outs : List BeatOut := []
deriving DecidableEq, Repr, Inhabited

/-- Management registers that are one per device (R416 to R425, R429, R433, R441, R442). -/
structure Mgmt where
  capw : Nat := 200
  cape : Nat := 200
  capinf : Bool := false
  t2e : Nat := 8
  t3 : Nat := 128
  t2 : Nat := 118
  t1 : Nat := 110
  tmax : Tab Nat := []
  t1In : Bool := false
  t2In : List Nat := []
  t2Out : List Nat := []
  t3In : Bool := false
  saveBase : Nat := 0
  saveEn : Bool := false
  saving : Option (Nat × Nat × Nat) := none
  halted : Bool := false
  powered : Bool := true
  pwrgood : Bool := true
  faultN : Bool := false
  tlbBusy : Bool := false
  tlbVpn : Nat := 0
  tlbMode : Nat := 3
  tlbPart : Nat := 0
  mbaddr : Nat := 0
  mbdata : W64 := 0
  mbbusy : Bool := false
  mbfail : Bool := false
  stage : Nat := 0
  stage0 : Bool := false
  failStg : Nat := 0xFF
  bootCode : Nat := 0
  numVfs : Nat := 0
  wdTimeout : Nat := 0
  wdStart : Nat := 0
  timef : Nat := 0
  portA : Option (Nat × Nat) := none
  portB : Option (Nat × Nat) := none
  scanIr : Nat := 0
  otpDebug : Bool := false
  otpKey : Nat := 0
  otpRollback : Nat := 0
  resthr : Nat := 16
  dramGib : Nat := 4
  lastGang : Nat := 0
deriving DecidableEq, Repr

/-- The state of the device. Tables are keyed by numbers: thread 4·core + t, region 4·core + slot,
element 256·(4·core + slot) + 16·row + column, sheet 8·core + sheet, cue 1024·core + index, TID 256·(16·core + partition) + tid,
residency bit 4096·(TID key) + tile, object 2^28·partition + index, phaser 4096·scene + number. -/
structure State where
  cycle : Nat := 0
  phase : Nat := 0
  todo : List Act := []
  agenda : List Due := []
  cur : Cur := {}
  free : Nat := 0
  nextId : Nat := 0
  tb : TimeBase := {}
  lost : Tab Nat := []
  level : Tab Nat := []
  levelPend : Tab Nat := []
  budget : Tab Nat := []
  budgetNext : Tab Nat := []
  served : Tab Nat := []
  parts : Tab Part := []
  cores : Tab Core := []
  mgmt : Mgmt := {}
  mem : List Host.Cell := []
  hostMem : List Host.Cell := []
  safetyMem : List Host.Cell := []
  cacheLines : List Nat := []
  atsRefused : List Nat := []
  cfg : Tab Byte := []
  cfgImages : List (Nat × Nat × Nat × Nat × Nat) := []
  cfgBad : List (Nat × Nat) := []
  dieOwners : Tab Byte := []
  slots : Tab (BitVec 16) := []
  resv : Tab (BitVec 16) := []
  pinned : List (Nat × Nat × Nat × Nat) := []
  coreTlb : Tab (List Xlat) := []
  dieTlb : Tab (List Xlat) := []
  ecc : Tab Nat := []
  threads : Tab Thread := []
  regions : Tab Region := []
  elems : Tab Elem := []
  runs : List (Nat × Run) := []
  cues : Tab Cue := []
  tids : Tab W64 := []
  tidFrom : Tab Nat := []
  resid : List Nat := []
  residAt : List (Nat × Nat) := []
  copiers : Tab Copier := []
  reqs : List Req := []
  dram : List Access := []
  syncQ : List SyncReq := []
  objs : Tab SyncObj := []
  objWaiters : List (Nat × Waiter) := []
  sync : Tab (BitVec 64) := []
  syncRaw : Tab W64 := []
  phasers : Tab Phaser := []
  tags : List (Nat × RaceTag) := []
  grants : List Grant := []
  homes : Tab Home := []
  voices : Tab Voice := []
  scenes : Tab Scene := []
  launches : List (Nat × Launch) := []
  images : List Image := []
  jobs : Tab Job := []
  streams : Tab Stream := []
  rings : Tab Ring := []
  queues : List (Nat × List Record) := []
  queueMore : List Nat := []
  recs : List (Nat × Record) := []
  seen : List (Nat × Nat × Bool) := []
  seqs : Tab Nat := []
  evlog : List Record := []
  irqs : List (Nat × Nat) := []
  links : Tab (Nat × Nat) := []
  linksOut : List Nat := []
deriving DecidableEq, Repr

/-- The machine right after reset: every field at the value the manual states, and at a named value where it states none
(DESIGN CHOICE, log 3 to 8); no memory listed, nothing placed, nothing scheduled. -/
def State.reset : State := {}

end Sys2Proof.Machine
end

