-- ==== Sys2Proof/Machine/Ops.lean ====
section
/-! DEFINITION. The shared operations over the state: registers, memory, residency, records, traps, phasers, completion
objects, cancelling of copies, kills and what follows them. -/

namespace Sys2Proof.Machine

/-- The answer of a meaning. -/
abbrev Out := Host.Outcome State Fault Refusal

/-! ## Places and times -/

/-- Cluster of a physical core (R15). -/
def clusterOf (c : Nat) : Nat := 4 * (c / 8 / 2) + c % 8 / 2
/-- C-die of a physical core (R10). -/
def dieOf (c : Nat) : Nat := if c / 8 < 4 then (if c % 8 < 4 then 0 else 1) else (if c % 8 < 4 then 3 else 2)
/-- Number n of the present enabled cycle of a core's cluster (R217). -/
def nOf (s : State) (c : Nat) : Nat := s.cycle - tget s.lost 0 (clusterOf c)
/-- TICKABS. -/
def ticks (s : State) : Nat := s.tb.ticks
/-- TIMENS (R33). -/
def timeNs (s : State) : Nat := s.tb.ticks * 10 + s.tb.frac * 10 / 2 ^ 32
/-- TICKABS and TIMEFR as the C-die of a core has them: the device's, or its own while its module to the I-die is down (R31, R411). -/
def timeOn (s : State) (core : Nat) : Nat × Nat :=
  ((s.tb.own.find? fun o => o.1 == dieOf core).map fun o => (o.2.1, o.2.2.1)).getD (s.tb.ticks, s.tb.frac)
/-- TICKABS of a core. -/
def ticksOn (s : State) (core : Nat) : Nat := (timeOn s core).1
/-- TIMENS of a core. -/
def timeNsOn (s : State) (core : Nat) : Nat := (timeOn s core).1 * 10 + (timeOn s core).2 * 10 / 2 ^ 32

/-- Ticks that have passed since a tick, negative for one to come: TICKABS, and the ticks that a step moves, count modulo 2^64 (R34). -/
def since (s : State) (n : Nat) : Int := sx 64 ((ticks s + 2 ^ 64 - n % 2 ^ 64) % 2 ^ 64)
/-- A tick has come. -/
def reached (s : State) (n : Nat) : Bool := 0 ≤ since s n
/-- Ticks since a tick that has come. -/
def ago (s : State) (n : Nat) : Nat := (since s n).toNat

/-- An end of a way through the mesh: a core, or a router of a C-die whose place the manual does not give (a die buffer, a channel, a sync engine). -/
inductive End where
  | core (c : Nat)
  | die (d : Nat)
deriving DecidableEq, Repr
/-- The C-die of an end. -/
def endDie : End → Nat
  | .core c => dieOf c
  | .die d => d
/-- Modules that join the halves of the grid along the row of an end: of a core the one of its row (R409), of a die both (DESIGN CHOICE, log 46). -/
def rowModules : End → List Nat
  | .core c => [(if c / 8 < 4 then 0 else 4) + c / 8 / 2 % 2]
  | .die d => if d = 2 ∨ d = 3 then [4, 5] else [0, 1]
/-- Modules that join the halves of the grid along the column of an end. -/
def colModules : End → List Nat
  | .core c => [(if c % 8 < 4 then 6 else 2) + c % 8 / 2 % 2]
  | .die d => if d = 1 ∨ d = 2 then [2, 3] else [6, 7]
/-- Modules of the ring that a packet crosses: along its source row, then along its destination column (R12, R409). -/
def wayModules (a b : End) : List Nat :=
  let east (d : Nat) : Bool := d == 1 || d == 2
  let south (d : Nat) : Bool := d == 2 || d == 3
  (if east (endDie a) = east (endDie b) then [] else rowModules a) ++ (if south (endDie a) = south (endDie b) then [] else colModules b)
/-- A module carries nothing: it retrains at present, or it is out of service (R410, R412). -/
def moduleDown (s : State) (m : Nat) : Bool := (tget s.links (0, 1) m).2 == 0 || s.linksOut.contains m
/-- A module on the way carries nothing (R410, R412). -/
def pathDown (s : State) (a b : End) : Bool := (wayModules a b).any (moduleDown s)
/-- The module between the I-die and a core's C-die carries nothing (R410): no HOST access passes. -/
def hostDown (s : State) (core : Nat) : Bool := moduleDown s (8 + dieOf core)

/-- Channel of a DRAM address (R119). -/
def channelOf (pa : Nat) : Nat := bits pa 24 21
/-- Where a place of the device's memory stands in the mesh. -/
def placeEnd (p : Place) : Option End :=
  if p.store ≠ .dev then none
  else if Config.poolBase ≤ p.addr ∧ p.addr < Config.syncBase then some (.core ((p.addr - Config.poolBase) / 0x800000 % 64))
  else if Config.dieBase ≤ p.addr ∧ p.addr < Config.poolBase then some (.die ((p.addr - Config.dieBase) / 0x4000000 % 4))
  else none
/-- The way from a core to a place in a pool or a die buffer, or to the I-die for a place in host memory, is down (R410). -/
def wayDown (s : State) (core : Nat) (p : Place) : Bool :=
  if p.store ≠ .dev then hostDown s core else ((placeEnd p).map fun e => pathDown s (.core core) e).getD false
/-- The way back of a reply is down: it routes from the place to the core (R12, R410). -/
def backDown (s : State) (core : Nat) (p : Place) : Bool :=
  if p.store ≠ .dev then hostDown s core else ((placeEnd p).map fun e => pathDown s e (.core core)).getD false

/-! ## Tables of the state -/

def getTh (s : State) (k : Nat) : Thread := tget s.threads default k
def setTh (s : State) (k : Nat) (t : Thread) : State := { s with threads := tput s.threads default k t }
def getReg (s : State) (k : Nat) : Region := tget s.regions default k
def setReg (s : State) (k : Nat) (r : Region) : State := { s with regions := tput s.regions default k r }
def getEl (s : State) (k : Nat) : Elem := tget s.elems default k
def setEl (s : State) (k : Nat) (e : Elem) : State := { s with elems := tput s.elems default k e }
def getCore (s : State) (c : Nat) : Core := tget s.cores default c
def setCore (s : State) (c : Nat) (v : Core) : State := { s with cores := tput s.cores default c v }
def getPart (s : State) (p : Nat) : Part := tget s.parts default p
def setPart (s : State) (p : Nat) (v : Part) : State := { s with parts := tput s.parts default p v }
def getCue (s : State) (k : Nat) : Cue := tget s.cues default k
def setCue (s : State) (k : Nat) (v : Cue) : State := { s with cues := tput s.cues default k v }
def getCopier (s : State) (c : Nat) : Copier := tget s.copiers default c
def setCopier (s : State) (c : Nat) (v : Copier) : State := { s with copiers := tput s.copiers default c v }
def getPh (s : State) (k : Nat) : Phaser := tget s.phasers default k
def setPh (s : State) (k : Nat) (v : Phaser) : State := { s with phasers := tput s.phasers default k v }
def getScene (s : State) (k : Nat) : Scene := tget s.scenes default k
def setScene (s : State) (k : Nat) (v : Scene) : State := { s with scenes := tput s.scenes default k v }
def getVoice (s : State) (k : Nat) : Voice := tget s.voices default k
def setVoice (s : State) (k : Nat) (v : Voice) : State := { s with voices := tput s.voices default k v }
def getStream (s : State) (k : Nat) : Stream := tget s.streams default k
def setStream (s : State) (k : Nat) (v : Stream) : State := { s with streams := tput s.streams default k v }
def getRing (s : State) (k : Nat) : Ring := tget s.rings default k
def setRing (s : State) (k : Nat) (v : Ring) : State := { s with rings := tput s.rings default k v }

/-- Key of a thread, and of a region slot. -/
def thKey (core t : Nat) : Nat := 4 * core + t
/-- Key of a sheet. -/
def shKey (core sheet : Nat) : Nat := 8 * core + sheet
/-- The block that a sheet runs. -/
def runOf (s : State) (core sheet : Nat) : Option Run := lookup s.runs (shKey core sheet)
def setRun (s : State) (core sheet : Nat) (r : Run) : State := { s with runs := tins s.runs (shKey core sheet) r }
def delRun (s : State) (core sheet : Nat) : State := { s with runs := tdel s.runs (shKey core sheet) }

/-- Schedule a step. -/
def schedule (s : State) (clk : Clk) (tm : Nat) (a : Act) : State := { s with agenda := s.agenda ++ [⟨clk, tm, a⟩] }
/-- Level of a cluster (R416). -/
def levelOf (s : State) (k : Nat) : Nat := tget s.level 16 k
/-- The pulse-swallow pattern of a level enables slot i of a group of 16 (R415). -/
def slotOn (e i : Nat) : Bool := i * e / 16 < (i + 1) * e / 16
/-- The present master cycle is enabled for a cluster. -/
def enabled (s : State) (cl : Nat) : Bool := slotOn (levelOf s cl) (s.cycle % 16)
/-- The present master cycle is enabled for a core. -/
def coreOn (s : State) (core : Nat) : Bool := enabled s (clusterOf core)
/-- The region counts the present cycle. -/
def countsNow (s : State) (g : Region) : Bool := g.countedAt == s.cycle + 1
/-- A step of this cycle, after those already due. -/
def soon (s : State) (a : Act) : State := { s with todo := s.todo ++ [a] }
/-- A step that comes next. -/
def next (s : State) (a : Act) : State := { s with todo := a :: s.todo }
/-- Draw a free number (DESIGN CHOICE, log 8): the counter moves on. -/
def drawn (s : State) : State := { s with free := s.free + 1 }

/-! ## Capability mask, partition word, memories -/

/-- Implemented bits of the capability mask (R180). -/
def capAll : Nat := 0x0000FFFFFF3FFFFF
/-- CAPMASK of a core: the implemented bits that neither the self-test nor the management controller has cleared. -/
def capMask (s : State) (c : Nat) : Nat := capAll &&& (0xFFFFFFFFFFFFFFFF ^^^ (getCore s c).capClr.toNat)
/-- FENCEDCH (R222). -/
def fencedCh (s : State) (c : Nat) : Nat := 31 - bits (capMask s c) 36 32
/-- Fields of the partition word (R97). -/
def rfEnd (w : Nat) : Nat := bits w 6 0
def spEnd (w : Nat) : Nat := bits w 13 7
def relGran (w : Nat) : Nat := bits w 18 14
def spTgt (w : Nat) : Nat := bits w 22 21
/-- SPG (R98). -/
def spillGran (w : Nat) : Nat := if spTgt w = 1 ∨ spTgt w = 2 then bits w 20 19 + 1 else 0
/-- Partition word of a core. -/
def pw (s : State) (c : Nat) : Nat := (getCore s c).partword.toNat

/-- Installed device DRAM in bytes (R439). -/
def dramSize (s : State) : Nat := s.mgmt.dramGib * 16 * 2 ^ 30
/-- Physical address of a pool offset (R114). -/
def poolAddr (c off : Nat) : Nat := Config.poolBase + c * 0x800000 + off

/-- Key of a function's I/O virtual address in host memory: the host translates each function's addresses by its own tables, and no two functions'
addresses name one byte (R118; DESIGN CHOICE, log 47). -/
def hostAddr (fn iova : Nat) : Nat := fn * 2 ^ 64 + iova

/-- n bytes at a place. -/
def rdMem (s : State) (p : Place) (n : Nat) : List Byte :=
  match p.store with
  | .dev => rdBytes s.mem p.addr n
  | .host => rdBytes s.hostMem p.addr n
  | .safety => rdBytes s.safetyMem p.addr n
/-- Bytes stored at a place. -/
def wrMem (s : State) (p : Place) (l : List Byte) : State :=
  match p.store with
  | .dev => { s with mem := wrBytes s.mem p.addr l }
  | .host => { s with hostMem := wrBytes s.hostMem p.addr l }
  | .safety => { s with safetyMem := wrBytes s.safetyMem p.addr l }

/-- Word i of a TID entry (R107, R108). -/
def tidKey (core part tid : Nat) : Nat := (core * 16 + part) * 256 + tid
def tidWord (s : State) (core part tid i : Nat) : Nat := (tget s.tids 0 (4 * tidKey core part tid + i)).toNat
def setTidWord (s : State) (core part tid i : Nat) (v : W64) : State :=
  { s with tids := tput s.tids 0 (4 * tidKey core part tid + i) v }

/-! ## Residency (R112) -/

/-- Key of a tile's residency bit. -/
def resKey (core part tid tile : Nat) : Nat := 4096 * tidKey core part tid + tile
def resGet (s : State) (k : Nat) : Bool := s.resid.contains k
/-- Clear: it also wins over a set of the same cycle. -/
def resClear (s : State) (k : Nat) : State :=
  { s with resid := s.resid.filter (· != k), residAt := (k, s.cycle) :: s.residAt }
/-- Set by a completion: a clear in the same cycle takes effect instead. -/
def resSet (s : State) (k : Nat) : State :=
  if s.residAt.contains (k, s.cycle) then s else { s with resid := nins s.resid k }
/-- A copy or drain in flight that reaches a core writes a tile, besides the one named (R112). -/
def tileBusy (s : State) (core part tid tile except : Nat) : Bool :=
  s.copiers.any (fun c => c.2.journal.any fun e => e.no != except && !e.performed && !e.discarded && e.part == part && e.dtid == tid
    && e.dests.contains core && e.tiles.contains tile)
  || (getCore s core).drains.any fun d => d.id != except && d.outTid == tid && (getReg s (4 * core + d.slot)).part == part && d.tiles.contains tile
/-- Set by the completion of a copy or drain: not while another one in flight writes the tile. -/
def resDone (s : State) (core part tid tile except : Nat) : State :=
  if tileBusy s core part tid tile except then s else resSet s (resKey core part tid tile)
/-- Set on entry to HELD, ordered after the kill's clear (R50). -/
def resHold (s : State) (k : Nat) : State := { s with resid := nins s.resid k }

/-! ## Trap records, queue, fault ring, device log -/

/-- Word 0 of a trap record (R363). -/
def recWord0 (w : Why) (more : Bool) (lc part block cue gang : Nat) : Nat :=
  w.cause * 2 ^ 55 + w.eng * 2 ^ 52 + (if w.eng < 4 then w.slot % 4 else 0) * 2 ^ 50 + b2n w.fatal * 2 ^ 49 + b2n more * 2 ^ 48 + lc % 64 * 2 ^ 42
  + part % 16 * 2 ^ 38 + block % 4096 * 2 ^ 26 + cue % 1024 * 2 ^ 16 + gang % 256 * 2 ^ 8 + min w.count 255

/-- The eight words of a record (R362). -/
def recWords (w : Why) (w0 tick core seq : Nat) : List W64 :=
  [w64 w0, w64 tick, w64 w.pos, w64 w.i0, w64 w.i1, w64 w.i2, w64 core, w64 seq]

/-- Write a record to a function's fault ring, or drop it and set OVF (R431, R446). -/
def ringWrite (s : State) (fn : Nat) (r : Record) : State :=
  let g := getRing s fn
  if g.en && s.mgmt.portA.isSome && (g.wr + 2 ^ 32 - g.rd) % 2 ^ 32 < 2 ^ g.log2n then
    let a := g.base.toNat / 64 * 64 + 64 * (g.wr % 2 ^ g.log2n)
    let s := { s with hostMem := wrBytes s.hostMem (hostAddr fn a) (r.words.flatMap fun w => leBytes 8 w.toNat) }
    let s := setRing s fn { g with wr := (g.wr + 1) % 2 ^ 32 }
    if g.wr = g.rd then { s with irqs := s.irqs ++ [(fn, 0)] } else s
  else setRing s fn { g with ovf := true }

/-- A record joins those of its cycle, in ascending cause (R377). -/
def recInsert (k : Nat) (r : Record) : List (Nat × Record) → List (Nat × Record)
  | [] => [(k, r)]
  | q :: l => if r.cause < q.2.cause then (k, r) :: q :: l else q :: recInsert k r l

/-- TIMEF counts the records of class 6 (R442). -/
def countTime (s : State) (cause : Nat) : State :=
  if cause / 32 = 6 then { s with mgmt := { s.mgmt with timef := min 65535 (s.mgmt.timef + 1) } } else s
/-- A record for a partition on a core: it is queued when its cycle ends (R377). -/
def queueWith (s : State) (core part : Nat) (w : Why) (lc block cue gang : Nat) : State :=
  let r : Record := ⟨w.cause, part, recWords w (recWord0 w false lc part block cue gang) (ticks s) core 0⟩
  let s := countTime s w.cause
  { s with recs := recInsert (16 * core + part) r s.recs }

/-- Queue a record under the next SEQ (R360, R362, R431): at most 16 stay queued, every one goes to the ring. -/
def queueRecord (s : State) (p : Nat × Record) : State :=
  let seq := tget s.seqs 0 p.1
  let r : Record := { p.2 with words := p.2.words.take 7 ++ [w64 seq] }
  let s := { s with seqs := tput s.seqs 0 p.1 (seq + 1) }
  let q := (lookup s.queues p.1).getD []
  let s := if q.length < 16 then { s with queues := tins s.queues p.1 (q ++ [r]) }
           else { s with queueMore := nins s.queueMore p.1 }
  ringWrite s r.part r
/-- The records of a cycle are queued. -/
def flushRecords (s : State) : State := s.recs.foldl queueRecord { s with recs := [] }
/-- The records of this cycle for one partition on one core are queued (R377). -/
def flushFor (s : State) (core part : Nat) : State :=
  (s.recs.filter (·.1 == 16 * core + part)).foldl queueRecord { s with recs := s.recs.filter (·.1 != 16 * core + part) }
/-- Queue a record of the block that a sheet runs (R363, R448). -/
def queueFor (s : State) (core : Nat) (r : Run) (w : Why) : State :=
  queueWith s core r.part w r.lc r.block r.cue r.gang

/-- A cause of the management controller's log that arose on a core, also written to the PF ring (R358, R431, R432), with the block where one is
concerned (R363). -/
def devLogWhy (s : State) (core : Nat) (w : Why) (lc part : Nat := 0) (block : Nat := 0xFFF) (cue gang : Nat := 0) : State :=
  let r : Record := ⟨w.cause, part, recWords w (recWord0 w false lc part block cue gang) (ticks s) core 0⟩
  let s := ringWrite { countTime s w.cause with evlog := s.evlog ++ [r] } 0 r
  if w.cause = 0x160 ∨ w.cause = 0x164 then { s with irqs := s.irqs ++ [(0, 1)] } else s
/-- A device event of the log with INFO0 and INFO1. -/
def devLogOn (s : State) (core cause i0 i1 : Nat) : State :=
  devLogWhy s core { cause := cause, eng := 7, fatal := false, i0 := i0, i1 := i1 }

/-- A cause of the log that no core is named with. -/
def devLog (s : State) (cause i0 i1 : Nat) : State := devLogOn s 0 cause i0 i1

/-- A class 11 cause that is also queued for a partition (R372); with no core named it is queued on core 0 (DEDUCED, log 31). -/
def devLogP (s : State) (cause i0 i1 part core : Nat) : State :=
  queueWith (devLogOn s core cause i0 i1) core part { cause := cause, eng := 7, fatal := false, i0 := i0, i1 := i1 } 0 0xFFF 0 0

/-! ## Prompter registers -/

/-- Read a register code of R160: g0 reads zero, codes 8 to 31 are w0 to w23 of the current window (R236). -/
def rdReg (t : Thread) (c : Nat) : W64 :=
  if c = 0 then 0 else if c < 8 then tget t.g 0 c else tget t.win 0 (16 * t.depth + (c - 8))
/-- Write a register code: a write to g0 is discarded (R221). -/
def wrReg (t : Thread) (c : Nat) (v : W64) : Thread :=
  if c = 0 then t else if c < 8 then { t with g := tput t.g 0 c v }
  else { t with win := tput t.win 0 (16 * t.depth + (c - 8)) v }

/-- Registers w_a to w_(a+n-1) of the current window set to zero. -/
def clearWin (t : Thread) (a : Nat) : Nat → Thread
  | 0 => t
  | n + 1 => clearWin (wrReg t (8 + a) 0) (a + 1) n

/-- CallEntry(link) of R236. -/
def callEntry (t : Thread) (link : Nat) : Thread :=
  let t := { t with depth := t.depth + 1 }
  clearWin (wrReg t 16 (w64 link)) 9 15
/-- Return() of R236. -/
def callReturn (t : Thread) : Thread := { t with depth := t.depth - 1 }

/-- The branch that a delay slot completes: of one that ERET has executed again, TRAPPC and PRIV say after the slot what is left to do (R259). -/
def slotBranch (t : Thread) (b : Branch) : Branch :=
  if b.eret then { b with addr := (t.trappc.toNat + 2 ^ 64 - 4) % 2 ^ 32, kind := t.dsk, taken := t.taken, target := t.trappc.toNat / 2 ^ 32 } else b
/-- The thread after the word at PC has completed: past it, or past a delay slot to where the branch sends it (R232); the marks of a slot that ERET
has executed again go (R259). -/
def advance (t : Thread) : Thread :=
  match t.branch with
  | none => { t with pc := (t.pc + 4) % 2 ^ 32 }
  | some b0 =>
    let b := slotBranch t b0
    let t := if b.kind = 1 then callEntry t ((b.addr + 8) % 2 ^ 32) else if b.kind = 2 then callReturn t else t
    { t with branch := none, pc := if b.taken then b.target else (b.addr + 8) % 2 ^ 32, ds := t.ds && !b.eret, skip := t.skip && !b.eret }

/-- The value that TRAPPC takes for a fault of the word at PC: in a delay slot the branch's target stands above it (R258). -/
def trapPc (t : Thread) : Nat :=
  match t.branch with
  | none => t.pc
  | some b => t.pc + (if b.taken then b.target * 2 ^ 32 else 0)

/-! ## Phasers, objects and replies -/

/-- Where an object of a partition is held (R207, R434): an SRAM slot of its die, or a DRAM address. -/
inductive ObjAt where
  | sram (slot : Nat)
  | dram (addr : Nat)
deriving DecidableEq, Repr
/-- The place of the object with a key: 2^28 · partition + sync address div 16. -/
def objAt (s : State) (k : Nat) : Option ObjAt :=
  let d := bits k 27 26
  let i := k % 2 ^ 26
  let r := 8 * (k / 2 ^ 28) + 2 * d
  let a := (tget s.sync 0 r).toNat
  let cnt := bits a 14 0
  if i < cnt then some (.sram (16384 * d + bits a 29 16 + i))
  else if i < cnt + bits a 47 32 then some (.dram (bits (tget s.sync 0 (r + 1)).toNat 47 12 * 4096 + 32 * (i - cnt)))
  else none
/-- An object, in SRAM or as its four words in DRAM. -/
def getObj (s : State) (k : Nat) : SyncObj :=
  match objAt s k with
  | none => {}
  | some (.sram n) => tget s.objs default n
  | some (.dram a) =>
    let w (i : Nat) : Nat := leNat (rdBytes s.mem (a + 8 * i) 8)
    ⟨w64 (w 0), w64 (w 1), bits (w 2) 31 0, if bit (w 2) 63 then some (w64 (w 3)) else none⟩
/-- Write an object where it is held; in DRAM it is one whole block, with fresh check bits (R439). -/
def setObj (s : State) (k : Nat) (v : SyncObj) : State :=
  match objAt s k with
  | none => s
  | some (.sram n) => { s with objs := tput s.objs default n v }
  | some (.dram a) =>
    let w2 := v.out % 2 ^ 32 + b2n v.ref.isSome * 2 ^ 63
    { s with mem := wrBytes s.mem a (leBytes 8 v.count.toNat ++ leBytes 8 v.status.toNat ++ leBytes 8 w2
                                     ++ leBytes 8 (v.ref.getD 0).toNat), ecc := tput s.ecc 0 (a / 32) 0 }

/-- Cycles of one way between a core and an engine: half of the request and reply of R208. -/
def oneWay (core die : Nat) : Nat := if dieOf core = die then Config.syncNear / 2 else Config.syncFar / 2

/-- The reply of a die's engine to a sync request goes to the thread that waits for it, resident or saved (R90, R208). -/
def reply (s : State) (id die cyc cause : Nat) (v : W64) (d : Option Nat) : State :=
  let f (t : Thread) : Thread := if t.wait = .sync id then { t with wait := .reply die cyc cause v d } else t
  { s with threads := s.threads.map (fun p => (p.1, f p.2)),
           images := s.images.map (fun i => { i with thread := f i.thread }) }

/-- CTRWAIT's conditions (R203): done, and the failed flag. -/
def ctrFailed (o : SyncObj) (t : Nat) : Bool := bits o.status.toNat 63 55 != 0 && bits o.status.toNat 47 0 ≤ t
def ctrDone (o : SyncObj) (t : Nat) : Bool := t ≤ o.count.toNat || ctrFailed o t

/-- Evaluate the waits of an object after a change (R203). -/
def objWake (s : State) (key : Nat) : State :=
  let o := getObj s key
  let home := bits key 27 26
  let ready := s.objWaiters.filter fun w => w.1 == key && ctrDone o w.2.target
  let s := { s with objWaiters := s.objWaiters.filter fun w => !(w.1 == key && ctrDone o w.2.target) }
  ready.foldl (fun s w => reply s w.2.id home (s.cycle + oneWay w.2.core home) 0 (w64 (b2n (ctrFailed o w.2.target))) (some w.2.d)) s

/-- A changed object, with its waits evaluated. -/
def putObj (s : State) (key : Nat) (o : SyncObj) : State := objWake (setObj s key o) key

/-- A phaser is ready for a boundary (R211). -/
def phReady (p : Phaser) : Bool :=
  p.live && p.members.any (fun m => m.mode != .wait) && p.members.all (fun m => m.mode == .wait || m.signalled)
  && (p.curt || p.pending == 0)

/-- Store a phaser, and have its boundary occur in this cycle if it is ready. -/
def putPh (s : State) (key : Nat) (p : Phaser) : State :=
  let s := setPh s key p
  if phReady p then soon s (.row .phaseBoundary { ix := key }) else s

/-- A notice of a core's engine to the home of an object (R199, R203): its operation, value and the number of its command. -/
def postNotice (s : State) (core part op k val no : Nat) : State :=
  let home := bits k 27 26
  let q : SyncReq := {
    id := s.nextId, core := core, t := no, home := home, p0 := (getPart s part).rt, op := op, arg := k, val := val, cmp := 0, d := 0,
    arrive := s.cycle + oneWay core home }
  { s with nextId := s.nextId + 1, syncQ := s.syncQ ++ [q] }

/-- Subtract bytes from a phaser's pending counter. -/
def phSub (s : State) (key n : Nat) : State :=
  let p := getPh s key
  if p.live then putPh s key { p with pending := p.pending - n } else s

/-! ## Cancelling copies (R205) -/

/-- The OUT number that a command counted is decreased; an issue notice still on its way is dropped instead. -/
def dropNotice (s : State) (core no k : Nat) : State :=
  if s.syncQ.any (fun q => q.op == 56 && q.t == no && q.core == core) then
    { s with syncQ := s.syncQ.filter fun q => !(q.op == 56 && q.t == no && q.core == core) }
  else putObj s k { getObj s k with out := (getObj s k).out - 1 }

/-- The message of step 4 of a command that is still on its way is dropped with the command's count, and OUT is decreased (R49, R205). -/
def dropDone (s : State) (core no k : Nat) : State :=
  let mine (q : SyncReq) : Bool := (q.op == 57 || q.op == 58) && q.t == no && q.core == core
  if s.syncQ.any mine then
    let s := { s with syncQ := s.syncQ.filter fun q => !mine q }
    putObj s k { getObj s k with out := (getObj s k).out - 1 }
  else s

/-- A copy command leaves the journal without completing: its accesses are dropped, its remaining bytes subtracted, OUT decreased; of one whose
transfers are all performed, the count on its way is dropped (R49, R205). -/
def cancelEntry (s : State) (core : Nat) (e : JEntry) (scene part : Nat) : State :=
  let c := getCopier s core
  let s := setCopier s core { c with journal := c.journal.filter (·.no != e.no) }
  let s := { s with dram := s.dram.filter fun a => !(a.core == core && a.entry == some e.no) }
  let s := if e.phaser = 0xFFF then s else phSub s (4096 * scene + e.phaser) e.bytes
  if e.ctr = 0xFFFFFFF then s
  else if e.sent then dropDone s core e.no (2 ^ 28 * part + e.ctr)
  else dropNotice s core e.no (2 ^ 28 * part + e.ctr)

/-- Cancel every journal entry of the running copy-engine block that satisfies p. -/
def cancelWhere (s : State) (core : Nat) (p : JEntry → Bool) : State :=
  match runOf s core 4 with
  | none => s
  | some r => ((getCopier s core).journal.filter p).foldl (fun s e => cancelEntry s core e r.scene r.part) s

/-! ## Kills, understudies and HELD (R46, R49, R50) -/

/-- The declaration list that starts at an index (R42). -/
def declList (l : List Nat) : Nat → List Nat
  | 0 => []
  | n + 1 => match l with
    | [] => []
    | a :: r => if bit a 31 then [a] else a :: declList r n

/-- The declared tiles of a cue: outputs or inputs, as (TID, tile) pairs. -/
def declTiles (s : State) (q : Cue) (outp : Bool) : List (Nat × Nat) :=
  let d := bits q.word0.toNat 31 16
  if d = 0xFFFF then [] else
  (declList ((getScene s q.scene).decls.drop d) 64).filterMap fun a =>
    if bit a 30 == outp then some (bits a 23 16, bits a 15 0) else none

/-- A fault of an array operation or of the epilogue joins those of the region's cycle: one record for each cause (R377). -/
def mergeFault (l : List Why) (w : Why) : List Why :=
  if l.any fun x => x.cause == w.cause && x.eng == w.eng then
    l.map fun x => if x.cause = w.cause ∧ x.eng = w.eng then { x with count := x.count + 1 } else x
  else l ++ [w]

/-! ## Links that leave a region (R72, R81, R270, R406, R407, R447) -/

/-- Pages of a region header's rectangle: its width and height. -/
def hW (h : Nat) : Nat := bits h 55 54 + 1
def hH (h : Nat) : Nat := bits h 53 52 + 1
/-- Route fields of the outputs N, E, S, W. -/
def routeFields (w : Nat) : List Nat := [bits w 14 12, bits w 11 9, bits w 8 6, bits w 5 3]

/-- What lies across an element's side (R81, R270, R447): an element, a boundary guard, or nothing. -/
inductive Across where
  | elem (key side : Nat)
  | guard
  | nothing
deriving DecidableEq, Repr

/-- Sides 0 N, 1 E, 2 S, 3 W; the side that faces it. -/
def facing (side : Nat) : Nat := (side + 2) % 4
/-- Coordinates across a side, shifted by one to stay natural numbers. -/
def stepSide (row col side : Nat) : Nat × Nat :=
  match side with
  | 0 => (row, col + 1)
  | 1 => (row + 1, col + 2)
  | 2 => (row + 2, col + 1)
  | _ => (row + 1, col)
/-- The other side of a link of an element of a slot's region. -/
def across (s : State) (core slot row col side : Nat) : Across :=
  let k := thKey core slot
  let g := getReg s k
  let n := stepSide row col side
  let inside := 1 ≤ n.1 && 1 ≤ n.2
  if inside && n.1 ≤ 4 * hH g.hdr.toNat && n.2 ≤ 4 * hW g.hdr.toNat then
    .elem (256 * k + 16 * (n.1 - 1) + (n.2 - 1)) (facing side)
  else if inside && n.1 ≤ 4 * g.ph && n.2 ≤ 4 * g.pw then .nothing
  else
    let br := 4 * g.py + n.1
    let bc := 4 * g.px + n.2
    if br < 1 || bc < 1 || 16 < br || 16 < bc then .nothing
    else
      let hit := (List.range 4).find? fun o =>
        let h := getReg s (thKey core o)
        o != slot && h.placed && h.part == g.part && h.scene == g.scene && h.gslot == g.gslot
        && 4 * h.py < br && br ≤ 4 * (h.py + h.ph) && 4 * h.px < bc && bc ≤ 4 * (h.px + h.pw)
      match hit with
      | none => .guard
      | some o =>
        let h := getReg s (thKey core o)
        let r := br - 1 - 4 * h.py
        let c := bc - 1 - 4 * h.px
        if r < 4 * hH h.hdr.toNat ∧ c < 4 * hW h.hdr.toNat then .elem (256 * thKey core o + 16 * r + c) (facing side) else .nothing

/-- Outputs of the region that carry array data: E and S in a pass, W in a preload (R320). -/
def carried (g : Region) (side : Nat) : Bool :=
  ((side == 1 || side == 2) && !g.passes.isEmpty) || (side == 3 && g.preload.isSome)
/-- A token with predicate 1 loaded into a link output that a guard ends is dropped and counted (R406, R407). -/
def guardDrop (s : State) (core slot row col side pos : Nat) (t : Token) : State :=
  if !t.pred || across s core slot row col side != .guard then s
  else
    let k := thKey core slot
    let g := getReg s k
    let page := 4 * (g.py + row / 4) + (g.px + col / 4)
    let site := 4 * page + side
    let n := tget g.drops 0 site
    let first (t : Tab Nat) (v : Nat) : Tab Nat := if n = 0 then tins t site v else t
    let s := setReg s k { g with drops := tins g.drops site (n + 1), dropTick := first g.dropTick (ticks s), dropPos := first g.dropPos pos }
    let c := getCore s core
    let mine (e : Nat × Nat × Nat × Nat × Nat) : Bool := e.1 == page && e.2.1 == side && e.2.2.1 == g.part
    let more (e : Nat × Nat × Nat × Nat × Nat) := (e.1, e.2.1, e.2.2.1, min (e.2.2.2.1 + 1) (2 ^ 32 - 1), e.2.2.2.2)
    let gs := if c.guards.any mine then c.guards.map (fun e => if mine e then more e else e)
      else if c.guards.length < 32 then c.guards ++ [(page, side, g.part, 1, ticks s)] else c.guards
    setCore s core { c with guards := gs }

/-- Whether a result loads an output: its LNK bit is 1 and the route is 0. -/
def drives (f : Flight) (side : Nat) : Bool := bit f.lnk (3 - side) && (routeFields f.rte).getD side 0 == 0
/-- The results that a region would deliver at the end of the present cycle still reach the guards when it is killed in this cycle: their tokens are dropped and
counted (R413). -/
def dropDue (s : State) (core slot : Nat) : State :=
  let k := thKey core slot
  let g := getReg s k
  if g.countedAt ≠ s.cycle + 1 then s
  else (s.elems.filter fun p => p.1 / 256 == k).foldl (fun s p =>
    (p.2.pipe.filter fun f => f.due ≤ g.count && f.req.isNone).foldl (fun s f =>
      (List.range 4).foldl (fun s d =>
        if drives f d && !carried g d then guardDrop s core slot (p.1 % 256 / 16) (p.1 % 16) d f.pos f.tok else s) s) s) s

/-- Records of boundary-guard drops of a region's run (R408), in ascending page and link order; the counts start anew. -/
def guardRecords (s : State) (core slot : Nat) : State :=
  let r := getReg s (thKey core slot)
  let g := ((getScene s r.scene).gangs[r.gslot]?).map (·.id)
  let s := r.drops.foldl (fun s p => queueWith s core r.part
      { cause := 0x14A, eng := 1, slot := slot, fatal := false, pos := tget r.dropPos 0 p.1, i0 := p.1 / 4 * 16 + p.1 % 4, i1 := p.2,
        i2 := tget r.dropTick 0 p.1 } r.lc
      ((runOf s core slot).map (·.block) |>.getD 0xFFF) ((runOf s core slot).map (·.cue) |>.getD 0) (g.getD 0)) s
  setReg s (thKey core slot) { getReg s (thKey core slot) with drops := [], dropTick := [], dropPos := [] }

/-- A region as it was at placement (R49): planes not loaded, elements cleared, array and bypass state unset, nothing scheduled for it. The
vote log stays. -/
def discardRegion (s : State) (core slot : Nat) : State :=
  let k := thKey core slot
  let r := getReg s k
  let r0 : Region := {
    placed := r.placed, part := r.part, scene := r.scene, gslot := r.gslot, lc := r.lc, voice := r.voice,
    px := r.px, py := r.py, pw := r.pw, ph := r.ph, hdr := r.hdr, opuse := r.opuse, fenced := r.fenced, killed := true, runNo := r.runNo,
    count := r.count, votes := r.votes, voteNext := r.voteNext, voteOvf := r.voteOvf }
  setReg { s with elems := s.elems.filter (fun p => p.1 / 256 != k), agenda := s.agenda.filter (·.clk != .region k) } k r0

/-- Requests of a killed slot: loads and array reads go, stores already accepted perform (R49, R263). -/
def dropRequests (s : State) (core slot : Nat) : State :=
  let mine (q : Req) : Bool := q.core == core && (match q.asker with
    | .thread t => t == slot
    | .port sl _ _ => sl == slot
    | .aRow sl _ _ => sl == slot
    | .spill t _ => t == slot)
  let kept := s.reqs.filter fun q => !(mine q) || q.store
  let c := getCore s core
  let alive (f : FabReq) : Bool := f.act == .portPerform && kept.any (·.id == f.cur.ix)
  setCore { s with reqs := kept, dram := s.dram.filter fun a => (match a.req with
      | some id => kept.any (·.id == id) | none => true) } core
    { c with fabQ := c.fabQ.filter fun f => f.slot != slot || alive f }

/-- Drains of a killed slot end (R326): OUT is decreased, neither count nor status changes. -/
def dropDrains (s : State) (core slot part : Nat) : State :=
  let c := getCore s core
  let mine := c.drains.filter (·.slot == slot)
  let gone (id : Nat) : Bool := mine.any (·.id == id)
  let beat := match c.beat with
    | some (id, _) => if gone id then none else c.beat
    | none => none
  let s := setCore s core { c with
    drains := c.drains.filter (·.slot != slot), outs := c.outs.filter (fun o => !gone o.drain), beat := beat }
  let s := if mine.isEmpty then s else soon s (.row .drainStart { core := core })
  mine.foldl (fun s d => if d.ctr = 0xFFFFFFF then s else dropNotice s core d.id (2 ^ 28 * part + d.ctr)) s

/-- Steps 2 and 3 of a kill (R49): the engine's state is discarded, commands are cancelled, output tiles lose their
residency, and the sheet runs nothing. -/
def discardBlock (s : State) (core sheet : Nat) : State :=
  match runOf s core sheet with
  | none => s
  | some r =>
    let t0 := getTh s (thKey core sheet)
    let s := if t0.trapAt = s.cycle + 1 ∧ sheet < 4 then queueFor s core r
        { cause := t0.cause, eng := 0, slot := sheet, fatal := false, pos := t0.trappc.toNat, i0 := t0.info0.toNat,
          i1 := t0.info1.toNat, i2 := t0.info2.toNat } else s
    let s := if sheet = 4 then cancelWhere s core (fun _ => true)
      else
        let s := guardRecords (dropDue s core sheet) core sheet
        let s := dropRequests s core sheet
        let s := dropDrains s core sheet r.part
        let s := discardRegion s core sheet
        let t := getTh s (thKey core sheet)
        let s := { s with objWaiters := s.objWaiters.filter fun w => !(w.2.core == core && w.2.t == sheet) }
        let s := { s with phasers := s.phasers.map fun p =>
          (p.1, { p.2 with waiters := p.2.waiters.filter fun w => !(w.core == core && w.t == sheet) }) }
        setVoice (setTh s (thKey core sheet)
          { t with running := false, wait := .none, branch := none, halted := false, flags := 0 }) (thKey core sheet) {}
    let q := getCue s (1024 * core + r.cue)
    let s := (declTiles s q true).foldl (fun s d => resClear s (resKey core r.part d.1 d.2)) s
    delRun s core sheet

/-- BUSY and VARIANT of an occupancy entry, keeping IDLE until the next fire (R53, R54). -/
def occWrite (s : State) (core ix outcome variant fireN : Nat) : State :=
  let k := 1024 * core + ix
  let q := getCue s k
  let busy := min (s.cycle - fireN) (2 ^ 29 - 1)
  setCue s k { q with
    endN := some s.cycle,
    occ := w64 (outcome * 2 ^ 62 + variant % 4 * 2 ^ 60 + busy * 2 ^ 29 + bits q.occ.toNat 28 0) }

/-- Entry to HELD (R50): outputs keep their contents and become resident, and the occupancy entry says so, with the variant that the cue's own block
fired (R53). -/
def enterHeld (s : State) (core ix fireN variant : Nat) : State :=
  let k := 1024 * core + ix
  let q := getCue s k
  let s := setCue s k { q with st := .held, understudyDue := none }
  let s := (declTiles s q true).foldl (fun s d => resHold s (resKey core q.part d.1 d.2)) s
  soon (occWrite s core ix 3 variant fireN) .waits

/-- A cue that failed passes to its understudy, due at tick t, or to HELD (R46, R50); variant is the one that its block fired, 0 where none did. A failed
understudy is not replaced. -/
def cueFail (s : State) (core ix t fireN cause variant : Nat) : State :=
  let k := 1024 * core + ix
  let q := getCue s k
  if q.st = .under then
    let g := ((getScene s q.scene).gangs[bits q.word0.toNat 7 0]?).map (·.id)
    enterHeld (queueWith s core q.part { cause := 0x0C6, eng := 6, fatal := true, pos := ix, i0 := ix } q.lc
      (bits q.word0.toNat 51 40) ix (g.getD 0)) core ix fireN 0
  else if bits q.word0.toNat 51 40 = 0xFFF then enterHeld (setCue s k { q with failCause := cause }) core ix fireN variant
  else
    let s := setCue s k { q with st := .under, failCause := cause, understudyDue := some t }
    if reached s t then next s (.row .understudyFire { core := core, ix := ix }) else schedule s .tick t (.row .understudyFire { core := core, ix := ix })

/-- What the voices of a chorus have in common when they fire for one period: the period and the words of their cues (R383). -/
def firingOf (q : Cue) : Nat := q.period % 2 ^ 64 * 2 ^ 128 + q.word0.toNat * 2 ^ 64 + q.word1.toNat
/-- The cues of the voices of one firing of a logical core's chorus: keys. -/
def firingCues (s : State) (scene lc firing : Nat) : List Nat :=
  (s.cues.filter fun p => p.2.scene == scene && p.2.lc == lc && firingOf p.2 == firing).map (·.1)
/-- Key of the home state of one firing of a chorus, and the scene it names. -/
def homeKeyOf (scene gslot lc slot firing : Nat) : Nat := (((256 * scene + gslot) * 64 + lc) * 4 + slot) * 2 ^ 192 + firing % 2 ^ 192
def homeKey (r : Run) (slot : Nat) : Nat := homeKeyOf r.scene r.gslot r.lc slot r.firing
def homeScene (k : Nat) : Nat := k / 2 ^ 192 / 65536
def homeGslot (k : Nat) : Nat := k / 2 ^ 192 / 256 % 256
def homeLc (k : Nat) : Nat := k / 2 ^ 192 / 4 % 64
def homeSlot (k : Nat) : Nat := k / 2 ^ 192 % 4
def homeFiring (k : Nat) : Nat := k % 2 ^ 192
def getHome (s : State) (k : Nat) : Home := tget s.homes default k
def setHome (s : State) (k : Nat) (h : Home) : State := { s with homes := tput s.homes default k h }

/-- A cue of a chorus command that ends without its understudy passes to DONE with OUTCOME 2 (R395); cause 0 where the command goes on without it. -/
def cueDone (s : State) (core ix fireN cause : Nat) : State :=
  let s := occWrite s core ix 2 0 fireN
  let k := 1024 * core + ix
  soon (setCue s k { getCue s k with st := .done, failCause := cause }) .waits
/-- A voice of a chorus command that fails ends, whether its block runs, its cue still waits, or it has left (R395): the cue of voice 0 fails at tick t, that of
another voice passes to DONE with OUTCOME 2. -/
def endVoice (t cause : Nat) (s : State) (k : Nat) : State :=
  let q := getCue s k
  let sheet := bits q.word0.toNat 39 36
  let run := (runOf s (k / 1024) sheet).filter fun r => r.chorus && r.cue == k % 1024
  let fireN := (run.map (·.fireN)).getD s.cycle
  let s := if run.isSome then discardBlock s (k / 1024) sheet else s
  if q.st = .under ∨ q.st = .held then s
  else if q.voice = 0 then cueFail s (k / 1024) (k % 1024) t fireN cause ((run.map (·.variant)).getD 0)
  else if q.st = .done then setCue s k { q with occ := w64 (setBits q.occ.toNat 63 62 2), failCause := cause }
  else cueDone s (k / 1024) (k % 1024) fireN cause

/-- A block is discarded on its sheet, and its cue fails at tick t; a chorus command ends on every voice (R395). -/
def endBlocks (s : State) (core sheet t cause : Nat) : State :=
  match runOf s core sheet with
  | none => s
  | some r =>
    let s1 := discardBlock s core sheet
    let s1 := if r.chorus && r.voice != 0 then cueDone s1 core r.cue r.fireN cause else cueFail s1 core r.cue t r.fireN cause r.variant
    if r.chorus then
      setHome (((firingCues s r.scene r.lc r.firing).filter (· != 1024 * core + r.cue)).foldl (endVoice t cause) s1) (homeKey r sheet) {}
    else s1

/-- A fatal fault kills the block of a sheet before its deadline: record, discard, cue to UNDER at the next tick (R46, R49). -/
def killFatal (s : State) (core sheet : Nat) (w : Why) : State :=
  match runOf s core sheet with
  | none => s
  | some r => endBlocks (queueFor s core r { w with fatal := true }) core sheet (ticks s + 1) w.cause

/-! ## Taking a trap, and returning from one (R258, R259, R361, R366) -/

/-- n bytes of the image of a block at an offset. -/
def imageBytes (s : State) (core : Nat) (r : Run) (off n : Nat) : List Byte := rdBytes s.cfg (core * 2 ^ 20 + r.base + off) n
/-- A 32-bit word of the image of a block at an offset. -/
def imageWord (s : State) (core : Nat) (r : Run) (off : Nat) : Nat := leNat (imageBytes s core r off 4)

/-- The address that a trap saves: the word's, past TRAP and BRK outside a delay slot (R258). -/
def trapAddr (t : Thread) (done : Bool) : Nat := if done && t.branch.isNone then (t.pc + 4) % 2 ^ 32 else trapPc t
/-- A trap in supervisor mode, or whose vector cannot be fetched (R361): the block is killed, and the log has the cause too; INFO0 is the trapping word,
INFO2 the cause not taken (R365). -/
def doubleFault (s : State) (core t cause : Nat) (done : Bool) : State :=
  match runOf s core t with
  | none => s
  | some r =>
    let th := getTh s (thKey core t)
    let w : Why := { cause := 0x00B, eng := 0, slot := t, pos := trapAddr th done, i0 := imageWord s core r th.pc, i2 := cause }
    devLogWhy (killFatal s core t w) core w r.lc r.part r.block r.cue r.gang

/-- Where the handler of a class stands (R359). -/
def vector (t : Thread) (cause : Nat) : Nat := (t.vecbase.toNat % 2 ^ 32 + 64 * (cause / 32)) % 2 ^ 32
/-- A word can be fetched at pc from an image of len bytes (R220, R359). -/
def fetchable (pc len : Nat) : Bool := pc % 4 == 0 && pc + 4 ≤ len

/-- The registers a precise trap writes (R258, R366): done says that the word was TRAP or BRK, which completed. -/
def trapRegs (s : State) (t : Thread) (r : Run) (slot cause i0 i1 i2 : Nat) (done : Bool) : Thread :=
  let w : Why := { cause := cause, eng := 0, slot := slot, fatal := false }
  let t := { t with
    cause := cause, async := false, more := false, info0 := w64 i0, info1 := w64 i1, info2 := w64 i2,
    info3 := w64 (recWord0 w false r.lc r.part r.block r.cue r.gang), traptick := w64 (ticks s), pmode := t.mode, trapAt := s.cycle + 1 }
  match t.branch with
  | none => { t with trappc := w64 (trapAddr t done), ds := false }
  | some b => { t with trappc := w64 (trapAddr t done), ds := true, taken := b.taken,
                       dsk := b.kind, skip := done, branch := none }

/-- Take a precise trap on a thread: save state and vector to the class handler in supervisor mode, or a double fault. -/
def takeTrap (s : State) (core slot cause i0 i1 i2 : Nat) (done : Bool) : State :=
  let k := thKey core slot
  let t := getTh s k
  match runOf s core slot with
  | none => s
  | some r =>
    if t.mode then doubleFault s core slot cause done
    else
      let t' := trapRegs s t r slot cause i0 i1 i2 done
      let v := vector t cause
      if fetchable v r.len && 32 ≤ v then
        setTh s k { t' with mode := true, pc := v, wait := .none }
      else doubleFault s core slot cause done

/-- ERET (R259): the saved mode, then the word trapped on; or the slot, executed again as the delay slot of its branch, or already completed, and where
the branch leads. -/
def trapReturn (t : Thread) : Thread :=
  let lo := t.trappc.toNat % 2 ^ 32
  let hi := t.trappc.toNat / 2 ^ 32
  let t1 := { t with mode := t.pmode, wait := .none, branch := none }
  let done (x : Thread) : Thread := { x with ds := false, skip := false }
  if t.ds then
    if t.skip then
      let t2 := if t.dsk = 1 then callEntry t1 ((lo + 4) % 2 ^ 32) else if t.dsk = 2 then callReturn t1 else t1
      done { t2 with pc := if t.taken then hi else (lo + 4) % 2 ^ 32 }
    else { t1 with pc := lo, branch := some ⟨(lo + 2 ^ 32 - 4) % 2 ^ 32, t.dsk, t.taken, hi, true⟩ }
  else done { t1 with pc := lo }

end Sys2Proof.Machine
end

