-- ==== Sys2Proof/Machine/Operands.lean ====
section
/-! DEFINITION. Tensor identifiers, element and tile addressing, the checks of an access in the order of R124, translation, race
tags, and the operand helpers of prompter instructions. -/

namespace Sys2Proof.Machine

/-! ## Tensor identifiers (R107 to R112) -/

/-- A TID entry taken apart (R108). -/
structure TidV where
  fmt : Nat
  space : Nat
  rank : Nat
  part : Nat
  base : Nat
  w1 : Nat
  w2 : Nat
  w3 : Nat
deriving DecidableEq, Repr

/-- The entry that four words hold. -/
def tidParse (w0 w1 w2 w3 : Nat) : TidV := ⟨bits w0 63 59, bits w0 58 56, bits w0 55 52, bits w0 51 48, bits w0 47 0, w1, w2, w3⟩
/-- The entry of a TID in a core's table of a partition. -/
def tidOf (s : State) (core part tid : Nat) : TidV :=
  tidParse (tidWord s core part tid 0) (tidWord s core part tid 1) (tidWord s core part tid 2) (tidWord s core part tid 3)

def TidV.dim (t : TidV) (k : Nat) : Nat := bits t.w1 (16 * k + 15) (16 * k)
def TidV.strideF (t : TidV) (k : Nat) : Nat := bits t.w2 (16 * k + 15) (16 * k)
def TidV.tsh (t : TidV) (k : Nat) : Nat := bits t.w3 (8 * k + 39) (8 * k + 32)
def TidV.phaser (t : TidV) : Nat := bits t.w3 31 20
def TidV.access (t : TidV) : Nat := bits t.w3 19 18
def TidV.share (t : TidV) : Nat := bits t.w3 17 16
def TidV.sclt (t : TidV) : Bool := bit t.w3 15
def TidV.scale (t : TidV) : Nat := bits t.w3 14 7
def TidV.restrk (t : TidV) : Bool := bit t.w3 6
def TidV.shrc (t : TidV) : Bool := bit t.w3 5
def TidV.ctr (t : TidV) : Bool := bit t.w3 4
def TidV.valid (t : TidV) : Bool := bit t.w3 3
/-- Bytes of dimension k's stride (R108, R110). -/
def TidV.stride (t : TidV) (k : Nat) : Nat := bits (t.strideF k) 11 0 * 2 ^ bits (t.strideF k) 15 12
/-- Tile count along dimension k (R111). -/
def TidV.tiles (t : TidV) (k : Nat) : Nat := cdiv (t.dim k) (2 ^ t.tsh k)
/-- Number of tiles of the tensor (R111). -/
def TidV.tileCount (t : TidV) : Nat := t.tiles 0 * t.tiles 1 * t.tiles 2 * t.tiles 3
/-- An MX format (R125). -/
def isMx (f : Nat) : Bool := 0x0B ≤ f && f ≤ 0x0D

/-- Element width in bits of a format (R110). -/
def width (f : Nat) : Nat :=
  if f = 0x11 then 1 else if f = 0x02 then 4
  else if f = 0x03 ∨ f = 0x07 ∨ f = 0x08 then 16
  else if f = 0x04 ∨ f = 0x06 ∨ f = 0x12 then 32
  else if f = 0x05 ∨ f = 0x0F ∨ f = 0x10 then 64 else 8

/-- Well-formedness of an entry of a partition's table (R109). The zero bits of R113 in the BASE of a PEER or DIE entry are address bits: an entry with one of
them set is well formed, and its accesses leave the space (DESIGN CHOICE, log 64). -/
def tidWf (t : TidV) (part : Nat) (be : Bool) : Bool :=
  t.fmt ≤ 0x12 && t.space ≤ 5 && t.part == part && 1 ≤ t.rank && t.rank ≤ 4
  && (List.range 4).all (fun k => t.dim k != 0 && (k < t.rank || (t.dim k == 1 && t.strideF k == 0 && t.tsh k == 0))
                                   && t.tsh k ≤ 15)
  && t.strideF 0 == 0 && t.access != 3 && t.share != 3 && (!t.restrk || t.tileCount ≤ 4096)
  && (!t.shrc || t.phaser != 0xFFF || be) && (!t.ctr || (t.space == 5 && t.fmt == 5)) && (!t.sclt || isMx t.fmt)
  && t.w3 % 8 == 0

/-- Indices of a linear element index, i0 fastest (R111, R227). -/
def unlin (t : TidV) (e : Nat) : Nat × Nat × Nat × Nat :=
  let e1 := e / t.dim 0
  let e2 := e1 / t.dim 1
  (e % t.dim 0, e1 % t.dim 1, e2 % t.dim 2, e2 / t.dim 2)

/-- Indices lie inside the dimensions (R110). -/
def inDims (t : TidV) (i : Nat × Nat × Nat × Nat) : Bool :=
  i.1 < t.dim 0 && i.2.1 < t.dim 1 && i.2.2.1 < t.dim 2 && i.2.2.2 < t.dim 3
/-- Byte address of an element (R110). -/
def elemAddr (t : TidV) (i : Nat × Nat × Nat × Nat) : Nat :=
  t.base + i.2.1 * t.stride 1 + i.2.2.1 * t.stride 2 + i.2.2.2 * t.stride 3 + i.1 * width t.fmt / 8
/-- The least linear index of an element that covers the byte at an offset from BASE. -/
def elemAt (t : TidV) (off : Nat) : Nat :=
  ((List.range (t.dim 1 * t.dim 2 * t.dim 3)).findSome? fun j =>
    let row := elemAddr t (unlin t (t.dim 0 * j)) - t.base
    let i := (off - row) * 8 / width t.fmt
    if row ≤ off ∧ i < t.dim 0 then some (i + t.dim 0 * j) else none).getD 0
/-- Bit of the element within its byte, for widths below 8 (R110). -/
def elemBit (t : TidV) (i : Nat × Nat × Nat × Nat) : Nat := i.1 * width t.fmt % 8

/-! ## Gangs, cores, phasers -/

/-- The core on which a gang's logical core stands, for a voice, or for voice 0 where the gang has no such voice (R82). -/
def coreOf (s : State) (scene gslot lc voice : Nat) : Nat :=
  match (getScene s scene).gangs[gslot]? with
  | none => 0
  | some g =>
    match g.words.find? (fun w => w.lc == lc && w.voice == voice) with
    | some w => w.core
    | none => ((g.words.find? (fun w => w.lc == lc)).map (·.core)).getD 0
/-- NLC of a gang. -/
def nlcOf (s : State) (scene gslot : Nat) : Nat := (((getScene s scene).gangs[gslot]?).map (·.nlc)).getD 0
/-- Deterministic phase of a gang (R79). -/
def phaseOf (s : State) (scene gslot : Nat) : Nat := (((getScene s scene).gangs[gslot]?).map (·.phase)).getD 0

/-! ## Checks of an access (R99, R101, R106, R113 to R118, R124) -/

/-- Agents that reach the pool (R99). -/
inductive Agent where
  | prompter | port | fetch | acUnit | epilogue | copy | peer
deriving DecidableEq, Repr

/-- A range of pool bytes lies in an area open to the agent on a core (R99). -/
def areaOk (s : State) (core o n : Nat) (ag : Agent) : Bool :=
  let w := pw s core
  let g0 := o / 65536
  let g1 := (o + n - 1) / 65536
  let sp := rfEnd w + spillGran w ≤ g0 && g1 < spEnd w - relGran w
  let ac := spEnd w ≤ g0
  o + n ≤ 2 ^ 23 && (match ag with
    | .fetch | .peer => sp
    | .acUnit => ac
    | _ => sp || ac || (rfEnd w + spillGran w ≤ g0 && spEnd w ≤ g1 && relGran w == 0))

/-- Every granule of a range of pool bytes is owned by the partition (R101). -/
def ownedOk (s : State) (core part o n : Nat) : Bool :=
  (List.range ((o + n - 1) / 65536 + 1 - o / 65536)).all fun i => (tget (getCore s core).owners 0 (o / 65536 + i)).toNat == 128 + part

/-- Physical offset of a byte of a partition's die-buffer space (R106). -/
def dieOffset (s : State) (die part o : Nat) : Option Nat :=
  let owned := (List.range 256).filter fun g => (tget s.dieOwners 0 (256 * die + g)).toNat == 128 + part
  (owned[o / 262144]?).map fun g => g * 262144 + o % 262144

/-- State of a block of 32 bytes as a read meets it (R439): 0 good, 1 corrected, 2 uncorrectable; the worse of its stored bits (the low two bits of its entry)
and of an error that waits in its next transfer (the bits above). -/
def blockEcc (s : State) (b : Nat) : Nat := max (tget s.ecc 0 b % 4) (tget s.ecc 0 b / 4)
/-- One level of a table walk (R115): the address of the table, the index field of the level, and the levels left.
The answer is the physical address, readable, writable and pinned; or a cause. -/
def walkFrom (s : State) (va : Nat) : List (Nat × Nat) → Nat → Except Nat (Nat × Bool × Bool × Bool)
  | [], _ => .error 0x066
  | (lo, lvl) :: more, tab =>
    let ea := tab + 8 * (va / 2 ^ lo % 512)
    if dramSize s < ea + 8 then .error 0x068
    else if blockEcc s (ea / 32) = 2 then .error 0x16C
    else
      let e := leNat (rdBytes s.mem ea 8)
      let adr := bits e 47 12 * 4096
      let rsv := bits e 63 48 != 0 || bits e 11 8 != 0 || bits e 4 3 != 0
      let c64 := bit e 6
      let leaf := bit e 5
      if !bit e 0 || rsv then .error 0x066
      else if lvl ≤ 2 then
        if leaf || c64 then .error 0x066 else walkFrom s va more adr
      else if lvl = 3 then
        if c64 then .error 0x066
        else if leaf then
          if bits e 20 12 != 0 then .error 0x066
          else .ok (adr + va % 2 ^ 21, bit e 1, bit e 2, bit e 7)
        else walkFrom s va more adr
      else if !leaf then .error 0x066
      else if c64 then
        let e0 := ea / 128 * 128
        let uniform := (List.range 16).all fun i =>
          let x := leNat (rdBytes s.mem (e0 + 8 * i) 8)
          bits x 63 0 == e
        if (List.range 4).any (fun i => blockEcc s (e0 / 32 + i) == 2) then .error 0x16C
        else if bits e 15 12 != 0 || !uniform then .error 0x066
        else .ok (adr + va % 65536, bit e 1, bit e 2, bit e 7)
      else .ok (adr + va % 4096, bit e 1, bit e 2, bit e 7)

/-- Walk of a virtual address of a partition (R115, R116). An address that BASE and strides carry to 2^48 or above has no translation: 0x066 (DESIGN CHOICE,
log 63). -/
def walk (s : State) (part va : Nat) : Except Nat (Nat × Bool × Bool × Bool) :=
  let p := getPart s part
  if !p.rootEn || 2 ^ 48 ≤ va then .error 0x066
  else walkFrom s va [(39, 1), (30, 2), (21, 3), (12, 4)] (p.root * 4096)

/-- Size of the page that a walk has found, as a power of two (R115). -/
def pageBits (s : State) (part va : Nat) : Nat :=
  let root := (getPart s part).root * 4096
  let at2 := (walkFrom s va [(39, 1), (30, 2), (21, 3)] root).isOk
  let lvl (t lo : Nat) : Nat := bits (leNat (rdBytes s.mem (t + 8 * (va / 2 ^ lo % 512)) 8)) 47 12 * 4096
  let e := leNat (rdBytes s.mem (lvl (lvl (lvl root 39) 30) 21 + 8 * (va / 2 ^ 12 % 512)) 8)
  if at2 then 21 else if bit e 6 then 16 else 12
/-- The translation of the page that a walk finds. -/
def walkPage (s : State) (part va : Nat) : Except Nat Xlat :=
  (walk s part va).map fun r =>
    let n := pageBits s part va
    ⟨part, va / 2 ^ n * 2 ^ n, n, r.1 - va % 2 ^ n, r.2.1, r.2.2.1, r.2.2.2, false⟩
/-- The translation of an address among those that a TLB holds. -/
def tlbHit (l : List Xlat) (part va : Nat) (host : Bool) : Option Xlat :=
  l.find? fun x => x.host == host && x.part == part && va / 2 ^ x.log2 == x.va / 2 ^ x.log2
/-- A pinned entry of a die's TLB (R117). -/
def pinnedHit (s : State) (die part va : Nat) : Option Xlat :=
  (s.pinned.find? fun e => e.1 == 4 * part + die && va / 2 ^ e.2.2.1 == e.2.1 / 2 ^ e.2.2.1).map fun e =>
    ⟨part, e.2.1, e.2.2.1, e.2.2.2 / 4, bit e.2.2.2 1, bit e.2.2.2 0, true, false⟩
/-- What the TLBs hold for an address: that of the core, then the pinned entries and the others of its die (R117). -/
def tlbFind (s : State) (core part va : Nat) : Option Xlat :=
  (tlbHit (tget s.coreTlb [] core) part va false).or ((pinnedHit s (dieOf core) part va).or (tlbHit (tget s.dieTlb [] (dieOf core)) part va false))
/-- Translation for a core through a TLB, or a fresh walk (R117). -/
def translate (s : State) (core part va : Nat) (store : Bool) : Except Nat Nat :=
  let r : Except Nat Xlat := match tlbFind s core part va with
    | some x => .ok x
    | none => walkPage s part va
  match r with
  | .error c => .error c
  | .ok x =>
    if (getPart s part).rt && !x.pin then .error 0x06D
    else if !(if store then x.wr else x.rd) then .error 0x067
    else if dramSize s ≤ x.pa + va % 2 ^ x.log2 then .error 0x068
    else .ok (x.pa + va % 2 ^ x.log2)
/-- Entries of a core's TLB, and of a die's (R117). -/
def coreTlbSize : Nat := 256
def dieTlbSize : Nat := 8192
/-- A translation enters a TLB as its newest entry; the oldest leaves one that is full (DESIGN CHOICE, log 68). -/
def tlbIn (l : List Xlat) (size : Nat) (x : Xlat) : List Xlat := let m := l ++ [x]; m.drop (m.length - size)
/-- A die's TLB takes a translation beside its pinned entries (R117). -/
def dieTlbIn (s : State) (die : Nat) (x : Xlat) : State :=
  let pins := (s.pinned.filter (·.1 % 4 == die)).length
  { s with dieTlb := tput s.dieTlb [] die (tlbIn (tget s.dieTlb [] die) (dieTlbSize - pins) x) }
/-- The TLBs after the translation of an address for a core: what it used stands in the core's, and what a walk found in the die's too (R117, DESIGN CHOICE,
log 68). -/
def tlbFill (s : State) (core part va : Nat) : State :=
  let put (s : State) (x : Xlat) : State := { s with coreTlb := tput s.coreTlb [] core (tlbIn (tget s.coreTlb [] core) coreTlbSize x) }
  if (tlbHit (tget s.coreTlb [] core) part va false).isSome then s
  else match tlbFind s core part va with
    | some x => put s x
    | none => match walkPage s part va with
      | .ok x => put (dieTlbIn s (dieOf core) x) x
      | .error _ => s
/-- The host's translation of a page is cached in the die's TLB, never pinned (R118). -/
def hostFill (s : State) (core part iova : Nat) : State :=
  if (tlbHit (tget s.dieTlb [] (dieOf core)) part iova true).isSome then s
  else dieTlbIn s (dieOf core) ⟨part, iova / 4096 * 4096, 12, hostAddr part (iova / 4096 * 4096), true, true, false, true⟩

/-- Who makes an access: core, partition, scene, gang slot, logical core, voice. -/
structure Who where
  core : Nat
  part : Nat
  scene : Nat
  gslot : Nat
  lc : Nat
  voice : Nat
deriving DecidableEq, Repr

/-- Checks 6 to 8 of R124 for n bytes at address a of a TID's space: the place, or the cause. An offset that strides carry beyond its space does not
wrap (R99, R106); a HOST address that they carry out of the port's range has no translation (DESIGN CHOICE, log 47). BASE[47] names the port (R351). -/
def placeOf (s : State) (w : Who) (t : TidV) (a n : Nat) (store : Bool) (ag : Agent) : Except Nat Place :=
  match t.space with
  | 0 =>
    if !areaOk s w.core a n ag then .error 0x063
    else if !ownedOk s w.core w.part a n then .error 0x064
    else .ok ⟨.dev, poolAddr w.core a⟩
  | 1 =>
    let l := bits t.base 47 42
    let c := coreOf s w.scene w.gslot l w.voice
    let o := a - l * 2 ^ 42
    if a < l * 2 ^ 42 ∨ areaOk s c o n .peer = false then .error 0x063
    else if !ownedOk s c w.part o n then .error 0x064
    else .ok ⟨.dev, poolAddr c o⟩
  | 2 =>
    let l := bits t.base 47 42
    let d := dieOf (coreOf s w.scene w.gslot l w.voice)
    if a < l * 2 ^ 42 then .error 0x065
    else match dieOffset s d w.part (a - l * 2 ^ 42), dieOffset s d w.part (a - l * 2 ^ 42 + n - 1) with
      | some o, some _ => .ok ⟨.dev, Config.dieBase + d * 0x4000000 + o⟩
      | _, _ => .error 0x065
  | 3 => (translate s w.core w.part a store).map fun pa => ⟨.dev, pa⟩
  | 4 =>
    let safe := bit t.base 47
    let iova := a - b2n safe * 2 ^ 47
    if a < b2n safe * 2 ^ 47 ∨ 2 ^ 47 ≤ iova then .error 0x069
    else if (tlbHit (tget s.dieTlb [] (dieOf w.core)) w.part a true).isNone && s.atsRefused.contains (hostAddr w.part (b2n safe * 2 ^ 47 + iova) / 4096) then
      .error 0x069
    else if (if safe then s.mgmt.portB else s.mgmt.portA).isNone then .error 0x069
    else .ok (if safe then ⟨.safety, iova⟩ else ⟨.host, hostAddr w.part iova⟩)
  | _ => .error (if store then 0x06A else 0x063)

/-- Checks 1 to 3 and the logical core of R124. -/
def tidChecks (_ : State) (w : Who) (t : TidV) (store : Bool) (ag : Agent) : Option Nat :=
  if !t.valid then some 0x060
  else if t.part != w.part then some 0x061
  else if t.space == 5 then some (if store || ag == .prompter then 0x06A else 0x063)
  else if ag == .port && (t.space == 3 || t.space == 4) then some 0x063
  else if (t.access == 1 && store) || (t.access == 2 && !store) then some 0x067
  else none
/-- A PEER or DIE logical core at or above NLC (R113). -/
def lcBad (s : State) (w : Who) (t : TidV) : Bool := (t.space == 1 || t.space == 2) && nlcOf s w.scene w.gslot ≤ bits t.base 47 42

/-- An access of n bytes at a linear element index e and a displacement, aligned to al bytes (R124): the address in the
space, the bit within its byte, and the place; or the cause. -/
def accessOf (s : State) (w : Who) (t : TidV) (e disp : Int) (n al : Nat) (elem store : Bool) (ag : Agent) :
    Except Nat (Nat × Nat × Place) :=
  match tidChecks s w t store ag with
  | some c => .error c
  | none =>
    let i := unlin t e.toNat
    if e < 0 || !inDims t i then .error 0x062
    else if lcBad s w t then .error 0x06C
    else
      let a : Int := (elemAddr t i : Int) + disp
      if elem && 32 < width t.fmt then .error 0x06B
      else if a % (al : Int) != 0 then .error 0x06B
      else if a < 0 then .error 0x063
      else (placeOf s w t a.toNat n store ag).map fun p => (a.toNat, elemBit t i, p)

/-! ## Race tags (R214, R346) -/

/-- Path mask bits (R167). -/
def pathE : Nat := 32
def pathA : Nat := 16
def pathX : Nat := 8
def pathG : Nat := 4

/-- Key of a race tag: the scene's TID and its granule. -/
def tagKey (scene tid g : Nat) : Nat := (256 * scene + tid) * 2 ^ 32 + g
/-- The race phase of a tensor: its phaser's phase, or the deterministic phase (R86, R346). -/
def racePhase (s : State) (w : Who) (t : TidV) : Nat :=
  if t.phaser = 0xFFF then phaseOf s w.scene w.gslot else (getPh s (4096 * w.scene + t.phaser)).phase
/-- The tag a check reads: as of the race phase n (R346). -/
def tagNow (g : RaceTag) (n : Nat) : RaceTag := if g.phase = n then g else ⟨n, 0, 0xFF, 0⟩
/-- The rule of R346 for agent a on path c: the new tag or the cause. -/
def raceRule (g : RaceTag) (a c : Nat) (store : Bool) : Except Nat RaceTag :=
  if store then
    if g.rmask &&& ((2 ^ 64 - 1) ^^^ 2 ^ a) ≠ 0 then .error 0x081
    else if g.wlc ≠ 0xFF ∧ g.wlc ≠ a then .error 0x082
    else if g.wlc = a ∧ g.wpath &&& c = 0 then .error 0x083
    else if g.wlc = 0xFF then .ok { g with wlc := a, wpath := c }
    else .ok g
  else if g.wlc ≠ 0xFF ∧ g.wlc ≠ a then .error 0x080
  else if g.wlc = a ∧ g.wpath &&& c = 0 then .error 0x083
  else .ok { g with rmask := g.rmask ||| 2 ^ a }

/-- Consult the race tag of an access to a TID (R346): the state with the new tag, or the cause and INFO0 to INFO2 (R365). -/
def raceCheck (s : State) (w : Who) (t : TidV) (tid a path : Nat) (store : Bool) : Except (Nat × Nat × Nat × Nat) State :=
  if !t.shrc then .ok s
  else
    let g := (a - t.base) / 4096
    let n := racePhase s w t
    let k := tagKey w.scene tid g
    let tag := tagNow ((lookup s.tags k).getD {}) n
    match raceRule tag w.lc path store with
    | .ok tag' => .ok { s with tags := tins s.tags k tag' }
    | .error c => .error (c, tid * 2 ^ 56 + path * 2 ^ 50 + tag.wpath * 2 ^ 44 + tag.wlc * 2 ^ 36 + g, tag.rmask, n)

/-- The race granule of a byte of a TID, by its offset from BASE (R214). -/
def raceUnit (w : Who) (tid off : Nat) : Nat := tagKey w.scene tid (off / 4096)
/-- The die that holds a TID's race tags (R214). -/
def tagHome (s : State) (scene : Nat) (t : TidV) : Nat :=
  if t.phaser = 0xFFF then (getScene s scene).tagDie else (getPh s (4096 * scene + t.phaser)).home
/-- The grant that an access needs is held by its core: of its agent, path and granule in the present phase, and a write grant for a store (R346). -/
def raceHeld (s : State) (w : Who) (t : TidV) (tid a path : Nat) (store : Bool) : Bool :=
  !t.shrc || s.grants.any fun g => g.core == w.core && g.lc == w.lc && g.path == path && g.key == tagKey w.scene tid ((a - t.base) / 4096)
    && g.phase == racePhase s w t && (g.write || !store)
/-- The core keeps the grant that an engine has given; those of earlier phases have lapsed (R346). -/
def addGrant (s : State) (w : Who) (t : TidV) (tid a path : Nat) (store : Bool) : State :=
  let g : Grant := ⟨w.core, w.lc, path, tagKey w.scene tid ((a - t.base) / 4096), racePhase s w t, store⟩
  let same (x : Grant) : Bool := x.core == g.core && x.lc == g.lc && x.path == g.path && x.key == g.key
  let old := s.grants.any fun x => same x && x.phase == g.phase && x.write
  if t.shrc then { s with grants := s.grants.filter (fun x => !same x) ++ [{ g with write := store || old }] } else s
/-- A race check goes to the tag's engine (R208, R346): who is answered stands in kind and no: 0 a thread, 1 a request of a port, 2 a transfer of
a command of the copy engine, 3 the home of a voice's compare point. -/
def askRace (s : State) (w : Who) (t : TidV) (tid a path : Nat) (store : Bool) (kind no item : Nat) : State :=
  let home := tagHome s w.scene t
  let q : SyncReq := {
    id := s.nextId, core := w.core, t := no, home := home, p0 := (getPart s w.part).rt, op := 61, arg := a, val := tid, cmp := kind, d := 0,
    arrive := s.cycle + oneWay w.core home, key := [w.part, w.scene, w.gslot, w.lc, w.voice, path, b2n store, item] }
  { s with nextId := s.nextId + 1, syncQ := s.syncQ ++ [q] }

/-! ## Running a prompter instruction -/

/-- The agent of a thread's accesses (R332, R448). -/
def whoOf (core : Nat) (r : Run) : Who := ⟨core, r.part, r.scene, r.gslot, r.lc, r.voice⟩

/-- A prompter meaning: it acts on the running thread of cur and its block. -/
def onThread (s : State) (f : Thread → Run → State) : Out :=
  match runOf s s.cur.core s.cur.slot with
  | none => .fault .noAgent
  | some r =>
    let t := getTh s (thKey s.cur.core s.cur.slot)
    if t.running then .next (f t r) else .fault .noAgent

/-- The thread of cur with new contents. -/
def putTh (s : State) (t : Thread) : State := setTh s (thKey s.cur.core s.cur.slot) t

/-- The word has completed: write its result and go on (R221, R232). -/
def writeBack (s : State) (t : Thread) (d : Nat) (v : W64) : State := putTh s (advance (wrReg t d v))
/-- The word has completed without a result. -/
def goOn (s : State) (t : Thread) : State := putTh s (advance t)
/-- The word traps: class 0 faults of decode carry the word (R157, R258). -/
def trapNow (s : State) (cause i0 i1 i2 : Nat) : State := takeTrap s s.cur.core s.cur.slot cause i0 i1 i2 false
/-- The thread's next issue is the first slot at or after its enabled cycle plus n (R219). -/
def stall (s : State) (n : Nat) (t : Thread) : Thread := { t with wait := .untilN (nOf s s.cur.core + n) }

/-- A branch decides, and its delay slot is next (R232); a control transfer in a delay slot raises 0x003 (R158). -/
def branchTo (s : State) (t : Thread) (kind : Nat) (taken : Bool) (target : Nat) (word : Nat) : State :=
  if t.branch.isSome then trapNow s 0x003 word 0 0
  else putTh s { t with pc := (t.pc + 4) % 2 ^ 32, branch := some ⟨t.pc, kind, taken, target % 2 ^ 32, false⟩ }

/-- A + 4 x SignExt(off, n) (R164). -/
def relTarget (pc off n : Nat) : Nat := tr 32 ((pc : Int) + 4 * sx n off)

/-- A result of the ALU, with a register operand pair (R225). -/
def aluOp (s : State) (d a b : Nat) (f : W64 → W64 → W64) : Out :=
  onThread s fun t _ => writeBack s t d (f (rdReg t a) (rdReg t b))
/-- A result of an immediate form (R226). -/
def immOp (s : State) (d a : Nat) (f : W64 → W64) : Out :=
  onThread s fun t _ => writeBack s t d (f (rdReg t a))

end Sys2Proof.Machine
end

