-- ==== Sys2Proof/Machine/Alu.lean ====
section
/-! DEFINITION. Integer arithmetic of the prompter (R225, R226). -/

namespace Sys2Proof.Machine

/-- 1 or 0 as a register value. -/
def flag64 (b : Bool) : W64 := if b then 1 else 0
/-- Shift amount: Bits(y, 5, 0). -/
def sh6 (y : W64) : Nat := y.toNat % 64

def execAdd (d a b : Nat) (s : State) : Out := aluOp s d a b (· + ·)
def execSub (d a b : Nat) (s : State) : Out := aluOp s d a b (· - ·)
def execMul (d a b : Nat) (s : State) : Out := aluOp s d a b (· * ·)
def execMulh (d a b : Nat) (s : State) : Out := aluOp s d a b fun x y => BitVec.ofInt 64 (x.toInt * y.toInt / 2 ^ 64)
def execMulhu (d a b : Nat) (s : State) : Out := aluOp s d a b fun x y => BitVec.ofNat 64 (x.toNat * y.toNat / 2 ^ 64)
def execAndR (d a b : Nat) (s : State) : Out := aluOp s d a b (· &&& ·)
def execOrR (d a b : Nat) (s : State) : Out := aluOp s d a b (· ||| ·)
def execXorR (d a b : Nat) (s : State) : Out := aluOp s d a b (· ^^^ ·)
def execAndnR (d a b : Nat) (s : State) : Out := aluOp s d a b fun x y => x &&& ~~~y
def execShl (d a b : Nat) (s : State) : Out := aluOp s d a b fun x y => x <<< sh6 y
def execShr (d a b : Nat) (s : State) : Out := aluOp s d a b fun x y => x >>> sh6 y
def execSar (d a b : Nat) (s : State) : Out := aluOp s d a b fun x y => x.sshiftRight (sh6 y)
def execMinS (d a b : Nat) (s : State) : Out := aluOp s d a b fun x y => if x.toInt ≤ y.toInt then x else y
def execMaxS (d a b : Nat) (s : State) : Out := aluOp s d a b fun x y => if x.toInt ≤ y.toInt then y else x
def execMinU (d a b : Nat) (s : State) : Out := aluOp s d a b fun x y => if x.toNat ≤ y.toNat then x else y
def execMaxU (d a b : Nat) (s : State) : Out := aluOp s d a b fun x y => if x.toNat ≤ y.toNat then y else x
def execSlt (d a b : Nat) (s : State) : Out := aluOp s d a b fun x y => flag64 (x.toInt < y.toInt)
def execSltu (d a b : Nat) (s : State) : Out := aluOp s d a b fun x y => flag64 (x.toNat < y.toNat)
def execSeq (d a b : Nat) (s : State) : Out := aluOp s d a b fun x y => flag64 (x == y)
def execPopc (d a : Nat) (s : State) : Out := immOp s d a fun x => w64 (popcount 64 x.toNat)
def execClz (d a : Nat) (s : State) : Out := immOp s d a fun x => w64 (64 - bitLen 64 x.toNat)

/-- ADDI and SLTI sign-extend their immediate (R163). -/
def sxImm (i : Nat) : W64 := BitVec.ofInt 64 (sx 16 i)

def execAddi (d a i : Nat) (s : State) : Out := immOp s d a (· + sxImm i)
def execAndi (d a i : Nat) (s : State) : Out := immOp s d a (· &&& w64 i)
def execOri (d a i : Nat) (s : State) : Out := immOp s d a (· ||| w64 i)
def execXori (d a i : Nat) (s : State) : Out := immOp s d a (· ^^^ w64 i)
def execShli (d a n : Nat) (s : State) : Out := immOp s d a (· <<< n)
def execShri (d a n : Nat) (s : State) : Out := immOp s d a (· >>> n)
def execSari (d a n : Nat) (s : State) : Out := immOp s d a (·.sshiftRight n)
def execSlti (d a i : Nat) (s : State) : Out := immOp s d a fun x => flag64 (x.toInt < sx 16 i)
/-- LIS: s = 0 writes the sign-extended immediate, s = 1 to 3 replaces 16 bits (R226). -/
def execLis (d lane i : Nat) (s : State) : Out :=
  onThread s fun t _ => writeBack s t d
    (if lane = 0 then sxImm i else w64 (setBits (rdReg t d).toNat (16 * lane + 15) (16 * lane) i))

end Sys2Proof.Machine
end

