-- ==== Sys2Proof/WellFormed.lean ====
section
/-! DEFINITION. Which instructions are well formed: every field lies in the range its word gives it (R159 to R178). -/

namespace Sys2Proof

/-- Register code of R160. -/
abbrev regOk (r : Nat) : Bool := r < 32

/-- Source codes of R169. -/
def srcOk (c : Nat) : Bool := c ≤ 50
/-- Destination codes of R170. -/
def dstOk (c : Nat) : Bool := c < 32 || c == 62 || c == 63
/-- Guard codes of R170. -/
def grdOk (c : Nat) : Bool := c ≤ 9

/-- Role of the IMM field of an element opcode (R171, R308). -/
inductive ImmRole where
  | zero | free | vote | delay | flag | code | isat | icond | fcond | pair | qmax | scle | qmx | modulus | tid
  | amode | wpre | apass | abind | abindOff
deriving DecidableEq, Repr

/-- Conversion pair codes of R173. -/
def pairOk (p : Nat) : Bool := p ≤ 0x11 || (0x20 ≤ p && p ≤ 0x23)
/-- Pairs that take two values (R173). -/
def pairTwo (p : Nat) : Bool := 0x20 ≤ p && p ≤ 0x23
/-- Pairs of group bit 21: those with an FP8 or E8M0 side (R173). -/
def pairFp8 (p : Nat) : Bool :=
  p == 0x02 || p == 0x03 || p == 0x0A || p == 0x0B || p == 0x0E || p == 0x22 || p == 0x23

/-- The IMM field is legal for its role (R171, R174, R308). -/
def immOk (r : ImmRole) (m : Nat) : Bool :=
  match r with
  | .zero => m == 0
  | .free | .vote | .code => m < 256
  | .delay => m < 256
  | .flag => m < 32
  | .isat => m / 64 % 2 == 0 && 1 ≤ m % 64 && m % 64 ≤ 32 && m < 256
  | .icond => m ≤ 9
  | .fcond => m ≤ 7
  | .pair => pairOk m
  | .qmax => 1 ≤ m / 64 && m < 256 && m % 64 ≤ 31
  | .scle => 1 ≤ m / 64 && m < 256 && m % 64 ≤ 2
  | .qmx => 1 ≤ m / 64 && m < 256 && m / 16 % 4 == 0 && m % 4 ≤ 2
  | .modulus => m ≤ 9
  | .tid => m < 255
  | .amode => m ≤ 8
  | .wpre => m ≤ 1
  | .apass => m < 256 && m / 16 % 4 == 0 && m % 8 == 0
  | .abind => m ≤ 3
  | .abindOff => m == 4

/-- What an element opcode reads and writes (R174, R278 to R297, R308), its IMM role and its group bit (R171). -/
structure EInfo where
  a : Bool
  b : Bool
  c : Bool
  wr : Bool
  role : ImmRole
  grp : Option Nat
deriving DecidableEq, Repr

/-- The rows of the element opcode map (R171). -/
def elemInfo (opc : Nat) (imm : Nat) : Option EInfo :=
  match opc with
  | 0x00 => some ⟨false, false, false, false, .zero, none⟩
  | 0x01 => some ⟨true, false, false, true, .free, some 0⟩
  | 0x02 => some ⟨true, true, true, true, .free, some 0⟩
  | 0x03 => some ⟨true, true, false, true, .free, some 0⟩
  | 0x04 => some ⟨true, true, true, true, .vote, some 1⟩
  | 0x05 => some ⟨true, false, false, true, .delay, some 0⟩
  | 0x06 => some ⟨true, false, false, false, .flag, some 2⟩
  | 0x07 => some ⟨true, false, false, false, .code, some 2⟩
  | 0x08 => some ⟨true, false, false, true, .free, some 0⟩
  | 0x10 | 0x11 | 0x17 | 0x18 | 0x19 | 0x1A => some ⟨true, true, false, true, .free, some 3⟩
  | 0x12 | 0x13 => some ⟨true, true, false, true, .free, some 4⟩
  | 0x14 => some ⟨true, true, true, true, .free, some 4⟩
  | 0x15 | 0x16 => some ⟨true, false, false, true, .free, some 3⟩
  | 0x1B => some ⟨true, false, false, true, .isat, some 3⟩
  | 0x1C | 0x1D | 0x1E | 0x1F | 0x20 | 0x21 | 0x22 | 0x23 => some ⟨true, true, false, true, .free, some 5⟩
  | 0x24 | 0x25 | 0x26 => some ⟨true, false, false, true, .free, some 5⟩
  | 0x27 => some ⟨true, true, false, true, .free, some 6⟩
  | 0x28 => some ⟨true, true, true, true, .free, some 6⟩
  | 0x30 => some ⟨true, true, false, true, .icond, some 7⟩
  | 0x31 => some ⟨true, true, false, true, .fcond, some 7⟩
  | 0x32 | 0x33 => some ⟨true, true, false, true, .free, some 7⟩
  | 0x34 => some ⟨true, false, false, true, .free, some 7⟩
  | 0x40 | 0x41 | 0x44 | 0x45 => some ⟨true, true, false, true, .free, some 8⟩
  | 0x46 | 0x47 => some ⟨true, false, false, true, .free, some 8⟩
  | 0x42 => some ⟨true, true, false, true, .free, some 9⟩
  | 0x43 => some ⟨true, true, true, true, .free, some 9⟩
  | 0x48 | 0x49 | 0x4A | 0x4B | 0x4C => some ⟨true, false, false, true, .free, some 10⟩
  | 0x50 | 0x51 => some ⟨true, true, false, true, .free, some 11⟩
  | 0x52 => some ⟨true, true, true, true, .free, some 11⟩
  | 0x53 | 0x54 => some ⟨true, true, false, true, .free, some 12⟩
  | 0x55 => some ⟨true, true, true, true, .free, some 12⟩
  | 0x60 | 0x61 | 0x62 | 0x63 =>
    some ⟨true, pairTwo imm, false, true, .pair, some (if pairFp8 imm then 21 else 13)⟩
  | 0x64 => some ⟨true, pairTwo imm, false, true, .pair, some 14⟩
  | 0x68 => some ⟨true, false, false, true, .qmax, some 15⟩
  | 0x69 => some ⟨true, false, false, true, .scle, some 15⟩
  | 0x6A => some ⟨true, true, false, true, .qmx, some 15⟩
  | 0x70 => some ⟨true, false, false, true, .modulus, some 16⟩
  | 0x71 | 0x72 => some ⟨true, true, false, true, .modulus, some 16⟩
  | 0x73 => some ⟨true, true, false, true, .modulus, some 17⟩
  | 0x74 => some ⟨true, true, true, true, .modulus, some 17⟩
  | 0x80 => some ⟨true, true, false, true, .tid, some 18⟩
  | 0x81 => some ⟨true, true, false, false, .tid, some 18⟩
  | 0x82 => some ⟨true, true, false, true, .tid, some 19⟩
  | 0x83 => some ⟨true, true, true, false, .tid, some 19⟩
  | 0xA0 => some ⟨false, false, false, false, .amode, some 20⟩
  | 0xA1 => some ⟨true, true, false, false, .wpre, some 20⟩
  | 0xA2 => some ⟨false, false, false, false, .zero, some 20⟩
  | 0xA3 => some ⟨true, true, true, false, .apass, some 20⟩
  | 0xA4 => some ⟨true, true, true, false, .zero, some 20⟩
  | 0xA5 => some ⟨true, true, false, false, .zero, some 20⟩
  | 0xA6 => some ⟨false, false, false, false, if imm / 4 % 2 == 1 then .abindOff else .abind, some 20⟩
  | _ => none

/-- The checks of one entry alone that CFGLD makes (R168 to R174, R307). -/
def entOk (opc : Nat) (x : Ent) : Bool :=
  match elemInfo opc x.imm with
  | none => false
  | some f =>
    let lone := (x.sa == 0 && x.sb == 0 && x.sc == 0 && x.dst == 0 && x.grd == 0 && x.imm == 0)
    if opc == 0 then lone && x.lnk < 16
    else
      srcOk x.sa && srcOk x.sb && srcOk x.sc && dstOk x.dst && x.lnk < 16 && grdOk x.grd && immOk f.role x.imm
      && (f.a || x.sa == 47) && (f.b || x.sb == 47)
      && (f.c || x.sc == 47 || x.grd == 8 || x.grd == 9)
      && (f.wr || x.dst == 62)
      && (f.role == .free || (x.sa != 46 && x.sb != 46 && x.sc != 46))
      && !((x.grd == 8 || x.grd == 9) && x.sc == 47)
      && (opc < 0xA0 || x.lnk == 0)
      && (opc != 0xA4 || (36 ≤ x.sc && x.sc ≤ 43))

/-- Fields of a copy entry lie within their widths, and no reserved code is used (R178, R179). -/
def CopyEnt.fieldsOk (e : CopyEnt) : Bool :=
  e.bank ≤ 2 && e.stage < 256 && e.start < 65536 && e.stid < 256 && e.dtid < 256 && e.itid < 256 && e.rid < 256
  && e.w1 < 2 ^ 64 && e.w2 < 2 ^ 64 && e.rows < 256 && e.cols < 256 && e.cvtFmt < 16 && e.cvtRm ≤ 2 && e.cvtScale ≤ 2
  && e.ph < 4096 && e.ctr < 2 ^ 28

/-- Numbers of the special registers that R182 assigns. -/
def srAssigned (n : Nat) : Bool :=
  (0x001 ≤ n && n ≤ 0x004) || (0x008 ≤ n && n ≤ 0x00B) || (0x010 ≤ n && n ≤ 0x012) || n == 0x020 || n == 0x021
  || (0x100 ≤ n && n ≤ 0x106) || n == 0x110 || n == 0x111 || n == 0x120 || n == 0x130 || n == 0x140
  || (0x400 ≤ n && n ≤ 0x403) || (0x410 ≤ n && n ≤ 0x430) || (0x440 ≤ n && n ≤ 0x44F) || (0x450 ≤ n && n ≤ 0x454)
  || (0x460 ≤ n && n ≤ 0x46F) || (0x480 ≤ n && n ≤ 0x4FF) || (0x500 ≤ n && n ≤ 0x510)

/-- Special registers that user mode may name (R182). -/
def srUser (n : Nat) : Bool := n < 0x100 || n == 0x130

/-- The opcode number and operand fields of an element entry (R171). -/
def elemOpc : Instr → Option (Nat × Ent)
  | .eNop x => some (0x00, x)
  | .eMov x => some (0x01, x)
  | .eSel x => some (0x02, x)
  | .ePick x => some (0x03, x)
  | .eVote3 x => some (0x04, x)
  | .eDelay x => some (0x05, x)
  | .eFlag x => some (0x06, x)
  | .eTrap x => some (0x07, x)
  | .ePset x => some (0x08, x)
  | .eIadd x => some (0x10, x)
  | .eIsub x => some (0x11, x)
  | .eImul x => some (0x12, x)
  | .eImulh x => some (0x13, x)
  | .eImad x => some (0x14, x)
  | .eIabs x => some (0x15, x)
  | .eIneg x => some (0x16, x)
  | .eImin x => some (0x17, x)
  | .eImax x => some (0x18, x)
  | .eIminu x => some (0x19, x)
  | .eImaxu x => some (0x1A, x)
  | .eIsat x => some (0x1B, x)
  | .eShl x => some (0x1C, x)
  | .eShr x => some (0x1D, x)
  | .eSar x => some (0x1E, x)
  | .eRol x => some (0x1F, x)
  | .eAnd x => some (0x20, x)
  | .eOr x => some (0x21, x)
  | .eXor x => some (0x22, x)
  | .eAndn x => some (0x23, x)
  | .eNot x => some (0x24, x)
  | .ePopc x => some (0x25, x)
  | .eClz x => some (0x26, x)
  | .eBfx x => some (0x27, x)
  | .eBfi x => some (0x28, x)
  | .eIcmp x => some (0x30, x)
  | .eFcmp x => some (0x31, x)
  | .ePand x => some (0x32, x)
  | .ePor x => some (0x33, x)
  | .ePnot x => some (0x34, x)
  | .eFadd x => some (0x40, x)
  | .eFsub x => some (0x41, x)
  | .eFmul x => some (0x42, x)
  | .eFfma x => some (0x43, x)
  | .eFmin x => some (0x44, x)
  | .eFmax x => some (0x45, x)
  | .eFabs x => some (0x46, x)
  | .eFneg x => some (0x47, x)
  | .eFrcp x => some (0x48, x)
  | .eFrsq x => some (0x49, x)
  | .eFexp2 x => some (0x4A, x)
  | .eFlog2 x => some (0x4B, x)
  | .eFtanh x => some (0x4C, x)
  | .eFaddB2 x => some (0x50, x)
  | .eFmulB2 x => some (0x51, x)
  | .eFfmaB2 x => some (0x52, x)
  | .eFaddH2 x => some (0x53, x)
  | .eFmulH2 x => some (0x54, x)
  | .eFfmaH2 x => some (0x55, x)
  | .eCvtRn x => some (0x60, x)
  | .eCvtRz x => some (0x61, x)
  | .eCvtRd x => some (0x62, x)
  | .eCvtRu x => some (0x63, x)
  | .eCvtSr x => some (0x64, x)
  | .eQmax x => some (0x68, x)
  | .eScle x => some (0x69, x)
  | .eQmx x => some (0x6A, x)
  | .eRfwd x => some (0x70, x)
  | .eRadd x => some (0x71, x)
  | .eRsub x => some (0x72, x)
  | .eRmul x => some (0x73, x)
  | .eRmac x => some (0x74, x)
  | .eLdp x => some (0x80, x)
  | .eStp x => some (0x81, x)
  | .eLdpx x => some (0x82, x)
  | .eStpx x => some (0x83, x)
  | .aMode x => some (0xA0, x)
  | .aWpreI x => some (0xA1, x)
  | .aWpreA x => some (0xA1, x)
  | .aWswap x => some (0xA2, x)
  | .aPass x => some (0xA3, x)
  | .aDrain x => some (0xA4, x)
  | .aClr x => some (0xA5, x)
  | .aBind x => some (0xA6, x)
  | .aBindOff x => some (0xA6, x)
  | _ => none

/-- The sub-operation bits that tell two constructors of one opcode apart (R308). -/
def elemSubOk : Instr → Bool
  | .aWpreI x => x.imm == 0
  | .aWpreA x => x.imm == 1
  | .aBind x => x.imm ≤ 3
  | .aBindOff x => x.imm == 4
  | _ => true

/-- Well-formedness of an instruction that has a word: every field in the range of R161 to R178. An event has no word and no field. -/
def Instr.wf : Instr → Bool
  | .add d a b => regOk d && regOk a && regOk b
  | .sub d a b => regOk d && regOk a && regOk b
  | .mul d a b => regOk d && regOk a && regOk b
  | .mulh d a b => regOk d && regOk a && regOk b
  | .mulhu d a b => regOk d && regOk a && regOk b
  | .andR d a b => regOk d && regOk a && regOk b
  | .orR d a b => regOk d && regOk a && regOk b
  | .xorR d a b => regOk d && regOk a && regOk b
  | .andnR d a b => regOk d && regOk a && regOk b
  | .shl d a b => regOk d && regOk a && regOk b
  | .shr d a b => regOk d && regOk a && regOk b
  | .sar d a b => regOk d && regOk a && regOk b
  | .minS d a b => regOk d && regOk a && regOk b
  | .maxS d a b => regOk d && regOk a && regOk b
  | .minU d a b => regOk d && regOk a && regOk b
  | .maxU d a b => regOk d && regOk a && regOk b
  | .slt d a b => regOk d && regOk a && regOk b
  | .sltu d a b => regOk d && regOk a && regOk b
  | .seq d a b => regOk d && regOk a && regOk b
  | .popc d a => regOk d && regOk a
  | .clz d a => regOk d && regOk a
  | .addi d a i => regOk d && regOk a && i < 65536
  | .andi d a i => regOk d && regOk a && i < 65536
  | .ori d a i => regOk d && regOk a && i < 65536
  | .xori d a i => regOk d && regOk a && i < 65536
  | .slti d a i => regOk d && regOk a && i < 65536
  | .shli d a n => regOk d && regOk a && n < 64
  | .shri d a n => regOk d && regOk a && n < 64
  | .sari d a n => regOk d && regOk a && n < 64
  | .lis d lane i => regOk d && lane < 4 && i < 65536
  | .ldd d a tid off => regOk d && regOk a && tid < 255 && off < 256
  | .ldw d a tid off => regOk d && regOk a && tid < 255 && off < 256
  | .std d a tid off => regOk d && regOk a && tid < 255 && off < 256
  | .stw d a tid off => regOk d && regOk a && tid < 255 && off < 256
  | .srrd d sr => regOk d && sr < 4096 && srAssigned sr
  | .srwr a sr => regOk a && sr < 4096 && srAssigned sr
  | .br off | .call off => off < 2 ^ 26
  | .bc _ a off => regOk a && off < 65536
  | .bstS line off | .bstC line off => line < 32 && off < 65536
  | .bct k off => k < 8 && off < 65536
  | .jr a | .callr a => regOk a
  | .ret => true
  | .kset a k => regOk a && k < 8
  | .krd d k => regOk d && k < 8
  | .kstart a s => regOk a && s < 4
  | .kwait s | .kstop s => s < 4
  | .cfgld _ a b s => regOk a && regOk b && s < 4
  | .constw a b j s => regOk a && regOk b && j < 8 && s < 4
  | .vsel a s | .epsel a s => regOk a && s < 4
  | .qarm | .qsel _ | .qcancel _ | .stage => true
  | .stageset a => regOk a
  | .tidrd d tid w => regOk d && tid < 255 && w < 4
  | .tidwr d a tid w => regOk d && regOk a && tid < 255 && w < 4
  | .resclr a tid => regOk a && tid < 255
  | .restst d a tid => regOk d && regOk a && tid < 255
  | .phreg _ a | .phdrop a | .phsig a => regOk a
  | .phwait a b | .phsw a b | .phqry a b => regOk a && regOk b
  | .ctrwait d a b => regOk d && regOk a && regOk b
  | .ctrinit a b | .ctrrd a b | .ctrstat a b => regOk a && regOk b
  | .aadd d a b _ _ _ | .amin d a b _ _ _ | .amax d a b _ _ _ | .aminu d a b _ _ _ | .amaxu d a b _ _ _
  | .aand d a b _ _ _ | .aor d a b _ _ _ | .axor d a b _ _ _ | .axch d a b _ _ _ | .acas d a b _ _ _ =>
    regOk d && regOk a && regOk b
  | .afadd d a b _ _ => regOk d && regOk a && regOk b
  | .fenceP src dst _ => 0 < src && src < 64 && 0 < dst && dst < 64
  | .fenceSc | .fenceD | .rel _ | .acq _ => true
  | .jobpost d a => regOk d && regOk a
  | .timerd d | .timefr d | .tickrd d => regOk d
  | .waitt a | .waittCue a => regOk a
  | .trap i | .brk i => i < 65536
  | .eret | .endBlock => true
  | .staterd d a space => regOk d && regOk a && space < 9
  | .pEend => true
  | .pErd d => d < 16
  | .pRrev d a _ => d < 16 && a < 16
  | .pSclx d a f => d < 16 && a < 16 && 6 ≤ f && f ≤ 0x0A
  | .pCvf d a f rm => d < 16 && a < 16 && f ≤ 0x0A && rm != .sr
  | .pBias d a tid => d < 16 && a < 16 && tid < 256
  | .pEadd d a b _ | .pEmul d a b _ | .pEmax d a b _ | .pEmin d a b _ => d < 16 && a < 16 && b < 16
  | .pClmp d a f => d < 16 && a < 16 && f ≤ 4
  | .pRelu d a _ | .pElut d a | .pEsum d a _ | .pEmov d a => d < 16 && a < 16
  | .pQnt d a f rm => d < 16 && a < 16 && f ≤ 0x0D && rm != .sr
  | .pEst a f => a < 16 && f ≤ 0x0D
  | .pEbyp a => a < 16
  | .pEsel d a b c => d < 16 && a < 16 && b < 16 && c < 16
  | .pEflg a line => a < 16 && line < 32
  | .cCopy e | .cGather e | .cFill e | .cCvtcopy e | .cRedcopy e | .cDigest e => e.fieldsOk
  | .illegalWord w => w < 2 ^ 32
  | i =>
    match elemOpc i with
    | some (o, x) => entOk o x && elemSubOk i
    | none => true

end Sys2Proof
end

