-- ==== Sys2Proof/Decode.lean ====
section
/-! DEFINITION. The decoder of prompter words, element entries, epilogue words and copy entries (R156 to R178), the cause of a
prompter word that is no instruction (R158), and the encoder. -/

namespace Sys2Proof

open Sys2Proof.Machine (bits bit)

/-- Conditions of BC by code (R161). -/
def condOf : Nat → Option Cond
  | 0 => some .eqz | 1 => some .nez | 2 => some .ltz | 3 => some .gez | 4 => some .lez | 5 => some .gtz | _ => none
def condCode : Cond → Nat
  | .eqz => 0 | .nez => 1 | .ltz => 2 | .gez => 3 | .lez => 4 | .gtz => 5
/-- Scopes by code (R166). -/
def scopeOf : Nat → Option Scope
  | 0 => some .core | 1 => some .cluster | 2 => some .die | 3 => some .package | 4 => some .system | _ => none
def scopeCode : Scope → Nat
  | .core => 0 | .cluster => 1 | .die => 2 | .package => 3 | .system => 4
/-- Orders by code (R166). -/
def orderOf : Nat → Order
  | 0 => .relaxed | 1 => .acquire | 2 => .release | _ => .acqRel
def orderCode : Order → Nat
  | .relaxed => 0 | .acquire => 1 | .release => 2 | .acqRel => 3
/-- Planes by code (R165). -/
def planeOf : Nat → Plane
  | 0 => .op | 1 => .rt | 2 => .cn | _ => .all
def planeCode : Plane → Nat
  | .op => 0 | .rt => 1 | .cn => 2 | .all => 3
/-- Phaser modes by code (R165). -/
def modeOf : Nat → Option PhMode
  | 0 => some .sig | 1 => some .wait | 2 => some .sigwait | _ => none
def modeCode : PhMode → Nat
  | .sig => 0 | .wait => 1 | .sigwait => 2
/-- Banks by code (R165). -/
def bankOf : Nat → Option Bank
  | 1 => some .a | 2 => some .b | _ => none
def bankCode : Bank → Nat
  | .a => 1 | .b => 2
/-- Roundings of CVF and QNT by code (R176). -/
def roundOf : Nat → RMode
  | 0 => .rne | 1 => .rz | 2 => .rd | _ => .ru
def roundCode : RMode → Nat
  | .rne => 0 | .rz => 1 | .rd => 2 | .ru => 3 | .sr => 4

/-- An instruction that holds only where c does. -/
def need (c : Bool) (i : Instr) : Option Instr := if c then some i else none

/-- Major opcode 0x00 (R162). -/
def decAlu (d a b fn : Nat) : Option Instr :=
  match fn with
  | 0 => some (.add d a b)
  | 1 => some (.sub d a b)
  | 2 => some (.mul d a b)
  | 3 => some (.mulh d a b)
  | 4 => some (.mulhu d a b)
  | 5 => some (.andR d a b)
  | 6 => some (.orR d a b)
  | 7 => some (.xorR d a b)
  | 8 => some (.andnR d a b)
  | 9 => some (.shl d a b)
  | 10 => some (.shr d a b)
  | 11 => some (.sar d a b)
  | 12 => some (.minS d a b)
  | 13 => some (.maxS d a b)
  | 14 => some (.minU d a b)
  | 15 => some (.maxU d a b)
  | 16 => some (.slt d a b)
  | 17 => some (.sltu d a b)
  | 18 => some (.seq d a b)
  | 19 => need (b == 0) (.popc d a)
  | 20 => need (b == 0) (.clz d a)
  | _ => none

/-- Major opcode 0x05 (R163). -/
def decShift (d a imm : Nat) : Option Instr :=
  match imm / 64 with
  | 0 => some (.shli d a (imm % 64))
  | 1 => some (.shri d a (imm % 64))
  | 2 => some (.sari d a (imm % 64))
  | _ => none

/-- Major opcode 0x15 (R164). -/
def decLink (d a b fn : Nat) : Option Instr :=
  match fn with
  | 0 => need (d == 0 && b == 0) (.jr a)
  | 1 => need (d == 0 && a == 0 && b == 0) .ret
  | 2 => need (d == 0 && b == 0) (.callr a)
  | _ => none

/-- Major opcode 0x16 (R165). -/
def decLoop (d a b sub k : Nat) : Option Instr :=
  match sub with
  | 0 => need (d == 0 && b == 0 && k < 8) (.kset a k)
  | 1 => need (a == 0 && b == 0 && k < 8) (.krd d k)
  | _ => none

/-- Major opcode 0x19 (R165). -/
def decQueue (d a b sub k : Nat) : Option Instr :=
  if d == 0 && a == 0 && b == 0 then
    match sub with
    | 0 => need (k == 0) .qarm
    | 1 => (bankOf k).map .qsel
    | 2 => (bankOf k).map .qcancel
    | _ => none
  else none

/-- Major opcode 0x1A (R165). -/
def decStage (d a b sub k : Nat) : Option Instr :=
  match sub with
  | 0 => need (d == 0 && a == 0 && b == 0 && k == 0) .stage
  | 1 => need (d == 0 && b == 0 && k == 0) (.stageset a)
  | _ => none

/-- Major opcode 0x28 (R167). -/
def decTime (d a b sub k : Nat) : Option Instr :=
  match sub with
  | 0 => need (a == 0 && b == 0 && k == 0) (.timerd d)
  | 1 => need (a == 0 && b == 0 && k == 0) (.timefr d)
  | 2 => need (a == 0 && b == 0 && k == 0) (.tickrd d)
  | 3 => if d == 0 && b == 0 then
      match k with
      | 0 => some (.waitt a)
      | 1 => some (.waittCue a)
      | _ => none
    else none
  | _ => none

/-- Major opcode 0x18 (R165). -/
def decEngine (d a b sub k : Nat) : Option Instr :=
  match sub with
  | 0 => need (d == 0 && b == 0 && k < 4) (.kstart a (k % 4))
  | 1 => need (d == 0 && a == 0 && b == 0 && k < 4) (.kwait (k % 4))
  | 2 => need (d == 0 && a == 0 && b == 0 && k < 4) (.kstop (k % 4))
  | 3 => need (d == 0 && k / 4 % 4 == 0) (.cfgld (planeOf (k / 16)) a b (k % 4))
  | 4 => need (d == 0 && k < 32) (.constw a b (k / 4) (k % 4))
  | 5 => need (d == 0 && b == 0 && k < 4) (.vsel a (k % 4))
  | 6 => need (d == 0 && b == 0 && k < 4) (.epsel a (k % 4))
  | _ => none

/-- Major opcode 0x20 (R165). -/
def decPhaser (d a b sub k : Nat) : Option Instr :=
  match sub with
  | 0 => if d == 0 && b == 0 then (modeOf k).map (.phreg · a) else none
  | 1 => need (d == 0 && b == 0 && k == 0) (.phdrop a)
  | 2 => need (d == 0 && b == 0 && k == 0) (.phsig a)
  | 3 => need (d == 0 && k == 0) (.phwait a b)
  | 4 => need (d == 0 && k == 0) (.phsw a b)
  | 5 => need (b == 0 && k == 0) (.phqry d a)
  | _ => none

/-- Major opcode 0x21 (R165). -/
def decCounter (d a b sub k : Nat) : Option Instr :=
  match sub with
  | 0 => need (k == 0) (.ctrwait d a b)
  | 1 => need (d == 0 && k == 0) (.ctrinit a b)
  | 2 => need (b == 0 && k == 0) (.ctrrd d a)
  | 3 => need (b == 0 && k == 0) (.ctrstat d a)
  | _ => none

/-- Major opcode 0x22 (R166). -/
def decAtomic (d a b sub k : Nat) : Option Instr :=
  let w := k / 32 == 1
  let o := orderOf (k / 8 % 4)
  (scopeOf (k % 8)).bind fun s =>
    match sub with
    | 0 => some (.aadd d a b w o s)
    | 1 => some (.amin d a b w o s)
    | 2 => some (.amax d a b w o s)
    | 3 => some (.aminu d a b w o s)
    | 4 => some (.amaxu d a b w o s)
    | 5 => some (.aand d a b w o s)
    | 6 => some (.aor d a b w o s)
    | 7 => some (.axor d a b w o s)
    | 8 => some (.axch d a b w o s)
    | 9 => some (.acas d a b w o s)
    | 10 => need (!w) (.afadd d a b o s)
    | _ => none

/-- Major opcode 0x1B (R167). -/
def decTid (d a imm : Nat) : Option Instr :=
  let tid := imm / 256
  if tid == 255 then none else
  match imm / 16 % 16 with
  | 0 => need (a == 0 && imm % 16 < 4) (.tidrd d tid (imm % 16))
  | 1 => need (imm % 16 < 4) (.tidwr d a tid (imm % 16))
  | 2 => need (d == 0 && imm % 16 == 0) (.resclr a tid)
  | 3 => need (imm % 16 == 0) (.restst d a tid)
  | _ => none

/-- Major opcode 0x23 (R167). -/
def decFence (d a imm : Nat) : Option Instr :=
  match d with
  | 0 => if a == 0 && imm % 2 == 0 && 0 < imm / 1024 && 0 < imm / 16 % 64
         then (scopeOf (imm / 2 % 8)).map (.fenceP (imm / 1024) (imm / 16 % 64) ·) else none
  | 1 => need (a == 0 && imm == 0) .fenceSc
  | 2 => need (a == 0 && imm == 0) .fenceD
  | _ => none

/-- The prompter instruction of a major opcode, the register fields d and a and the low 16 bits (R159 to R167). -/
def decodeFields (op d a imm : Nat) : Option Instr :=
  let b := imm / 2 ^ 11
  let fn := imm % 2048
  let sub := imm / 64 % 32
  let k := imm % 64
  let off26 := d * 2 ^ 21 + a * 2 ^ 16 + imm
  match op with
  | 0x00 => decAlu d a b fn
  | 0x01 => some (.addi d a imm)
  | 0x02 => some (.andi d a imm)
  | 0x03 => some (.ori d a imm)
  | 0x04 => some (.xori d a imm)
  | 0x05 => decShift d a imm
  | 0x06 => some (.slti d a imm)
  | 0x07 => need (a < 4) (.lis d a imm)
  | 0x08 => need (imm / 256 != 255) (.ldd d a (imm / 256) (imm % 256))
  | 0x09 => need (imm / 256 != 255) (.ldw d a (imm / 256) (imm % 256))
  | 0x0A => need (imm / 256 != 255) (.std d a (imm / 256) (imm % 256))
  | 0x0B => need (imm / 256 != 255) (.stw d a (imm / 256) (imm % 256))
  | 0x0C => need (a == 0 && imm < 4096 && srAssigned imm) (.srrd d imm)
  | 0x0D => need (d == 0 && imm < 4096 && srAssigned imm) (.srwr a imm)
  | 0x10 => some (.br off26)
  | 0x11 => some (.call off26)
  | 0x12 => (condOf d).map (.bc · a imm)
  | 0x13 => match a with
    | 0 => some (.bstC d imm)
    | 1 => some (.bstS d imm)
    | _ => none
  | 0x14 => need (a == 0 && d < 8) (.bct d imm)
  | 0x15 => decLink d a b fn
  | 0x16 => decLoop d a b sub k
  | 0x18 => decEngine d a b sub k
  | 0x19 => decQueue d a b sub k
  | 0x1A => decStage d a b sub k
  | 0x1B => decTid d a imm
  | 0x20 => decPhaser d a b sub k
  | 0x21 => decCounter d a b sub k
  | 0x22 => decAtomic d a b sub k
  | 0x23 => decFence d a imm
  | 0x24 => if d == 0 && a == 0 then (scopeOf imm).map .rel else none
  | 0x25 => if d == 0 && a == 0 then (scopeOf imm).map .acq else none
  | 0x26 => need (imm == 0) (.jobpost d a)
  | 0x28 => decTime d a b sub k
  | 0x30 => need (d == 0 && a == 0) (.trap imm)
  | 0x31 => need (off26 == 0) .eret
  | 0x32 => need (off26 == 0) .endBlock
  | 0x33 => need (d == 0 && a == 0) (.brk imm)
  | 0x35 => need (imm % 256 == 0 && imm / 256 < 9) (.staterd d a (imm / 256))
  | _ => none

/-- The prompter instruction of a 32-bit word; none for a word that is no instruction. -/
def decodePrompter (w : Nat) : Option Instr :=
  decodeFields (w / 2 ^ 26) (w / 2 ^ 21 % 32) (w / 2 ^ 16 % 32) (w % 65536)

/-- Major opcodes that R161 assigns. -/
def opAssigned (op : Nat) : Bool :=
  op ≤ 0x0D || (0x10 ≤ op && op ≤ 0x16) || (0x18 ≤ op && op ≤ 0x1B) || (0x20 ≤ op && op ≤ 0x26) || op == 0x28
  || (0x30 ≤ op && op ≤ 0x33) || op == 0x35

/-- The function or sub-operation code of a word is assigned (R162, R165 to R167, R261). -/
def subAssigned (w : Nat) : Bool :=
  let sub := w / 64 % 32
  match w / 2 ^ 26 with
  | 0x00 => w % 2048 < 21
  | 0x15 => w % 2048 < 3
  | 0x16 | 0x1A => sub < 2
  | 0x18 => sub < 7
  | 0x19 => sub < 3
  | 0x1B => w / 16 % 16 < 4
  | 0x20 => sub < 6
  | 0x21 | 0x28 => sub < 4
  | 0x22 => sub < 11
  | 0x23 => w / 2 ^ 21 % 32 < 3
  | 0x35 => w / 256 % 256 < 9
  | _ => true

/-- A control transfer (R232). -/
def isTransfer (w : Nat) : Bool :=
  let op := w / 2 ^ 26
  (0x10 ≤ op && op ≤ 0x15) || op == 0x31 || op == 0x32

/-- A word that only supervisor mode may execute (R183, R224). -/
def isPrivileged (w : Nat) : Bool :=
  let op := w / 2 ^ 26
  op == 0x31 || op == 0x35 || (op == 0x1B && w / 16 % 16 == 1)
  || ((op == 0x0C || op == 0x0D) && srAssigned (w % 4096) && !srUser (w % 4096))

/-- SRWR of the device range, which only the management controller writes (R224). -/
def isDeviceWrite (w : Nat) : Bool := w / 2 ^ 26 == 0x0D && srAssigned (w % 4096) && 0x400 ≤ w % 4096

/-- The class 0 cause of a word at decode, the first that applies in the order of R158; none for a word that may execute. -/
def wordCause (w : Nat) (slot sup : Bool) : Option Nat :=
  let op := w / 2 ^ 26
  if !opAssigned op then some 0x000
  else if !subAssigned w then some 0x001
  else if slot && isTransfer w then some 0x003
  else if (isPrivileged w && !sup) || isDeviceWrite w then some 0x004
  else if (op == 0x0C || op == 0x0D) && !srAssigned (w % 4096) then some 0x005
  else if (decodePrompter w).isNone then some 0x002
  else none

/-- The element instruction of an opcode and its fields (R171). -/
def elemOf (opc : Nat) (x : Ent) : Option Instr :=
  match opc with
  | 0x00 => some (.eNop x)
  | 0x01 => some (.eMov x)
  | 0x02 => some (.eSel x)
  | 0x03 => some (.ePick x)
  | 0x04 => some (.eVote3 x)
  | 0x05 => some (.eDelay x)
  | 0x06 => some (.eFlag x)
  | 0x07 => some (.eTrap x)
  | 0x08 => some (.ePset x)
  | 0x10 => some (.eIadd x)
  | 0x11 => some (.eIsub x)
  | 0x12 => some (.eImul x)
  | 0x13 => some (.eImulh x)
  | 0x14 => some (.eImad x)
  | 0x15 => some (.eIabs x)
  | 0x16 => some (.eIneg x)
  | 0x17 => some (.eImin x)
  | 0x18 => some (.eImax x)
  | 0x19 => some (.eIminu x)
  | 0x1A => some (.eImaxu x)
  | 0x1B => some (.eIsat x)
  | 0x1C => some (.eShl x)
  | 0x1D => some (.eShr x)
  | 0x1E => some (.eSar x)
  | 0x1F => some (.eRol x)
  | 0x20 => some (.eAnd x)
  | 0x21 => some (.eOr x)
  | 0x22 => some (.eXor x)
  | 0x23 => some (.eAndn x)
  | 0x24 => some (.eNot x)
  | 0x25 => some (.ePopc x)
  | 0x26 => some (.eClz x)
  | 0x27 => some (.eBfx x)
  | 0x28 => some (.eBfi x)
  | 0x30 => some (.eIcmp x)
  | 0x31 => some (.eFcmp x)
  | 0x32 => some (.ePand x)
  | 0x33 => some (.ePor x)
  | 0x34 => some (.ePnot x)
  | 0x40 => some (.eFadd x)
  | 0x41 => some (.eFsub x)
  | 0x42 => some (.eFmul x)
  | 0x43 => some (.eFfma x)
  | 0x44 => some (.eFmin x)
  | 0x45 => some (.eFmax x)
  | 0x46 => some (.eFabs x)
  | 0x47 => some (.eFneg x)
  | 0x48 => some (.eFrcp x)
  | 0x49 => some (.eFrsq x)
  | 0x4A => some (.eFexp2 x)
  | 0x4B => some (.eFlog2 x)
  | 0x4C => some (.eFtanh x)
  | 0x50 => some (.eFaddB2 x)
  | 0x51 => some (.eFmulB2 x)
  | 0x52 => some (.eFfmaB2 x)
  | 0x53 => some (.eFaddH2 x)
  | 0x54 => some (.eFmulH2 x)
  | 0x55 => some (.eFfmaH2 x)
  | 0x60 => some (.eCvtRn x)
  | 0x61 => some (.eCvtRz x)
  | 0x62 => some (.eCvtRd x)
  | 0x63 => some (.eCvtRu x)
  | 0x64 => some (.eCvtSr x)
  | 0x68 => some (.eQmax x)
  | 0x69 => some (.eScle x)
  | 0x6A => some (.eQmx x)
  | 0x70 => some (.eRfwd x)
  | 0x71 => some (.eRadd x)
  | 0x72 => some (.eRsub x)
  | 0x73 => some (.eRmul x)
  | 0x74 => some (.eRmac x)
  | 0x80 => some (.eLdp x)
  | 0x81 => some (.eStp x)
  | 0x82 => some (.eLdpx x)
  | 0x83 => some (.eStpx x)
  | 0xA0 => some (.aMode x)
  | 0xA2 => some (.aWswap x)
  | 0xA3 => some (.aPass x)
  | 0xA4 => some (.aDrain x)
  | 0xA5 => some (.aClr x)
  | 0xA1 => some (if x.imm == 0 then .aWpreI x else .aWpreA x)
  | 0xA6 => some (if x.imm == 4 then .aBindOff x else .aBind x)
  | _ => none

/-- Fields of a 48-bit element entry (R168). -/
def entOf (w : Nat) : Ent :=
  ⟨w / 2 ^ 34 % 64, w / 2 ^ 28 % 64, w / 2 ^ 22 % 64, w / 2 ^ 16 % 64, w / 2 ^ 12 % 16, w / 2 ^ 8 % 16, w % 256⟩

/-- The element instruction of a 48-bit entry; none where an entry alone is rejected (R168 to R174). -/
def decodeElement (w : Nat) : Option Instr :=
  if entOk (w / 2 ^ 40) (entOf w) then elemOf (w / 2 ^ 40) (entOf w) else none

/-- The epilogue instruction of a 32-bit word (R176). -/
def decodeEpilogue (w : Nat) : Option Instr :=
  let d := w / 2 ^ 23 % 16
  let a := w / 2 ^ 19 % 16
  let b := w / 2 ^ 15 % 16
  let i := w % 2 ^ 15
  match w / 2 ^ 27 with
  | 0x00 => need (d == 0 && a == 0 && b == 0 && i == 0) .pEend
  | 0x01 => need (a == 0 && b == 0 && i == 0) (.pErd d)
  | 0x02 => need (b == 0 && i < 2) (.pRrev d a (if i == 1 then .trap else .sat))
  | 0x03 => need (b == 0 && 6 ≤ i && i ≤ 0x0A) (.pSclx d a i)
  | 0x04 => need (b == 0 && i < 128 && i % 32 ≤ 0x0A) (.pCvf d a (i % 32) (roundOf (i / 32)))
  | 0x05 => need (b == 0 && i < 256) (.pBias d a i)
  | 0x06 => need (i < 2) (.pEadd d a b (i == 1))
  | 0x07 => need (i < 2) (.pEmul d a b (i == 1))
  | 0x08 => need (i < 2) (.pEmax d a b (i == 1))
  | 0x09 => need (i < 2) (.pEmin d a b (i == 1))
  | 0x0A => need (b == 0 && i ≤ 4) (.pClmp d a i)
  | 0x0B => need (b == 0 && i < 2) (.pRelu d a (i == 1))
  | 0x0C => need (b == 0 && i == 0) (.pElut d a)
  | 0x0D => need (b == 0 && i < 128 && i % 32 ≤ 0x0D) (.pQnt d a (i % 32) (roundOf (i / 32)))
  | 0x0E => need (d == 0 && b == 0 && i ≤ 0x0D) (.pEst a i)
  | 0x0F => need (d == 0 && b == 0 && i == 0) (.pEbyp a)
  | 0x10 => need (b == 0 && i < 2) (.pEsum d a (i == 1))
  | 0x11 => need (i < 16) (.pEsel d a b i)
  | 0x12 => need (b == 0 && i == 0) (.pEmov d a)
  | 0x13 => need (d == 0 && b == 0 && i < 32) (.pEflg a i)
  | _ => none

/-- Fields of a 256-bit copy schedule entry given as four 64-bit words (R178). -/
def copyEntOf (w0 w1 w2 w3 : Nat) : CopyEnt :=
  ⟨w0 / 2 ^ 56 % 16, w0 / 2 ^ 48 % 256, w0 / 2 ^ 32 % 65536, w0 / 2 ^ 24 % 256, w0 / 2 ^ 16 % 256, w0 / 2 ^ 8 % 256, w0 % 256,
   w1, w2, w3 / 2 ^ 56 % 256, w3 / 2 ^ 48 % 256, w3 / 2 ^ 44 % 16, w3 / 2 ^ 42 % 4, w3 / 2 ^ 40 % 4, w3 / 2 ^ 28 % 4096,
   w3 % 2 ^ 28⟩

/-- The copy instruction of a 256-bit entry (R178): none for a reserved KIND, BANK, rounding or scale source. -/
def decodeCopy (w : Nat) : Option Instr :=
  let w0 := w % 2 ^ 64
  let e := copyEntOf w0 (w / 2 ^ 64 % 2 ^ 64) (w / 2 ^ 128 % 2 ^ 64) (w / 2 ^ 192 % 2 ^ 64)
  if e.fieldsOk then
    match w0 / 2 ^ 60 with
    | 0 => some (.cCopy e)
    | 1 => some (.cGather e)
    | 2 => some (.cFill e)
    | 3 => some (.cCvtcopy e)
    | 4 => some (.cRedcopy e)
    | 5 => some (.cDigest e)
    | _ => none
  else none

/-- The instruction our decoders read from a word of the table's size: 32 bits a prompter word, or else an epilogue word; 48
bits an element entry; 256 bits a copy schedule entry. -/
def decodeTableWord (nbits w : Nat) : Option Instr :=
  if nbits = 32 then
    match decodePrompter w with
    | some i => some i
    | none => decodeEpilogue w
  else if nbits = 48 then decodeElement w
  else if nbits = 256 then decodeCopy w
  else none

/-! ## The encoder, from the same tables -/

/-- F-RR (R159). -/
def encRR (op d a b fn : Nat) : Nat := op * 2 ^ 26 + d * 2 ^ 21 + a * 2 ^ 16 + b * 2 ^ 11 + fn
/-- F-RI and F-BR (R159). -/
def encRI (op d a imm : Nat) : Nat := op * 2 ^ 26 + d * 2 ^ 21 + a * 2 ^ 16 + imm
/-- F-SY (R159). -/
def encSY (op d a b sub k : Nat) : Nat := op * 2 ^ 26 + d * 2 ^ 21 + a * 2 ^ 16 + b * 2 ^ 11 + sub * 64 + k
/-- The k field of an atomic (R166). -/
def atomK (w : Bool) (o : Order) (s : Scope) : Nat := (if w then 32 else 0) + orderCode o * 8 + scopeCode s
/-- An epilogue word (R176). -/
def encEp (op d a b i : Nat) : Nat := op * 2 ^ 27 + d * 2 ^ 23 + a * 2 ^ 19 + b * 2 ^ 15 + i
/-- A 48-bit element entry (R168). -/
def encEnt (opc : Nat) (x : Ent) : Nat :=
  opc * 2 ^ 40 + x.sa * 2 ^ 34 + x.sb * 2 ^ 28 + x.sc * 2 ^ 22 + x.dst * 2 ^ 16 + x.lnk * 2 ^ 12 + x.grd * 2 ^ 8 + x.imm
/-- A 256-bit copy schedule entry (R178). -/
def encCopy (kind : Nat) (e : CopyEnt) : Nat :=
  (kind * 2 ^ 60 + e.bank * 2 ^ 56 + e.stage * 2 ^ 48 + e.start * 2 ^ 32 + e.stid * 2 ^ 24 + e.dtid * 2 ^ 16 + e.itid * 2 ^ 8
    + e.rid) + e.w1 * 2 ^ 64 + e.w2 * 2 ^ 128
  + (e.rows * 2 ^ 56 + e.cols * 2 ^ 48 + e.cvtFmt * 2 ^ 44 + e.cvtRm * 2 ^ 42 + e.cvtScale * 2 ^ 40 + e.ph * 2 ^ 28 + e.ctr)
    * 2 ^ 192

/-- The word of an instruction that has one, of the size its kind has (32, 48 or 256 bits): none for an event. -/
def encode : Instr → Option Nat
  | .add d a b => some (encRR 0 d a b 0)
  | .sub d a b => some (encRR 0 d a b 1)
  | .mul d a b => some (encRR 0 d a b 2)
  | .mulh d a b => some (encRR 0 d a b 3)
  | .mulhu d a b => some (encRR 0 d a b 4)
  | .andR d a b => some (encRR 0 d a b 5)
  | .orR d a b => some (encRR 0 d a b 6)
  | .xorR d a b => some (encRR 0 d a b 7)
  | .andnR d a b => some (encRR 0 d a b 8)
  | .shl d a b => some (encRR 0 d a b 9)
  | .shr d a b => some (encRR 0 d a b 10)
  | .sar d a b => some (encRR 0 d a b 11)
  | .minS d a b => some (encRR 0 d a b 12)
  | .maxS d a b => some (encRR 0 d a b 13)
  | .minU d a b => some (encRR 0 d a b 14)
  | .maxU d a b => some (encRR 0 d a b 15)
  | .slt d a b => some (encRR 0 d a b 16)
  | .sltu d a b => some (encRR 0 d a b 17)
  | .seq d a b => some (encRR 0 d a b 18)
  | .popc d a => some (encRR 0 d a 0 19)
  | .clz d a => some (encRR 0 d a 0 20)
  | .addi d a i => some (encRI 1 d a i)
  | .andi d a i => some (encRI 2 d a i)
  | .ori d a i => some (encRI 3 d a i)
  | .xori d a i => some (encRI 4 d a i)
  | .shli d a n => some (encRI 5 d a n)
  | .shri d a n => some (encRI 5 d a (64 + n))
  | .sari d a n => some (encRI 5 d a (128 + n))
  | .slti d a i => some (encRI 6 d a i)
  | .lis d s i => some (encRI 7 d s i)
  | .ldd d a tid off => some (encRI 8 d a (tid * 256 + off))
  | .ldw d a tid off => some (encRI 9 d a (tid * 256 + off))
  | .std d a tid off => some (encRI 10 d a (tid * 256 + off))
  | .stw d a tid off => some (encRI 11 d a (tid * 256 + off))
  | .srrd d sr => some (encRI 12 d 0 sr)
  | .srwr a sr => some (encRI 13 0 a sr)
  | .br off => some (0x10 * 2 ^ 26 + off)
  | .call off => some (0x11 * 2 ^ 26 + off)
  | .bc c a off => some (encRI 0x12 (condCode c) a off)
  | .bstS line off => some (encRI 0x13 line 1 off)
  | .bstC line off => some (encRI 0x13 line 0 off)
  | .bct k off => some (encRI 0x14 k 0 off)
  | .jr a => some (encRR 0x15 0 a 0 0)
  | .ret => some (encRR 0x15 0 0 0 1)
  | .callr a => some (encRR 0x15 0 a 0 2)
  | .kset a k => some (encSY 0x16 0 a 0 0 k)
  | .krd d k => some (encSY 0x16 d 0 0 1 k)
  | .kstart a s => some (encSY 0x18 0 a 0 0 s)
  | .kwait s => some (encSY 0x18 0 0 0 1 s)
  | .kstop s => some (encSY 0x18 0 0 0 2 s)
  | .cfgld p a b s => some (encSY 0x18 0 a b 3 (planeCode p * 16 + s))
  | .constw a b j s => some (encSY 0x18 0 a b 4 (j * 4 + s))
  | .vsel a s => some (encSY 0x18 0 a 0 5 s)
  | .epsel a s => some (encSY 0x18 0 a 0 6 s)
  | .qarm => some (encSY 0x19 0 0 0 0 0)
  | .qsel k => some (encSY 0x19 0 0 0 1 (bankCode k))
  | .qcancel k => some (encSY 0x19 0 0 0 2 (bankCode k))
  | .stage => some (encSY 0x1A 0 0 0 0 0)
  | .stageset a => some (encSY 0x1A 0 a 0 1 0)
  | .tidrd d tid w => some (encRI 0x1B d 0 (tid * 256 + w))
  | .tidwr d a tid w => some (encRI 0x1B d a (tid * 256 + 16 + w))
  | .resclr a tid => some (encRI 0x1B 0 a (tid * 256 + 32))
  | .restst d a tid => some (encRI 0x1B d a (tid * 256 + 48))
  | .phreg m a => some (encSY 0x20 0 a 0 0 (modeCode m))
  | .phdrop a => some (encSY 0x20 0 a 0 1 0)
  | .phsig a => some (encSY 0x20 0 a 0 2 0)
  | .phwait a b => some (encSY 0x20 0 a b 3 0)
  | .phsw a b => some (encSY 0x20 0 a b 4 0)
  | .phqry d a => some (encSY 0x20 d a 0 5 0)
  | .ctrwait d a b => some (encSY 0x21 d a b 0 0)
  | .ctrinit a b => some (encSY 0x21 0 a b 1 0)
  | .ctrrd d a => some (encSY 0x21 d a 0 2 0)
  | .ctrstat d a => some (encSY 0x21 d a 0 3 0)
  | .aadd d a b w o s => some (encSY 0x22 d a b 0 (atomK w o s))
  | .amin d a b w o s => some (encSY 0x22 d a b 1 (atomK w o s))
  | .amax d a b w o s => some (encSY 0x22 d a b 2 (atomK w o s))
  | .aminu d a b w o s => some (encSY 0x22 d a b 3 (atomK w o s))
  | .amaxu d a b w o s => some (encSY 0x22 d a b 4 (atomK w o s))
  | .aand d a b w o s => some (encSY 0x22 d a b 5 (atomK w o s))
  | .aor d a b w o s => some (encSY 0x22 d a b 6 (atomK w o s))
  | .axor d a b w o s => some (encSY 0x22 d a b 7 (atomK w o s))
  | .axch d a b w o s => some (encSY 0x22 d a b 8 (atomK w o s))
  | .acas d a b w o s => some (encSY 0x22 d a b 9 (atomK w o s))
  | .afadd d a b o s => some (encSY 0x22 d a b 10 (atomK false o s))
  | .fenceP src dst s => some (encRI 0x23 0 0 (src * 1024 + dst * 16 + scopeCode s * 2))
  | .fenceSc => some (encRI 0x23 1 0 0)
  | .fenceD => some (encRI 0x23 2 0 0)
  | .rel s => some (encRI 0x24 0 0 (scopeCode s))
  | .acq s => some (encRI 0x25 0 0 (scopeCode s))
  | .jobpost d a => some (encRI 0x26 d a 0)
  | .timerd d => some (encSY 0x28 d 0 0 0 0)
  | .timefr d => some (encSY 0x28 d 0 0 1 0)
  | .tickrd d => some (encSY 0x28 d 0 0 2 0)
  | .waitt a => some (encSY 0x28 0 a 0 3 0)
  | .waittCue a => some (encSY 0x28 0 a 0 3 1)
  | .trap i => some (encRI 0x30 0 0 i)
  | .eret => some (0x31 * 2 ^ 26)
  | .endBlock => some (0x32 * 2 ^ 26)
  | .brk i => some (encRI 0x33 0 0 i)
  | .staterd d a space => some (encRI 0x35 d a (space * 256))
  | .pEend => some (encEp 0 0 0 0 0)
  | .pErd d => some (encEp 1 d 0 0 0)
  | .pRrev d a p => some (encEp 2 d a 0 (match p with | .sat => 0 | .trap => 1))
  | .pSclx d a f => some (encEp 3 d a 0 f)
  | .pCvf d a f rm => some (encEp 4 d a 0 (roundCode rm * 32 + f))
  | .pBias d a tid => some (encEp 5 d a 0 tid)
  | .pEadd d a b t => some (encEp 6 d a b (if t then 1 else 0))
  | .pEmul d a b t => some (encEp 7 d a b (if t then 1 else 0))
  | .pEmax d a b t => some (encEp 8 d a b (if t then 1 else 0))
  | .pEmin d a b t => some (encEp 9 d a b (if t then 1 else 0))
  | .pClmp d a f => some (encEp 0x0A d a 0 f)
  | .pRelu d a t => some (encEp 0x0B d a 0 (if t then 1 else 0))
  | .pElut d a => some (encEp 0x0C d a 0 0)
  | .pQnt d a f rm => some (encEp 0x0D d a 0 (roundCode rm * 32 + f))
  | .pEst a f => some (encEp 0x0E 0 a 0 f)
  | .pEbyp a => some (encEp 0x0F 0 a 0 0)
  | .pEsum d a t => some (encEp 0x10 d a 0 (if t then 1 else 0))
  | .pEsel d a b c => some (encEp 0x11 d a b c)
  | .pEmov d a => some (encEp 0x12 d a 0 0)
  | .pEflg a line => some (encEp 0x13 0 a 0 line)
  | .cCopy e => some (encCopy 0 e)
  | .cGather e => some (encCopy 1 e)
  | .cFill e => some (encCopy 2 e)
  | .cCvtcopy e => some (encCopy 3 e)
  | .cRedcopy e => some (encCopy 4 e)
  | .cDigest e => some (encCopy 5 e)
  | i => (elemOpc i).map fun p => encEnt p.1 p.2

end Sys2Proof
end

