-- ==== Sys2Proof/Machine/Flags.lean ====
section
/-! DEFINITION. The status lines of a thread (R234, R235) and the element predicates that effects depend on (R272). -/

namespace Sys2Proof.Machine

/-- A port access of a region is outstanding (R300). -/
def portsBusy (s : State) (core slot : Nat) : Bool :=
  s.reqs.any fun q => q.core == core && (match q.asker with | .port sl _ _ => sl == slot && !q.done | _ => false)
/-- RIDLE of a slot (R234): 0 from a kill until the next firing. -/
def ridle (s : State) (core slot : Nat) : Bool :=
  let r := getReg s (thKey core slot)
  !r.killed && !r.runs && !portsBusy s core slot
/-- DIDLE of a slot (R234). -/
def didle (s : State) (core slot : Nat) : Bool :=
  !(getReg s (thKey core slot)).killed && !(getCore s core).drains.any (·.slot == slot)
/-- A copy-engine block of a partition runs on a core (R191). -/
def copyRuns (s : State) (core part : Nat) : Bool := ((runOf s core 4).map (·.part)) == some part
/-- CEIDLE (R234). -/
def ceIdle (s : State) (core part : Nat) : Bool := !(copyRuns s core part) || (getCopier s core).journal.isEmpty
/-- One status line (R234). -/
def line (s : State) (core t part i : Nat) : Bool :=
  if i < 4 then ridle s core i
  else if i < 8 then didle s core (i - 4)
  else if i = 8 then ceIdle s core part
  else if i = 9 then copyRuns s core part
  else if i < 16 then false
  else bit (getTh s (thKey core t)).flags (i - 16)
/-- STATUS (R222). -/
def statusLines (s : State) (core t part : Nat) : Nat :=
  (List.range 32).foldl (fun n i => n + b2n (line s core t part i) * 2 ^ i) 0
/-- The status lines that a thread samples: as of its cycle's beginning, so that a change of the same cycle is not seen (R235). -/
def linesSeen (s : State) (core t part : Nat) : Nat := ((lookup s.seen (thKey core t)).map (·.1)).getD (statusLines s core t part)
/-- One of them. -/
def lineSeen (s : State) (core t part i : Nat) : Bool := bit (linesSeen s core t part) i

end Sys2Proof.Machine
end

