-- ==== Sys2Proof/Machine/Control.lean ====
section
/-! DEFINITION. Control transfer, windows and loop counters (R232 to R239). -/

namespace Sys2Proof.Machine

/-- Slices of a thread's RF share, and of its spill share (R237). -/
def shareSlices (w : Nat) : Nat := 128 * rfEnd w
def spillSlices (w : Nat) : Nat := 128 * spillGran w
/-- Where a spilled slice of a thread lies (R100, R237, R435): in the spill area, or in the partition's context area. -/
def spillPlace (s : State) (core t part slice : Nat) : Place :=
  let w := pw s core
  if slice < spillSlices w then ⟨.dev, poolAddr core (rfEnd w * 65536 + t * spillGran w * 16384 + slice * 128)⟩
  else ⟨.dev, (getPart s part).ctxBase * 2 ^ 21 + (4 * core + t) * 65536 + (slice - spillSlices w) * 128⟩
/-- The spill target can take a slice (R238, R435). -/
def spillTakes (s : State) (core part slice : Nat) : Bool :=
  let w := pw s core
  let tgt := spTgt w
  if slice < spillSlices w then tgt != 0
  else (tgt == 2 || tgt == 3) && 8 ≤ (getPart s part).ctxSize && slice - spillSlices w < 512

/-- Where a resident slice lies in its thread's RF share: slice k at place k modulo the share's slices (R100; DEDUCED, log 48). -/
def rfPlace (s : State) (core t slice : Nat) : Nat :=
  poolAddr core (t * rfEnd (pw s core) * 16384 + slice % shareSlices (pw s core) * 128)

/-- The sixteen registers of a slice. -/
def sliceRegs (t : Thread) (slice : Nat) : List W64 := (List.range 16).map fun i => tget t.win 0 (16 * slice + i)
/-- Slices of a thread that are resident: those of its current window, and the ones below that have not moved out. -/
def residentSlices (t : Thread) : List Nat := (List.range (t.depth + 2 - t.winLo)).map (t.winLo + ·)
/-- A core's pool with the resident windows of its threads in their shares (R100). -/
def rfView (s : State) (core : Nat) : State :=
  if rfEnd (pw s core) = 0 then s
  else (List.range 4).foldl (fun s i =>
    let t := getTh s (thKey core i)
    (residentSlices t).foldl (fun s k => wrMem s ⟨.dev, rfPlace s core i k⟩ ((sliceRegs t k).flatMap fun w => leBytes 8 w.toNat)) s) s
/-- The sixteen registers of a slice from its bytes. -/
def sliceFrom (t : Thread) (slice : Nat) (b : List Byte) : Thread :=
  { t with win := (List.range 16).foldl (fun w i => tput w 0 (16 * slice + i) (w64 (leNat ((b.drop (8 * i)).take 8)))) t.win }
/-- The resident windows of a core's threads as the bytes of their shares hold them. -/
def rfBack (s : State) (core : Nat) : State :=
  if rfEnd (pw s core) = 0 then s
  else (List.range 4).foldl (fun s i =>
    let t := getTh s (thKey core i)
    setTh s (thKey core i) ((residentSlices t).foldl (fun t k => sliceFrom t k (rdMem s ⟨.dev, rfPlace s core i k⟩ 128)) t)) s

/-- Move the lowest resident slice out (R237). -/
def spillOut (s : State) (core slot part : Nat) : State :=
  let k := thKey core slot
  let t := getTh s k
  let s := wrMem s (spillPlace s core slot part t.winLo) ((sliceRegs t t.winLo).flatMap fun w => leBytes 8 w.toNat)
  let win := (List.range 16).foldl (fun w i => tput w 0 (16 * t.winLo + i) 0) t.win
  setTh s k { t with win := win, winLo := t.winLo + 1 }
/-- Bring a slice back (R237). -/
def fillIn (s : State) (core slot part slice : Nat) : State :=
  let k := thKey core slot
  setTh s k { sliceFrom (getTh s k) slice (rdMem s (spillPlace s core slot part slice) 128) with winLo := slice }
/-- A slice of a thread is on its way between the share and its spill location. -/
def sliceMoves (s : State) (core slot : Nat) : Bool :=
  s.reqs.any fun q => q.core == core && (match q.asker with
    | .spill t _ => t == slot
    | _ => false)
/-- The access of a slice's request to the DRAM context area, if its place lies there: best-effort, through the caravan (R120, R237, R419). -/
def sliceDram (s : State) (q : Req) : State :=
  if q.place.addr < Config.dramTop then
    let a : Access := ⟨s.nextId, q.sext, q.core, none, some q.id, q.place.addr / 256, q.place.addr, 0, q.part, clusterOf q.core, false⟩
    { s with nextId := s.nextId + 1, dram := s.dram ++ [a] }
  else s
/-- The spill engine has a slice to move: its lines in the share and, where the other place lies in the pool, its lines there take the copy phase,
each pair in a phase of its own (R102, R105; DESIGN CHOICE, log 48); a slice that comes from DRAM waits for its read first (R237). -/
def askSlice (s : State) (core slot part slice : Nat) (out : Bool) : State :=
  let q : Req := {
    id := s.nextId, core := core, part := part, asker := .spill slot slice, store := false, place := spillPlace s core slot part slice, bytes := []
    sext := out, notBefore := nOf s core + 2, iter := nOf s core }
  let s := { s with nextId := s.nextId + 1, reqs := s.reqs ++ [q] }
  if out then s else sliceDram s q
/-- The place of a slice in the spill area belongs to the partition; a place in DRAM always does (R101). -/
def sliceOwned (s : State) (core slot part slice : Nat) : Bool :=
  let w := pw s core
  spillSlices w ≤ slice || ownedOk s core part (rfEnd w * 65536 + slot * spillGran w * 16384 + slice * 128) 128
/-- INFO0 of a spill that meets a granule of another owner: no TID is named (R365). -/
def sliceInfo (s : State) (core slot part slice : Nat) : Nat := (spillPlace s core slot part slice).addr % 2 ^ 23

/-- A call at the thread of cur: its fault check, then a spill it requires before the slot (R236 to R238). -/
def callAt (s : State) (t : Thread) (r : Run) (target word : Nat) : State :=
  let c := s.cur.core
  let sl := s.cur.slot
  if t.branch.isSome then trapNow s 0x003 word 0 0
  else if t.depth = 4095 then trapNow s 0x006 word 0 0
  else if t.depth + 3 - t.winLo ≤ shareSlices (pw s c) then branchTo s t 1 true target word
  else if !spillTakes s c r.part t.winLo then trapNow s 0x006 word 0 0
  else if !sliceOwned s c sl r.part t.winLo then trapNow s 0x064 (sliceInfo s c sl r.part t.winLo) 0 pathE
  else branchTo (askSlice s c sl r.part t.winLo true) (stall s 20 t) 1 true target word

/-- B -/
def execBr (off : Nat) (s : State) : Out :=
  onThread s fun t _ => branchTo s t 0 true (relTarget t.pc off 26) (0x10 * 2 ^ 26 + off)
/-- CALL (R236) -/
def execCall (off : Nat) (s : State) : Out :=
  onThread s fun t r => callAt s t r (relTarget t.pc off 26) (0x11 * 2 ^ 26 + off)

/-- Whether BC's condition holds (R233). -/
def condHolds (c : Cond) (x : W64) : Bool :=
  match c with
  | .eqz => x == 0
  | .nez => x != 0
  | .ltz => x.toInt < 0
  | .gez => 0 ≤ x.toInt
  | .lez => x.toInt ≤ 0
  | .gtz => 0 < x.toInt

/-- BC -/
def execBc (c : Cond) (a off : Nat) (s : State) : Out :=
  onThread s fun t _ => branchTo s t 0 (condHolds c (rdReg t a)) (relTarget t.pc off 16) (encRI 0x12 (condCode c) a off)
/-- BST.S -/
def execBstS (line off : Nat) (s : State) : Out :=
  onThread s fun t r => branchTo s t 0 (lineSeen s s.cur.core s.cur.slot r.part line) (relTarget t.pc off 16)
    (encRI 0x13 line 1 off)
/-- BST.C -/
def execBstC (line off : Nat) (s : State) : Out :=
  onThread s fun t r => branchTo s t 0 (!lineSeen s s.cur.core s.cur.slot r.part line) (relTarget t.pc off 16)
    (encRI 0x13 line 0 off)
/-- BCT: the counter falls unless it is 0, and the branch is taken while it is not 0 (R233). -/
def execBct (k off : Nat) (s : State) : Out :=
  onThread s fun t _ =>
    if t.branch.isSome then trapNow s 0x003 (encRI 0x14 k 0 off) 0 0
    else
      let v := tget t.k 0 k
      let v' := if v = 0 then v else v - 1
      branchTo s { t with k := tput t.k 0 k v' } 0 (v' != 0) (relTarget t.pc off 16) (encRI 0x14 k 0 off)
/-- JR -/
def execJr (a : Nat) (s : State) : Out :=
  onThread s fun t _ => branchTo s t 0 true (rdReg t a).toNat (encRR 0x15 0 a 0 0)
/-- CALLR -/
def execCallr (a : Nat) (s : State) : Out :=
  onThread s fun t r => callAt s t r (rdReg t a).toNat (encRR 0x15 0 a 0 2)
/-- RET: the target is w8 read at the branch; a slice that is not resident is brought back first (R233, R237, R238). -/
def execRet (s : State) : Out :=
  onThread s fun t r =>
    if t.branch.isSome then trapNow s 0x003 (encRR 0x15 0 0 0 1) 0 0
    else if t.depth = 0 then trapNow s 0x007 (encRR 0x15 0 0 0 1) 0 0
    else if t.winLo ≤ t.depth - 1 then branchTo s t 2 true (rdReg t 16).toNat (encRR 0x15 0 0 0 1)
    else if !sliceOwned s s.cur.core s.cur.slot r.part (t.depth - 1) then
      trapNow s 0x064 (sliceInfo s s.cur.core s.cur.slot r.part (t.depth - 1)) 0 pathE
    else
      let dram := spillSlices (pw s s.cur.core) ≤ t.depth - 1
      let wait := 20 + (if dram then Config.freeNat s.free else 0)
      branchTo (askSlice (drawn s) s.cur.core s.cur.slot r.part (t.depth - 1) false) (stall s wait t) 2 true (rdReg t 16).toNat (encRR 0x15 0 0 0 1)

/-- KSET (R239) -/
def execKset (a k : Nat) (s : State) : Out :=
  onThread s fun t _ => goOn s { t with k := tput t.k 0 k (BitVec.ofNat 32 (rdReg t a).toNat) }
/-- KRD (R239) -/
def execKrd (d k : Nat) (s : State) : Out :=
  onThread s fun t _ => writeBack s t d (w64 (tget t.k 0 k).toNat)

end Sys2Proof.Machine
end

