-- ==== Sys2Proof/Machine/Memory.lean ====
section
/-! DEFINITION. Prompter loads and stores, their performing, and the steps of peer requests (R105, R227 to R230, R385). -/

namespace Sys2Proof.Machine

/-! ## Chorus stores (R385, R386, R388) -/

/-- Bytes of a voice's release buffer: RBG granules (R386). -/
def relBytes (s : State) (core : Nat) : Nat := relGran (pw s core) * 65536
/-- First pool offset of a core's release-buffer area (R99). -/
def relBase (s : State) (core : Nat) : Nat := (spEnd (pw s core) - relGran (pw s core)) * 65536
/-- The words of a record of the release buffer (R386). -/
def relWords : RelRec → List W64
  | .held m tid off data _ => [w64 (2 ^ 60 + m * 2 ^ 48 + tid % 256 * 2 ^ 40), w64 off, data]
  | .undo o old => w64 (2 * 2 ^ 60 + o % 2 ^ 23) :: (List.range 8).map fun i => w64 (leNat ((old.drop (8 * i)).take 8))
/-- Why the release buffer does not take n bytes more at an offset: 0x106 where they do not fit (R386), 0x064 where a granule is not the partition's (R101). -/
def relBad (s : State) (core part used n : Nat) : Option Nat :=
  if relBytes s core < used + n then some 0x106
  else if !ownedOk s core part (relBase s core + used) n then some 0x064
  else none
/-- A record joins the release buffer and stands in its area of the pool (R386), or the cause that fails the command. -/
def relAdd (s : State) (core slot part : Nat) (x : RelRec) : Except Nat State :=
  let v := getVoice s (thKey core slot)
  let l := (relWords x).flatMap fun w => leBytes 8 w.toNat
  match relBad s core part v.used l.length with
  | some c => .error c
  | none => .ok (setVoice (wrMem s ⟨.dev, poolAddr core (relBase s core + v.used)⟩ l) (thKey core slot)
      { v with recs := v.recs ++ [x], used := v.used + l.length })
/-- The aligned 8-byte units that bytes from address a touch: unit address, byte mask and data (R386, R388). -/
def unitsOf (a : Nat) (l : List Byte) : List (Nat × Nat × Nat) :=
  let us := (List.range ((a % 8 + l.length + 7) / 8)).map fun i => a / 8 * 8 + 8 * i
  us.map fun u =>
    let idx := (List.range 8).filter fun j => a ≤ u + j && u + j < a + l.length
    (u, idx.foldl (fun m j => m + 2 ^ j) 0, idx.foldl (fun v j => v + (l.getD (u + j - a) 0).toNat * 2 ^ (8 * j)) 0)
/-- A user-mode store of a voice to a TID enters its signature (R388): source 0 the thread, 1 + s a region; units are aligned by address, and named by their
offset from BASE. -/
def signStore (s : State) (core slot src tid base off : Nat) (l : List Byte) : State :=
  let v := getVoice s (thKey core slot)
  let more := (unitsOf (base + off) l).map fun u => [src, tid, u.2.1, (u.1 + 2 ^ 64 - base) % 2 ^ 64, u.2.2]
  setVoice s (thKey core slot) { v with units := v.units ++ more }
/-- Stores outside SP are held (R385): one record for each aligned unit. -/
def holdStore (s : State) (core slot part tid base off : Nat) (p : Place) (l : List Byte) : Except Nat State :=
  (unitsOf (base + off) l).foldlM (fun s u =>
    relAdd s core slot part (.held u.2.1 tid ((u.1 + 2 ^ 64 - base) % 2 ^ 64) (w64 u.2.2) ⟨p.store, p.addr + u.1 - (base + off)⟩)) s
/-- The old pool line is saved before the first store to it after a checkpoint (R385). -/
def undoLine (s : State) (core slot part addr : Nat) : Except Nat State :=
  let v := getVoice s (thKey core slot)
  let ln := addr / 64 * 64
  let o := ln - poolAddr core 0
  if v.recs.any (fun r => match r with | .undo l _ => l == o | _ => false) then .ok s
  else relAdd s core slot part (.undo o (rdMem s ⟨.dev, ln⟩ 64))
/-- A record of the release buffer does not join it: why its block is killed (R101, R365, R386). -/
def relWhy (s : State) (core slot voice cause pos : Nat) : Why :=
  { cause := cause, eng := 0, slot := slot, pos := pos
    i0 := if cause = 0x106 then 2 ^ voice else relBase s core + (getVoice s (thKey core slot)).used
    i2 := if cause = 0x106 then 0 else pathE }
/-- Bytes of a load with the voice's own held stores laid over them (R385). -/
def heldOver (v : Voice) (p : Place) (l : List Byte) : List Byte :=
  (List.range l.length).map fun i =>
    v.recs.foldl (fun b r => match r with
      | .held m _ _ data q =>
        if q.store = p.store ∧ q.addr ≤ p.addr + i ∧ p.addr + i < q.addr + 8 ∧ bit m (p.addr + i - q.addr) = true
        then BitVec.ofNat 8 (data.toNat / 2 ^ (8 * (p.addr + i - q.addr))) else b
      | .undo _ _ => b) (l.getD i 0)

/-! ## Soft errors of device memory (R372, R439) -/

/-- Blocks of 32 bytes that n bytes at a device address touch. -/
def blocksOf (a n : Nat) : List Nat := (List.range ((a % 32 + n + 31) / 32)).map fun i => a / 32 + i
/-- Of these, the blocks that lie wholly within the bytes. -/
def wholeBlocks (a n : Nat) : List Nat := (blocksOf a n).filter fun b => a ≤ 32 * b && 32 * b + 32 ≤ a + n
/-- Worst state of the blocks that n bytes at a device address touch, as a read meets them: 0 good, 1 corrected, 2 uncorrectable. -/
def eccOf (s : State) (a n : Nat) : Nat := (blocksOf a n).foldl (fun m b => max m (blockEcc s b)) 0
/-- A place lies in device DRAM. -/
def inDram (p : Place) : Bool := p.store == .dev && p.addr < Config.dramTop
/-- The causes of a corrected and of an uncorrectable error at a place: of device DRAM, or of the SRAM of a pool or a die buffer (R372; the blocks of an
SRAM are the model's, DESIGN CHOICE, log 49). -/
def eccCauses (p : Place) : Nat × Nat := if inDram p then (0x16B, 0x16C) else (0x16D, 0x16E)
/-- INFO0 of an error: the C-die and the unit, a channel or a core (R365; DESIGN CHOICE, log 49). -/
def eccUnit (p : Place) : Nat :=
  if inDram p then channelOf p.addr / 4 * 64 + channelOf p.addr
  else match placeEnd p with
    | some (.core c) => dieOf c * 64 + c
    | some (.die d) => d * 64
    | none => 0
/-- Blocks have been read: an error in transfer was met by this read alone (R439). -/
def transferred (s : State) (l : List Nat) : State := { s with ecc := l.foldl (fun e b => tput e 0 b (tget e 0 b % 4)) s.ecc }
/-- Blocks at a place of device memory are read: an error is logged, and with an uncorrectable one the access fails (R372, R439). -/
def eccBlocks (s : State) (p : Place) (l : List Nat) (core : Nat) : State × Bool :=
  match l.foldl (fun m b => max m (blockEcc s b)) 0 with
  | 0 => (s, true)
  | 1 => (devLogOn (transferred s l) core (eccCauses p).1 (eccUnit p) p.addr, true)
  | _ => (devLogOn (transferred s l) core (eccCauses p).2 (eccUnit p) p.addr, false)
/-- The check that a read makes (R439). -/
def eccLog (s : State) (p : Place) (n core : Nat) : State × Bool :=
  if p.store ≠ .dev then (s, true) else eccBlocks s p (blocksOf p.addr n) core
/-- The check that a write makes: it reads the blocks that it writes in part (R439). -/
def eccStore (s : State) (p : Place) (n core : Nat) : State × Bool :=
  if p.store ≠ .dev then (s, true)
  else eccBlocks s p ((blocksOf p.addr n).filter fun b => !(wholeBlocks p.addr n).contains b) core
/-- The check of an access whose failure stops no block: the uncorrectable error is queued for the partition too (R372). -/
def eccRead (s : State) (p : Place) (n part core : Nat) : State × Bool :=
  let r := eccLog s p n core
  if r.2 then r
  else (queueWith r.1 core part { cause := (eccCauses p).2, eng := 7, fatal := false, i0 := eccUnit p, i1 := p.addr } 0 0xFFF 0 0, false)
/-- Whole blocks written carry fresh check bits. -/
def eccFresh (s : State) (p : Place) (n : Nat) : State :=
  if p.store = .dev then { s with ecc := (wholeBlocks p.addr n).foldl (fun e b => tput e 0 b 0) s.ecc } else s

/-! ## What a translation leaves behind (R117, R118, R439) -/

/-- The table entries that a walk reads, from the first level on. -/
def walkReads (s : State) (va : Nat) : List (Nat × Nat) → Nat → List Nat
  | [], _ => []
  | (lo, lvl) :: more, tab =>
    let ea := tab + 8 * (va / 2 ^ lo % 512)
    let e := leNat (rdBytes s.mem ea 8)
    if dramSize s < ea + 8 then []
    else if blockEcc s (ea / 32) = 2 ∨ bit e 0 = false ∨ bit e 5 = true then [ea]
    else if lvl = 4 then [ea]
    else ea :: walkReads s va more (bits e 47 12 * 4096)
/-- A walk of a partition's tables checks what it reads (R439): an error is logged. -/
def walkEcc (s : State) (core part va : Nat) : State :=
  if (getPart s part).rootEn && va < 2 ^ 48 then
    (walkReads s va [(39, 1), (30, 2), (21, 3), (12, 4)] ((getPart s part).root * 4096)).foldl (fun s ea =>
      let c64 := bit (leNat (rdBytes s.mem ea 8)) 6 && bit (leNat (rdBytes s.mem ea 8)) 5
      (eccBlocks s ⟨.dev, ea⟩ (if c64 then blocksOf (ea / 128 * 128) 128 else [ea / 32]) core).1) s
  else s
/-- INFO0 and INFO1 of an uncorrectable error that a walk has met: the unit and address of the last entry it read (R365). -/
def walkBad (s : State) (part va : Nat) : Nat × Nat :=
  let ea := (walkReads s va [(39, 1), (30, 2), (21, 3), (12, 4)] ((getPart s part).root * 4096)).getLastD 0
  (eccUnit ⟨.dev, ea⟩, ea)
/-- The bytes that the walks of a core have taken count for its cluster, a unit for each entry read (R419). -/
def walkCount (s : State) (core part va : Nat) : State :=
  let n := if (getPart s part).rootEn && va < 2 ^ 48 then
    (walkReads s va [(39, 1), (30, 2), (21, 3), (12, 4)] ((getPart s part).root * 4096)).length else 0
  { s with served := tput s.served 0 (clusterOf core) (tget s.served 0 (clusterOf core) + 256 * n) }
/-- The TLBs and the event log after an access of a core to an address of a space has been translated. -/
def translated (s : State) (core part space va : Nat) : State :=
  if space = 3 then
    if (tlbFind s core part va).isSome then tlbFill s core part va else walkEcc (walkCount (tlbFill s core part va) core part va) core part va
  else if space = 4 then hostFill s core part va
  else s

/-! ## Issue -/

/-- INFO0 of an address fault (R365). -/
def info3 (tid space a : Nat) : Nat := tid * 2 ^ 56 + space * 2 ^ 53 + a % 2 ^ 48
/-- Cycles of the nominal latency of a PEER or DIE access that its request and its reply take (R113, DEDUCED, log 10): one copy phase lies
between them. -/
def peerOut : Nat := 11
def peerBack : Nat := 12

/-- An access of a thread starts on its way: the pool's copy phases serve SP and PEER places, the die buffer, the caravan
or the host the others (R120, R230). -/
def launchReq (s : State) (q : Req) (space va : Nat) : State :=
  let s := { s with nextId := s.nextId + 1 }
  let perform : Act := .row .prompterPerform { ix := q.id }
  match space with
  | 0 => { s with reqs := s.reqs ++ [{ q with notBefore := nOf s q.core + 2 }] }
  | 1 => { s with reqs := s.reqs ++ [{ q with notBefore := s.cycle + peerOut }] }
  | 2 => schedule { s with reqs := s.reqs ++ [q] } .master (s.cycle + peerOut) perform
  | 3 =>
    let a : Access := ⟨s.nextId, q.store, q.core, none, some q.id, va / 256, q.place.addr, 0, q.part, clusterOf q.core, false⟩
    { s with nextId := s.nextId + 1, reqs := s.reqs ++ [q], dram := s.dram ++ [a] }
  | _ =>
    let s := schedule (drawn { s with reqs := s.reqs ++ [q] }) .master (s.cycle + 1 + Config.freeNat s.free) perform
    schedule s .tick (ticks s + Config.cxlTimeoutTicks) (.row .cxlTimeout { ix := q.id })

/-- Stores of a thread that have not performed (R219). -/
def storesOut (s : State) (core t : Nat) : Nat :=
  (s.reqs.filter fun q => q.core == core && q.store && q.asker == .thread t).length

/-- A fault of an access that kills its block: a translation fault in a real-time partition, or an uncorrectable error met by a table walk (R69, R117,
R373). -/
def fatalFault (s : State) (part c : Nat) : Bool := ((getPart s part).rt && (c == 0x066 || c == 0x06D)) || c == 0x16C
/-- LDD, LDW, STD, STW (R227, R228): n bytes, load or store. An access that needs the grant of a race tag asks the tag's engine first, and is made once
the grant is there (R346). -/
def memAccess (s : State) (d a tid off n : Nat) (store sext : Bool) : Out :=
  onThread s fun t r =>
    let w := whoOf s.cur.core r
    let v := tidOf s w.core w.part tid
    let e : Int := (rdReg t a).toInt + sx 8 off
    match accessOf s w v e 0 n n false store .prompter with
    | .error c =>
      let va := elemAddr v (unlin v e.toNat)
      let i0 := info3 tid v.space (if e < 0 then 0 else va)
      if c = 0x16C then
        killFatal (translated s w.core w.part 3 va) w.core s.cur.slot
          { cause := c, eng := 0, slot := s.cur.slot, pos := trapPc t, i0 := (walkBad s w.part va).1, i1 := (walkBad s w.part va).2 }
      else if fatalFault s r.part c then
        killFatal s w.core s.cur.slot { cause := c, eng := 0, slot := s.cur.slot, pos := trapPc t, i0 := i0, i1 := tr 64 e, i2 := pathE }
      else trapNow s c i0 (tr 64 e) pathE
    | .ok (addr, _, p) =>
      let user := r.chorus && !t.mode
      let granted : Bool := match t.wait with
        | .raced _ _ _ => true
        | _ => (user && store && v.space != 0) || raceHeld s w v tid addr pathE store
      if !granted then putTh (askRace s w v tid addr pathE store 0 s.cur.slot 0) { t with wait := .sync s.nextId }
      else
        let s := translated s w.core w.part v.space addr
        let t := { t with wait := .none }
        let bytes := if store then leBytes n (rdReg t d).toNat else []
        let q : Req := {
          id := s.nextId, core := w.core, part := w.part, asker := .thread s.cur.slot, store := store, place := p, bytes := bytes, dst := d
          sext := sext, tid := tid, len := n, off := addr - v.base, index := e.toNat, iter := nOf s w.core, space := v.space, voice := user }
        if store then
          let s := if user then signStore s w.core s.cur.slot 0 tid v.base (addr - v.base) bytes else s
          if user && v.space != 0 then
            match holdStore s w.core s.cur.slot w.part tid v.base (addr - v.base) p bytes with
            | .ok s => goOn s t
            | .error c => killFatal s w.core s.cur.slot (relWhy s w.core s.cur.slot r.voice c (trapPc t))
          else
            let s := launchReq s q v.space addr
            goOn s (if 8 ≤ storesOut s w.core s.cur.slot then { t with wait := .stores } else t)
        else putTh (launchReq s q v.space addr) { t with wait := .load q.id }

/-- LDD -/
def execLdd (d a tid off : Nat) (s : State) : Out := memAccess s d a tid off 8 false false
/-- LDW -/
def execLdw (d a tid off : Nat) (s : State) : Out := memAccess s d a tid off 4 false true
/-- STD -/
def execStd (d a tid off : Nat) (s : State) : Out := memAccess s d a tid off 8 true false
/-- STW -/
def execStw (d a tid off : Nat) (s : State) : Out := memAccess s d a tid off 4 true false

/-! ## Performing -/

/-- A load of a thread sees the bytes of its own earlier stores that have not performed (R229). -/
def forward (s : State) (q : Req) (l : List Byte) : List Byte :=
  let mine := s.reqs.filter fun p => p.store && p.core == q.core && p.asker == q.asker && p.id < q.id
    && p.place.store == q.place.store
  (List.range l.length).map fun i =>
    mine.foldl (fun b p => if p.place.addr ≤ q.place.addr + i ∧ q.place.addr + i < p.place.addr + p.bytes.length
      then p.bytes.getD (q.place.addr + i - p.place.addr) b else b) (l.getD i 0)

/-- Every byte of a load is one of an earlier store of its agent that has not performed (R229). -/
def covered (s : State) (q : Req) : Bool :=
  let mine := s.reqs.filter fun p => p.store && p.core == q.core && p.asker == q.asker && p.id < q.id && p.place.store == q.place.store
  (List.range q.len).all fun i => mine.any fun p => p.place.addr ≤ q.place.addr + i && q.place.addr + i < p.place.addr + p.bytes.length
/-- An access waits for an earlier one of its agent that has not performed: accesses of a thread, and those of a port, perform in the order of their
issue (R229, R300, R334). A thread's load whose bytes are all forwarded waits for none (DEDUCED, log 50). -/
def behind (s : State) (q : Req) : Bool :=
  let before (p : Req) : Bool := p.core == q.core && p.asker == q.asker && p.id < q.id && !p.done
  match q.asker with
  | .thread _ => s.reqs.any (fun p => before p && p.store) && (q.store || !covered s q)
  | .port _ _ _ => s.reqs.any before
  | _ => false

/-- A place lies in a pool: its core and offset. -/
def poolOf (p : Place) : Option (Nat × Nat) :=
  if p.store == .dev && Config.poolBase ≤ p.addr && p.addr < Config.poolBase + 64 * 0x800000 then
    some ((p.addr - Config.poolBase) / 0x800000, p.addr % 0x800000)
  else none
/-- Pool bank of an offset (R98). -/
def bankOf (off : Nat) : Nat := off / 64 % 64
/-- n bytes at a place touch a bank group whose capability bit is 0 on their core (R180, R371). -/
def bankFenced (s : State) (p : Place) (n : Nat) : Bool :=
  match poolOf p with
  | none => false
  | some (c, o) => (List.range ((o % 64 + n + 63) / 64)).any fun i => !bit (capMask s c) (39 + bankOf (o + 64 * i) / 8)

/-- Lines of 64 bytes in the device coherency cache (R20). -/
def cacheSize : Nat := 65536
/-- A line enters the coherency cache as its newest; the oldest leaves a full one (DESIGN CHOICE, log 51). -/
def cacheLine (l : List Nat) (x : Nat) : List Nat :=
  let m := l.filter (· != x) ++ [x]
  m.drop (m.length - cacheSize)
/-- Lines of the safety processor's memory that an access touches are held in the device coherency cache (R351). -/
def holdLines (s : State) (p : Place) (n : Nat) : State :=
  if p.store = .safety then
    { s with cacheLines := (List.range ((p.addr % 64 + n + 63) / 64)).foldl (fun l i => cacheLine l (p.addr / 64 + i)) s.cacheLines }
  else s
/-- The port that a place is reached through is down (R427). -/
def portDown (s : State) (p : Place) : Bool :=
  match p.store with
  | .dev => false
  | .host => s.mgmt.portA.isNone
  | .safety => s.mgmt.portB.isNone

/-- The request leaves the list. -/
def dropReq (s : State) (id : Nat) : State := { s with reqs := s.reqs.filter (·.id != id) }

/-- Store a request's bytes, whole bytes or a field of bits within one byte (R299). -/
def storeReq (s : State) (q : Req) : State :=
  match q.bits with
  | none => eccFresh (wrMem s q.place q.bytes) q.place q.bytes.length
  | some (lo, n) =>
    let old := leNat (rdMem s q.place 1)
    wrMem s q.place (leBytes 1 (setBits old (lo + n - 1) lo (leNat q.bytes)))

/-- The thread whose request this is waits for it: its load returns, in n enabled cycles or at its nominal latency. -/
def loadReturns (s : State) (q : Req) (cause : Nat) (l : List Byte) : State :=
  let back := if q.space = 0 then nOf s q.core + 4
    else if q.space ≤ 2 then max (q.iter + Config.peerLatency) (nOf s q.core + peerBack) else nOf s q.core + 1
  let v := if cause ≠ 0 then w64 q.index else if q.sext then BitVec.ofInt 64 (sx 32 (leNat l)) else w64 (leNat l)
  let f (t : Thread) : Thread := if t.wait = .load q.id then { t with wait := .loaded back cause v (if cause = 0 then q.dst else info3 q.tid 4 q.place.addr) } else t
  { s with threads := s.threads.map (fun p => (p.1, f p.2)),
           images := s.images.map (fun i => { i with thread := f i.thread }) }

/-- A thread's access performs at its memory (R230): a user-mode store of a chorus block to its pool saves the old line first (R385), and a load's reply
waits where its way back is down (R410). -/
def performThread (s : State) (q : Req) (t : Nat) : State :=
  let n := if q.store then q.bytes.length else q.len
  let k := thKey q.core t
  let pos := trapPc (getTh s k)
  let (s1, ok) := (if q.store then eccStore else eccLog) (holdLines s q.place n) q.place n q.core
  if bankFenced s q.place n then killFatal (dropReq s q.id) q.core t { cause := 0x14C, eng := 0, slot := t, pos := pos }
  else if !ok then
    killFatal (dropReq s1 q.id) q.core t { cause := (eccCauses q.place).2, eng := 0, slot := t, pos := pos, i0 := eccUnit q.place, i1 := q.place.addr }
  else if q.store then
    match (if q.voice && (runOf s q.core t).isSome then undoLine s1 q.core t q.part q.place.addr else .ok s1) with
    | .error c => killFatal (dropReq s1 q.id) q.core t (relWhy s1 q.core t (((runOf s q.core t).map (·.voice)).getD 0) c pos)
    | .ok s2 => dropReq (storeReq s2 q) q.id
  else
    let l := forward s1 q (rdMem s1 q.place n)
    let l := if ((runOf s q.core t).map (·.chorus)).getD false then heldOver (getVoice s k) q.place l else l
    if backDown s q.core q.place then
      schedule { s1 with reqs := s1.reqs.map fun p => if p.id = q.id then { p with done := true, data := l } else p } .master (s.cycle + 1)
        (.row .prompterPerform { ix := q.id })
    else loadReturns (dropReq s1 q.id) q 0 l

/-- A copy phase of the spill engine for a slice (R105, R237): the first takes the lines of the end it leaves, the second those of the other end, and the
slice has moved; a place in DRAM has its access in the caravan instead (R237). -/
def moveSlice (s : State) (q : Req) (t slice : Nat) : State :=
  if q.off = 0 then
    let s := { s with reqs := s.reqs.map fun p => if p.id = q.id then { p with off := 1, notBefore := nOf s q.core + 1 } else p }
    if q.sext then sliceDram s q else s
  else if q.sext then eccFresh (spillOut (dropReq s q.id) q.core t q.part) q.place 128
  else match eccLog s q.place 128 q.core with
    | (s, true) => fillIn (dropReq s q.id) q.core t q.part slice
    | (s, false) => killFatal (dropReq s q.id) q.core t
        { cause := (eccCauses q.place).2, eng := 0, slot := t, pos := trapPc (getTh s (thKey q.core t)), i0 := eccUnit q.place, i1 := q.place.addr }

/-- Perform a request of a thread by its identity (R229, R230). Behind an earlier access of the thread, or with its way down, an access to the thread's
own pool keeps its place for the next copy phase, and any other waits a cycle; the reply of one that has performed waits for its way back. -/
def performById (s : State) (id : Nat) (again : Act) : State :=
  match s.reqs.find? (·.id == id) with
  | none => s
  | some q =>
    if q.done then
      if backDown s q.core q.place then schedule s .master (s.cycle + 1) again else loadReturns (dropReq s q.id) q 0 q.data
    else if portDown s q.place then s
    else if behind s q || wayDown s q.core q.place then (if q.space = 0 then s else schedule s .master (s.cycle + 1) again)
    else match q.asker with
      | .thread t => performThread s q t
      | .spill t slice => moveSlice s q t slice
      | _ => s

/-- PROMPTER_ACCESS_PERFORM (R230) -/
def execPrompterPerform (s : State) : Out :=
  .next (performById s s.cur.ix (.row .prompterPerform { ix := s.cur.ix }))

end Sys2Proof.Machine
end

