-- ==== Sys2Proof/Machine/Engine.lean ====
section
/-! DEFINITION. Engine control by a prompter thread: kernels, configuration planes, constants, epilogue programs (R73, R74, R174,
R177, R240 to R246, R268, R329). -/

namespace Sys2Proof.Machine

/-! ## Region headers (R72, R447) -/

def hArray (h : Nat) : Bool := bit h 51
def hChk (h : Nat) : Bool := bit h 50
def hSparse (h : Nat) : Nat := bits h 49 48
def hII (h : Nat) : Nat := bits h 47 43 + 1
def hCorr (h : Nat) : Bool := bit h 42
/-- Pages of a header's rectangle, by region page index 4·pr + pc. -/
def hPages (h : Nat) : List Nat := (List.range (hH h)).flatMap fun r => (List.range (hW h)).map fun c => 4 * r + c

/-- A slot holds a region of the partition (R165). -/
def holdsRegion (s : State) (core slot part : Nat) : Bool :=
  (getReg s (thKey core slot)).placed && (getReg s (thKey core slot)).part == part
/-- The thread may control a slot (R240). -/
def controls (s : State) (core own slot part : Nat) : Bool :=
  slot == own || (holdsRegion s core slot part && (runOf s core slot).isNone)

/-! ## Kernels (R241, R242) -/

/-- Results in flight of a region are delivered before a counted cycle at the latest (R267). -/
def deliverBy (s : State) (k n : Nat) : State :=
  { s with elems := s.elems.map fun p => if p.1 / 256 = k then
      (p.1, { p.2 with pipe := p.2.pipe.map fun f => { f with due := min f.due (n - 1) } }) else p }
/-- KSTART (R241): results still in flight are delivered before instance 0 issues, four counted cycles on. -/
def execKstart (a sl : Nat) (s : State) : Out :=
  onThread s fun t r =>
    let core := s.cur.core
    let k := thKey core sl
    let g := getReg s k
    let n := (rdReg t a).toNat % 2 ^ 32
    if !controls s core s.cur.slot sl r.part || !holdsRegion s core sl r.part || !ridle s core sl then
      trapNow s 0x143 (encSY 0x18 0 a 0 0 sl) 0 0
    else if !(hPages g.hdr.toNat).all (fun p => g.opLoaded.contains p && g.rtLoaded.contains p) then
      trapNow s 0x144 (encSY 0x18 0 a 0 0 sl) 0 0
    else if n = 0 then goOn s t
    else
      let s := setReg s k { g with
        runs := true, start := g.count, trip := n, stopReq := false, runNo := g.runNo + 1
        fireTick := r.fire, starter := s.cur.slot }
      let s := deliverBy (setTh s k { getTh s k with flags := 0 }) k (g.count + 4)
      goOn s (if sl = s.cur.slot then { t with flags := 0 } else t)

/-- KWAIT: it waits for RIDLE and DIDLE of the slot (R242). -/
def execKwait (sl : Nat) (s : State) : Out :=
  onThread s fun t _ =>
    if ridle s s.cur.core sl && didle s s.cur.core sl then goOn s t
    else putTh s { t with wait := .kwait sl }

/-- KSTOP -/
def execKstop (sl : Nat) (s : State) : Out :=
  onThread s fun t r =>
    let k := thKey s.cur.core sl
    let g := getReg s k
    if !controls s s.cur.core s.cur.slot sl r.part then trapNow s 0x143 (encSY 0x18 0 0 0 2 sl) 0 0
    else if g.runs then goOn (setReg s k { g with stopReq := true }) t
    else goOn s t

/-! ## Configuration planes (R73, R174, R175, R243, R268) -/

/-- An element of a page lies on the region's edge (R270). -/
def onEdge (h page e : Nat) : Bool :=
  let row := page / 4 * 4 + e / 4
  let col := page % 4 * 4 + e % 4
  row == 0 || col == 0 || row + 1 == 4 * hH h || col + 1 == 4 * hW h
/-- The checks of one opcode entry alone, at its element and slot (R168 to R174, R307). -/
def entryOk (h page e k w : Nat) : Bool :=
  if w = 0 then true
  else
    let o := w / 2 ^ 40
    let x := entOf w
    entOk o x && k < hII h
    && (onEdge h page e || (x.sa != 44 && x.sb != 44 && x.sc != 44 && x.dst != 63 && !(0x80 ≤ o && o ≤ 0x83)))
    && (o < 0xA0 || (hArray h && page == 0 && e == 0))
/-- The checks of one route entry alone (R175). -/
def routeOk (w : Nat) : Bool :=
  !bit w 15 && w % 8 == 0 && bits w 14 12 ≤ 4 && bits w 11 9 ≤ 4 && bits w 8 6 ≤ 4 && bits w 5 3 ≤ 4
/-- LNK bits of the outputs N, E, S, W (R168). -/
def linkBits (lnk : Nat) : List Bool := [bit lnk 3, bit lnk 2, bit lnk 1, bit lnk 0]

/-- An opcode delivers a result (R276, R278). -/
def delivers (o : Nat) : Bool :=
  o != 0 && o != 0x06 && o != 0x07 && o != 0x81 && o != 0x83 && o < 0xA0
/-- Latency of an opcode; a port load's follows the space of its TID (R276). -/
def latency (o space : Nat) : Nat :=
  if o = 0x12 ∨ o = 0x13 ∨ o = 0x14 ∨ o = 0x44 ∨ o = 0x45 then 2
  else if (0x40 ≤ o ∧ o ≤ 0x43) ∨ (0x50 ≤ o ∧ o ≤ 0x55) then 4
  else if 0x48 ≤ o ∧ o ≤ 0x4C then 6
  else if 0x60 ≤ o ∧ o ≤ 0x74 then 2
  else if o = 0x80 ∨ o = 0x82 then (if space = 0 then 6 else 24)
  else 1
/-- Latency of an entry in a region of a partition on a core. -/
def entLatency (s : State) (core part w : Nat) : Nat := latency (w / 2 ^ 40) (tidOf s core part (w % 256)).space

/-- An entry agrees with its route entry (R174, R175). -/
def joinOk (w rt : Nat) : Bool :=
  let o := w / 2 ^ 40
  ((linkBits (entOf w).lnk).zip (routeFields rt)).all fun p => if p.1 then (p.2 != 0 || delivers o) else p.2 == 0
/-- The loads an entry makes: output index and cycle modulo II, output 4 for its result (R268). -/
def loadsOf (ii k lat w rt : Nat) : List (Nat × Nat) :=
  let o := w / 2 ^ 40
  let l := (((linkBits (entOf w).lnk).zip (routeFields rt)).zipIdx).filterMap fun p =>
    if p.1.1 then some (p.2, if p.1.2 = 0 then (k + lat - 1) % ii else k) else none
  if delivers o then (4, (k + lat - 1) % ii) :: l else l
/-- The first slot of an element whose loads collide with those of an earlier slot (R268). -/
def firstClash (ii : Nat) : List (Nat × Nat × Nat × Nat) → List (Nat × Nat) → Option Nat
  | [], _ => none
  | (k, lat, w, rt) :: more, seen =>
    let ls := loadsOf ii k lat w rt
    if ls.any seen.contains then some k else firstClash ii more (ls ++ seen)
/-- An entry is of an opcode and a chain. -/
def ofChain (o c w : Nat) : Bool := w / 2 ^ 40 == o && bits w 7 6 == c
/-- The chain check of R174 and R295 fails for a chain: a DELAY's depth differs from a QMAX's block length, or an element holds two QMAX or
two QMX of it. -/
def chainBad (g : Region) (c : Nat) : Bool :=
  let here := g.opc.filter fun e => (hPages g.hdr.toNat).contains (e.1 / 512)
  let ws := here.map (·.2)
  let depths := (ws.filter (ofChain 0x05 c)).map fun w => w % 64
  let lens := (ws.filter (ofChain 0x68 c)).map fun w => w % 64
  let twice (o : Nat) : Bool := here.any fun x => ofChain o c x.2 && here.any fun y => ofChain o c y.2 && x.1 != y.1 && x.1 / 32 == y.1 / 32
  (depths.any fun d => lens.any (· != d)) || twice 0x68 || twice 0x6A

/-- The region checks of R174 and R268: the fault as INFO0 of 0x140, or none. -/
def regionCheck (s : State) (core part : Nat) (g : Region) : Option Nat :=
  let h := g.hdr.toNat
  let slots (p e : Nat) : List (Nat × Nat × Nat × Nat) := (List.range (hII h)).map fun k =>
    let w := tget g.opc 0 (512 * p + 32 * e + k)
    (k, entLatency s core part w, w, tget g.rte 0 (512 * p + 32 * e + k))
  let cells := (hPages h).flatMap fun p => (List.range 16).map fun e => (p, e)
  let bad := cells.findSome? fun c =>
    let join := (List.range 32).find? fun k => !joinOk (tget g.opc 0 (512 * c.1 + 32 * c.2 + k)) (tget g.rte 0 (512 * c.1 + 32 * c.2 + k))
    match join, firstClash (hII h) (slots c.1 c.2) [] with
    | none, none => none
    | some k, none => some (k * 64 + c.2 * 4 + 1)
    | none, some n => some (n * 64 + c.2 * 4)
    | some k, some n => some (if k ≤ n then k * 64 + c.2 * 4 + 1 else n * 64 + c.2 * 4)
  match bad with
  | some x => some x
  | none => [1, 2, 3].find? (chainBad g)

/-- Entries of a plane's bytes: n of b bytes each. -/
def entries (l : List Byte) (n b : Nat) : List Nat := (List.range n).map fun i => leNat ((l.drop (b * i)).take b)
/-- A table with a list of values at keys from k on. -/
def fillTab (t : Tab Nat) (k : Nat) : List Nat → Tab Nat
  | [] => t
  | v :: r => fillTab (tput t 0 k v) (k + 1) r
/-- Constants of a page at keys from k on. -/
def fillCon (t : Tab W32) (k : Nat) : List Nat → Tab W32
  | [] => t
  | v :: r => fillCon (tput t 0 k (BitVec.ofNat 32 v)) (k + 1) r

/-- Elements of a page lose q registers, links, FIFOs, port, last and chain state (R243, R271, R280, R292, R294). -/
def clearPage (s : State) (k page : Nat) : State :=
  (List.range 16).foldl (fun s e =>
    let ek := 256 * k + 16 * (page / 4 * 4 + e / 4) + (page % 4 * 4 + e % 4)
    let x := getEl s ek
    setEl s ek { gen := x.gen, pipe := x.pipe }) s

/-- Bytes, cycles and offset within the bytes of the planes a CFGLD reads (R219, R243). -/
def planeSize : Plane → Nat
  | .op => 3072 | .rt => 1024 | .cn => 512 | .all => 4608
def planeCycles : Plane → Nat
  | .op => 48 | .rt => 16 | .cn => 8 | .all => 72

/-- Load the planes of a page: the region with them, or INFO0 of the rejection, which names the first failing entry by element and slot (R157, R174); of the two
entries of one element and slot the opcode's is named (DESIGN CHOICE, log 69). -/
def loadPlanes (g : Region) (p : Plane) (page : Nat) (l : List Byte) : Except Nat Region :=
  let h := g.hdr.toNat
  let hasOp := p == .op || p == .all
  let hasRt := p == .rt || p == .all
  let ops := if hasOp then entries l 512 6 else []
  let rts := if hasRt then entries (if p == .all then l.drop 3072 else l) 512 2 else []
  let cns := if p == .cn || p == .all then entries (if p == .all then l.drop 4096 else l) 128 4 else []
  let badOp := ops.zipIdx.findIdx fun x => !entryOk h page (x.2 / 32) (x.2 % 32) x.1
  let badRt := rts.findIdx fun x => !routeOk x
  let at_ (i plane : Nat) : Nat := i % 32 * 64 + i / 32 * 4 + plane
  if badOp < ops.length ∧ (badOp ≤ badRt ∨ rts.length ≤ badRt) then .error (at_ badOp 0)
  else if badRt < rts.length then .error (at_ badRt 1)
  else
      let g := if hasOp then { g with opc := fillTab g.opc (512 * page) ops, opLoaded := nins g.opLoaded page, fmt := none, fmtNext := none } else g
      let g := if hasRt then { g with rte := fillTab g.rte (512 * page) rts, rtLoaded := nins g.rtLoaded page } else g
      .ok (if cns.isEmpty then g else { g with con := fillCon g.con (128 * page) cns })

/-- n bytes of an image hold a word with an uncorrectable soft error (R371). -/
def imageBad (s : State) (core : Nat) (r : Run) (off n : Nat) : Bool :=
  s.cfgBad.any fun e => e.1 == core && r.base + off < e.2 + 4 && e.2 < r.base + off + n
/-- Where an entry of a slot's loaded plane stands among the words with an uncorrectable error: the opcode plane, the route plane, the constants
(R371). -/
def badPlane (slot plane key : Nat) : Nat := 2 ^ 20 * (slot + 1) + plane * 2 ^ 16 + key
/-- Planes of a page that are loaded anew hold no error. -/
def freshPage (s : State) (core slot page : Nat) (p : Plane) : State :=
  let k (e : Nat) : Nat := e % 2 ^ 20
  let named (e : Nat) : Bool :=
    ((p == .op || p == .all) && k e / 2 ^ 16 == 0 && k e % 2 ^ 16 / 512 == page)
    || ((p == .rt || p == .all) && k e / 2 ^ 16 == 1 && k e % 2 ^ 16 / 512 == page)
    || ((p == .cn || p == .all) && k e / 2 ^ 16 == 2 && k e % 2 ^ 16 / 128 == page)
  { s with cfgBad := s.cfgBad.filter fun e => !(e.1 == core && e.2 / 2 ^ 20 == slot + 1 && named e.2) }
/-- CFGLD -/
def execCfgld (p : Plane) (a b sl : Nat) (s : State) : Out :=
  onThread s fun t r =>
    let core := s.cur.core
    let k := thKey core sl
    let g := getReg s k
    let h := g.hdr.toNat
    let word := encSY 0x18 0 a b 3 (planeCode p * 16 + sl)
    let off := (rdReg t a).toNat
    let page := (rdReg t b).toNat
    let size := planeSize p
    if !holdsRegion s core sl r.part then trapNow s 0x002 word 0 0
    else if !controls s core s.cur.slot sl r.part || !ridle s core sl then trapNow s 0x143 word 0 0
    else if off % 64 ≠ 0 ∨ r.len < off + size ∨ !(hPages h).contains page then trapNow s 0x145 word off 0
    else
      let reject (i : Nat) : State := killFatal s core s.cur.slot { cause := 0x140, eng := 0, slot := s.cur.slot, pos := trapPc t, i0 := i }
      if imageBad s core r off size then killFatal s core s.cur.slot { cause := 0x14D, eng := 0, slot := s.cur.slot, pos := trapPc t }
      else match loadPlanes g p page (imageBytes s core r off size) with
      | .error i => reject i
      | .ok g' =>
        let full (x : Region) : Bool := (hPages h).all fun q => x.opLoaded.contains q && x.rtLoaded.contains q
        match (if p != .cn && full g' && !full g then regionCheck s core r.part g' else none) with
        | some i => reject i
        | none =>
          let s := freshPage (if p == .op || p == .all then clearPage s k page else s) core sl page p
          let s := setReg s k g'
          goOn s (stall s (planeCycles p) t)

/-! ## Constants and stage-valid bits (R74, R244) -/

/-- A constant written to a region: at once when idle, at the next II boundary when running. -/
def putCon (g : Region) (key : Nat) (v : W32) : Region :=
  if g.runs then { g with conPend := tins g.conPend key v } else { g with con := tput g.con 0 key v }
/-- Key of constant j of the element at a row and column. -/
def conKey (row col j : Nat) : Nat := 128 * (4 * (row / 4) + col / 4) + 8 * (4 * (row % 4) + col % 4) + j

/-- A constant written to the saved image of a region: it is there at resume, before any write that waited for a boundary (R74). -/
def putSaved (g : Region) (key : Nat) (v : W32) : Region := { g with con := tput g.con 0 key v, conPend := tdel g.conPend key }
/-- CONSTW: a slot whose region is pre-empted takes the write in its saved image (R74). -/
def execConstw (a b j sl : Nat) (s : State) : Out :=
  onThread s fun t r =>
    let core := s.cur.core
    let k := thKey core sl
    let g := getReg s k
    let word := encSY 0x18 0 a b 4 (j * 4 + sl)
    let e := (rdReg t b).toNat
    let v : W32 := BitVec.ofNat 32 (rdReg t a).toNat
    let mine (i : Image) : Bool := i.part == r.part && i.core == core && i.slot == sl
    let key := conKey (e / 16) (e % 16) j
    let outside (h : Nat) : Bool := 4 * hH h ≤ e / 16 || 4 * hW h ≤ e % 16
    let good (s : State) : State := { s with cfgBad := s.cfgBad.filter (· != (core, badPlane sl 2 key)) }
    if !holdsRegion s core sl r.part then
      match s.images.find? mine with
      | none => trapNow s 0x002 word 0 0
      | some i =>
        if outside i.snap.region.hdr.toNat then trapNow s 0x145 word e 0
        else goOn { s with images := s.images.map fun i => if mine i then
          { i with snap := { i.snap with region := putSaved i.snap.region key v } } else i } t
    else if !controls s core s.cur.slot sl r.part then trapNow s 0x143 word 0 0
    else if outside g.hdr.toNat then trapNow s 0x145 word e 0
    else goOn (good (setReg s k (putCon g key v))) t

/-- VSEL -/
def execVsel (a sl : Nat) (s : State) : Out :=
  onThread s fun t r =>
    let k := thKey s.cur.core sl
    let g := getReg s k
    let word := encSY 0x18 0 a 0 5 sl
    let m := (rdReg t a).toNat % 64
    if !holdsRegion s s.cur.core sl r.part then trapNow s 0x002 word 0 0
    else if !controls s s.cur.core s.cur.slot sl r.part then trapNow s 0x143 word 0 0
    else goOn (setReg s k (if g.runs then { g with maskPend := some m } else { g with stageMask := m })) t

/-! ## Epilogue programs (R177, R245, R329) -/

/-- The words of a program up to and including its EEND, of at most 64. -/
def progWords : List Nat → List Nat
  | [] => []
  | w :: r => if w = 0 then [w] else w :: progWords r
/-- Opcode of an epilogue word (R176). -/
def epOp (w : Nat) : Nat := w / 2 ^ 27
/-- The index of the first word for which a program is rejected, or none (R157, R177, R329): an illegal word, a second store, or a BIAS TID that is not valid; then
the last word where no store or no EEND has been read. Of a region in MODE 0 it is 0, of a table that is not wholly in the image that of the first ELUT, of a
program without EEND that of the last word read (DESIGN CHOICE, log 69). -/
def progFault (s : State) (core part : Nat) (arr : Bool) (ws : List Nat) (tableFits : Bool) : Option Nat :=
  let bad := ws.findIdx? fun w => (decodeEpilogue w).isNone || (epOp w == 0x05 && !(tidOf s core part (w % 256)).valid)
  let stores := (ws.zipIdx).filter fun x => epOp x.1 == 0x0E || epOp x.1 == 0x0F
  let second := (stores.drop 1).head?.map (·.2)
  let table := if tableFits then none else ws.findIdx? fun w => epOp w == 0x0C
  if !arr then some 0
  else match ([bad, second, table].filterMap id).min? with
    | some i => some i
    | none => if ws.getLast? != some 0 || stores.isEmpty then some (ws.length - 1) else none

/-- EPSEL: the program takes effect when it has been read, one word a cycle. -/
def execEpsel (a sl : Nat) (s : State) : Out :=
  onThread s fun t r =>
    let core := s.cur.core
    let g := getReg s (thKey core sl)
    let off := (rdReg t a).toNat
    let avail := min 64 ((r.len - 4 * off) / 4)
    let ws := progWords ((List.range avail).map fun i => imageWord s core r (4 * (off + i)))
    let lut := ws.any fun w => epOp w == 0x0C
    let tabFits := !lut || 4 * (off + 64 + 256) ≤ r.len
    if !holdsRegion s core sl r.part then trapNow s 0x002 (encSY 0x18 0 a 0 6 sl) 0 0
    else if !controls s core s.cur.slot sl r.part then trapNow s 0x143 (encSY 0x18 0 a 0 6 sl) 0 0
    else if r.len < 4 * off + 4 then trapNow s 0x145 (encSY 0x18 0 a 0 6 sl) off 0
    else if imageBad s core r (4 * off) (4 * ws.length) || (lut && imageBad s core r (4 * (off + 64)) 1024) then
      killFatal s core s.cur.slot { cause := 0x14D, eng := 0, slot := s.cur.slot, pos := trapPc t }
    else match progFault s core r.part (hArray g.hdr.toNat) ws tabFits with
      | some i => killFatal s core s.cur.slot { cause := 0x141, eng := 0, slot := s.cur.slot, pos := trapPc t, i0 := i }
      | none =>
        let tab := if lut then (List.range 256).map fun i => imageWord s core r (4 * (off + 64 + i)) else []
        let n := ws.length + tab.length
        goOn (schedule s (.cluster (clusterOf core)) (nOf s core + n) (.epLoaded core sl off ws tab)) (stall s n t)

end Sys2Proof.Machine
end

