-- ==== Sys2Proof/Machine/Numbers.lean ====
section
/-! DEFINITION. Number formats, rounding, conversion, residue arithmetic, MX blocks, generators and digests (R8, R125 to R153, R198,
R287 to R296). -/

namespace Sys2Proof.Machine

/-! ## Values (R127, R128) -/

/-- The value of a floating-point code: a NaN, an infinity, or (−1)^neg · m · 2^e. -/
inductive FV where
  | nan
  | inf (neg : Bool)
  | num (neg : Bool) (m : Nat) (e : Int)
deriving DecidableEq, Repr, Inhabited

/-- Exponent width, fraction width and bias of a floating-point format (R127). -/
def fpInfo (f : Nat) : Option (Nat × Nat × Nat) :=
  match f with
  | 0x06 => some (8, 23, 127)
  | 0x07 => some (8, 7, 127)
  | 0x08 => some (5, 10, 15)
  | 0x09 => some (4, 3, 7)
  | 0x0A => some (5, 2, 15)
  | _ => none
/-- A floating-point format. -/
def isFp (f : Nat) : Bool := (fpInfo f).isSome
/-- Canonical NaN (R129). -/
def canonNan (f : Nat) : Nat :=
  match f with
  | 0x06 => 0x7FC00000 | 0x07 => 0x7FC0 | 0x08 => 0x7E00 | 0x09 => 0x7F | 0x0A => 0x7E | _ => 0xFF
/-- Range of an integer format (R126). -/
def intRange (f : Nat) : Option (Int × Int) :=
  match f with
  | 0x00 => some (-128, 127)
  | 0x01 => some (0, 255)
  | 0x02 => some (-8, 7)
  | 0x03 => some (-32768, 32767)
  | 0x04 => some (-2147483648, 2147483647)
  | 0x05 => some (-9223372036854775808, 9223372036854775807)
  | 0x12 => some (0, 4294967295)
  | _ => none
/-- An integer as a value. -/
def fvInt (x : Int) : FV := .num (x < 0) x.natAbs 0
/-- Value of a code of a floating-point format (R127). -/
def fpVal (f code : Nat) : FV :=
  match fpInfo f with
  | none => .nan
  | some (eb, fb, bias) =>
    let neg := bit code (eb + fb)
    let e := bits code (eb + fb - 1) fb
    let m := code % 2 ^ fb
    if f = 0x09 ∧ e = 15 ∧ m = 7 then .nan
    else if f ≠ 0x09 ∧ e = 2 ^ eb - 1 then (if m = 0 then .inf neg else .nan)
    else if e = 0 then .num neg m (1 - bias - fb)
    else .num neg (m + 2 ^ fb) (e - bias - fb)
/-- Value of a code of a plain format: integer, floating point or E8M0. -/
def fmtVal (f code : Nat) : FV :=
  if f = 0x0E then (if code % 256 = 255 then .nan else .num false 1 ((code % 256 : Nat) - 127))
  else if isFp f then fpVal f code
  else match f with
    | 0x00 => fvInt (sx 8 code) | 0x01 => fvInt (code % 256 : Nat) | 0x02 => fvInt (sx 4 code) | 0x03 => fvInt (sx 16 code)
    | 0x04 => fvInt (sx 32 code) | 0x05 => fvInt (sx 64 code) | 0x12 => fvInt (code % 2 ^ 32 : Nat) | _ => fvInt (code % 2 : Nat)

/-! ## Rounding (R8, R130) -/

/-- A magnitude divided by 2^sh, rounded; neg is the sign of the value, b the 16-bit draw of SR. -/
def roundMag (rm : RMode) (neg : Bool) (m sh b : Nat) : Nat :=
  let n := m / 2 ^ sh
  let r := m % 2 ^ sh
  if r = 0 then n
  else match rm with
    | .rne => if 2 * r > 2 ^ sh ∨ (2 * r = 2 ^ sh ∧ n % 2 = 1) then n + 1 else n
    | .rz => n
    | .rd => if neg then n + 1 else n
    | .ru => if neg then n else n + 1
    | .sr =>
      if neg then (if b * 2 ^ sh < (2 ^ sh - r) * 65536 then n else n + 1)
      else if b * 2 ^ sh < r * 65536 then n + 1 else n
/-- m · 2^e rounded to an integer magnitude. -/
def roundInt (rm : RMode) (neg : Bool) (m : Nat) (e : Int) (b : Nat) : Nat :=
  if 0 ≤ e then m * 2 ^ e.toNat else if (-e).toNat > 4096 + Nat.log2 m then roundMag rm neg m (4096 + Nat.log2 m) b
  else roundMag rm neg m (-e).toNat b
/-- m · 2^e rounded to fb fraction bits with the subnormal grid of the bias and no upper limit: significand and exponent. -/
def roundGrid (fb bias : Nat) (rm : RMode) (neg : Bool) (m : Nat) (e : Int) (b : Nat) : Nat × Int :=
  let q := max ((Nat.log2 m : Nat) + e - fb) (1 - bias - fb)
  if q ≤ e then (m * 2 ^ (e - q).toNat, q)
  else (roundInt rm neg m (e - q) b, q)
/-- Code of a rounded magnitude n · 2^q without its sign, with unbounded exponent. -/
def gridCode (fb bias n : Nat) (q : Int) : Nat :=
  if n < 2 ^ fb then n
  else if n < 2 ^ (fb + 1) then (q + fb + bias).toNat * 2 ^ fb + (n - 2 ^ fb)
  else (q + 1 + fb + bias).toNat * 2 ^ fb + (n / 2 - 2 ^ fb)
/-- Greatest finite code of a floating-point format, without its sign. -/
def maxCode (f : Nat) : Nat :=
  match f with
  | 0x06 => 0x7F7FFFFF | 0x07 => 0x7F7F | 0x08 => 0x7BFF | 0x09 => 0x7E | _ => 0x7B
/-- Sign bit of a format's code. -/
def signBit (f : Nat) (neg : Bool) : Nat :=
  match fpInfo f with
  | some (eb, fb, _) => if neg then 2 ^ (eb + fb) else 0
  | none => 0
/-- Code of an infinity (R127); FP8E4M3 has none. -/
def infCode (f : Nat) (neg : Bool) : Nat := if f = 0x09 then canonNan f else signBit f neg + maxCode f + 1

/-- A magnitude lies above the greatest finite one of a format. -/
def aboveMax (f m : Nat) (e : Int) : Bool :=
  match fpVal f (maxCode f) with
  | .num _ mm me => if me ≤ e then mm < m * 2 ^ (e - me).toNat else mm * 2 ^ (me - e).toNat < m
  | _ => false

/-- A value converted to a floating-point format (R131). -/
def roundF (f : Nat) (rm : RMode) (b : Nat) (v : FV) : Nat :=
  match fpInfo f, v with
  | none, _ => 0
  | _, .nan => canonNan f
  | _, .inf neg => infCode f neg
  | some (_, fb, bias), .num neg m e =>
    if m = 0 then signBit f neg
    else
      let g := roundGrid fb bias rm neg m e b
      let c := gridCode fb bias g.1 g.2
      let toInf := match rm with | .rne => true | .rz => false | .rd => neg | .ru => !neg | .sr => true
      if rm = .sr ∧ f ≠ 0x09 ∧ aboveMax f m e then infCode f neg
      else if c ≤ maxCode f then signBit f neg + c
      else if f = 0x09 ∨ !toInf then signBit f neg + maxCode f
      else infCode f neg

/-- A value converted to an integer format's range (R131): the bits of the result, of width n. -/
def roundI (lo hi : Int) (n : Nat) (rm : RMode) (b : Nat) (v : FV) : Nat :=
  match v with
  | .nan => 0
  | .inf neg => tr n (if neg then lo else hi)
  | .num neg m e =>
    let k : Int := roundInt rm neg m e b
    tr n (sat (if neg then -k else k) lo hi)

/-- Width in bits of a plain format's code. -/
def codeWidth (f : Nat) : Nat :=
  match f with
  | 0x02 => 4 | 0x03 => 16 | 0x04 => 32 | 0x05 => 64 | 0x06 => 32 | 0x07 => 16 | 0x08 => 16 | 0x12 => 32 | 0x11 => 1 | _ => 8
/-- Conversion of a value to a plain format (R131). -/
def convTo (f : Nat) (rm : RMode) (b : Nat) (v : FV) : Nat :=
  match intRange f with
  | some (lo, hi) => roundI lo hi (codeWidth f) rm b v
  | none => roundF f rm b v
/-- Conversion of a code from a plain format to another. -/
def convert (src dst : Nat) (rm : RMode) (b code : Nat) : Nat := convTo dst rm b (fmtVal src code)

/-! ## Exact sums and products (R128, R287) -/

/-- Negation. -/
def fvNeg : FV → FV
  | .nan => .nan
  | .inf n => .inf (!n)
  | .num n m e => .num (!n) m e
/-- The exact sum. -/
def fvAdd : FV → FV → FV
  | .nan, _ => .nan
  | _, .nan => .nan
  | .inf a, .inf b => if a = b then .inf a else .nan
  | .inf a, _ => .inf a
  | _, .inf b => .inf b
  | .num na ma ea, .num nb mb eb =>
    if ma = 0 ∧ mb = 0 then .num (na && nb) 0 0
    else
      let e := min ea eb
      let x : Int := ma * 2 ^ (ea - e).toNat
      let y : Int := mb * 2 ^ (eb - e).toNat
      let s := (if na then -x else x) + (if nb then -y else y)
      .num (s < 0) s.natAbs e
/-- The exact product. -/
def fvMul : FV → FV → FV
  | .nan, _ => .nan
  | _, .nan => .nan
  | .inf a, .inf b => .inf (a != b)
  | .inf a, .num b m _ => if m = 0 then .nan else .inf (a != b)
  | .num a m _, .inf b => if m = 0 then .nan else .inf (a != b)
  | .num a ma ea, .num b mb eb => .num (a != b) (ma * mb) (ea + eb)
/-- Less-than of two values that are no NaN; −0 equals +0. -/
def fvLt : FV → FV → Bool
  | .inf a, .inf b => a && !b
  | .inf a, _ => a
  | .num _ _ _, .inf b => !b
  | .num na ma ea, .num nb mb eb =>
    match fvAdd (.num na ma ea) (.num (!nb) mb eb) with
    | .num n m _ => n && m != 0
    | _ => false
  | _, _ => false
/-- Equality of two values that are no NaN. -/
def fvEq (a b : FV) : Bool := a != .nan && b != .nan && !fvLt a b && !fvLt b a

/-- a + b, a · b and a · b + c in a format, rounded once by RNE. -/
def fAdd (f a b : Nat) : Nat := roundF f .rne 0 (fvAdd (fpVal f a) (fpVal f b))
def fSub (f a b : Nat) : Nat := roundF f .rne 0 (fvAdd (fpVal f a) (fvNeg (fpVal f b)))
def fMul (f a b : Nat) : Nat := roundF f .rne 0 (fvMul (fpVal f a) (fpVal f b))
def fFma (f a b c : Nat) : Nat := roundF f .rne 0 (fvAdd (fvMul (fpVal f a) (fpVal f b)) (fpVal f c))
/-- An FP32 value. -/
def f32 (x : Nat) : FV := fpVal 6 x
/-- NaN test of an FP32 code. -/
def isNan32 (x : Nat) : Bool := f32 x == .nan
/-- The lesser or the greater of two FP32 codes, with −0 < +0 (R288). -/
def fMinMax (mx : Bool) (a b : Nat) : Nat :=
  if isNan32 a && isNan32 b then canonNan 6
  else if isNan32 a then b else if isNan32 b then a
  else
    let lt := fvLt (f32 a) (f32 b) || (fvEq (f32 a) (f32 b) && bit a 31)
    if lt != mx then a else b

/-! ## Correctly rounded functions (R288): fixed point of P fraction bits, with a sticky bit below (UNVERIFIED, log 11) -/

/-- Fraction bits of the series. -/
def fxP : Nat := 384
/-- One. -/
def fxOne : Nat := 2 ^ fxP
/-- Sum of z^(2k+1)/(2k+1) for n terms, z2 = z². -/
def atanhSum : Nat → Nat → Nat → Nat → Nat
  | 0, _, _, _ => 0
  | n + 1, k, p, z2 => p / (2 * k + 1) + atanhSum n (k + 1) (p * z2 / fxOne) z2
/-- atanh of a fixed-point z below 1/2. -/
def fxAtanh (z : Nat) : Nat := atanhSum 140 0 z (z * z / fxOne)
/-- ln 2 = 2 · atanh(1/3). -/
def fxLn2 : Nat := 2 * fxAtanh (fxOne / 3)
/-- Sum of y^k/k! for n terms from term t = y^k/k!. -/
def expSum : Nat → Nat → Nat → Nat → Nat
  | 0, _, _, _ => 0
  | n + 1, k, t, y => t + expSum n (k + 1) (t * y / fxOne / (k + 1)) y
/-- 2^f for a fixed-point f in [0, 1). -/
def fxExp2 (f : Nat) : Nat := expSum 90 0 fxOne (f * fxLn2 / fxOne)
/-- A fixed-point magnitude times 2^k as a value, with a sticky bit: it is never exact. -/
def fxVal (neg : Bool) (x : Nat) (k : Int) : FV := .num neg (2 * x + 1) (k - fxP - 1)

/-- Integer square root by bits. -/
def isqrtGo : Nat → Nat → Nat → Nat
  | 0, _, r => r
  | n + 1, x, r => let c := r + 2 ^ n; isqrtGo n x (if c * c ≤ x then c else r)
def isqrt (x : Nat) : Nat := isqrtGo (Nat.log2 x / 2 + 1) x 0

/-- FRCP -/
def fRcp (a : Nat) : Nat :=
  match f32 a with
  | .nan => canonNan 6
  | .inf n => signBit 6 n
  | .num n m e =>
    if m = 0 then infCode 6 n
    else
      let q := 2 ^ 128 / m
      roundF 6 .rne 0 (.num n (2 * q + (if 2 ^ 128 % m = 0 then 0 else 1)) (-e - 129))
/-- FRSQ -/
def fRsq (a : Nat) : Nat :=
  match f32 a with
  | .nan => canonNan 6
  | .inf n => if n then canonNan 6 else 0
  | .num n m e =>
    if m = 0 then infCode 6 n
    else if n then canonNan 6
    else
      let m2 := if e % 2 = 0 then m else 2 * m
      let e2 := if e % 2 = 0 then e else e - 1
      let s := isqrt (2 ^ 256 / m2)
      roundF 6 .rne 0 (.num false (2 * s + (if s * s * m2 = 2 ^ 256 then 0 else 1)) (-e2 / 2 - 129))
/-- floor(m · 2^e) and the fraction as fixed point. -/
def splitFx (m : Nat) (e : Int) : Nat × Nat :=
  let x := if 0 ≤ e + fxP then m * 2 ^ (e + fxP).toNat else m / 2 ^ (-(e + fxP)).toNat
  (x / fxOne, x % fxOne)
/-- 2^a of a signed value in fixed point: the value. -/
def exp2Of (neg : Bool) (m : Nat) (e : Int) : FV :=
  let p := splitFx m e
  if !neg then (if p.2 = 0 then .num false 1 p.1 else fxVal false (fxExp2 p.2) p.1)
  else if p.2 = 0 then .num false 1 (-(p.1 : Int)) else fxVal false (fxExp2 (fxOne - p.2)) (-(p.1 : Int) - 1)
/-- FEXP2 -/
def fExp2 (a : Nat) : Nat :=
  match f32 a with
  | .nan => canonNan 6
  | .inf n => if n then 0 else infCode 6 false
  | .num n m e =>
    if m = 0 then 0x3F800000
    else if 8 ≤ (Nat.log2 m : Int) + e then (if n then 0 else infCode 6 false)
    else roundF 6 .rne 0 (exp2Of n m e)
/-- FLOG2 -/
def fLog2 (a : Nat) : Nat :=
  match f32 a with
  | .nan => canonNan 6
  | .inf n => if n then canonNan 6 else infCode 6 false
  | .num n m e =>
    if m = 0 then infCode 6 true
    else if n then canonNan 6
    else
      let k : Int := Nat.log2 m + e
      if m = 2 ^ Nat.log2 m then roundF 6 .rne 0 (fvInt k)
      else
        let x := m * 2 ^ (fxP - Nat.log2 m)
        let l := 2 * fxAtanh ((x - fxOne) * fxOne / (x + fxOne)) * fxOne / fxLn2
        let t : Int := k * fxOne + l
        roundF 6 .rne 0 (if 0 ≤ t then fxVal false t.toNat 0 else .num true (2 * t.natAbs - 1) (-fxP - 1))
/-- FTANH: (1 − u) / (1 + u) with u = e^(−2|a|). -/
def fTanh (a : Nat) : Nat :=
  match f32 a with
  | .nan => canonNan 6
  | .inf n => signBit 6 n + 0x3F800000
  | .num n m e =>
    if m = 0 then signBit 6 n
    else if 4 ≤ (Nat.log2 m : Int) + e then signBit 6 n + 0x3F800000
    else
      let x := (let p := splitFx m e; p.1 * fxOne + p.2)
      let y := 2 * x * fxOne / fxLn2
      let i := y / fxOne
      let f := y % fxOne
      let u := fxExp2 (fxOne - f) / 2 ^ (i + 1)
      roundF 6 .rne 0 (fxVal n ((fxOne - u) * fxOne / (fxOne + u)) 0)

/-! ## Residue systems (R132 to R141) -/

/-- Moduli of RNS8, or of RNS4. -/
def moduli (rns4 : Bool) : List Nat := if rns4 then [63, 64, 65, 67, 71] else [511, 512, 513, 521, 523]
/-- Modulus of an index of R133. -/
def modulus (i : Nat) : Nat := (moduli false ++ moduli true).getD i 1
/-- Field width of a slot (R134). -/
def rnsW (rns4 : Bool) : Nat := if rns4 then 7 else 10
/-- H = M / 2. -/
def rnsH (rns4 : Bool) : Int := if rns4 then 131040 else 67108608
/-- Q = H · m3. -/
def rnsQ (rns4 : Bool) : Int := if rns4 then 8779680 else 34963584768
/-- Channels of a slot; a field at or above its modulus is taken modulo it. -/
def rnsOf (rns4 : Bool) (slot : Nat) : List Nat :=
  (moduli rns4).zipIdx.map fun p => slot / 2 ^ (rnsW rns4 * p.2) % 2 ^ rnsW rns4 % p.1
/-- A slot of channels. -/
def rnsSlot (rns4 : Bool) (l : List Nat) : Nat := l.zipIdx.foldl (fun n p => n + p.1 * 2 ^ (rnsW rns4 * p.2)) 0
/-- Forward conversion (R136). -/
def rnsFwd (rns4 : Bool) (x : Int) : List Nat := (moduli rns4).map fun (m : Nat) => (x % (m : Int)).toNat
/-- Sum and product-sum of slots, channel by channel (R137). -/
def rnsAdd (rns4 : Bool) (a b : List Nat) : List Nat := (moduli rns4).zipIdx.map fun p => (a.getD p.2 0 + b.getD p.2 0) % p.1
def rnsMul (rns4 : Bool) (a b : List Nat) : List Nat := (moduli rns4).zipIdx.map fun p => a.getD p.2 0 * b.getD p.2 0 % p.1
/-- Multiplicative inverse modulo m. -/
def modInv (a m : Nat) : Nat := ((List.range m).find? fun x => a * x % m == 1 % m).getD 0
/-- Crt of R8 over a list of channels. -/
def crt (rns4 : Bool) (res : List Nat) (ch : List Nat) : Nat :=
  let ms := ch.map fun i => (moduli rns4).getD i 1
  let n := ms.foldl (· * ·) 1
  (ch.zip ms).foldl (fun x p => (x + res.getD p.1 0 * (n / p.2) * modInv (n / p.2 % p.2) p.2) % n) 0
/-- Product of the moduli of channels. -/
def prodOf (rns4 : Bool) (ch : List Nat) : Nat := (ch.map fun i => (moduli rns4).getD i 1).foldl (· * ·) 1
/-- Signed(X, N). -/
def signedN (x n : Nat) : Int := if 2 * x < n then x else (x : Int) - n
/-- Reverse conversion's outcome: a value or none, an overflow, and an event (channel, kind). -/
structure RRes where
  value : Option Int
  ovfl : Option Int := none
  event : Option (Nat × Nat) := none
deriving DecidableEq, Repr
/-- InRange of R140. -/
def inRange (rns4 : Bool) (v : Int) : Bool := -(rnsH rns4) ≤ v && v < rnsH rns4
/-- Reverse conversion (R139, R140): chk, and the mask of fenced units at placement. -/
def rrev (rns4 chk : Bool) (fenced : Nat) (slot : Nat) : RRes :=
  let res := rnsOf rns4 slot
  let live := (List.range 5).filter fun i => !bit fenced i
  let val (ch : List Nat) : Int := signedN (crt rns4 res ch) (prodOf rns4 ch)
  if !chk then ⟨some (val (live.take 3)), none, none⟩
  else if fenced % 32 = 0 then
    let v := val [0, 1, 2, 3, 4]
    if inRange rns4 v then ⟨some v, none, none⟩
    else
      let cand := (List.range 5).filterMap fun j =>
        let vj := val ((List.range 5).filter (· != j))
        if inRange rns4 vj then some (j, vj) else none
      match cand with
      | [(j, vj)] => ⟨some vj, none, some (j, 0)⟩
      | [] => if -(rnsQ rns4) ≤ v ∧ v < rnsQ rns4 then ⟨none, some v, some (7, 3)⟩ else ⟨none, none, some (7, 2)⟩
      | _ => ⟨none, none, some (7, 2)⟩
  else
    let v := val live
    if inRange rns4 v then ⟨some v, none, none⟩
    else ⟨none, none, some (((List.range 5).find? fun i => bit fenced i).getD 0, 1)⟩

/-! ## MX blocks (R144 to R147) -/

/-- Value of an MX element code with its block's scale code (R145). -/
def mxVal (f code eb : Nat) : FV :=
  if eb % 256 = 255 then .nan
  else match f with
    | 0x0B => (match fvInt (sx 8 code) with | .num n m e => .num n m (e + (eb % 256 : Nat) - 133) | v => v)
    | _ => (match fpVal (if f = 0x0C then 9 else 10) code with | .num n m e => .num n m (e + (eb % 256 : Nat) - 127) | v => v)
/-- emax of R146. -/
def mxEmax (f : Nat) : Int := if f = 0x0B then 0 else if f = 0x0C then 8 else 15
/-- A value times 2^k. -/
def fvScale (v : FV) (k : Int) : FV := match v with | .num n m e => .num n m (e + k) | x => x
/-- An element quantised at scale X, with its CLAMP flag (R147, R294); ±∞ clamps. -/
def mxQuant (f : Nat) (rm : RMode) (b : Nat) (x : Int) (v : FV) : Nat × Bool :=
  if f = 0x0B then
    match fvScale v (6 - x) with
    | .nan => (0, false)
    | .inf neg => (tr 8 (if neg then -127 else 127), true)
    | .num neg m e =>
      let k : Int := roundInt rm neg m e b
      let t := if neg then -k else k
      (tr 8 (sat t (-127) 127), t != sat t (-127) 127)
  else
    let g := if f = 0x0C then 9 else 10
    match fpInfo g, fvScale v (-x) with
    | some (_, fb, bias), .num neg m e =>
      if m = 0 then (signBit g neg, false)
      else
        let q := roundGrid fb bias rm neg m e b
        let c := gridCode fb bias q.1 q.2
        if c ≤ maxCode g then (signBit g neg + c, false) else (signBit g neg + maxCode g, true)
    | _, .inf neg => (signBit g neg + maxCode g, true)
    | _, _ => (0, false)
/-- floor(log2) of a non-zero finite magnitude. -/
def fvLog2 : FV → Int
  | .num _ m e => Nat.log2 m + e
  | _ => 0
/-- Magnitude. -/
def fvAbs : FV → FV
  | .nan => .nan
  | .inf _ => .inf false
  | .num _ m e => .num false m e
/-- Block quantisation (R147): codes, E, CLAMP and NANBLK; draws gives the SR draw of each element. -/
def mxBlock (f : Nat) (rm : RMode) (vs : List FV) (draws : List Nat) : List Nat × Nat × Bool × Bool :=
  if vs.any (fun v => match v with | .num _ _ _ => false | _ => true) then (vs.map fun _ => 0, 0xFF, false, true)
  else
    let amax := vs.foldl (fun m v => if fvLt m (fvAbs v) then fvAbs v else m) (.num false 0 0)
    if amax = .num false 0 0 then (vs.map fun _ => 0, 0, false, false)
    else
      let x := sat (fvLog2 amax - mxEmax f) (-127) 127
      let qs := vs.zipIdx.map fun p => mxQuant f rm (draws.getD p.2 0) x p.1
      (qs.map (·.1), (x + 127).toNat, qs.any (·.2), false)

/-! ## Generators (R149, R150) -/

/-- Step of a generator. -/
def genStep (s : W32) : W32 :=
  let a := s ^^^ (s <<< 13)
  let b := a ^^^ (a >>> 17)
  b ^^^ (b <<< 5)
/-- Draw of a lane. -/
def genDraw (s : W32) (lane : Nat) : Nat := (s.rotateLeft (2 * lane)).toNat % 65536

/-! ## CRC-64/ECMA-182 (R198) -/

/-- One bit step. -/
def crcBits : Nat → Nat → Nat
  | 0, c => c
  | n + 1, c => crcBits n (if bit c 63 then (c * 2 % 2 ^ 64) ^^^ 0x42F0E1EBA9EA3693 else c * 2)
/-- One byte, most significant bit first. -/
def crcByte (c b : Nat) : Nat := crcBits 8 (c ^^^ (b % 256 * 2 ^ 56))
/-- A list of bytes. -/
def crcBytes (c : Nat) (l : List Byte) : Nat := l.foldl (fun c b => crcByte c b.toNat) c
/-- A 64-bit word, least significant byte first (R388). -/
def crcWord (c x : Nat) : Nat := crcBytes c (leBytes 8 x)

end Sys2Proof.Machine
end

