-- ==== Sys2Proof/Machine/Fabric.lean ====
section
/-! DEFINITION. How an element issues: periods, sources, links and guards, enables and predicates, delivery, capability and fault
collection (R264 to R277, R282, R302, R310, R405 to R408). -/

namespace Sys2Proof.Machine

/-- The period and slot of a region that runs, in its present counted cycle (R264). -/
def regionPos (g : Region) : Option (Nat × Nat) :=
  let ii := hII g.hdr.toNat
  if g.runs ∧ g.start + 4 ≤ g.count then some ((g.count - g.start - 4) / ii, (g.count - g.start - 4) % ii) else none
/-- Rotation base of period p (R266). -/
def rotBase (p : Nat) : Nat := (32 - p % 32) % 32

/-- An element's link output register. -/
def linkOut (e : Elem) (side : Nat) : Token :=
  match side with
  | 0 => e.lnN
  | 1 => e.lnE
  | 2 => e.lnS
  | _ => e.lnW
/-- Load it. -/
def setLink (e : Elem) (side : Nat) (t : Token) : Elem :=
  match side with
  | 0 => { e with lnN := t }
  | 1 => { e with lnE := t }
  | 2 => { e with lnS := t }
  | _ => { e with lnW := t }
/-- A token of array data, whose value the manual does not give (R320, DESIGN CHOICE, log 8). -/
def arrayToken (count key : Nat) : Token :=
  let v := (Config.freeLink count key).toNat
  ⟨BitVec.ofNat 32 v, bit v 32⟩
/-- The token that a link facing a side carries in; a guard and an unbound link read zero, and an output that carries array data
within its region gives that data. -/
def linkIn (s : State) (core slot row col side : Nat) : Token :=
  match across s core slot row col side with
  | .elem k d =>
    let g := getReg s (k / 256)
    if k / 256 = thKey core slot ∧ ((d = 1 ∨ d = 2) ∧ g.carriedEs = true ∨ d = 3 ∧ g.carriedW = true) then arrayToken g.count (4 * k + d)
    else linkOut (getEl s k) d
  | _ => {}

/-- What an issue sees: its place, period, slot, stage, enable, the three source tokens, the element and its region. -/
structure EC where
  core : Nat
  slot : Nat
  row : Nat
  col : Nat
  p : Nat
  k : Nat
  j : Nat
  en : Bool
  a : Token
  b : Token
  c : Token
  el : Elem
  g : Region
deriving Repr

/-- A source in cycle t (R271). -/
def source (s : State) (core slot row col p j imm : Nat) (el : Elem) (g : Region) (code : Nat) : Token :=
  if code < 32 then tget el.q {} ((code + rotBase p) % 32)
  else if code < 36 then linkIn s core slot row col (code - 32)
  else if code < 44 then ⟨tget g.con 0 (conKey row col (code - 36)), true⟩
  else if code = 44 then el.port
  else if code = 45 then el.last
  else if code = 46 then ⟨BitVec.ofInt 32 (sx 8 imm), true⟩
  else if code = 48 then ⟨BitVec.ofNat 32 (ticksOn s core + 2 ^ 64 - g.fireTick), true⟩
  else if code = 49 then ⟨BitVec.ofInt 32 ((p : Int) - j), true⟩
  else if code = 50 then ⟨BitVec.ofNat 32 (row * 256 + col), true⟩
  else ⟨0, true⟩

/-- The stage of a guard (R265). -/
def stageOf (grd : Nat) : Nat := if 2 ≤ grd ∧ grd ≤ 7 then grd - 2 else 0
/-- The enable of an issue (R265, R272). -/
def enableOf (grd p mask : Nat) (c : Token) : Bool :=
  if grd ≤ 1 then true
  else if grd ≤ 7 then bit mask (grd - 2) && grd - 2 ≤ p
  else if grd = 8 then c.pred else !c.pred

/-- The context of the issue of an entry. -/
def contextOf (s : State) (x : Ent) (core slot row col p k : Nat) : EC :=
  let rk := thKey core slot
  let g := getReg s rk
  let el := getEl s (256 * rk + 16 * row + col)
  let j := stageOf x.grd
  let src := source s core slot row col p j x.imm el g
  let c := src x.sc
  ⟨core, slot, row, col, p, k, j, enableOf x.grd p g.stageMask c, src x.sa, src x.sb, c, el, g⟩

/-- AND of the predicates of the sources an opcode uses (R170, R272). -/
def psrcOf (opc : Nat) (x : Ent) (c : EC) : Bool :=
  match elemInfo opc x.imm with
  | none => true
  | some f => (!f.a || c.a.pred) && (!f.b || c.b.pred) && (!f.c || c.c.pred)

/-- Word 2 of an element's record (R364). -/
def elemPos (c : EC) : Nat := (tr 32 ((c.p : Int) - c.j)) * 2 ^ 32 + c.row * 2 ^ 24 + c.col * 65536 + c.k * 2048
/-- A fault of an issue is collected; the cycle's end records it and kills the block (R282, R302). -/
def elemFault (s : State) (c : EC) (eng cause i0 i1 i2 : Nat) : State :=
  let k := thKey c.core c.slot
  let g := getReg s k
  setReg s k { g with faults := g.faults ++ [{ cause := cause, eng := eng, slot := c.slot, pos := elemPos c, i0 := i0, i1 := i1, i2 := i2 }] }

/-- Capability bits that an entry needs (R171, R180, R275). -/
def needBits (opc : Nat) (x : Ent) : List Nat :=
  let base := match elemInfo opc x.imm with
    | some f => (match f.grp with | some b => [b] | none => [])
    | none => []
  if opc = 0x64 then [if pairFp8 x.imm then 21 else 13, 14, 38] else base
/-- Class 9 cause of a capability bit (R370). -/
def capCause (b : Nat) : Nat :=
  if b ≤ 21 then 0x120 + b else if b < 32 then 0x136 + (b - 24) else if b = 37 then 0x13E else 0x13F
/-- The lowest-numbered missing bit. -/
def missing (s : State) (core : Nat) (l : List Nat) : Option Nat :=
  (l.filter fun b => !bit (capMask s core) b).foldl (fun m b => match m with | none => some b | some x => some (min x b)) none

/-- A vector entry drives an output that carries array data (R310). -/
def drivesCarried (g : Region) (x : Ent) : Bool := (List.range 4).any fun i => bit x.lnk (3 - i) && carried g i

/-- Route-selected links are read at issue and load at the cycle's end (R269); an output that carries array data loads none of their tokens (R320, R406). -/
def passThrough (s : State) (x : Ent) (c : EC) (rt : Nat) : State :=
  let ek := 256 * thKey c.core c.slot + 16 * c.row + c.col
  (routeFields rt).zipIdx.foldl (fun s p =>
    if bit x.lnk (3 - p.2) && p.1 != 0 then
      let t := linkIn s c.core c.slot c.row c.col (p.1 - 1)
      let s := if carried c.g p.2 then s else guardDrop s c.core c.slot c.row c.col p.2 (elemPos c) t
      let e := getEl s ek
      setEl s ek { e with nxt := tput e.nxt {} p.2 t }
    else s) s

/-- A result enters the pipeline: it is delivered at the end of cycle t + L − 1 (R267). -/
def launchResult (s : State) (x : Ent) (c : EC) (lat rt : Nat) (t : Token) (req : Option Nat) : State :=
  let ek := 256 * thKey c.core c.slot + 16 * c.row + c.col
  let e := getEl s ek
  let dst := if x.dst < 32 then (x.dst + rotBase c.p) % 32 else x.dst
  setEl s ek { e with pipe := e.pipe ++ [⟨c.g.count + lat - 1, t, dst, x.lnk, rt, req, elemPos c⟩] }

/-- The route entry of an issue. -/
def routeOf (c : EC) : Nat := tget c.g.rte 0 (512 * (4 * (c.row / 4) + c.col / 4) + 32 * (4 * (c.row % 4) + c.col % 4) + c.k)

/-- An element issues in the present cycle (R264): capability first (R275), then array-carried outputs (R310) with the predicate
that the opcode gives, then its pass-through links and its own effect. -/
def onElem (s : State) (opc : Nat) (x : Ent) (pred : EC → Bool) (f : EC → State → State) : Out :=
  let u := s.cur
  match regionPos (getReg s (thKey u.core u.slot)) with
  | none => .fault .noAgent
  | some (p, k) =>
    let c := contextOf s x u.core u.slot u.row u.col p k
    let word := opc * 2 ^ 40 + x.sa * 2 ^ 34 + x.sb * 2 ^ 28 + x.sc * 2 ^ 22 + x.dst * 65536 + x.lnk * 4096 + x.grd * 256 + x.imm
    match missing s u.core (needBits opc x) with
    | some b => .next (elemFault s c 1 (capCause b) b word 0)
    | none =>
      if opc < 0xA0 && pred c && drivesCarried c.g x then .next (elemFault s c 1 0x148 word 0 0)
      else .next (f c (passThrough s x c (routeOf c)))

/-- P of R272 for a Psrc. -/
def predOf (x : Ent) (c : EC) (psrc : Bool) : Bool := if x.grd = 1 then true else psrc && c.en

/-- An opcode whose result is a function of its sources, with the default Psrc. -/
def dataOp (s : State) (opc : Nat) (x : Ent) (f : Nat → Nat → Nat → Nat) : Out :=
  onElem s opc x (fun c => predOf x c (psrcOf opc x c)) fun c s =>
    launchResult s x c (latency opc 0) (routeOf c)
      ⟨BitVec.ofNat 32 (f c.a.data.toNat c.b.data.toNat c.c.data.toNat), predOf x c (psrcOf opc x c)⟩ none

/-- A truth-token opcode: data T, predicate T ∧ En for every guard (R272, R286). -/
def truthOp (s : State) (opc : Nat) (x : Ent) (psrc : EC → Bool) (f : EC → Bool) : Out :=
  onElem s opc x (fun c => predOf x c (psrc c)) fun c s =>
    let t := f c
    launchResult s x c (latency opc 0) (routeOf c) ⟨if t then 1 else 0, t && c.en⟩ none

/-- Replace the issuing element's state. -/
def putElem (s : State) (c : EC) (f : Elem → Elem) : State :=
  let ek := 256 * thKey c.core c.slot + 16 * c.row + c.col
  setEl s ek (f (getEl s ek))

end Sys2Proof.Machine
end

