-- ==== Sys2Proof/Machine/Elements.lean ====
section
/-! DEFINITION. The element opcodes 0x00 to 0x74: structural, integer, truth, floating point, conversion, quantisation and residue
operations (R278 to R296). -/

namespace Sys2Proof.Machine

/-! ## Structural (R278 to R282) -/

/-- NOP drives only pass-through routes. -/
def execENop (x : Ent) (s : State) : Out := onElem s 0x00 x (fun c => c.en) fun _ s => s
def execEMov (x : Ent) (s : State) : Out := dataOp s 0x01 x fun a _ _ => a
/-- SEL and PICK read only the side they keep (R273). -/
def chooseOp (s : State) (opc : Nat) (x : Ent) (pick : EC → Token) (psrc : EC → Bool) : Out :=
  onElem s opc x (fun c => predOf x c (psrc c)) fun c s =>
    launchResult s x c 1 (routeOf c) ⟨(pick c).data, predOf x c (psrc c)⟩ none
def execESel (x : Ent) (s : State) : Out :=
  chooseOp s 0x02 x (fun c => if c.c.pred then c.a else c.b) fun c => (if c.c.pred then c.a else c.b).pred
def execEPick (x : Ent) (s : State) : Out :=
  chooseOp s 0x03 x (fun c => if c.a.pred then c.a else c.b) fun c => c.a.pred || c.b.pred
def execEPset (x : Ent) (s : State) : Out := truthOp s 0x08 x (fun _ => true) fun c => c.a.pred && c.a.data != 0

/-- Majority of three tokens: the majority, and the odd one (1 A, 2 B, 3 C, 4 none agree, 0 all agree). -/
def majority (a b c : Token) : Option Token × Nat :=
  if a = b ∨ a = c then (some a, if a ≠ b then 2 else if a ≠ c then 3 else 0)
  else if b = c then (some b, 1) else (none, 4)
/-- Append to a region's vote log of 64 entries (R279). -/
def voteAppend (g : Region) (v : Vote) : Region :=
  if g.votes.length < 64 then { g with votes := g.votes ++ [v], voteNext := (g.voteNext + 1) % 64 }
  else { g with votes := g.votes.set g.voteNext v, voteNext := (g.voteNext + 1) % 64, voteOvf := min (g.voteOvf + 1) 65535 }
/-- VOTE3 -/
def execEVote3 (x : Ent) (s : State) : Out :=
  onElem s 0x04 x (fun c => predOf x c (((majority c.a c.b c.c).1.map (·.pred)).getD false)) fun c s =>
    let m := majority c.a c.b c.c
    let p := predOf x c ((m.1.map (·.pred)).getD false)
    let s := if (p || m.1.isNone) && c.en && m.2 != 0 then
        let k := thKey c.core c.slot
        setReg s k (voteAppend (getReg s k) ⟨ticksOn s c.core, c.row, c.col, c.k, tr 32 ((c.p : Int) - c.j), x.imm, m.2⟩)
      else s
    launchResult s x c 1 (routeOf c) ⟨(m.1.getD c.a).data, p⟩ none

/-- DELAY: each entry's FIFO holds depth tokens (R280). -/
def execEDelay (x : Ent) (s : State) : Out :=
  let f (c : EC) : List Token := (lookup c.el.fifo c.k).getD (List.replicate (x.imm % 64 + 1) {})
  let out (c : EC) : Token := if c.en then (f c).headD {} else {}
  let pr (c : EC) : Bool := if c.en then predOf x c (out c).pred else false
  onElem s 0x05 x pr fun c s =>
    let s := if c.en then putElem s c fun e => { e with fifo := tins e.fifo c.k ((f c).drop 1 ++ [c.a]) } else s
    launchResult s x c 1 (routeOf c) ⟨(out c).data, pr c⟩ none

/-- FLAG: lines 16 to 31 of the thread of the slot (R281). -/
def execEFlag (x : Ent) (s : State) : Out :=
  onElem s 0x06 x (fun c => predOf x c c.a.pred) fun c s =>
    if predOf x c c.a.pred && 16 ≤ x.imm then
      let k := thKey c.core c.slot
      setTh s k { getTh s k with flags := (getTh s k).flags ||| 2 ^ (x.imm - 16) }
    else s
/-- ETRAP -/
def execETrap (x : Ent) (s : State) : Out :=
  onElem s 0x07 x (fun c => predOf x c c.a.pred) fun c s =>
    if predOf x c c.a.pred then elemFault s c 1 0x147 x.imm c.a.data.toNat 0 else s

/-! ## Integer (R283 to R285) -/

/-- Signed reading of 32 bits. -/
def s32 (x : Nat) : Int := sx 32 x
def execEIadd (x : Ent) (s : State) : Out := dataOp s 0x10 x fun a b _ => a + b
def execEIsub (x : Ent) (s : State) : Out := dataOp s 0x11 x fun a b _ => a + 2 ^ 32 - b
def execEImul (x : Ent) (s : State) : Out := dataOp s 0x12 x fun a b _ => tr 32 (s32 a * s32 b)
def execEImulh (x : Ent) (s : State) : Out := dataOp s 0x13 x fun a b _ => tr 32 (s32 a * s32 b / 2 ^ 32)
def execEImad (x : Ent) (s : State) : Out := dataOp s 0x14 x fun a b c => tr 32 (s32 a * s32 b + s32 c)
def execEIabs (x : Ent) (s : State) : Out := dataOp s 0x15 x fun a _ _ => (s32 a).natAbs
def execEIneg (x : Ent) (s : State) : Out := dataOp s 0x16 x fun a _ _ => tr 32 (-(s32 a))
def execEImin (x : Ent) (s : State) : Out := dataOp s 0x17 x fun a b _ => if s32 a ≤ s32 b then a else b
def execEImax (x : Ent) (s : State) : Out := dataOp s 0x18 x fun a b _ => if s32 a ≤ s32 b then b else a
def execEIminu (x : Ent) (s : State) : Out := dataOp s 0x19 x fun a b _ => min a b
def execEImaxu (x : Ent) (s : State) : Out := dataOp s 0x1A x fun a b _ => max a b
/-- ISAT: IMM[7] chooses .U, IMM[5:0] is n (R284). -/
def execEIsat (x : Ent) (s : State) : Out :=
  dataOp s 0x1B x fun a _ _ =>
    let n := x.imm % 64
    tr 32 (if bit x.imm 7 then sat (s32 a) 0 (2 ^ n - 1) else sat (s32 a) (-(2 ^ (n - 1))) (2 ^ (n - 1) - 1))
def execEShl (x : Ent) (s : State) : Out := dataOp s 0x1C x fun a b _ => a * 2 ^ (b % 32)
def execEShr (x : Ent) (s : State) : Out := dataOp s 0x1D x fun a b _ => a / 2 ^ (b % 32)
def execESar (x : Ent) (s : State) : Out := dataOp s 0x1E x fun a b _ => tr 32 (s32 a / 2 ^ (b % 32))
def execERol (x : Ent) (s : State) : Out := dataOp s 0x1F x fun a b _ => ((BitVec.ofNat 32 a).rotateLeft (b % 32)).toNat
def execEAnd (x : Ent) (s : State) : Out := dataOp s 0x20 x fun a b _ => a &&& b
def execEOr (x : Ent) (s : State) : Out := dataOp s 0x21 x fun a b _ => a ||| b
def execEXor (x : Ent) (s : State) : Out := dataOp s 0x22 x fun a b _ => a ^^^ b
def execEAndn (x : Ent) (s : State) : Out := dataOp s 0x23 x fun a b _ => a &&& (0xFFFFFFFF ^^^ b)
def execENot (x : Ent) (s : State) : Out := dataOp s 0x24 x fun a _ _ => 0xFFFFFFFF ^^^ a
def execEPopc (x : Ent) (s : State) : Out := dataOp s 0x25 x fun a _ _ => popcount 32 a
def execEClz (x : Ent) (s : State) : Out := dataOp s 0x26 x fun a _ _ => 32 - bitLen 32 a
/-- Field [hi:pos] that SB names, cut at bit 31. -/
def fieldOf (b : Nat) : Nat × Nat := (b % 32, min (b % 32 + bits b 9 5) 31)
def execEBfx (x : Ent) (s : State) : Out := dataOp s 0x27 x fun a b _ => bits a (fieldOf b).2 (fieldOf b).1
def execEBfi (x : Ent) (s : State) : Out := dataOp s 0x28 x fun a b c => setBits a (fieldOf b).2 (fieldOf b).1 c

/-! ## Truth values (R286) -/

/-- ICMP's condition. -/
def icond (cc a b : Nat) : Bool :=
  match cc with
  | 0 => a == b | 1 => a != b | 2 => s32 a < s32 b | 3 => s32 a ≤ s32 b | 4 => s32 b < s32 a | 5 => s32 b ≤ s32 a
  | 6 => a < b | 7 => a ≤ b | 8 => b < a | _ => b ≤ a
/-- FCMP's condition. -/
def fcond (cc a b : Nat) : Bool :=
  let u := isNan32 a || isNan32 b
  let x := f32 a
  let y := f32 b
  match cc with
  | 0 => fvEq x y | 1 => !fvEq x y | 2 => !u && fvLt x y | 3 => !u && !fvLt y x | 4 => !u && fvLt y x | 5 => !u && !fvLt x y
  | 6 => u | _ => !u
def execEIcmp (x : Ent) (s : State) : Out :=
  truthOp s 0x30 x (psrcOf 0x30 x) fun c => psrcOf 0x30 x c && icond x.imm c.a.data.toNat c.b.data.toNat
def execEFcmp (x : Ent) (s : State) : Out :=
  truthOp s 0x31 x (psrcOf 0x31 x) fun c => psrcOf 0x31 x c && fcond x.imm c.a.data.toNat c.b.data.toNat
/-- Data bit 0 of a token. -/
def bit0 (t : Token) : Bool := bit t.data.toNat 0
def execEPand (x : Ent) (s : State) : Out := truthOp s 0x32 x (fun _ => true) fun c => bit0 c.a && bit0 c.b
def execEPor (x : Ent) (s : State) : Out := truthOp s 0x33 x (fun _ => true) fun c => bit0 c.a || bit0 c.b
def execEPnot (x : Ent) (s : State) : Out := truthOp s 0x34 x (fun _ => true) fun c => !bit0 c.a

/-! ## Floating point (R287 to R289) -/

def execEFadd (x : Ent) (s : State) : Out := dataOp s 0x40 x fun a b _ => fAdd 6 a b
def execEFsub (x : Ent) (s : State) : Out := dataOp s 0x41 x fun a b _ => fSub 6 a b
def execEFmul (x : Ent) (s : State) : Out := dataOp s 0x42 x fun a b _ => fMul 6 a b
def execEFfma (x : Ent) (s : State) : Out := dataOp s 0x43 x fun a b c => fFma 6 a b c
def execEFmin (x : Ent) (s : State) : Out := dataOp s 0x44 x fun a b _ => fMinMax false a b
def execEFmax (x : Ent) (s : State) : Out := dataOp s 0x45 x fun a b _ => fMinMax true a b
def execEFabs (x : Ent) (s : State) : Out := dataOp s 0x46 x fun a _ _ => if isNan32 a then canonNan 6 else a % 2 ^ 31
def execEFneg (x : Ent) (s : State) : Out := dataOp s 0x47 x fun a _ _ => if isNan32 a then canonNan 6 else a ^^^ 2 ^ 31
def execEFrcp (x : Ent) (s : State) : Out := dataOp s 0x48 x fun a _ _ => fRcp a
def execEFrsq (x : Ent) (s : State) : Out := dataOp s 0x49 x fun a _ _ => fRsq a
def execEFexp2 (x : Ent) (s : State) : Out := dataOp s 0x4A x fun a _ _ => fExp2 a
def execEFlog2 (x : Ent) (s : State) : Out := dataOp s 0x4B x fun a _ _ => fLog2 a
def execEFtanh (x : Ent) (s : State) : Out := dataOp s 0x4C x fun a _ _ => fTanh a
/-- Two 16-bit lanes (R289). -/
def lanes2 (f : Nat → Nat → Nat → Nat) (a b c : Nat) : Nat :=
  f (a % 65536) (b % 65536) (c % 65536) + f (a / 65536) (b / 65536) (c / 65536) * 65536
def execEFaddB2 (x : Ent) (s : State) : Out := dataOp s 0x50 x (lanes2 fun a b _ => fAdd 7 a b)
def execEFmulB2 (x : Ent) (s : State) : Out := dataOp s 0x51 x (lanes2 fun a b _ => fMul 7 a b)
def execEFfmaB2 (x : Ent) (s : State) : Out := dataOp s 0x52 x (lanes2 fun a b c => fFma 7 a b c)
def execEFaddH2 (x : Ent) (s : State) : Out := dataOp s 0x53 x (lanes2 fun a b _ => fAdd 8 a b)
def execEFmulH2 (x : Ent) (s : State) : Out := dataOp s 0x54 x (lanes2 fun a b _ => fMul 8 a b)
def execEFfmaH2 (x : Ent) (s : State) : Out := dataOp s 0x55 x (lanes2 fun a b c => fFma 8 a b c)

/-! ## Conversions (R173, R290, R291) -/

/-- Source and destination format of a pair code. -/
def pairFmts (p : Nat) : Nat × Nat :=
  match p with
  | 0x00 => (6, 7) | 0x01 => (6, 8) | 0x02 => (6, 9) | 0x03 => (6, 10) | 0x04 => (6, 4) | 0x05 => (6, 3) | 0x06 => (6, 0)
  | 0x07 => (6, 1) | 0x08 => (7, 6) | 0x09 => (8, 6) | 0x0A => (9, 6) | 0x0B => (10, 6) | 0x0C => (4, 6) | 0x0D => (0, 6)
  | 0x0E => (0x0E, 6) | 0x0F => (4, 0) | 0x10 => (4, 3) | 0x11 => (4, 2) | 0x20 => (6, 7) | 0x21 => (6, 8) | 0x22 => (6, 9)
  | _ => (6, 10)
/-- A signed integer format, whose codes are sign-extended in a register. -/
def signedFmt (f : Nat) : Bool := f == 0x00 || f == 0x02 || f == 0x03 || f == 0x04
/-- A converted code as a 32-bit register holds it (R290). -/
def inReg (f code : Nat) : Nat := if signedFmt f then tr 32 (sx (codeWidth f) code) else code
/-- The conversion of a pair with a mode and the draws of lanes 0 and 1. -/
def cvtPair (p : Nat) (rm : RMode) (d0 d1 a b : Nat) : Nat :=
  let f := pairFmts p
  if pairTwo p then convert f.1 f.2 rm d0 a + convert f.1 f.2 rm d1 b * 2 ^ codeWidth f.2
  else inReg f.2 (convert f.1 f.2 rm d0 a)
def execECvtRn (x : Ent) (s : State) : Out := dataOp s 0x60 x fun a b _ => cvtPair x.imm .rne 0 0 a b
def execECvtRz (x : Ent) (s : State) : Out := dataOp s 0x61 x fun a b _ => cvtPair x.imm .rz 0 0 a b
def execECvtRd (x : Ent) (s : State) : Out := dataOp s 0x62 x fun a b _ => cvtPair x.imm .rd 0 0 a b
def execECvtRu (x : Ent) (s : State) : Out := dataOp s 0x63 x fun a b _ => cvtPair x.imm .ru 0 0 a b
/-- CVT.SR draws from the element's generator, which steps on an issue with P = 1 (R151, R291). -/
def execECvtSr (x : Ent) (s : State) : Out :=
  onElem s 0x64 x (fun c => predOf x c (psrcOf 0x64 x c)) fun c s =>
    let p := predOf x c (psrcOf 0x64 x c)
    let v := cvtPair x.imm .sr (genDraw c.el.gen 0) (genDraw c.el.gen 1) c.a.data.toNat c.b.data.toNat
    let s := if p then putElem s c fun e => { e with gen := genStep e.gen } else s
    launchResult s x c 2 (routeOf c) ⟨BitVec.ofNat 32 v, p⟩ none

/-! ## MX quantisation chains (R292 to R294) -/

/-- Format of IMM[1:0]. -/
def mxFmt (imm : Nat) : Nat := 0x0B + imm % 4
/-- Rounding of IMM[3:2]. -/
def mxRound (imm : Nat) : RMode := roundOf (bits imm 3 2)
/-- A NaN or an infinity. -/
def special32 (a : Nat) : Bool := match f32 a with | .num _ _ _ => false | _ => true
/-- QMAX -/
def execEQmax (x : Ent) (s : State) : Out :=
  let ch := x.imm / 64
  let n := x.imm % 64 + 1
  let st (c : EC) : Nat × Nat × Bool :=
    let k := tget c.el.qmK 0 ch
    let g := tget c.el.qmG 0 ch
    let nf := c.el.qmNf.contains ch
    if !c.en then (k, g, nf)
    else
      let a := c.a.data.toNat
      let v := c.a.pred
      (k + 1, if v && !special32 a && fvLt (f32 g) (f32 (a % 2 ^ 31)) then a % 2 ^ 31 else g, nf || (v && special32 a))
  let done (c : EC) : Bool := c.en && (st c).1 == n
  onElem s 0x68 x (fun c => predOf x c (done c)) fun c s =>
    let r := st c
    let s := if !c.en then s else putElem s c fun e =>
      let z := done c
      { e with
        qmK := tput e.qmK 0 ch (if z then 0 else r.1), qmG := tput e.qmG 0 ch (if z then 0 else r.2.1),
        qmNf := if !z && r.2.2 then nins e.qmNf ch else e.qmNf.filter (· != ch) }
    launchResult s x c 2 (routeOf c) ⟨BitVec.ofNat 32 (if done c && r.2.2 then canonNan 6 else r.2.1), predOf x c (done c)⟩ none
/-- SCLE -/
def execEScle (x : Ent) (s : State) : Out :=
  dataOp s 0x69 x fun a _ _ =>
    match f32 a with
    | .num _ 0 _ => 0
    | .num _ m e => tr 8 (sat ((Nat.log2 m : Int) + e - mxEmax (mxFmt x.imm)) (-127) 127 + 127)
    | _ => 0xFF
/-- QMX of a value with a scale register. -/
def qmxOf (imm es a : Nat) : Nat :=
  let x : Int := if es = 0 then -127 else (es : Int) - 127
  if es = 0xFF ∨ isNan32 a = true then 512
  else
    let r := mxQuant (mxFmt imm) (mxRound imm) 0 x (f32 a)
    r.1 + 256 * b2n r.2
/-- QMX -/
def execEQmx (x : Ent) (s : State) : Out :=
  let ch := x.imm / 64
  let fresh (c : EC) : Bool := c.en && c.b.pred
  let es (c : EC) : Nat := if fresh c then c.b.data.toNat % 256 else tget c.el.qxEs 0 ch
  let ps (c : EC) : Bool := c.a.pred && (fresh c || c.el.qxLatched.contains ch)
  onElem s 0x6A x (fun c => predOf x c (ps c)) fun c s =>
    let s := if fresh c then putElem s c fun e =>
      { e with qxEs := tput e.qxEs 0 ch (es c), qxLatched := nins e.qxLatched ch } else s
    launchResult s x c 2 (routeOf c) ⟨BitVec.ofNat 32 (qmxOf x.imm (es c) c.a.data.toNat), predOf x c (ps c)⟩ none

/-! ## Residue operations (R296) -/

/-- Operand modulo the entry's modulus. -/
def resArg (x : Ent) (a : Nat) : Nat := a % 1024 % modulus x.imm
def execERfwd (x : Ent) (s : State) : Out := dataOp s 0x70 x fun a _ _ => (s32 a % (modulus x.imm : Int)).toNat
def execERadd (x : Ent) (s : State) : Out := dataOp s 0x71 x fun a b _ => (resArg x a + resArg x b) % modulus x.imm
def execERsub (x : Ent) (s : State) : Out :=
  dataOp s 0x72 x fun a b _ => (resArg x a + modulus x.imm - resArg x b) % modulus x.imm
def execERmul (x : Ent) (s : State) : Out := dataOp s 0x73 x fun a b _ => resArg x a * resArg x b % modulus x.imm
def execERmac (x : Ent) (s : State) : Out :=
  dataOp s 0x74 x fun a b c => (resArg x a * resArg x b + resArg x c) % modulus x.imm

end Sys2Proof.Machine
end

