-- ==== Sys2Proof/Machine/Ports.lean ====
section
/-! DEFINITION. Element ports: LDP, STP, LDPX and STPX, their performing and replies, and the peer requests of ports (R105, R297
to R302, R385). -/

namespace Sys2Proof.Machine

/-! ## Issue -/

/-- The agent of a region's accesses (R332, R448). -/
def whoReg (core : Nat) (g : Region) : Who := ⟨core, g.part, g.scene, g.gslot, g.lc, g.voice⟩
/-- A region runs for a chorus block. -/
def regChorus (s : State) (core : Nat) (g : Region) : Bool := ((runOf s core g.starter).map (·.chorus)).getD false

/-- A port access that an issue makes: its element index, displacement, bytes, alignment and store data (R298, R299). -/
structure PortOp where
  e : Int
  disp : Int
  n : Nat
  al : Nat
  data : Nat
deriving DecidableEq, Repr
/-- The access of an opcode on its sources. -/
def portOpOf (opc : Nat) (v : TidV) (c : EC) : PortOp :=
  let x (t : Token) : Int := sx 32 t.data.toNat
  let n := max 1 (width v.fmt / 8)
  match opc with
  | 0x80 => ⟨x c.a + x c.b, 0, n, n, 0⟩
  | 0x81 => ⟨x c.a, 0, n, n, c.b.data.toNat⟩
  | 0x82 => ⟨x c.a, x c.b, 4, 4, 0⟩
  | _ => ⟨x c.a, x c.c, 4, 4, c.b.data.toNat⟩

/-- An SP access of a port takes a fabric phase from an enabled cycle on (R102, R300). -/
def postPort (s : State) (q : Req) (due : Nat) : State :=
  match q.asker with
  | .port slot row col =>
    let c := getCore s q.core
    let f : FabReq := {
      due := due, pos := q.pos, kind := 0, slot := slot, banks := [bankOf (q.place.addr % 0x800000)],
      row := row, col := col, act := .portPerform, cur := { ix := q.id } }
    setCore s q.core { c with fabQ := c.fabQ ++ [f] }
  | _ => s
/-- A request of a port starts on its way: an SP access takes the fabric phase two or three cycles on, the others the mesh (R300). -/
def launchPort (s : State) (q : Req) : State :=
  let s := { s with nextId := s.nextId + 1, reqs := s.reqs ++ [q] }
  match q.space with
  | 0 => postPort s q (nOf s q.core + 2)
  | 1 => s
  | _ => schedule s .master (s.cycle + peerOut) (.row .portPerform { ix := q.id })

/-- A port access of an issue with P = 1: the checks of R298, then its request. Stores of a chorus block outside the pool are held. -/
def portIssue (s : State) (opc : Nat) (x : Ent) (c : EC) : State :=
  let load := opc == 0x80 || opc == 0x82
  let w := whoReg c.core c.g
  let v := tidOf s c.core c.g.part x.imm
  let o := portOpOf opc v c
  let word := opc < 0x82
  match accessOf s w v o.e o.disp o.n o.al word (!load) .port with
  | .error cause => elemFault s c 1 cause (info3 x.imm v.space (if o.e < 0 then 0 else tr 48 ((elemAddr v (unlin v o.e.toNat) : Int) + o.disp)))
    (tr 64 o.e) pathE
  | .ok (addr, lo, p) =>
    let narrow := word && width v.fmt < 8
    let q : Req := {
      id := s.nextId, core := c.core, part := c.g.part, asker := .port c.slot c.row c.col, store := !load, place := p,
      bytes := if load then [] else leBytes o.n o.data, bits := if narrow then some (lo, width v.fmt) else none,
      fmt := if word then v.fmt else 0x12, tid := x.imm, len := o.n, off := addr - v.base,
      notBefore := s.cycle + peerOut, iter := s.cycle, pos := elemPos c, space := v.space, voice := regChorus s c.core c.g }
    if load then launchResult (launchPort s q) x c (latency opc v.space) (routeOf c) ⟨0, true⟩ (some q.id)
    else if !regChorus s c.core c.g then launchPort s q
    else
      let l := if narrow then leBytes 1 (setBits (leNat (heldOver (getVoice s (thKey c.core c.g.starter)) p (rdMem s p 1))) (lo + width v.fmt - 1) lo o.data) else q.bytes
      let s := signStore s c.core c.g.starter (1 + c.slot) x.imm v.base q.off l
      if v.space = 0 then launchPort s q
      else match holdStore s c.core c.g.starter c.g.part x.imm v.base q.off p l with
        | .ok s => s
        | .error cause =>
          let y := relWhy s c.core c.g.starter c.g.voice cause 0
          elemFault s c 1 cause y.i0 0 y.i2

/-- A port opcode: with P = 0 it makes no access, and a load delivers data 0 and predicate 0 at its latency (R274, R298). -/
def portOp (s : State) (opc : Nat) (x : Ent) : Out :=
  onElem s opc x (fun c => predOf x c (psrcOf opc x c)) fun c s =>
    if predOf x c (psrcOf opc x c) then portIssue s opc x c
    else if opc = 0x80 ∨ opc = 0x82 then
      launchResult s x c (latency opc (tidOf s c.core c.g.part x.imm).space) (routeOf c) {} none
    else s
def execELdp (x : Ent) (s : State) : Out := portOp s 0x80 x
def execEStp (x : Ent) (s : State) : Out := portOp s 0x81 x
def execELdpx (x : Ent) (s : State) : Out := portOp s 0x82 x
def execEStpx (x : Ent) (s : State) : Out := portOp s 0x83 x

/-! ## Performing and replies -/

/-- A fault of a request of a region: collected with the cycle's faults, and the request leaves (R302). -/
def reqFault (s : State) (q : Req) (slot eng cause i0 i1 i2 : Nat) : State :=
  let s := dropReq s q.id
  let k := thKey q.core slot
  let g := getReg s k
  if g.killed then s
  else
    let w : Why := { cause := cause, eng := eng, slot := slot, pos := q.pos, i0 := i0, i1 := i1, i2 := i2 }
    setReg s k { g with faults := if eng = 1 then g.faults ++ [w] else mergeFault g.faults w }

/-- A request with its race check on its way. -/
def asking (s : State) (q : Req) : State := { s with reqs := s.reqs.map fun p => if p.id = q.id then { p with race := 1 } else p }
/-- A port access performs: bank group, soft errors, race tag under path E, then its bytes; a load from the pool has its reply in time, and
any other load's reply takes the mesh back (R214, R299 to R301). An access that needs the grant of a tag asks for it first, and what the engine has answered
stands (R346, R348). -/
def performPort (s : State) (q : Req) (slot : Nat) : State :=
  let g := getReg s (thKey q.core slot)
  let w := whoReg q.core g
  let v := tidOf s q.core q.part q.tid
  let a := v.base + q.off
  if bankFenced s q.place q.len then reqFault s q slot 1 0x14C 0 0 0
  else if q.race = 0 ∧ raceHeld s w v q.tid a pathE q.store = false then askRace (asking s q) w v q.tid a pathE q.store 1 q.id 0
  else match q.denied, (if q.store then eccStore else eccLog) s q.place q.len q.core with
    | _, (s, false) => reqFault s q slot 1 (eccCauses q.place).2 (eccUnit q.place) q.place.addr 0
    | some (cause, i0, i1, i2), (s, true) => reqFault s q slot 1 cause i0 i1 i2
    | none, (s, true) =>
        if q.store then
          match (if q.voice && (runOf s q.core g.starter).isSome then undoLine s q.core g.starter q.part q.place.addr else .ok s) with
          | .error cause =>
            let y := relWhy s q.core g.starter g.voice cause 0
            reqFault s q slot 1 cause y.i0 0 y.i2
          | .ok s => dropReq (storeReq s q) q.id
        else
          let l := rdMem s q.place q.len
          let l := if q.voice then heldOver (getVoice s (thKey q.core g.starter)) q.place l else l
          let s := { s with reqs := s.reqs.map fun p => if p.id = q.id then { p with done := true, arrived := q.space == 0, data := l } else p }
          if q.space = 0 then s
          else schedule s .master (max (q.iter + Config.peerLatency - 1) (s.cycle + peerOut)) (.row .portReply { ix := q.id })

/-- PORT_ACCESS_PERFORM (R300): the accesses of one element perform in issue order, and one whose race check is on its way, whose way is down, or that
stands behind another, waits; an SP access then takes a later fabric phase, and a peer's a later copy phase. -/
def execPortPerform (s : State) : Out :=
  .next (match s.reqs.find? (·.id == s.cur.ix) with
    | none => s
    | some q =>
      match q.asker with
      | .port slot _ _ =>
        let held := behind s q || wayDown s q.core q.place
        if q.done ∨ q.race = 1 ∨ q.space = 1 then s
        else if q.space = 0 ∧ (s.phase ≠ 3 ∨ held = true) then postPort s q (nOf s q.core + (if held then 2 else 0))
        else if held then schedule s .master (s.cycle + 2) (.row .portPerform { ix := q.id })
        else performPort s q slot
      | _ => s)

/-- PORT_REPLY (R301): the reply is at the port, once its way back is up (R410); what it holds goes on when the cycle ends (R304). -/
def execPortReply (s : State) : Out :=
  .next (match s.reqs.find? (·.id == s.cur.ix) with
    | none => s
    | some q =>
      match q.asker with
      | .port _ _ _ =>
        if backDown s q.core q.place then schedule s .master (s.cycle + 1) (.row .portReply { ix := q.id })
        else { s with reqs := s.reqs.map fun p => if p.id = q.id then { p with arrived := true } else p }
      | _ => s)

/-- STALL_WIRE_FREEZE (R301): the region counts no cycle until the reply of the request has arrived. -/
def execStallFreeze (s : State) : Out :=
  let k := thKey s.cur.core s.cur.slot
  let g := getReg s k
  .next (if g.stalls.contains s.cur.ix then s else setReg s k { g with stalls := g.stalls ++ [s.cur.ix] })

/-- The data that a load delivers (R299): sign-extended for signed integer formats, zero-extended for the others. -/
def portData (q : Req) : Token :=
  let x := leNat q.data
  let n := match q.bits with
    | some (lo, n) => bits x (lo + n - 1) lo
    | none => x
  ⟨BitVec.ofNat 32 (if signedFmt q.fmt then tr 32 (sx (width q.fmt) n) else n), true⟩

end Sys2Proof.Machine
end

