-- ==== Sys2Proof/Machine/Array.lean ====
section
/-! DEFINITION. Array opcodes at the control element, and the steps of preloads, passes and ACLR (R305 to R322). -/

namespace Sys2Proof.Machine

/-! ## Formats and shapes (R305, R306) -/

/-- An array format: A and W operand formats, block k_b × n_b, capability bit, bytes of an AC entry, AC TID format. -/
structure AFmt where
  a : Nat
  w : Nat
  kb : Nat
  nb : Nat
  cap : Nat
  ac : Nat
  acFmt : Nat
deriving DecidableEq, Repr, Inhabited
/-- The table of R305. -/
def aFmt (f : Nat) : AFmt :=
  match f with
  | 0 => ⟨0x00, 0x00, 4, 4, 24, 8, 0x0F⟩
  | 1 => ⟨0x01, 0x00, 4, 4, 24, 8, 0x0F⟩
  | 2 => ⟨0x02, 0x02, 8, 4, 25, 8, 0x10⟩
  | 3 => ⟨0x0B, 0x0B, 4, 4, 24, 16, 0x0F⟩
  | 4 => ⟨0x09, 0x09, 4, 2, 26, 4, 0x06⟩
  | 5 => ⟨0x0A, 0x0A, 4, 2, 26, 4, 0x06⟩
  | 6 => ⟨0x0C, 0x0C, 4, 2, 26, 4, 0x06⟩
  | 7 => ⟨0x0D, 0x0D, 4, 2, 26, 4, 0x06⟩
  | _ => ⟨0x07, 0x07, 2, 2, 27, 4, 0x06⟩
/-- Rows P and columns Q of a region's elements. -/
def rP (g : Region) : Nat := 4 * hH g.hdr.toNat
def rQ (g : Region) : Nat := 4 * hW g.hdr.toNat
/-- Stored K, N, the factor g, logical K and the row period D of a pass. -/
def kStored (g : Region) (f : Nat) : Nat := (aFmt f).kb * rP g
def nCols (g : Region) (f : Nat) : Nat := (aFmt f).nb * rQ g
def sparseG (g : Region) : Nat := 2 ^ hSparse g.hdr.toNat
def kLogical (g : Region) (f : Nat) : Nat := sparseG g * kStored g f
def rowPeriod (g : Region) : Nat := if hSparse g.hdr.toNat = 2 then 2 else 1

/-! ## Reading tensors by the array -/

/-- A TID's element (i0, i1) as a linear index. -/
def lin2 (t : TidV) (i0 i1 : Nat) : Nat := i0 + t.dim 0 * i1
/-- The place of element (i0, i1) for an agent, or its cause (R99, R101, R110, R124); an index beyond its dimension names no element. -/
def elemPlace (s : State) (w : Who) (tid : Nat) (i0 i1 : Nat) (store : Bool) (ag : Agent) : Except Nat (Nat × Nat × Place) :=
  let t := tidOf s w.core w.part tid
  let n := max 1 (width t.fmt / 8)
  let e := if i0 < t.dim 0 ∧ i1 < t.dim 1 then lin2 t i0 i1 else t.dim 0 * t.dim 1 * t.dim 2 * t.dim 3
  accessOf s w t e 0 n n false store ag
/-- The code of an element. -/
def elemCode (s : State) (w : Who) (tid : Nat) (i0 i1 : Nat) (ag : Agent) : Except Nat Nat :=
  let t := tidOf s w.core w.part tid
  match elemPlace s w tid i0 i1 false ag with
  | .error c => .error c
  | .ok (_, b, p) =>
    let n := max 1 (width t.fmt / 8)
    let x := leNat (rdMem s p n)
    if bankFenced s p n then .error 0x14C else .ok (if width t.fmt < 8 then bits x (b + width t.fmt - 1) b else x)
/-- Codes of n elements of a row from column i0. -/
def rowCodes (s : State) (w : Who) (tid i0 i1 n : Nat) (ag : Agent) : Except Nat (List Nat) :=
  (List.range n).foldrM (fun i l => (elemCode s w tid (i0 + i) i1 ag).map (· :: l)) []
/-- Fixed scale code of an MX TID without a scale TID (R144). -/
def fixedScale (t : TidV) : Nat := (sat (sx 8 t.scale) (-127) 127 + 127).toNat
/-- Scale code (b, i1) of a TID. -/
def scaleCode (s : State) (w : Who) (tid b i1 : Nat) (ag : Agent) : Except Nat Nat :=
  let t := tidOf s w.core w.part tid
  if t.sclt then elemCode s w t.scale b i1 ag else .ok (fixedScale t)

/-- Pool offsets of the bytes of n elements of a row, without checks: first offset and length. -/
def rowSpan (s : State) (core part tid i0 i1 n : Nat) : Nat × Nat :=
  let t := tidOf s core part tid
  let a := elemAddr t (i0, i1, 0, 0) % 2 ^ 23
  (a, cdiv (i0 * width t.fmt % 8 + n * width t.fmt) 8)
/-- Banks of the lines that spans of bytes touch, each once. -/
def spanBanks (l : List (Nat × Nat)) : List Nat :=
  l.foldl (fun b p => (List.range ((p.1 % 64 + p.2 + 63) / 64)).foldl (fun b i => nins b (bankOf (p.1 + 64 * i))) b) []
/-- A span touches a fenced bank group of a core. -/
def spanFenced (s : State) (core : Nat) (l : List (Nat × Nat)) : Bool := (spanBanks l).any fun b => !bit (capMask s core) (39 + b / 8)
/-- Race tags of a span of a TID's bytes, under a path (R214, R346): each granule once. -/
def raceSpan (s : State) (w : Who) (tid path : Nat) (store : Bool) (a n : Nat) : Except (Nat × Nat × Nat × Nat) State :=
  let t := tidOf s w.core w.part tid
  let g0 := (a - t.base) / 4096
  let g1 := (a + n - 1 - t.base) / 4096
  (List.range (g1 + 1 - g0)).foldlM (fun s i => raceCheck s w t tid (t.base + 4096 * (g0 + i)) path store) s
/-- Race tags of n elements of a row of a TID from column i0 (R319). -/
def raceRow (s : State) (w : Who) (tid path : Nat) (store : Bool) (i0 i1 n : Nat) : Except (Nat × Nat × Nat × Nat) State :=
  let t := tidOf s w.core w.part tid
  raceSpan s w tid path store (elemAddr t (i0, i1, 0, 0)) (rowSpan s w.core w.part tid i0 i1 n).2
/-- Race tags of element (b, i1) of the scale TID of a TID that has one (R144, R319). -/
def raceScale (s : State) (w : Who) (tid path b i1 n : Nat) : Except (Nat × Nat × Nat × Nat) State :=
  let t := tidOf s w.core w.part tid
  if t.sclt then raceRow s w t.scale path false b i1 n else .ok s
/-- The check bits of spans of a core's pool that an access reads: the first uncorrectable error by its place (R372, log 49). -/
def eccSpans (s : State) (core : Nat) (l : List (Nat × Nat)) : State × Option Place :=
  l.foldl (fun x p => match x with
    | (s, none) => let q : Place := ⟨.dev, poolAddr core p.1⟩
                   let r := eccLog s q p.2 core
                   (r.1, if r.2 then none else some q)
    | x => x) (s, none)

/-! ## Issue of an array opcode (R307 to R310) -/

/-- An array opcode at the control element: capability traps, then its effect on an issue with P = 1. -/
def onArray (s : State) (opc : Nat) (x : Ent) (caps : List Nat) (f : EC → State → State) : Out :=
  onElem s opc x (fun _ => false) fun c s =>
    match missing s c.core caps with
    | some b => elemFault s c 2 (capCause b) b (encEnt opc x) 0
    | none => if predOf x c (psrcOf opc x c) then f c s else s
/-- 0x148 and 0x149 with the operand word at fault (R330). -/
def seqFault (s : State) (c : EC) (word : Nat) : State := elemFault s c 2 0x148 word word 0
def opFault (s : State) (c : EC) (word : Nat) : State := elemFault s c 2 0x149 word word 0
def wordA (c : EC) : Nat := c.a.data.toNat
def wordB (c : EC) : Nat := c.b.data.toNat
def wordC (c : EC) : Nat := c.c.data.toNat

/-- A drain of a slot is in flight (R309). -/
def draining (s : State) (core slot : Nat) : Bool := (getCore s core).drains.any (·.slot == slot)
/-- The A input of some pass is in flight (R309, R316). -/
def aInput (g : Region) : Bool :=
  g.passes.any fun p => g.count ≤ p.start + (if p.src = 1 then 24 else 4) + rowPeriod g * p.rows - 1
/-- A weight slot is loaded under the current format. -/
def slotLoaded (g : Region) (i : Nat) : Bool :=
  match g.fmt with
  | none => false
  | some f => tget g.wFmt 0 i == f + 1

/-- Schedule a fabric-phase request of an array operation at a counted cycle of its region. -/
def postAt (s : State) (c : EC) (when_ kind : Nat) (i : Instr) (u : Cur) : State :=
  schedule s (.region (thKey c.core c.slot)) when_ (.post c.core kind c.slot c.row c.col i { u with core := c.core, slot := c.slot })
/-- Several of them. -/
def postAll (s : State) (c : EC) (kind : Nat) (i : Instr) (l : List (Nat × Cur)) : State :=
  l.foldl (fun s p => postAt s c p.1 kind i p.2) s

/-- AMODE (R311): the format takes effect with the end of this cycle. -/
def execAMode (x : Ent) (s : State) : Out :=
  let f := x.imm % 16
  onArray s 0xA0 x [(aFmt f).cap] fun c s =>
    let k := thKey c.core c.slot
    let g := getReg s k
    let mx := f == 3 || f == 6 || f == 7
    if g.preload.isSome || !g.passes.isEmpty || !g.clear.isEmpty || draining s c.core c.slot then seqFault s c f
    else if mx && (hH g.hdr.toNat != 2 || hSparse g.hdr.toNat != 0) then opFault s c f
    else if f ≤ 3 && !hChk g.hdr.toNat && bit g.opuse.toNat 30 then opFault s c f
    else setReg s k { g with fmtNext := some f }

/-- Checks of a preload (R312). -/
def preloadOk (s : State) (c : EC) (f n0 w0 ix wt : Nat) : Bool :=
  let g := c.g
  let t := tidOf s c.core g.part wt
  let i := tidOf s c.core g.part ix
  t.valid && t.space == 0 && t.rank == 2 && t.fmt == (aFmt f).w && n0 + nCols g f ≤ t.dim 0 && w0 + kStored g f ≤ t.dim 1
  && (if hSparse g.hdr.toNat = 0 then ix == 0xFF
      else i.valid && i.space == 0 && i.fmt == 0x01 && (List.range 4).all fun d => i.dim d == t.dim d)

/-- WPRE.I and WPRE.A (R312). -/
def wpre (s : State) (x : Ent) (active : Bool) (caps : List Nat) : Out :=
  onArray s 0xA1 x caps fun c s =>
    let k := thKey c.core c.slot
    let g := getReg s k
    let b := wordB c
    match g.fmt with
    | none => seqFault s c b
    | some f =>
      let n0 := bits (wordA c) 31 16
      let w0 := bits (wordA c) 15 0
      if g.preload.isSome || (active && !g.passes.isEmpty) then seqFault s c b
      else if bits b 31 16 ≠ 0 ∨ !preloadOk s c f n0 w0 (bits b 15 8) (b % 256) then opFault s c b
      else
        let id := s.nextId
        let slot := if active then g.wActive else 1 - g.wActive
        let p : Preload := {
          id := id, active := active, start := g.count, tid := b % 256, ix := bits b 15 8, n0 := n0, w0 := w0
          fmt := f, pos := elemPos c }
        let s := setReg { s with nextId := id + 1 } k { g with preload := some p, wFmt := tput g.wFmt 0 slot 0 }
        let s := postAll s c 2 .weightFetch ((List.range (kStored g f / 2)).map fun j => (g.count + 2 + 2 * j, { ix := j, val := id }))
        schedule s (.region k) (g.count + kStored g f + 9) (.row .preloadComplete { core := c.core, slot := c.slot, val := id })
def execAWpreI (x : Ent) (s : State) : Out := wpre s x false [31]
def execAWpreA (x : Ent) (s : State) : Out := wpre s x true []

/-- WSWAP (R314). -/
def execAWswap (x : Ent) (s : State) : Out :=
  onArray s 0xA2 x [31] fun c s =>
    let k := thKey c.core c.slot
    let g := getReg s k
    if g.preload.isSome || !g.passes.isEmpty || !slotLoaded g (1 - g.wActive) then seqFault s c 0
    else setReg s k { g with wActive := 1 - g.wActive }

/-- The AC TID of a pass, ACLR or drain lies in SP space and wholly in the AC area (R315). -/
def acTidOk (s : State) (core part tid : Nat) : Bool :=
  let t := tidOf s core part tid
  let sz := max 1 (width t.fmt / 8)
  t.valid && t.space == 0 && (
    let last := elemAddr t (t.dim 0 - 1, t.dim 1 - 1, t.dim 2 - 1, t.dim 3 - 1)
    areaOk s core t.base (last + sz - t.base) .acUnit)
/-- Columns of the AC TID that a pass of a format takes (R315). -/
def acCols (f n : Nat) : Nat := if f = 3 then 2 * n else n

/-- The A source of a pass is one it may take (R315). -/
def aSourceOk (s : State) (c : EC) (f src aTid : Nat) : Bool :=
  let g := c.g
  let t := tidOf s c.core g.part aTid
  match src with
  | 0 => t.valid && t.space == 0 && t.fmt == (aFmt f).a
  | 1 => t.valid && t.space == 1 && t.fmt == (aFmt f).a
    && bits t.base 47 42 < nlcOf s g.scene g.gslot
    && clusterOf (coreOf s g.scene g.gslot (bits t.base 47 42) g.voice) == clusterOf c.core
  | _ => aTid == 0xFF
/-- The region slot whose bypass is bound to a slot (R321). -/
def binderOf (s : State) (core slot : Nat) : Option Nat :=
  (List.range 4).find? fun o => (getReg s (thKey core o)).placed && (getReg s (thKey core o)).bypTo == some slot
/-- Rows of K_L elements of w bits that a bypass buffer of 16 KiB holds (R321). -/
def bypDepth (kl w : Nat) : Nat := 131072 / (kl * w)
/-- Element (row, column) of a bypass buffer, kept in units of 4 bits. -/
def bypGet (b : Tab Nat) (kl w r c : Nat) : Nat :=
  (List.range (w / 4)).foldl (fun x i => x + tget b 0 ((r * kl + c) * (w / 4) + i) * 16 ^ i) 0
/-- Write it. -/
def bypPut (b : Tab Nat) (kl w r c v : Nat) : Tab Nat :=
  (List.range (w / 4)).foldl (fun b i => tput b 0 ((r * kl + c) * (w / 4) + i) (v / 16 ^ i % 16)) b

/-- APASS (R315, R316). -/
def execAPass (x : Ent) (s : State) : Out :=
  onArray s 0xA3 x [] fun c s =>
    let k := thKey c.core c.slot
    let g := getReg s k
    let src := bits x.imm 7 6
    let b := wordB c
    let k0 := bits (wordA c) 31 16
    let m0 := bits (wordA c) 15 0
    let h0 := bits (wordC c) 15 0
    let m := bits b 31 16 + 1
    let binder := binderOf s c.core c.slot
    let by_ := getReg s (thKey c.core (binder.getD 0))
    match g.fmt with
    | none => seqFault s c b
    | some f =>
      let t := tidOf s c.core g.part (bits b 15 8)
      let at_ := tidOf s c.core g.part (b % 256)
      if !slotLoaded g g.wActive || aInput g || (src = 2 && (binder.isNone || by_.bypRows < m0 + m)) then seqFault s c b
      else if bits (wordC c) 31 16 ≠ 0 then opFault s c (wordC c)
      else if src = 3 || !acTidOk s c.core g.part (bits b 15 8) || t.fmt != (aFmt f).acFmt
          || t.dim 0 < acCols f (nCols g f) || !aSourceOk s c f src (b % 256)
          || (src = 2 && width by_.bypFmt != width (aFmt f).a) then opFault s c b
      else if t.dim 1 < h0 + m then opFault s c (wordC c)
      else if src < 2 && (at_.dim 0 < k0 + kLogical g f || at_.dim 1 < m0 + m) then opFault s c (wordA c)
      else if src = 2 && (k0 != 0 || bypDepth (kLogical g f) (width by_.bypFmt) < m0 + m) then opFault s c (wordA c)
      else if isMx (aFmt f).a && k0 % 32 != 0 then opFault s c (wordA c)
      else
        let id := s.nextId
        let d := rowPeriod g
        let e0 := g.count + (if src = 1 then 24 else 4)
        let tail := rP g + rQ g + 10
        let p : Pass := {
          id := id, start := g.count, src := src, ovw := bit x.imm 3, k0 := k0, m0 := m0, h0 := h0, rows := m, acTid := bits b 15 8,
          aTid := b % 256, wsel := g.wActive, wFmt := f, pos := elemPos c }
        let s := setReg { s with nextId := id + 1 } k { g with passes := g.passes ++ [p] }
        let fetches : List (Nat × Cur) :=
          if src = 0 then ((List.range m).filter fun i => d = 2 ∨ i % 2 = 0).map fun i => (g.count + 1 + d * i, { ix := id, val := i })
          else []
        let s := postAll s c 1 .aOperandFetch fetches
        let s := if src ≠ 0 then (List.range m).foldl (fun s i =>
            schedule s (.region k) ((if src = 1 then g.count + 1 else e0) + d * i) (.row .aOperandFetch { core := c.core, slot := c.slot, ix := id, val := i })) s
          else s
        let s := postAll s c 3 .acAccumulate ((List.range m).map fun i => (e0 + d * i + tail, { ix := id, val := i }))
        schedule s (.region k) (e0 + d * m + tail + 1) (.row .passComplete { core := c.core, slot := c.slot, ix := id })

/-- ACLR (R318). -/
def execAClr (x : Ent) (s : State) : Out :=
  onArray s 0xA5 x [] fun c s =>
    let k := thKey c.core c.slot
    let g := getReg s k
    let b := wordB c
    let m := bits (wordA c) 31 16 + 1
    let h0 := bits (wordA c) 15 0
    let t := tidOf s c.core g.part (b % 256)
    if !g.passes.isEmpty || draining s c.core c.slot then seqFault s c b
    else if b / 256 ≠ 0 ∨ !acTidOk s c.core g.part (b % 256) then opFault s c b
    else if (match g.fmt with | some f => t.fmt != (aFmt f).acFmt || t.dim 0 < acCols f (nCols g f) | none => false) then opFault s c b
    else if t.dim 1 < h0 + m then opFault s c (wordA c)
    else
      let id := s.nextId
      let q : Clear := { id := id, start := g.count, tid := b % 256, h0 := h0, rows := m, pos := elemPos c }
      let s := setReg { s with nextId := id + 1 } k { g with clear := g.clear ++ [q] }
      postAll s c 3 .aclrZeroWrite ((List.range (cdiv m 2)).map fun j => (g.count + 1 + 2 * j, { ix := j, val := id }))

/-- ABIND (R321). -/
def execABind (x : Ent) (s : State) : Out :=
  onArray s 0xA6 x [] fun c s =>
    let k := thKey c.core c.slot
    let g := getReg s k
    let o := x.imm % 4
    let t := getReg s (thKey c.core o)
    if draining s c.core c.slot then seqFault s c x.imm
    else if !t.placed || t.part != g.part || !hArray t.hdr.toNat then opFault s c x.imm
    else match t.fmt with
      | none => opFault s c x.imm
      | some f =>
        setReg s k { g with bypTo := some o, bypFmt := (aFmt f).a, bypKl := kLogical t f }
/-- ABIND.OFF (R321). -/
def execABindOff (x : Ent) (s : State) : Out :=
  onArray s 0xA6 x [] fun c s =>
    let k := thKey c.core c.slot
    let g := getReg s k
    if draining s c.core c.slot then seqFault s c x.imm else setReg s k { g with bypTo := none }

/-! ## Preload (R312, R313) -/

/-- A fault of an array operation after its issue. -/
def arrFault (s : State) (core slot pos cause i0 i1 i2 : Nat) : State :=
  let k := thKey core slot
  let g := getReg s k
  setReg s k { g with faults := mergeFault g.faults { cause := cause, eng := 2, slot := slot, pos := pos, i0 := i0, i1 := i1, i2 := i2 } }
/-- An uncorrectable error that an array operation meets (R372). -/
def arrEcc (s : State) (core slot pos : Nat) (p : Place) : State := arrFault s core slot pos (eccCauses p).2 (eccUnit p) p.addr 0
/-- An address fault of an operand. -/
def arrAddr (s : State) (core slot pos cause tid e : Nat) : State :=
  let t := tidOf s core (getReg s (thKey core slot)).part tid
  arrFault s core slot pos cause (info3 tid t.space (elemAddr t (unlin t e))) e pathA

/-- What stops the access of an operand: a fenced bank group, or an address fault (R124, R180). -/
def arrStop (s : State) (core slot pos cause tid e : Nat) : State :=
  if cause = 0x14C then arrFault s core slot pos cause 0 0 0 else arrAddr s core slot pos cause tid e
/-- The index bytes of two stored rows are acceptable: bits [7:3] zero, and ascending within each group of a column (R313). -/
def indexOk (g : Region) (slot n r : Nat) : Bool :=
  let cnt := if hSparse g.hdr.toNat = 1 then 4 else 2
  let at_ (r c : Nat) : Nat := tget g.wIndex 0 (slot * 65536 + r * 256 + c)
  [2 * r, 2 * r + 1].all fun r => (List.range n).all fun c =>
    at_ r c < 8 && (r % cnt == 0 || at_ (r - 1) c < at_ r c)

/-- Store a row of codes under the keys of a weight table. -/
def fillRow (t : Tab Nat) (slot r : Nat) (l : List Nat) : Tab Nat :=
  l.zipIdx.foldl (fun t p => tput t 0 (slot * 65536 + r * 256 + p.2) p.1) t

/-- WEIGHT_FETCH (R312): stored rows 2j and 2j + 1, with their index bytes in a sparse slot, under the format of the preload's issue: address checks, then race
tags (R124), then soft errors. -/
def execWeightFetch (s : State) : Out :=
  let core := s.cur.core
  let sl := s.cur.slot
  let k := thKey core sl
  let g := getReg s k
  let j := s.cur.ix
  .next (match g.preload with
    | some p =>
      if p.id ≠ s.cur.val ∨ p.bad = true then s
      else
        let w := whoReg core g
        let n := nCols g p.fmt
        let slot := if p.active then g.wActive else 1 - g.wActive
        let rows : List Nat := [2 * j, 2 * j + 1]
        let spans := rows.flatMap fun r => rowSpan s core g.part p.tid p.n0 (p.w0 + r) n ::
          (if p.ix = 0xFF then [] else [rowSpan s core g.part p.ix p.n0 (p.w0 + r) n])
        let read (g : Except (Nat × Nat × Nat) Region) (r : Nat) : Except (Nat × Nat × Nat) Region :=
          match g with
          | .error e => .error e
          | .ok g =>
            match rowCodes s w p.tid p.n0 (p.w0 + r) n .fetch, (if p.ix = 0xFF then .ok [] else rowCodes s w p.ix p.n0 (p.w0 + r) n .fetch) with
            | .ok l, .ok i => .ok { g with weights := fillRow g.weights slot r l, wIndex := fillRow g.wIndex slot r i }
            | .error c, _ => .error (c, p.tid, r)
            | _, .error c => .error (c, p.ix, r)
        let race := (rows.flatMap fun r => (p.tid, r) :: (if p.ix = 0xFF then [] else [(p.ix, r)])).foldlM
          (fun s x => raceRow s w x.1 pathA false p.n0 (p.w0 + x.2) n) s
        match rows.foldl read (.ok g), race with
        | .error (c, tid, r), _ => arrStop s core sl p.pos c tid (lin2 (tidOf s core g.part tid) p.n0 (p.w0 + r))
        | .ok _, .error (c, i0, i1, i2) => arrFault s core sl p.pos c i0 i1 i2
        | .ok g, .ok s => match eccSpans s core spans with
          | (s, some q) => arrEcc s core sl p.pos q
          | (s, none) =>
            if p.ix ≠ 0xFF ∧ !indexOk g slot n j then
              arrFault (setReg s k { g with preload := some { p with bad := true } }) core sl p.pos 0x149 (p.ix * 256 + p.tid) (p.ix * 256 + p.tid) 0
            else setReg s k g
    | none => s)

/-- PRELOAD_COMPLETE (R312): the slot is loaded under the format of the preload's issue, with each column's scale code for an MX format. -/
def execPreloadComplete (s : State) : Out :=
  let core := s.cur.core
  let sl := s.cur.slot
  let k := thKey core sl
  let g := getReg s k
  .next (match g.preload with
    | some p =>
      let f := p.fmt
      if p.id ≠ s.cur.val then s
      else if p.bad then setReg s k { g with preload := none }
      else
        let w := whoReg core g
        let slot := if p.active then g.wActive else 1 - g.wActive
        let n := nCols g f
        let cols := if isMx (aFmt f).w then List.range n else []
        let codes := cols.map fun i => scaleCode s w p.tid (p.n0 + i) 0 .fetch
        let bad := codes.zipIdx.findSome? fun x => match x.1 with
          | .error c => some (c, x.2)
          | .ok _ => none
        let race := if cols.isEmpty then .ok s else raceScale s w p.tid pathA p.n0 0 n
        match bad, race with
        | some (c, i), _ => arrAddr (setReg s k { g with preload := none }) core sl p.pos c (tidOf s core g.part p.tid).scale (p.n0 + i)
        | none, .error (c, i0, i1, i2) => arrFault (setReg s k { g with preload := none }) core sl p.pos c i0 i1 i2
        | none, .ok s =>
          let l := codes.map fun x => match x with
            | .ok v => v
            | .error _ => 0
          setReg s k { g with
            preload := none, wFmt := tput g.wFmt 0 slot (f + 1)
            wScale := l.zipIdx.foldl (fun t q => tput t 0 (slot * 256 + q.2) q.1) g.wScale }
    | none => s)

/-! ## A operands (R315, R316) -/

/-- Codes of row m of a pass with the row's scale code first, read through its TID. -/
def aRow (s : State) (core slot : Nat) (p : Pass) (m : Nat) (ag : Agent) : Except Nat (List Nat) :=
  let g := getReg s (thKey core slot)
  let w := whoReg core g
  let ea := if isMx (aFmt p.wFmt).a then scaleCode s w p.aTid (p.k0 / 32) (p.m0 + m) ag else .ok 127
  match ea, rowCodes s w p.aTid p.k0 (p.m0 + m) (kLogical g p.wFmt) ag with
  | .ok e, .ok l => .ok (e :: l)
  | .error c, _ => .error c
  | _, .error c => .error c
/-- A row of a pass has arrived. -/
def rowArrives (s : State) (core slot id m : Nat) (l : List Nat) : State :=
  let k := thKey core slot
  let g := getReg s k
  setReg s k { g with passes := g.passes.map fun p => if p.id = id then { p with arrived := tins p.arrived m l } else p }
/-- Rows that the request for row m reads: two of a period of one cycle (R316). -/
def rowsOf (g : Region) (p : Pass) (m : Nat) : List Nat :=
  if rowPeriod g = 2 ∨ p.src = 1 then [m] else [m, m + 1].filter (· < p.rows)
/-- Pieces of a row, one for each pool line it touches: offset from the row's first byte, and length. -/
def linePieces (a n : Nat) : List (Nat × Nat) :=
  (List.range ((a % 64 + n + 63) / 64)).map fun i =>
    let lo := max a (a / 64 * 64 + 64 * i)
    let hi := min (a + n) (a / 64 * 64 + 64 * (i + 1))
    (lo - a, hi - lo)

/-- Race tags of the rows of a pass and of their scales (R319): a PEER row's are consulted as its requests are sent. -/
def raceRows (s : State) (w : Who) (g : Region) (p : Pass) (rows : List Nat) : Except (Nat × Nat × Nat × Nat) State :=
  if p.src = 2 then .ok s
  else rows.foldlM (fun s i => do
    let s ← raceRow s w p.aTid pathA false p.k0 (p.m0 + i) (kLogical g p.wFmt)
    if isMx (aFmt p.wFmt).a then raceScale s w p.aTid pathA (p.k0 / 32) (p.m0 + i) 1 else .ok s) s
/-- A_OPERAND_FETCH (R316): an SP source reads its rows at once; a PEER source sends a request for each line of the row; a bypass
row is read in the cycle in which it enters. Address checks come before race tags (R124). -/
def execAOperandFetch (s : State) : Out :=
  let core := s.cur.core
  let sl := s.cur.slot
  let m := s.cur.val
  let g := getReg s (thKey core sl)
  .next (match g.passes.find? (·.id == s.cur.ix) with
    | none => s
    | some p =>
      let w := whoReg core g
      let t := tidOf s core g.part p.aTid
      let n := kLogical g p.wFmt
      let spans := (rowsOf g p m).map fun i => rowSpan s core g.part p.aTid p.k0 (p.m0 + i) n
      let race := raceRows s w g p (rowsOf g p m)
      if p.src = 2 then
        match binderOf s core sl with
        | none => s
        | some o =>
          let h := getReg s (thKey core o)
          rowArrives s core sl p.id m (127 :: (List.range n).map fun c => bypGet h.byp n (width h.bypFmt) (p.m0 + m) c)
      else if p.src = 1 then
        let first := lin2 t p.k0 (p.m0 + m)
        let len := (rowSpan s core g.part p.aTid p.k0 (p.m0 + m) n).2
        match accessOf s w t first 0 len (max 1 (width t.fmt / 8)) false false .peer, race with
        | .error c, _ => arrAddr s core sl p.pos c p.aTid first
        | .ok _, .error (c, i0, i1, i2) => arrFault s core sl p.pos c i0 i1 i2
        | .ok (_, _, pl), .ok s =>
          (linePieces pl.addr len).foldl (fun s x =>
            let q : Req := {
              id := s.nextId, core := core, part := g.part, asker := .aRow sl p.id m, store := false,
              place := ⟨.dev, pl.addr + x.1⟩, bytes := [], dst := x.1, len := x.2, tid := p.aTid,
              notBefore := s.cycle + peerOut - 1, iter := s.cycle - 1, pos := p.pos, space := 1 }
            { s with nextId := s.nextId + 1, reqs := s.reqs ++ [q] }) s
      else
        let codes := (rowsOf g p m).map fun i => (i, aRow s core sl p i .fetch)
        match codes.findSome? (fun x => match x.2 with
          | .error c => some (x.1, c)
          | .ok _ => none), race with
        | some (i, c), _ => arrStop s core sl p.pos c p.aTid (lin2 t p.k0 (p.m0 + i))
        | none, .error (c, i0, i1, i2) => arrFault s core sl p.pos c i0 i1 i2
        | none, .ok s => match eccSpans s core spans with
          | (s, some q) => arrEcc s core sl p.pos q
          | (s, none) => codes.foldl (fun s x => match x.2 with
            | .ok l => rowArrives s core sl p.id x.1 l
            | .error _ => s) s)

/-- Elements of a byte string of a row, from the bit lo of its first byte. -/
def codesOf (fmt : Nat) (l : List Byte) (lo n : Nat) : List Nat :=
  let x := leNat l / 2 ^ lo
  (List.range n).map fun i => x / 2 ^ (i * width fmt) % 2 ^ width fmt

/-- A peer request of an array row performs at the owner (R16, R105, R316): one read serves every core of the cluster that asks for
the same line in this copy phase. A row whose lines have all been read arrives. -/
def performARow (s : State) (q : Req) (slot : Nat) : State :=
  let same (p : Req) : Bool := !p.done && p.place == q.place && p.len == q.len && clusterOf p.core == clusterOf q.core
    && p.notBefore ≤ s.cycle && (match p.asker with | .aRow _ _ _ => true | _ => false)
  match eccLog s q.place q.len q.core with
  | (s, false) => reqFault s q slot 2 (eccCauses q.place).2 (eccUnit q.place) q.place.addr 0
  | (s, true) =>
  let l := rdMem s q.place q.len
  let hits := s.reqs.filter same
  let s := { s with reqs := s.reqs.map fun p => if same p then { p with done := true, data := l } else p }
  hits.foldl (fun s p => schedule s .master (max (p.iter + Config.peerLatency - 1) (s.cycle + peerOut))
    (.row .peerRequest { ix := p.id, flag := true })) s
/-- The line of an array row is back: with the last of its row the row has arrived. -/
def aRowBack (s : State) (q : Req) (slot pass m : Nat) : State :=
  let k := thKey q.core slot
  let s := { s with reqs := s.reqs.map fun p => if p.id = q.id then { p with arrived := true } else p }
  let g := getReg s k
  let mine := s.reqs.filter fun p => p.core == q.core && p.asker == .aRow slot pass m
  if mine.any (!·.arrived) then s
  else match g.passes.find? (·.id == pass) with
    | none => s
    | some p =>
      let bytes := mine.flatMap (·.data)
      let t := tidOf s q.core g.part p.aTid
      let ea := if isMx (aFmt p.wFmt).a then scaleCode s (whoReg q.core g) p.aTid (p.k0 / 32) (p.m0 + m) .peer else .ok 127
      let s := { s with reqs := s.reqs.filter fun p => !(p.core == q.core && p.asker == .aRow slot pass m) }
      match ea with
      | .error c => arrAddr s q.core slot p.pos c t.scale (p.k0 / 32)
      | .ok e => rowArrives s q.core slot pass m (e :: codesOf t.fmt bytes (p.k0 * width t.fmt % 8) (kLogical g p.wFmt))

/-- PEER_REQUEST (R105): a request is served at the owning pool in a copy phase; the reply of an array row takes the cluster
network back (flag), and waits where that is down (R410). -/
def execPeerRequest (s : State) : Out :=
  .next (match s.reqs.find? (·.id == s.cur.ix) with
    | none => s
    | some q =>
      match q.asker with
      | .thread t => if q.done || behind s q then s else performThread s q t
      | .port slot _ _ => if q.done || q.race == 1 || behind s q then s else performPort s q slot
      | .aRow slot pass m =>
        if s.cur.flag then
          if backDown s q.core q.place then schedule s .master (s.cycle + 1) (.row .peerRequest { ix := q.id, flag := true })
          else aRowBack s q slot pass m
        else if q.done then s
        else if bankFenced s q.place q.len then reqFault s q slot 2 0x14C 0 0 0
        else performARow s q slot
      | .spill _ _ => s)

/-! ## Accumulation (R317) -/

/-- A weight that takes part in a product: stored code and logical K position of stored row r in column n. -/
def weightAt (g : Region) (slot r n : Nat) : Nat × Nat :=
  let code := tget g.weights 0 (slot * 65536 + r * 256 + n)
  let x := tget g.wIndex 0 (slot * 65536 + r * 256 + n)
  match hSparse g.hdr.toNat with
  | 0 => (code, r)
  | 1 => (code, 8 * (r / 4) + x % 8)
  | _ => (code, 8 * (r / 2) + x % 8)
/-- A weight code of value zero in a format. -/
def zeroWeight (f x : Nat) : Bool := x % 2 ^ (if isFp f || f == 0x0C || f == 0x0D then width f - 1 else width f) == 0
/-- Operand pairs of column n in ascending K: A code and weight code. In a sparse pass a weight of value zero contributes nothing (R317). -/
def products (g : Region) (p : Pass) (row : List Nat) (n : Nat) : List (Nat × Nat) :=
  ((List.range (kStored g p.wFmt)).map fun r =>
    let w := weightAt g p.wsel r n
    (row.getD w.2 0, w.1)).filter fun x => hSparse g.hdr.toNat = 0 || !zeroWeight (aFmt p.wFmt).w x.2
/-- Exact integer value of an integer or MXINT8 element code. -/
def intCode (f x : Nat) : Int := if f = 0x01 then (x % 256 : Nat) else if f = 0x02 then sx 4 x else sx 8 x
/-- The exact integer dot of a column. -/
def intDot (g : Region) (p : Pass) (row : List Nat) (n : Nat) : Int :=
  (products g p row n).foldl (fun a x => a + intCode (aFmt p.wFmt).a x.1 * intCode (aFmt p.wFmt).w x.2) 0
/-- The FP32 sum of R153, from a start value. -/
def fpSum (g : Region) (p : Pass) (row : List Nat) (n start : Nat) : Nat :=
  let f := aFmt p.wFmt
  let e (x : Nat) : Nat := if x = 0x0C then 9 else if x = 0x0D then 10 else x
  (products g p row n).foldl (fun acc x =>
    roundF 6 .rne 0 (fvAdd (fpVal 6 acc) (fvMul (fpVal (e f.a) x.1) (fpVal (e f.w) x.2)))) start
/-- Channels in use in a region (R139): all five, four, or the three lowest-numbered unfenced ones. -/
def channelsOf (g : Region) : List Nat :=
  let live := (List.range 5).filter fun i => !bit g.fenced i
  if hChk g.hdr.toNat then live else live.take 3
/-- A residue slot after adding residues of x on the channels in use; the others hold a free value (R139, DESIGN CHOICE, log 8). -/
def slotAdd (g : Region) (rns4 : Bool) (slot draw : Nat) (x : Int) : Nat :=
  let sum := rnsAdd rns4 (rnsOf rns4 slot) (rnsFwd rns4 x)
  let junk := rnsOf rns4 (Config.freeW64 draw).toNat
  rnsSlot rns4 ((List.range 5).map fun i => if (channelsOf g).contains i then sum.getD i 0 else junk.getD i 0)
/-- A residue slot times 2^k on every channel. -/
def slotScale (slot k : Nat) : Nat := rnsSlot false (rnsMul false (rnsOf false slot) (rnsFwd false ((2 ^ k : Nat) : Int)))

/-- An MXINT8 entry after a block with dot d and scale s: slot, exponent word (R317). -/
def mxEntry (g : Region) (rv xw draw : Nat) (nan : Bool) (d s : Int) : Nat × Nat :=
  let x := sx 16 xw
  let pack (s : Int) (xw : Nat) : Nat := tr 16 s + 2 ^ 16 + bits xw 17 17 * 2 ^ 17
  if nan then (rv, xw % 2 ^ 18 ||| 2 ^ 17)
  else if !bit xw 16 then (slotAdd g false 0 draw d, pack s xw)
  else if x ≤ s then (slotAdd g false rv draw (d * (2 : Int) ^ (s - x).toNat), xw % 2 ^ 18)
  else (slotAdd g false (slotScale rv (x - s).toNat) draw d, pack s xw)

/-- The AC entry of column n after row m: its bytes. -/
def acEntry (g : Region) (p : Pass) (row : List Nat) (ea n draw : Nat) (old : List Byte) : List Byte :=
  let old := if p.ovw then old.map fun _ => 0 else old
  let ew := tget g.wScale 0 (p.wsel * 256 + n)
  let nan := ea == 0xFF || ew == 0xFF
  let sc : Int := ((ea : Int) - 127) + ((ew : Int) - 127)
  match p.wFmt with
  | 0 => leBytes 8 (slotAdd g false (leNat old) draw (intDot g p row n))
  | 1 => leBytes 8 (slotAdd g false (leNat old) draw (intDot g p row n))
  | 2 => leBytes 8 (slotAdd g true (leNat old) draw (intDot g p row n))
  | 3 =>
    let r := mxEntry g (leNat (old.take 8)) (leNat (old.drop 8)) draw nan (intDot g p row n) sc
    leBytes 8 r.1 ++ leBytes 8 r.2
  | 6 | 7 =>
    if nan then leBytes 4 (canonNan 6)
    else leBytes 4 (roundF 6 .rne 0 (fvAdd (fpVal 6 (leNat old)) (fvScale (fpVal 6 (fpSum g p row n 0)) sc)))
  | _ => leBytes 4 (fpSum g p row n (leNat old))

/-- Undo records of the pool lines of a span, in a chorus block (R385). -/
def undoSpan (s : State) (core : Nat) (g : Region) (a n : Nat) : Except Nat State :=
  if !regChorus s core g then .ok s
  else (List.range ((a % 64 + n + 63) / 64)).foldlM (fun s i => undoLine s core g.starter g.part (poolAddr core (a / 64 * 64 + 64 * i))) s

/-- A record of the release buffer does not join it (R101, R386). -/
def relStop (s : State) (core slot : Nat) (g : Region) (pos cause : Nat) : State :=
  let y := relWhy s core g.starter g.voice cause 0
  arrFault s core slot pos cause y.i0 0 y.i2
/-- The checks of n bytes of row i1 of an AC TID that the AC units write, and read where read is set (R124): its pool offset, or the cause. -/
def acSpan (s : State) (w : Who) (tid i1 n : Nat) (read : Bool) : Except Nat Nat :=
  let t := tidOf s w.core w.part tid
  let go (store : Bool) : Except Nat Nat :=
    (accessOf s w t (lin2 t 0 i1) 0 n (max 1 (width t.fmt / 8)) false store .acUnit).map fun x => x.2.2.addr - poolAddr w.core 0
  match (if read then go false else .ok 0) with
  | .error c => .error c
  | .ok _ => go true
/-- AC_ACCUMULATE (R316, R317): the read-modify-write of AC row h0 + m; address checks, then race tags (R124). -/
def execAcAccumulate (s : State) : Out :=
  let core := s.cur.core
  let sl := s.cur.slot
  let m := s.cur.val
  let k := thKey core sl
  let g := getReg s k
  .next (match g.passes.find? (·.id == s.cur.ix) with
    | none => s
    | some p =>
      let w := whoReg core g
      let n := nCols g p.wFmt
      let sz := (aFmt p.wFmt).ac
      let row : List Nat := (lookup p.arrived m).getD []
      match acSpan s w p.acTid (p.h0 + m) (n * sz) true with
      | .error c => arrAddr s core sl p.pos c p.acTid (lin2 (tidOf s core g.part p.acTid) 0 (p.h0 + m))
      | .ok a =>
        if spanFenced s core [(a, n * sz)] || !bit (capMask s core) 47 then arrFault s core sl p.pos 0x14C 0 0 0
        else match raceSpan s w p.acTid pathA true a (n * sz) with
        | .error (c, i0, i1, i2) => arrFault s core sl p.pos c i0 i1 i2
        | .ok s => match eccSpans s core [(a, n * sz)] with
          | (s, some q) => arrEcc s core sl p.pos q
          | (s, none) => match undoSpan s core g a (n * sz) with
          | .error c => relStop s core sl g p.pos c
          | .ok s =>
            let old := rdBytes s.mem (poolAddr core a) (n * sz)
            let new := (List.range n).flatMap fun i =>
              acEntry g p (row.drop 1) (row.headD 127) i (s.free + i) ((old.drop (i * sz)).take sz)
            let s := { s with mem := wrBytes s.mem (poolAddr core a) new, free := s.free + n }
            let g := getReg s k
            setReg s k { g with passes := g.passes.map fun q => if q.id = p.id then { q with done := q.done + 1, arrived := tdel q.arrived m } else q })

/-- PASS_COMPLETE (R316). -/
def execPassComplete (s : State) : Out :=
  let k := thKey s.cur.core s.cur.slot
  let g := getReg s k
  .next (setReg s k { g with passes := g.passes.filter (·.id != s.cur.ix) })

/-- Bytes of the rows of an ACLR: DIM0 elements (R318). -/
def clearLen (t : TidV) : Nat := cdiv (t.dim 0 * width t.fmt) 8
/-- ACLR_ZERO_WRITE (R318): rows 2j and 2j + 1 of the clear. -/
def execAclrZeroWrite (s : State) : Out :=
  let core := s.cur.core
  let sl := s.cur.slot
  let g := getReg s (thKey core sl)
  .next (match g.clear.find? (·.id == s.cur.val) with
    | none => s
    | some q =>
        let t := tidOf s core g.part q.tid
        let w := whoReg core g
        let len := clearLen t
        ([2 * s.cur.ix, 2 * s.cur.ix + 1].filter (· < q.rows)).foldl (fun s r =>
          match acSpan s w q.tid (q.h0 + r) len false with
          | .error c => arrAddr s core sl q.pos c q.tid (lin2 t 0 (q.h0 + r))
          | .ok a =>
            if spanFenced s core [(a, len)] || !bit (capMask s core) 47 then arrFault s core sl q.pos 0x14C 0 0 0
            else match raceSpan s w q.tid pathA true a len with
            | .error (c, i0, i1, i2) => arrFault s core sl q.pos c i0 i1 i2
            | .ok s => match eccStore s ⟨.dev, poolAddr core a⟩ len core with
              | (s, false) => arrEcc s core sl q.pos ⟨.dev, poolAddr core a⟩
              | (s, true) => match undoSpan s core g a len with
              | .error c => relStop s core sl g q.pos c
              | .ok s => eccFresh { s with mem := wrBytes s.mem (poolAddr core a) (List.replicate len 0) } ⟨.dev, poolAddr core a⟩ len) s)

end Sys2Proof.Machine
end

