-- ==== Sys2Proof/Machine/Epilogue.lean ====
section
/-! DEFINITION. Drains, the beats of the epilogue processor, and the epilogue words (R322 to R329, R139 to R142). -/

namespace Sys2Proof.Machine

/-! ## Programs and drains -/

/-- A program holds an opcode. -/
def progHas (prog : List Nat) (op : Nat) : Bool := prog.any fun w => epOp w == op
/-- A program holds a QNT of an MX format: its beats run in pairs (R328). -/
def progPairs (prog : List Nat) : Bool := prog.any fun w => epOp w == 0x0D && isMx (w % 32)
/-- L' of R325. -/
def beatLen (prog : List Nat) : Nat :=
  max 1 ((prog.filter fun w => w != 0 && epOp w != 0x01 && epOp w != 0x0E && epOp w != 0x0F).length)
/-- The drain width N_d (R322). -/
def drainWidth (t : TidV) (mxe : Bool) : Nat := if mxe then t.dim 0 / 2 else t.dim 0
/-- Beats of a row, and of a drain (R324). -/
def rowBeats (nd : Nat) : Nat := cdiv nd 16
/-- N_d of a drain in progress. -/
def widthOf (s : State) (d : Drain) : Nat := drainWidth (tidOf s d.core (getReg s (thKey d.core d.slot)).part d.acTid) d.mxe
def beatsOf (s : State) (d : Drain) : Nat := d.rows * rowBeats (widthOf s d)
/-- TIDs that a program's BIAS words name. -/
def biasTids (prog : List Nat) : List Nat := (prog.filter fun w => epOp w == 0x05).map (· % 256)
/-- Format of a program's EST. -/
def estFmt (prog : List Nat) : Option Nat := (prog.find? fun w => epOp w == 0x0E).map (· % 32)

/-- Tiles of a TID that columns 0 to nd - 1 of rows o0 to o0 + m - 1 touch (R111, R112). -/
def tilesOf (t : TidV) (nd o0 m : Nat) : List Nat :=
  (List.range ((o0 + m - 1) / 2 ^ t.tsh 1 + 1 - o0 / 2 ^ t.tsh 1)).flatMap fun j =>
    (List.range ((nd - 1) / 2 ^ t.tsh 0 + 1)).map fun i => i + t.tiles 0 * (o0 / 2 ^ t.tsh 1 + j)
/-- Residency bits of those tiles are cleared or set. -/
def outTiles (s : State) (core part tid nd o0 m : Nat) (set_ : Bool) (id : Nat) : State :=
  let t := tidOf s core part tid
  if !t.restrk then s
  else (tilesOf t nd o0 m).foldl (fun s i => if set_ then resDone s core part tid i id else resClear s (resKey core part tid i)) s

/-- Checks of a drain's TIDs (R322): the program's needs on the AC, output and bias TIDs; beats in pairs need an even number of them in a row (R328). -/
def drainTidsOk (s : State) (core part : Nat) (prog : List Nat) (acTid outTid h0 o0 m : Nat) (mxe : Bool) : Bool :=
  let ac := tidOf s core part acTid
  let nd := drainWidth ac mxe
  let out := tidOf s core part outTid
  acTidOk s core part acTid && h0 + m ≤ ac.dim 1
  && (!progHas prog 0x02 || ac.fmt == 0x0F || ac.fmt == 0x10) && (!mxe || ac.fmt == 0x0F)
  && (progHas prog 0x02 || progHas prog 0x03 || ac.fmt == 0x06) && (!progPairs prog || rowBeats nd % 2 == 0)
  && (match estFmt prog with
      | none => true
      | some f => out.valid && out.space == 0 && out.fmt == f && nd ≤ out.dim 0 && o0 + m ≤ out.dim 1
        && (!isMx f || (out.sclt && nd % 32 == 0)))
  && (biasTids prog).all fun b =>
      let t := tidOf s core part b
      t.valid && (t.fmt == 0x04 || t.fmt == 0x06) && nd ≤ t.dim 0

/-- A drain takes the free processor (R323, R325): its program as selected now, its beats from this cycle, and the release of the
processor. The list of drains holds those that have started in the order of their start, then those that wait. -/
def startDrain (s : State) (d : Drain) : State :=
  let k := thKey d.core d.slot
  let g := getReg s k
  let c := getCore s d.core
  let d' : Drain := { d with start := some g.count, prog := g.epProg, table := g.epTab, busy := true }
  let others := c.drains.filter (·.id != d.id)
  let s := setCore s d.core { c with drains := others.filter (·.start.isSome) ++ [d'] ++ others.filter (·.start.isNone) }
  let s := schedule s (.region k) g.count (.post d.core 4 d.slot 0 0 .epilogueBeat { core := d.core, slot := d.slot, ix := 0, val := d.id })
  schedule s (.region k) (g.count + beatsOf s d' * beatLen d'.prog) (.row .drainStart { core := d.core, val := d.id })

/-- ADRAIN (R308, R310, R322). -/
def execADrain (x : Ent) (s : State) : Out :=
  onArray s 0xA4 x [37] fun c s =>
    let k := thKey c.core c.slot
    let g := getReg s k
    let b := wordB c
    let h0 := bits (wordA c) 15 0
    let o0 := bits (wordA c) 31 16
    let m := bits b 31 17 + 1
    let mxe := bit b 16
    let ctr := wordC c % 2 ^ 28
    let nd := drainWidth (tidOf s c.core g.part (b % 256)) mxe
    let byp := progHas g.epProg 0x0F
    let est := (estFmt g.epProg).isSome
    if draining s c.core c.slot || g.epSel.isNone || (byp && g.bypTo.isNone) then seqFault s c b
    else if bits (wordC c) 31 28 ≠ 0 then opFault s c (wordC c)
    else if !drainTidsOk s c.core g.part g.epProg (b % 256) (bits b 15 8) h0 o0 m mxe
        || (byp && 131072 < ((m - 1) * g.bypKl + nd) * width g.bypFmt) then opFault s c b
    else if ctr ≠ 0xFFFFFFF ∧ (objAt s (2 ^ 28 * g.part + ctr)).isNone then opFault s c (wordC c)
    else
      let d : Drain := {
        id := s.nextId, core := c.core, slot := c.slot, acTid := b % 256, outTid := bits b 15 8, mxe := mxe, rows := m, h0 := h0,
        o0 := o0, ctr := ctr, tiles := if est then tilesOf (tidOf s c.core g.part (bits b 15 8)) nd o0 m else [] }
      let s := { s with nextId := s.nextId + 1 }
      let s := if est then outTiles s c.core g.part d.outTid nd o0 m false d.id else s
      let s := if ctr = 0xFFFFFFF then s else postNotice s c.core g.part 56 (2 ^ 28 * g.part + ctr) 0 d.id
      let y := getCore s c.core
      let s := setCore s c.core { y with drains := y.drains ++ [d] }
      if y.drains.any (·.busy) then s else startDrain s d

/-- DRAIN_START (R323): the processor of a core is released by the drain named, and the waiting drain of the lowest-numbered
slot starts. -/
def execDrainStart (s : State) : Out :=
  let core := s.cur.core
  let c0 := getCore s core
  let s := setCore s core { c0 with drains := c0.drains.map fun d => if d.id = s.cur.val then { d with busy := false } else d }
  let c := getCore s core
  let wait := c.drains.filter (·.start.isNone)
  let low := wait.foldl (fun (m : Option Drain) d => match m with
    | none => some d
    | some x => if d.slot < x.slot then some d else m) none
  .next (if c.drains.any (·.busy) then s else match low with
    | none => s
    | some d => startDrain s d)

/-! ## Beats (R324, R325, R328) -/

/-- The region and lane range of a beat: AC row, first column. -/
def beatRow (s : State) (d : Drain) (i : Nat) : Nat := d.h0 + i / rowBeats (widthOf s d)
def beatCol (s : State) (d : Drain) (i : Nat) : Nat := 16 * (i % rowBeats (widthOf s d))
/-- Lanes of a beat that handle a column. -/
def liveLanes (s : State) (d : Drain) (i : Nat) : List Nat :=
  (List.range 16).filter fun l => beatCol s d i + l < widthOf s d
/-- Bytes of AC that one lane reads. -/
def laneBytes (s : State) (d : Drain) : Nat :=
  (width (tidOf s d.core (getReg s (thKey d.core d.slot)).part d.acTid).fmt / 8) * (if d.mxe then 2 else 1)
/-- Spans of pool bytes that a beat reads: AC and biases. -/
def beatSpans (s : State) (d : Drain) (i : Nat) : List (Nat × Nat) :=
  let part := (getReg s (thKey d.core d.slot)).part
  let n := (liveLanes s d i).length
  let a := (rowSpan s d.core part d.acTid 0 (beatRow s d i) 1).1
  (a + beatCol s d i * laneBytes s d, n * laneBytes s d)
  :: (biasTids d.prog).map fun b => rowSpan s d.core part b (beatCol s d i) 0 n
/-- The beat or beats that a store event of beat i covers. -/
def outOf (s : State) (core id i : Nat) : Option BeatOut := (getCore s core).outs.find? fun o => o.drain == id && o.beat == i
/-- Spans that the store event of a beat writes. -/
def storeSpans (s : State) (core slot : Nat) (o : BeatOut) : List (Nat × Nat) :=
  o.stores.map fun x => rowSpan s core (getReg s (thKey core slot)).part x.1 x.2.1 x.2.2.1 1

/-- Banks of a fabric-phase request (R102). -/
def fabBanks (s : State) (core slot : Nat) (i : Instr) (u : Cur) : List Nat :=
  let k := thKey core slot
  let g := getReg s k
  match i with
  | .weightFetch => match g.preload with
    | some p => spanBanks ([2 * u.ix, 2 * u.ix + 1].flatMap fun r =>
        rowSpan s core g.part p.tid p.n0 (p.w0 + r) (nCols g p.fmt) ::
        (if p.ix = 0xFF then [] else [rowSpan s core g.part p.ix p.n0 (p.w0 + r) (nCols g p.fmt)]))
    | none => []
  | .aOperandFetch => match g.passes.find? (·.id == u.ix) with
    | some p => spanBanks ((rowsOf g p u.val).map fun m => rowSpan s core g.part p.aTid p.k0 (p.m0 + m) (kLogical g p.wFmt))
    | none => []
  | .acAccumulate => match g.passes.find? (·.id == u.ix) with
    | some p => spanBanks [((rowSpan s core g.part p.acTid 0 (p.h0 + u.val) 1).1, nCols g p.wFmt * (aFmt p.wFmt).ac)]
    | none => []
  | .aclrZeroWrite => match g.clear.find? (·.id == u.val) with
    | some q =>
      let t := tidOf s core g.part q.tid
      spanBanks (([2 * u.ix, 2 * u.ix + 1].filter (· < q.rows)).map fun r =>
        ((rowSpan s core g.part q.tid 0 (q.h0 + r) 1).1, clearLen t))
    | none => []
  | .epilogueBeat => match (getCore s core).drains.find? (·.id == u.val) with
    | some d => spanBanks (beatSpans s d u.ix)
    | none => []
  | .epilogueStore => match outOf s core u.val u.ix with
    | some o => spanBanks (storeSpans s core slot o)
    | none => []
  | _ => []

/-- The position that a record of a request names (R364). -/
def fabPos (s : State) (core slot : Nat) (i : Instr) (u : Cur) : Nat :=
  let g := getReg s (thKey core slot)
  match i with
  | .weightFetch => (g.preload.map (·.pos)).getD 0
  | .aOperandFetch | .acAccumulate => ((g.passes.find? (·.id == u.ix)).map (·.pos)).getD 0
  | .aclrZeroWrite => ((g.clear.find? (·.id == u.val)).map (·.pos)).getD 0
  | .epilogueBeat | .epilogueStore => match (getCore s core).drains.find? (·.id == u.val) with
    | some d => u.ix * 65536 + beatCol s d u.ix
    | none => 0
  | _ => 0

/-- A request of an array operation or a beat is due in the fabric phase of this cycle or the next (R316, R318, R325). A beat
brings the post of the next beat and of its own stores. -/
def postFab (s : State) (core kind slot row col : Nat) (i : Instr) (u : Cur) : State :=
  let c := getCore s core
  let f : FabReq := {
    due := nOf s core, pos := fabPos s core slot i u, kind := kind, slot := slot, banks := fabBanks s core slot i u, row := row, col := col,
    act := i, cur := u }
  let s := setCore s core { c with fabQ := c.fabQ ++ [f] }
  match i, c.drains.find? (·.id == u.val) with
  | .epilogueBeat, some d =>
    let k := thKey core slot
    let l := beatLen d.prog
    let d0 := d.start.getD 0
    let s := if u.ix + 1 < beatsOf s d then
        schedule s (.region k) (d0 + (u.ix + 1) * l) (.post core 4 slot row col .epilogueBeat { u with ix := u.ix + 1 }) else s
    if progPairs d.prog && u.ix % 2 == 0 then s
    else schedule s (.region k) (d0 + (u.ix + 1) * l + 4) (.post core 4 slot row col .epilogueStore u)
  | _, _ => s

/-- A fault of the epilogue at a beat and column. -/
def epiFault (s : State) (d : Drain) (i col cause i0 i1 i2 : Nat) : State :=
  let k := thKey d.core d.slot
  let g := getReg s k
  let w : Why := { cause := cause, eng := 3, slot := d.slot, pos := i * 65536 + col, i0 := i0, i1 := i1, i2 := i2 }
  setReg s k { g with faults := mergeFault g.faults w }

/-- EPILOGUE_BEAT (R325): the beat's AC entries and the bias elements of all its lanes are read, and its words follow; of a pair, the words follow the
second beat's read. Address checks come before race tags (R124). -/
def execEpilogueBeat (s : State) : Out :=
  let core := s.cur.core
  let i := s.cur.ix
  .next (match (getCore s core).drains.find? (·.id == s.cur.val) with
    | none => s
    | some d =>
      let g := getReg s (thKey core d.slot)
      let w := whoReg core g
      let pair := progPairs d.prog
      let base := if pair ∧ i % 2 = 1 then 16 else 0
      let col := beatCol s d i
      let lb := laneBytes s d
      let ac := tidOf s core g.part d.acTid
      let n := (liveLanes s d i).length
      let first := lin2 ac (if d.mxe then 2 * col else col) (beatRow s d i)
      let bias := (liveLanes s d i).flatMap fun l => (biasTids d.prog).map fun t => (l, t, elemCode s w t (col + l) 0 .epilogue)
      match accessOf s w ac first 0 (n * lb) (max 1 (width ac.fmt / 8)) false false .epilogue, bias.findSome? (fun x => match x.2.2 with
        | .error c => some (x.1, x.2.1, c)
        | .ok _ => none) with
      | .error c, _ => epiFault s d i col c (info3 d.acTid ac.space (elemAddr ac (unlin ac first))) first pathA
      | .ok _, some (l, t, c) =>
        let v := tidOf s core g.part t
        if c = 0x14C then epiFault s d i (col + l) c 0 0 0
        else epiFault s d i (col + l) c (info3 t v.space (elemAddr v (col + l, 0, 0, 0))) (col + l) pathA
      | .ok (addr, _, p), none =>
        let race : Except (Nat × Nat × Nat × Nat) State := do
          let s ← raceSpan s w d.acTid pathA false addr (n * lb)
          (biasTids d.prog).foldlM (fun s t => raceRow s w t pathA false col 0 n) s
        if spanFenced s core (beatSpans s d i) then epiFault s d i col 0x14C 0 0 0
        else match race with
        | .error (c, i0, i1, i2) => epiFault s d i col c i0 i1 i2
        | .ok s => match eccSpans s core (beatSpans s d i) with
          | (s, some q) => epiFault s d i col (eccCauses q).2 (eccUnit q) q.addr 0
          | (s, none) =>
            let c := getCore s core
            let rows := (liveLanes s d i).foldl (fun m l =>
              tput m [] (base + l) (rdMem s ⟨p.store, p.addr + l * lb⟩ lb)) (if base = 0 then [] else c.acRow)
            let bs := bias.foldl (fun m x => match x.2.2 with
              | .ok v => tput m 0 (256 * (base + x.1) + x.2.1) v
              | .error _ => m) (if base = 0 then [] else c.biases)
            let s := setCore s core { c with acRow := rows, biases := bs }
            if pair ∧ i % 2 = 0 then s
            else
              let c := getCore s core
              next (setCore s core { c with
                beat := some (d.id, if pair then i - 1 else i), lanes := [], exps := [], pcEpi := 0, beatOut := [], beatByp := []
                beatEvents := [] }) (.epiWord core))

/-! ## Words (R327) -/

/-- What an epilogue word sees: its drain, its first beat, whether beats go in pairs. -/
structure Beat where
  core : Nat
  d : Drain
  i : Nat
  pair : Bool
/-- The lanes that take part, of one beat or of both. -/
def beatLanes (s : State) (b : Beat) : List Nat :=
  liveLanes s b.d b.i ++ (if b.pair then (liveLanes s b.d (b.i + 1)).map (· + 16) else [])
/-- Column of a lane. -/
def laneCol (s : State) (b : Beat) (l : Nat) : Nat := beatCol s b.d b.i + l
/-- A register of a lane. -/
def getY (s : State) (core l y : Nat) : Nat := (tget (getCore s core).lanes 0 (16 * l + y)).toNat
def setY (s : State) (core l y v : Nat) : State :=
  let c := getCore s core
  setCore s core { c with lanes := tput c.lanes 0 (16 * l + y) (w64 v) }

/-- A word of a beat: its effect, then the next word. -/
def onBeat (s : State) (f : Beat → State → State) : Out :=
  let core := s.cur.core
  let c := getCore s core
  match c.beat with
  | none => .fault .noAgent
  | some (id, i) =>
    match c.drains.find? (·.id == id) with
    | none => .fault .noAgent
    | some d =>
      let s := f ⟨core, d, i, progPairs d.prog⟩ s
      let c := getCore s core
      .next (next (setCore s core { c with pcEpi := c.pcEpi + 1 }) (.epiWord core))
/-- A word that computes a register in each lane. -/
def laneWord (s : State) (y : Nat) (f : State → Beat → Nat → Nat) : Out :=
  onBeat s fun b s => (beatLanes s b).foldl (fun s l => setY s b.core l y (f s b l)) s

/-- I(y) of R327. -/
def yI (x : Nat) : Int := sx 32 x
/-- F(y) of R327: the code. -/
def yF (x : Nat) : Nat := x % 2 ^ 32
/-- A 32-bit integer result, sign-extended to 64 bits. -/
def intY (x : Int) : Nat := tr 64 (sx 32 (tr 32 x))
/-- A converted code as a register holds it. -/
def codeY (f code : Nat) : Nat := if signedFmt f then tr 64 (sx (codeWidth f) code) else code

def execPErd (d : Nat) (s : State) : Out :=
  onBeat s fun b s => (beatLanes s b).foldl (fun s l =>
    let x := tget (getCore s b.core).acRow [] l
    let s := setY s b.core l d (leNat (x.take 8))
    if b.d.mxe then
      let c := getCore s b.core
      setCore s b.core { c with exps := tput c.exps 0 l (w64 (leNat (x.drop 8))) }
    else s) s

/-- The residue system of a drain. -/
def rns4Of (s : State) (b : Beat) : Bool := (tidOf s b.core (getReg s (thKey b.core b.d.slot)).part b.d.acTid).fmt == 0x10
/-- A residue event joins the beat's events, one for each cause (R142): the cause, plus 512 where some event of it is fatal; the lowest lane, its slot as
read, the number of events, and the lanes as a mask. -/
def addEvent (l : List (Nat × Nat × Nat × Nat × Nat)) (key lane slot : Nat) : List (Nat × Nat × Nat × Nat × Nat) :=
  let same (e : Nat × Nat × Nat × Nat × Nat) : Bool := e.1 % 512 == key % 512 && e.2.1 / 16 == lane / 16
  let join (e : Nat × Nat × Nat × Nat × Nat) : Nat × Nat × Nat × Nat × Nat :=
    let low := if lane < e.2.1 then (lane, slot) else (e.2.1, e.2.2.1)
    (max e.1 key, low.1, low.2, e.2.2.2.1 + 1, e.2.2.2.2 ||| 2 ^ lane)
  if l.any same then l.map fun e => if same e then join e else e else l ++ [(key, lane, slot, 1, 2 ^ lane)]
/-- RREV (R139 to R142): the event's key is its cause, plus 512 where it is fatal. -/
def execPRrev (d a : Nat) (p : OvfPolicy) (s : State) : Out :=
  onBeat s fun b s =>
    let g := getReg s (thKey b.core b.d.slot)
    let r4 := rns4Of s b
    (beatLanes s b).foldl (fun s l =>
      let x := getY s b.core l a
      let r := rrev r4 (hChk g.hdr.toNat) g.fenced x
      let v : Option Int := match r.value, r.ovfl with
        | some v, _ => some v
        | none, some o => if p = .sat then some (if o < 0 then -(rnsH r4) else rnsH r4 - 1) else none
        | none, none => none
      let s := match v with | some v => setY s b.core l d (tr 64 v) | none => s
      match r.event with
      | none => s
      | some (ch, kind) =>
        let fatal := kind == 1 || kind == 2 || (kind == 3 && p == .trap)
        let c := getCore s b.core
        setCore s b.core { c with beatEvents := addEvent c.beatEvents (0x040 + 4 * ch + kind + 512 * b2n fatal) l x }) s

/-- SCLX: the single rounding of R148. -/
def execPSclx (d a f : Nat) (s : State) : Out :=
  laneWord s d fun s b l =>
    let x := (tget (getCore s b.core).exps 0 l).toNat
    let v := yI (getY s b.core l a)
    if bit x 17 then canonNan f
    else if b.d.mxe && !bit x 16 then 0
    else roundF f .rne 0 (fvScale (fvInt v) (if b.d.mxe then sx 16 x - 12 else 0))
def execPCvf (d a f : Nat) (rm : RMode) (s : State) : Out :=
  laneWord s d fun s b l => codeY f (convert 6 f rm 0 (yF (getY s b.core l a)))
def execPBias (d a tid : Nat) (s : State) : Out :=
  laneWord s d fun s b l =>
    let x := getY s b.core l a
    let v := tget (getCore s b.core).biases 0 (256 * l + tid)
    if (tidOf s b.core (getReg s (thKey b.core b.d.slot)).part tid).fmt = 0x04 then intY (yI x + yI v) else fAdd 6 (yF x) v
/-- A word of two operands with an integer and an FP32 form. -/
def pairWord (s : State) (d a b : Nat) (fp : Bool) (fi : Int → Int → Int) (ff : Nat → Nat → Nat) : Out :=
  laneWord s d fun s t l =>
    let x := getY s t.core l a
    let y := getY s t.core l b
    if fp then ff (yF x) (yF y) else intY (fi (yI x) (yI y))
def execPEadd (d a b : Nat) (fp : Bool) (s : State) : Out := pairWord s d a b fp (· + ·) (fAdd 6)
def execPEmul (d a b : Nat) (fp : Bool) (s : State) : Out := pairWord s d a b fp (· * ·) (fMul 6)
def execPEmax (d a b : Nat) (fp : Bool) (s : State) : Out := pairWord s d a b fp max (fMinMax true)
def execPEmin (d a b : Nat) (fp : Bool) (s : State) : Out := pairWord s d a b fp min (fMinMax false)
def execPClmp (d a f : Nat) (s : State) : Out :=
  laneWord s d fun s b l =>
    let r := (intRange f).getD (0, 0)
    intY (sat (yI (getY s b.core l a)) r.1 r.2)
def execPRelu (d a : Nat) (fp : Bool) (s : State) : Out :=
  laneWord s d fun s b l =>
    let x := getY s b.core l a
    if fp then (if isNan32 (yF x) then canonNan 6 else if fvLt (.num false 0 0) (f32 (yF x)) then yF x else 0)
    else intY (max (yI x) 0)
def execPElut (d a : Nat) (s : State) : Out :=
  laneWord s d fun s b l => b.d.table.getD (getY s b.core l a % 256) 0

/-- CLAMP of a QNT to an FP format: the value rounds beyond the format's largest with an unbounded exponent (R327). -/
def fpClamps (f : Nat) (rm : RMode) : FV → Bool
  | .num neg m e => match fpInfo f with
    | some (_, fb, bias) =>
      let q := roundGrid fb bias rm neg m e 0
      m != 0 && maxCode f < gridCode fb bias q.1 q.2
    | none => false
  | _ => false
/-- CLAMP of a QNT to an integer format. -/
def intClamps (f : Nat) (rm : RMode) : FV → Bool
  | .num neg m e =>
    let k : Int := roundInt rm neg m e 0
    let t := if neg then -k else k
    let r := (intRange f).getD (0, 0)
    t != sat t r.1 r.2
  | .inf _ => true
  | .nan => false
/-- Flags of a drain. -/
def addFlags (s : State) (b : Beat) (fl : Nat) : State :=
  let c := getCore s b.core
  setCore s b.core { c with drains := c.drains.map fun x => if x.id = b.d.id then { x with flags := x.flags ||| fl } else x }
/-- QNT: a plain format lane by lane, an MX format over the 32 lanes of a pair (R327, R328). -/
def execPQnt (d a f : Nat) (rm : RMode) (s : State) : Out :=
  onBeat s fun b s =>
    let ls := beatLanes s b
    let vs := ls.map fun l => f32 (yF (getY s b.core l a))
    if isMx f then
      let r := mxBlock f rm vs []
      let s := (ls.zip r.1).foldl (fun s p => setY s b.core p.1 d (p.2 + 256 * r.2.1)) s
      addFlags s b (b2n r.2.2.1 * 2 ^ 51 + b2n r.2.2.2 * 2 ^ 50)
    else
      let clamp := vs.any fun v => if isFp f then fpClamps f rm v else intClamps f rm v
      let s := (ls.zip vs).foldl (fun s p => setY s b.core p.1 d (codeY f (convTo f rm 0 p.2))) s
      addFlags s b (b2n clamp * 2 ^ 51)

/-- EST: the elements, and for an MX format the block's scale element, that the beat will store. -/
def execPEst (a f : Nat) (s : State) : Out :=
  onBeat s fun b s =>
    let part := (getReg s (thKey b.core b.d.slot)).part
    let row := b.d.o0 + (beatRow s b.d b.i - b.d.h0)
    let one (l : Nat) : List (Nat × Nat × Nat × Nat) :=
      let y := getY s b.core l a
      (b.d.outTid, laneCol s b l, row, y % 2 ^ width f)
      :: (if isMx f ∧ laneCol s b l % 32 = 0 then [((tidOf s b.core part b.d.outTid).scale, laneCol s b l / 32, row, bits y 15 8)] else [])
    let c := getCore s b.core
    setCore s b.core { c with beatOut := c.beatOut ++ (beatLanes s b).flatMap one }
/-- EBYP -/
def execPEbyp (a : Nat) (s : State) : Out :=
  onBeat s fun b s =>
    let w := width (getReg s (thKey b.core b.d.slot)).bypFmt
    let row := beatRow s b.d b.i - b.d.h0
    let c := getCore s b.core
    setCore s b.core { c with beatByp := c.beatByp ++ (beatLanes s b).map fun l => (row, laneCol s b l, getY s b.core l a % 2 ^ w) }
/-- ESUM: over the active lanes of each beat. -/
def execPEsum (d a : Nat) (fp : Bool) (s : State) : Out :=
  onBeat s fun b s =>
    let sum (ls : List Nat) : Nat := ls.foldl (fun acc l =>
      let x := getY s b.core l a
      if fp then fAdd 6 acc (yF x) else intY (yI acc + yI x)) 0
    let lo := (beatLanes s b).filter (· < 16)
    let hi := (beatLanes s b).filter (16 ≤ ·)
    let s1 := lo.foldl (fun t l => setY t b.core l d (sum lo)) s
    hi.foldl (fun t l => setY t b.core l d (sum hi)) s1
def execPEsel (d a b c : Nat) (s : State) : Out :=
  laneWord s d fun s t l => if bit (getY s t.core l c) 0 then getY s t.core l a else getY s t.core l b
def execPEmov (d a : Nat) (s : State) : Out := laneWord s d fun s b l => getY s b.core l a
/-- EFLG: the line is set at the end of the beat; a line below 16 drives nothing. -/
def execPEflg (a line : Nat) (s : State) : Out :=
  onBeat s fun b s =>
    let k := thKey b.core b.d.slot
    let set_ (lanes : List Nat) (i : Nat) (s : State) : State :=
      if 16 ≤ line && lanes.any (fun l => bit (getY s b.core l a) 0) then
        schedule s (.region k) (b.d.start.getD 0 + (i + 1) * beatLen b.d.prog) (.setFlag b.core b.d.slot line)
      else s
    set_ ((beatLanes s b).filter (16 ≤ ·)) (b.i + 1) (set_ ((beatLanes s b).filter (· < 16)) b.i s)

/-- A record of a region, in the name of the block that started its run, and of the logical core of its slot (R363, R448). -/
def regRecord (s : State) (core slot : Nat) (w : Why) : State :=
  let g := getReg s (thKey core slot)
  match runOf s core g.starter with
  | some r => queueWith s core r.part w g.lc r.block r.cue r.gang
  | none => queueWith s core g.part w g.lc 0xFFF 0 ((((getScene s g.scene).gangs[g.gslot]?).map (·.id)).getD 0)
/-- An event of a beat is counted in the residue log and recorded (R142, R374). -/
def beatEvent (b : Beat) (s : State) (e : Nat × Nat × Nat × Nat × Nat) : State :=
  let cause := e.1 % 512
  let fatal := 512 ≤ e.1
  let ch := (cause - 0x040) / 4
  let kind := cause % 4
  let i := b.i + e.2.1 / 16
  let c := getCore s b.core
  let c1 := match kind with
    | 0 => { c with resK0 := tput c.resK0 0 ch (tget c.resK0 0 ch + e.2.2.2.1), resTick := ticks s, resCause := cause }
    | 1 => { c with resK1 := tput c.resK1 0 ch (tget c.resK1 0 ch + e.2.2.2.1), resTick := ticks s, resCause := cause }
    | _ => c
  let reached := kind == 0 && tget c.resK0 0 ch < s.mgmt.resthr && s.mgmt.resthr ≤ tget c.resK0 0 ch + e.2.2.2.1
  let s := setCore s b.core c1
  let s := if reached then soon s (.row .channelFence { core := b.core, ix := ch }) else s
  let w : Why := {
    cause := cause, eng := 3, slot := b.d.slot, fatal := fatal, count := popcount 32 e.2.2.2.2, pos := i * 65536 + (laneCol s b e.2.1)
    i0 := ch * 4 + kind, i1 := e.2.2.1, i2 := beatRow s b.d i }
  if fatal then
    let k := thKey b.core b.d.slot
    let g := getReg s k
    setReg s k { g with faults := g.faults ++ [w] }
  else regRecord s b.core b.d.slot w

/-- EEND: the beat's events are recorded, and what it stores waits for its store cycle; a fatal event suppresses the stores. -/
def execPEend (s : State) : Out :=
  let core := s.cur.core
  let c := getCore s core
  match c.beat with
  | none => .fault .noAgent
  | some (id, i) =>
    match c.drains.find? (·.id == id) with
    | none => .fault .noAgent
    | some d =>
      let b : Beat := ⟨core, d, i, progPairs d.prog⟩
      let s := c.beatEvents.foldl (beatEvent b) s
      let c := getCore s core
      let o : BeatOut := { drain := id, beat := if b.pair then i + 1 else i, stores := c.beatOut, byps := c.beatByp }
      let ok := !c.beatEvents.any fun e => 512 ≤ e.1
      .next (setCore s core { c with beat := none, outs := if ok then c.outs ++ [o] else c.outs })

/-! ## Stores and completion (R325, R326) -/

/-- One element of a beat's stores: its checks, undo record and signature in a chorus block, then its bits. -/
def storeElem (s : State) (d : Drain) (i : Nat) (x : Nat × Nat × Nat × Nat) : State :=
  let core := d.core
  let g := getReg s (thKey core d.slot)
  let w := whoReg core g
  let t := tidOf s core g.part x.1
  let n := max 1 (width t.fmt / 8)
  match elemPlace s w x.1 x.2.1 x.2.2.1 true .epilogue with
  | .error c => epiFault s d i x.2.1 c (info3 x.1 t.space (elemAddr t (x.2.1, x.2.2.1, 0, 0))) (lin2 t x.2.1 x.2.2.1) pathA
  | .ok (a, lo, p) => match raceCheck s w t x.1 a pathA true with
    | .error (c, i0, i1, i2) => epiFault s d i x.2.1 c i0 i1 i2
    | .ok s => match eccStore s p n core with
    | (s, false) => epiFault s d i x.2.1 (eccCauses p).2 (eccUnit p) p.addr 0
    | (s, true) =>
      let l := if width t.fmt < 8 then leBytes 1 (setBits (leNat (rdMem s p 1)) (lo + width t.fmt - 1) lo x.2.2.2) else leBytes n x.2.2.2
      let s := if regChorus s core g then signStore s core g.starter (1 + d.slot) x.1 t.base (a - t.base) l else s
      match undoSpan s core g (p.addr % 0x800000) n with
      | .error c => let y := relWhy s core g.starter g.voice c 0
                    epiFault s d i x.2.1 c y.i0 0 y.i2
      | .ok s => wrMem s p l

/-- A fabric-phase request is due, and its region counts this cycle unless it is a port's. -/
def fabDue (s : State) (core : Nat) (f : FabReq) : Bool :=
  f.due ≤ nOf s core && (f.kind == 0 || (getReg s (thKey core f.slot)).countedAt == s.cycle + 1)
/-- The stores of a drain wait behind those of a drain that started before it, unless what is left of these performs in this phase (R325, R331). -/
def storesBehind (s : State) (core id : Nat) : Bool :=
  ((getCore s core).drains.takeWhile (·.id != id)).any fun e =>
    let now := ((getCore s core).fabQ.filter fun f => f.act == .epilogueStore && f.cur.val == e.id && fabDue s core f).length
    e.start.isSome && e.stored + now * (if progPairs e.prog then 2 else 1) < beatsOf s e
/-- EPILOGUE_STORE (R325): the stores of a beat, or of a pair. -/
def execEpilogueStore (s : State) : Out :=
  let core := s.cur.core
  let id := s.cur.val
  let i := s.cur.ix
  .next (match (getCore s core).drains.find? (·.id == id), outOf s core id i with
    | some d, some o =>
      let k := thKey core d.slot
      if spanFenced s core (storeSpans s core d.slot o) then epiFault s d i (beatCol s d i) 0x14C 0 0 0
      else
        let s := o.stores.foldl (fun s x => storeElem s d i x) s
        let g := getReg s k
        let s := setReg s k { g with byp := o.byps.foldl (fun b x => bypPut b g.bypKl (width g.bypFmt) x.1 x.2.1 x.2.2) g.byp }
        let c := getCore s core
        let n := d.stored + (if progPairs d.prog then 2 else 1)
        let s := setCore s core { c with
          outs := c.outs.filter (fun x => !(x.drain == id && x.beat == i))
          drains := c.drains.map fun x => if x.id = id then { x with stored := n } else x }
        if n < beatsOf s d then s else next s (.row .drainComplete { core := core, val := id })
    | _, _ => s)

/-- DRAIN_COMPLETE (R325, R199): residency of the output tiles, then the completion object; bypass rows written count from now on. -/
def execDrainComplete (s : State) : Out :=
  let core := s.cur.core
  .next (match (getCore s core).drains.find? (·.id == s.cur.val) with
    | none => s
    | some d =>
      let k := thKey core d.slot
      let g := getReg s k
      if !g.faults.isEmpty then s
      else
        let s := if progHas d.prog 0x0F then setReg s k { g with bypRows := max g.bypRows d.rows } else s
        let s := if progHas d.prog 0x0E then outTiles s core g.part d.outTid (widthOf s d) d.o0 d.rows true d.id else s
        let s := if d.ctr = 0xFFFFFFF then s else postNotice s core g.part 60 (2 ^ 28 * g.part + d.ctr) d.flags d.id
        let c := getCore s core
        setCore s core { c with drains := c.drains.filter (·.id != d.id) })

end Sys2Proof.Machine
end

