-- ==== Sys2Proof/Machine/Registers.lean ====
section
/-! DEFINITION. Special registers as a prompter and the mailbox read them (R36, R68, R116, R182, R222, R223, R231, R403, R416 to R424,
R434 to R438). -/

namespace Sys2Proof.Machine

/-- The word of an instruction. -/
def wordOf (i : Instr) : Nat := (encode i).getD 0

/-- A scene holds a cue with RTC (R34). -/
def sceneRtc (x : Scene) : Bool := x.sheets.any fun h => h.cues.any fun c => bit c.1.toNat 32
/-- A real-time scene runs, or a launch that counts as one (R34, R93). -/
def rtRunning (s : State) : Bool :=
  s.scenes.any (fun x => x.2.live && x.2.running && sceneRtc x.2) || s.launches.any fun l => sceneRtc (getScene s l.2.scene)
/-- THRSTAT.LEVEL (R420). -/
def tripLevel (s : State) : Nat :=
  if s.mgmt.t3In then 3 else if !s.mgmt.t2In.isEmpty then 2 else if s.mgmt.t1In then 1 else 0

/-- A device special register as read: WO fields read zero (R6, R224). -/
def devRead (s : State) (x : Nat) : Nat :=
  let p (b : Nat) : Part := getPart s (x - b)
  let m := s.mgmt
  if x = 0x400 then s.tb.inc
  else if x = 0x401 then s.tb.hbexp * 256
  else if x = 0x403 then b2n s.tb.stepref * 8 + b2n s.tb.holdover * 4 + b2n s.tb.locked * 2 + b2n (rtRunning s)
  else if 0x410 ≤ x ∧ x ≤ 0x41F then (p 0x410).quant * 256 + b2n (p 0x410).enable * 2 + b2n (p 0x410).rt
  else if 0x420 ≤ x ∧ x ≤ 0x42F then (p 0x420).root * 4096 + b2n (p 0x420).rootEn
  else if x = 0x430 then b2n m.tlbBusy * 4
  else if 0x440 ≤ x ∧ x ≤ 0x44F then (p 0x440).flrState * 2 ^ 62 + (p 0x440).flrDrained * 2 ^ 32 + (p 0x440).flrTicks
  else if x = 0x450 then m.capw
  else if x = 0x451 then m.cape * 65536 + b2n m.capinf
  else if x = 0x452 then m.t2e * 2 ^ 24 + m.t3 * 65536 + m.t2 * 256 + m.t1
  else if x = 0x453 then tripLevel s * 2 ^ 32 + (List.range 4).foldl (fun a d => a + tget m.tmax 0 d % 256 * 2 ^ (8 * d)) 0
  else if x = 0x454 then m.saveBase * 2 ^ 21 + b2n m.saveEn
  else if 0x460 ≤ x ∧ x ≤ 0x46F then levelOf s (x - 0x460)
  else if 0x480 ≤ x ∧ x ≤ 0x4FF then (tget s.sync 0 (x - 0x480)).toNat
  else if 0x500 ≤ x ∧ x ≤ 0x50F then (p 0x500).ctxBase * 2 ^ 21 + (p 0x500).ctxSize
  else if x = 0x510 then s.tb.ppsIn.toNat
  else 0

/-- PRIV (R223). -/
def privOf (t : Thread) : Nat :=
  b2n t.dbg * 128 + b2n t.skip * 64 + t.dsk % 4 * 16 + b2n t.taken * 8 + b2n t.ds * 4 + b2n t.pmode * 2 + b2n t.mode
/-- TRAPCAUSE (R357). -/
def causeReg (t : Thread) : Nat := b2n t.more * 1024 + b2n t.async * 512 + t.cause % 512

/-- A special register as a thread reads it (R222, R231). -/
def srRead (s : State) (core slot : Nat) (t : Thread) (r : Run) (x : Nat) : W64 :=
  match x with
  | 0x001 => w64 (ticksOn s core)
  | 0x002 => w64 (ticksOn s core + 2 ^ 64 - r.fire)
  | 0x003 => w64 (timeNsOn s core)
  | 0x004 => w64 (timeOn s core).2
  | 0x008 => w64 (r.lc % 64)
  | 0x009 => w64 (r.gang % 256)
  | 0x00A => w64 (b2n (getPart s r.part).rt * 16 + r.part)
  | 0x00B => w64 slot
  | 0x010 => w64 (linesSeen s core slot r.part)
  | 0x011 => w64 t.depth
  | 0x012 => w64 (getCopier s core).stage
  | 0x020 => w64 (capMask s core)
  | 0x021 => w64 (fencedCh s core)
  | 0x100 => w64 (causeReg t)
  | 0x101 => t.trappc
  | 0x102 => t.info0
  | 0x103 => t.info1
  | 0x104 => t.info2
  | 0x105 => t.info3
  | 0x106 => t.traptick
  | 0x110 => t.vecbase
  | 0x111 => w64 (privOf t)
  | 0x120 => w64 core
  | 0x130 => 0
  | 0x140 => w64 (pw s core)
  | x => w64 (devRead s x)

/-- A special register that a thread writes: its own (R223, R357, R359). A read-only register ignores the write (R183). -/
def srWrite (t : Thread) (x : Nat) (v : W64) : Thread :=
  let n := v.toNat
  match x with
  | 0x100 => { t with more := bit n 10, async := bit n 9, cause := bits n 8 0 }
  | 0x101 => { t with trappc := v }
  | 0x102 => { t with info0 := v }
  | 0x103 => { t with info1 := v }
  | 0x104 => { t with info2 := v }
  | 0x105 => { t with info3 := v }
  | 0x110 => { t with vecbase := v }
  | 0x111 => { t with skip := bit n 6, dsk := if bits n 5 4 = 3 then 0 else bits n 5 4, taken := bit n 3, ds := bit n 2,
                      pmode := bit n 1, mode := bit n 0 }
  | _ => t

/-- Generator state of the element at region coordinates for a seed (R231). -/
def seedOf (x row col : Nat) : W32 :=
  let s := (BitVec.ofNat 32 x) ^^^ (BitVec.ofNat 32 ((16 * row + col) * 0x9E3779B9))
  if s = 0 then 1 else s
/-- Seed every element generator of a region. -/
def seedRegion (s : State) (core slot x : Nat) : State :=
  let k := thKey core slot
  let h := (getReg s k).hdr.toNat
  let rows := 4 * (bits h 53 52 + 1)
  let cols := 4 * (bits h 55 54 + 1)
  (List.range rows).foldl (fun s r => (List.range cols).foldl (fun s c =>
    let ek := 256 * k + 16 * r + c
    setEl s ek { getEl s ek with gen := seedOf x r c }) s) s
/-- The element generators of a slot take a seed: at once if idle, else at the next II boundary (R231). -/
def seedElements (s : State) (core slot x : Nat) : State :=
  let g := getReg s (thKey core slot)
  if !g.placed then s
  else if g.runs then setReg s (thKey core slot) { g with seedPend := some (BitVec.ofNat 32 x) }
  else seedRegion s core slot x

/-- A privileged word in user mode raises 0x004 (R224); in a delay slot a control transfer raises 0x003 first (R158). -/
def asSupervisor (s : State) (i : Instr) (f : Thread → Run → State) : Out :=
  onThread s fun t r => if t.mode then f t r else trapNow s 0x004 (wordOf i) 0 0

end Sys2Proof.Machine
end

