-- ==== Sys2Proof/Machine/Order.lean ====
section
/-! DEFINITION. What releases and fences wait for (R337 to R341), the widening of race tags, and the chorus echo and compare entry
(R253 to R256, R384, R387). -/

namespace Sys2Proof.Machine

/-! ## Outstanding accesses -/

/-- Loads and stores of a thread that have not performed. -/
def threadReqs (s : State) (core t : Nat) : List Nat :=
  (s.reqs.filter fun q => q.core == core && !q.done && q.asker == .thread t).map (·.id)
/-- Port accesses of a region that have not performed. -/
def portReqs (s : State) (core slot : Nat) : List Nat :=
  (s.reqs.filter fun q => q.core == core && !q.done && (match q.asker with
    | .port sl _ _ => sl == slot | _ => false)).map (·.id)
/-- Array operations of a slot in flight: preload, passes, ACLR and drains. -/
def arrayOps (s : State) (core slot : Nat) : List Nat :=
  let g := getReg s (thKey core slot)
  (match g.preload with | some p => [p.id] | none => []) ++ g.passes.map (·.id)
  ++ g.clear.map (·.id)
  ++ ((getCore s core).drains.filter (·.slot == slot)).map (·.id)
/-- Commands of a partition in a core's issue journal. -/
def journalOps (s : State) (core part : Nat) : List Nat :=
  if copyRuns s core part then (getCopier s core).journal.map (·.no) else []
/-- An access, operation or command is still outstanding on a core. -/
def outstanding (s : State) (core id : Nat) : Bool :=
  s.reqs.any (fun q => q.id == id && !q.done)
  || (List.range 4).any (fun sl => (arrayOps s core sl).contains id)
  || (getCopier s core).journal.any (·.no == id)
/-- None of a list of accesses is outstanding. -/
def settled (s : State) (core : Nat) (ids : List Nat) : Bool := !ids.any (outstanding s core)
/-- Region slots that a thread of a partition controls (R240). -/
def controlled (s : State) (core own part : Nat) : List Nat :=
  (List.range 4).filter fun sl => sl == own || ((getReg s (thKey core sl)).placed && (getReg s (thKey core sl)).part == part
    && (runOf s core sl).isNone)
/-- Source set of a thread's release: its own accesses, and port accesses of regions it controls (R337). -/
def relIds (s : State) (core t part : Nat) : List Nat :=
  threadReqs s core t ++ (controlled s core t part).flatMap (portReqs s core)
/-- Source set of FENCE.P for a source mask (R340). -/
def fenceIds (s : State) (core t part src : Nat) : List Nat :=
  (if bit src 5 then relIds s core t part else [])
  ++ (if bit src 4 then (controlled s core t part).flatMap (arrayOps s core) else [])
/-- What FENCE.D of a thread waits for (R252, R341). -/
def fenceDIds (s : State) (core t part : Nat) : List Nat := fenceIds s core t part 63 ++ journalOps s core part
/-- Threads of a partition that run on a core. -/
def threadsOf (s : State) (core part : Nat) : List Nat :=
  (List.range 4).filter fun t => (getTh s (thKey core t)).running && ((runOf s core t).map (·.part)) == some part
/-- What FENCE.SC waits for: FENCE.D's set of every thread of the partition on the core. -/
def fenceScIds (s : State) (core part : Nat) : List Nat := (threadsOf s core part).flatMap fun t => fenceDIds s core t part
/-- Source set of a JOBPOST: every path class of the core's partition, whatever block made the access (R337, R340). -/
def jobIds (s : State) (core part : Nat) : List Nat :=
  (s.reqs.filter fun q => q.core == core && q.part == part && !q.done).map (·.id)
  ++ ((List.range 4).filter fun sl => (getReg s (thKey core sl)).placed && (getReg s (thKey core sl)).part == part).flatMap (arrayOps s core)

/-- END's conditions (R260); spills and fills are done when their word has completed. -/
def endReady (s : State) (core slot : Nat) : Bool :=
  ridle s core slot && didle s core slot && (threadReqs s core slot).isEmpty
/-- The condition of a wait that ends with what other agents have done. FENCE.D, of scope code 12, and FENCE.SC wait for commands that enter the journal
during the stall too (R219, R242, R252, R260, R338). -/
def waitHolds (s : State) (core slot part : Nat) : Wait → Bool
  | .stores => storesOut s core slot < 8
  | .kwait sl => ridle s core sl && didle s core sl
  | .fence _ _ sc ids => settled s core ids && (sc != 12 || (journalOps s core part).isEmpty)
  | .fenceSc ids drained => drained || (settled s core ids && (journalOps s core part).isEmpty)
  | .rel ids => settled s core ids
  | .jobpost _ _ ids => settled s core ids
  | .relSync ids => settled s core ids
  | .ending => endReady s core slot
  | _ => true
/-- What a thread sees of a cycle's beginning: its status lines, and whether its wait's condition holds; what changes in the cycle is seen in the next (R219,
R235, R263). -/
def seenNow (s : State) (core slot : Nat) (r : Run) : Nat × Bool :=
  (statusLines s core slot r.part, waitHolds s core slot r.part (getTh s (thKey core slot)).wait)
/-- The condition of a thread's wait, as of the cycle's beginning. -/
def holdSeen (s : State) (core slot part : Nat) : Bool :=
  ((lookup s.seen (thKey core slot)).map (·.2)).getD (waitHolds s core slot part (getTh s (thKey core slot)).wait)

/-! ## Race tags and fences (R340) -/

/-- Dies whose engines hold race tags of a partition. -/
def tagDies (s : State) (core part : Nat) : List Nat :=
  (s.scenes.flatMap fun x => if x.2.live && x.2.part == part then x.2.tids.filterMap fun e =>
      let t := tidOf s core part e.1
      if t.shrc then some (tagHome s x.1 t) else none
    else []).foldl nins []
/-- Cycles of a round trip from a core to the farthest engine that holds race tags of a partition. -/
def tagTrip (s : State) (core part : Nat) : Nat := (tagDies s core part).foldl (fun m d => max m (2 * oneWay core d)) 0
/-- Widening of the race tags that a fence of a thread's LC covers (R340): those that a die holds, or all. -/
def widenAt (s : State) (w : Who) (src dst : Nat) (die : Option Nat) : State :=
  { s with tags := s.tags.map fun p =>
    let g := p.2
    let t := tidOf s w.core w.part (p.1 / 2 ^ 32 % 256)
    if p.1 / 2 ^ 32 / 256 = w.scene ∧ g.wlc = w.lc ∧ g.phase = racePhase s w t ∧ g.wpath &&& src ≠ 0
      ∧ die.getD (tagHome s w.scene t) = tagHome s w.scene t
    then (p.1, { g with wpath := g.wpath ||| dst }) else p }
def widen (s : State) (w : Who) (src dst : Nat) : State := widenAt s w src dst none
/-- The requests of a fence to the engines that hold race tags: each widens its tags in its turn among the engine's requests (R340, R355). -/
def askWiden (s : State) (w : Who) (slot src dst : Nat) : State :=
  (tagDies s w.core w.part).foldl (fun s d =>
    let q : SyncReq := {
      id := s.nextId, core := w.core, t := slot, home := d, p0 := (getPart s w.part).rt, op := 62, arg := src, val := dst, cmp := 0, d := 0,
      arrive := s.cycle + oneWay w.core d, key := [w.part, w.scene, w.gslot, w.lc, w.voice] }
    { s with nextId := s.nextId + 1, syncQ := s.syncQ ++ [q] }) s
/-- A widening of a thread's fence is still to be served. -/
def widening (s : State) (core slot : Nat) : Bool := s.syncQ.any fun q => q.op == 62 && q.core == core && q.t == slot
/-- The source set of a fence has performed: its round trip starts, or it completes where no tag is held (R340). -/
def fenceArrives (s : State) (t : Thread) (r : Run) (src dst : Nat) : State :=
  let trip := tagTrip s s.cur.core r.part
  if trip = 0 then goOn (widen s (whoOf s.cur.core r) src dst) { t with wait := .none }
  else putTh (askWiden s (whoOf s.cur.core r) s.cur.slot src dst) { t with wait := .fenceTrip src dst (s.cycle + trip) }

/-! ## Chorus home, echo and compare points (R383, R384, R387) -/

/-- The die of the chorus home: that of voice 0's core. -/
def homeDie (s : State) (r : Run) : Nat := dieOf (coreOf s r.scene r.gslot r.lc 0)
/-- The voice whose samples the others receive: voice 0, or the lowest voice that is still active (R384, R392). -/
def sampler (h : Home) : Nat := h.voices.foldl min (h.voices.headD 0)

/-- A value of a chorus block taken by one voice and echoed to every voice through the home (R255, R384): a request to the home's engine carries the voice's
own value, and whether it leads. In any other block it is the thread's own. -/
def echoBy (s : State) (t : Thread) (r : Run) (d : Nat) (v : W64) (lead : Bool) : State :=
  if !r.chorus then writeBack s t d v
  else
    let core := s.cur.core
    let die := homeDie s r
    let q : SyncReq := {
      id := s.nextId, core := core, t := s.cur.slot, home := die, p0 := (getPart s r.part).rt, op := 63, arg := homeKey r s.cur.slot, val := v.toNat
      cmp := b2n lead, d := d, arrive := s.cycle + oneWay core die, key := [r.voice] }
    putTh { s with nextId := s.nextId + 1, syncQ := s.syncQ ++ [q] } { t with wait := .sync q.id }
/-- A sample is there: it goes to every voice whose request for it waits (R255, R384). -/
def echoGive (s : State) (hk die : Nat) (h : Home) (j v : Nat) : State :=
  let ready := h.echoes.filter (·.2.2.target == j)
  let s := setHome s hk { h with samples := h.samples ++ [(v, s.cycle)], echoes := h.echoes.filter (·.2.2.target != j) }
  ready.foldl (fun s w => reply s w.2.2.id die (s.cycle + oneWay w.2.2.core die) 0 (w64 v) (some w.2.2.d)) s
/-- The voice that gave the samples has left: the request of the lowest voice that is still active serves the others that wait (R392). -/
def echoLead (s : State) (hk die : Nat) : State :=
  let h := getHome s hk
  match h.echoes.find? fun w => w.1 == sampler h && w.2.2.target == h.samples.length with
  | some w => echoGive s hk die h w.2.2.target w.2.1
  | none => s
/-- The home serves an echo: the sample of its number goes to every voice that asks for it, the leader's value being the sample where none is there yet. -/
def echoServe (s : State) (q : SyncReq) : State :=
  let h := getHome s q.arg
  let v := q.key.headD 0
  let j := tget h.sampleIx 0 v
  let h := { h with sampleIx := tput h.sampleIx 0 v (j + 1) }
  let back (c : Nat) : Nat := s.cycle + oneWay c q.home
  match h.samples[j]? with
  | some p => reply (setHome s q.arg h) q.id q.home (back q.core) 0 (w64 p.1) (some q.d)
  | none =>
    let me : Waiter := ⟨q.id, q.core, q.t, q.d, j⟩
    if q.cmp = 0 ∧ v ≠ sampler h then setHome s q.arg { h with echoes := h.echoes ++ [(v, q.val, me)] }
    else echoGive s q.arg q.home { h with echoes := h.echoes ++ [(v, q.val, me)] } j q.val

/-- A time read of a thread: in a chorus block the sample of voice 0 (R255). -/
def echoRead (s : State) (t : Thread) (r : Run) (d : Nat) (v : W64) : State :=
  echoBy s t r d v (r.voice == sampler (getHome s (homeKey r s.cur.slot)))

/-- Every region that the thread controls is idle (R387). -/
def regionsIdle (s : State) (core slot part : Nat) : Bool :=
  (controlled s core slot part).all fun sl => ridle s core sl && didle s core sl

/-- A word that is a compare point in a chorus block, in either mode (R253, R387): it waits for the home's decision, then has its effect. The
lead's flag is given to the effect. -/
def comparePoint (s : State) (t : Thread) (r : Run) (f : Bool → State) : State :=
  if !r.chorus then f true
  else match t.wait with
    | .decided _ lead => f lead
    | _ => putTh s { t with wait := .compare false }

end Sys2Proof.Machine
end

