-- ==== Sys2Proof/Machine/Sync.lean ====
section
/-! DEFINITION. Copy-engine steering, phasers, counters, atomics, and the service of the sync engines (R191, R202 to R213, R247, R250,
R251). -/

namespace Sys2Proof.Machine

/-! ## Copy-engine steering (R191, R204, R205) -/

/-- A steering word: it needs a copy-engine block of the thread's partition, and no voice steers (R191, R381). -/
def steer (s : State) (f : State → Copier → State) : Out :=
  onThread s fun t r =>
    if copyRuns s s.cur.core r.part && !r.chorus then goOn (f s (getCopier s s.cur.core)) t else trapNow s 0x0EA 0 0 0
/-- Change the stage counter; the issue check sees it from the next cycle. -/
def setStage (s : State) (c : Copier) (n : Nat) : State :=
  setCopier s s.cur.core { c with stagePrev := c.stage, stageAt := s.cycle + 1, stage := n }
/-- Cancel a bank that is not cancelled, with its commands. -/
def cancelBank (s : State) (core : Nat) (k : Bank) : State :=
  let c := getCopier s core
  let s := setCopier s core (match k with | .a => { c with bankA := .cancelled } | .b => { c with bankB := .cancelled })
  cancelWhere s core fun e => e.bank == (match k with | .a => 1 | .b => 2)
def bankSt (c : Copier) : Bank → BankSt
  | .a => c.bankA
  | .b => c.bankB
def otherBank : Bank → Bank
  | .a => .b
  | .b => .a

/-- QARM -/
def execQarm (s : State) : Out :=
  steer s fun s c =>
    let arm (b : BankSt) : BankSt := if b = .idle then .armed else b
    setCopier s s.cur.core { c with bankA := arm c.bankA, bankB := arm c.bankB }
/-- QSEL: a cancelled bank named leaves both unchanged (R204). -/
def execQsel (k : Bank) (s : State) : Out :=
  steer s fun s c =>
    if bankSt c k = .cancelled then s
    else
      let s := setCopier s s.cur.core (match k with | .a => { c with bankA := .kept } | .b => { c with bankB := .kept })
      if bankSt c (otherBank k) = .cancelled then s else cancelBank s s.cur.core (otherBank k)
/-- QCANCEL -/
def execQcancel (k : Bank) (s : State) : Out :=
  steer s fun s c => if bankSt c k = .cancelled then s else cancelBank s s.cur.core k
/-- STAGE: adds 1 and stops at 255. -/
def execStage (s : State) : Out := steer s fun s c => setStage s c (min 255 (c.stage + 1))
/-- STAGESET -/
def execStageset (a : Nat) (s : State) : Out :=
  steer s fun s c => setStage s c ((rdReg (getTh s (thKey s.cur.core s.cur.slot)) a).toNat % 256)

/-! ## Requests of a thread (R208, R250) -/

/-- Send a request to an engine: the thread stalls until the reply. Its class is P0 in a real-time partition (R122). -/
def sendSync (s : State) (t : Thread) (r : Run) (home op arg val cmp d : Nat) (key : List Nat) : State :=
  let q : SyncReq := {
    id := s.nextId, core := s.cur.core, t := s.cur.slot, home := home, p0 := (getPart s r.part).rt, op := op,
    arg := arg, val := val, cmp := cmp, d := d, arrive := s.cycle + oneWay s.cur.core home, key := key }
  putTh { s with nextId := s.nextId + 1, syncQ := s.syncQ ++ [q] } { t with wait := .sync q.id }

/-- The release before a sync operation is sent (R337); a decided compare point has made it. -/
def releaseThen (s : State) (t : Thread) (r : Run) (f : State) : State :=
  let ids := relIds s s.cur.core s.cur.slot r.part
  match t.wait with
  | .decided _ _ => f
  | .relSync _ => if holdSeen s s.cur.core s.cur.slot r.part then f else s
  | _ => if settled s s.cur.core ids then f else putTh s { t with wait := .relSync ids }

/-- A phaser operation: the number is checked, then the request goes to the phaser's home (R250). -/
def phaserOp (s : State) (a op val : Nat) (d : Nat) (f : Thread → Run → State → State) : Out :=
  onThread s fun t r =>
    let p := (rdReg t a).toNat
    let k := 4096 * r.scene + p
    if 4094 < p || !(getPh s k).live then trapNow s 0x0E4 p val 0
    else f t r (sendSync s t r (getPh s k).home op k val 0 d [r.gang, r.lc, s.cur.slot])

/-- PHREG -/
def execPhreg (m : PhMode) (a : Nat) (s : State) : Out := phaserOp s a 0 (modeCode m) 0 fun _ _ x => x

/-- The thread's member record of a phaser. -/
def memberOf (p : Phaser) (gang lc t : Nat) : Option Member :=
  p.members.find? fun m => m.gang == gang && m.lc == lc && m.t == t

/-- A phaser operation that signals is a release, and in a chorus block a compare point, done once through the lead. -/
def signalOp (s : State) (a op val : Nat) (other : Thread → Run → State) : Out :=
  phaserOp s a op val 0 fun t r x =>
    comparePoint s t r fun lead => if lead then releaseThen s t r x else other t r
/-- PHDROP: a compare point for a signaller only (R387). -/
def execPhdrop (a : Nat) (s : State) : Out :=
  phaserOp s a 1 0 0 fun t r x =>
    let p := getPh s (4096 * r.scene + (rdReg t a).toNat)
    match memberOf p r.gang r.lc s.cur.slot with
    | some m => if m.mode = .wait then x
      else comparePoint s t r fun lead => if lead then releaseThen s t r x else goOn s { t with wait := .none }
    | none => x
/-- PHSIG -/
def execPhsig (a : Nat) (s : State) : Out := signalOp s a 2 0 fun t _ => goOn s { t with wait := .none }
/-- PHWAIT -/
def execPhwait (a b : Nat) (s : State) : Out :=
  match runOf s s.cur.core s.cur.slot with
  | none => .fault .noAgent
  | some _ => phaserOp s a 3 (rdReg (getTh s (thKey s.cur.core s.cur.slot)) b).toNat 0 fun _ _ x => x
/-- PHSW: the signal is made once; every voice waits. -/
def execPhsw (a b : Nat) (s : State) : Out :=
  let t0 := getTh s (thKey s.cur.core s.cur.slot)
  let tgt := (rdReg t0 b).toNat
  signalOp s a 4 tgt fun t r =>
    let k := 4096 * r.scene + (rdReg t a).toNat
    sendSync s t r (getPh s k).home 3 k tgt 0 0 [r.gang, r.lc, s.cur.slot]
/-- PHQRY -/
def execPhqry (d a : Nat) (s : State) : Out := phaserOp s a 5 0 d fun _ _ x => x

/-- Why an object address cannot be used: alignment to al, then the allotments (R207, R250). -/
def objFault (s : State) (part addr al : Nat) : Option Nat :=
  if 2 ^ 32 ≤ addr then some 0x0E1
  else if addr % al ≠ 0 then some 0x0E0
  else match objAt s (2 ^ 28 * part + addr / 16) with
    | none => some 0x0E1
    | some (.dram _) => if (getPart s part).rt then some 0x0EB else none
    | some (.sram _) => none

/-- A counter operation (R203). -/
def counterOp (s : State) (a op : Nat) (val : Thread → Nat) (d : Nat) : Out :=
  onThread s fun t r =>
    let addr := (rdReg t a).toNat
    match objFault s r.part addr 16 with
    | some c => trapNow s c addr (val t) 0
    | none => sendSync s t r (bits addr 31 30) op (2 ^ 28 * r.part + addr / 16) (val t) 0 d []
/-- CTRWAIT -/
def execCtrwait (d a b : Nat) (s : State) : Out := counterOp s a 8 (fun t => (rdReg t b).toNat) d
/-- CTRINIT -/
def execCtrinit (a b : Nat) (s : State) : Out := counterOp s a 9 (fun t => (rdReg t b).toNat) 0
/-- CTRRD -/
def execCtrrd (d a : Nat) (s : State) : Out := counterOp s a 10 (fun _ => 0) d
/-- CTRSTAT -/
def execCtrstat (d a : Nat) (s : State) : Out := counterOp s a 11 (fun _ => 0) d

/-! ## Atomics (R212, R213, R251) -/

/-- An atomic: size and alignment, then the request; in a chorus block it goes to the home as one of group k, and a user-mode one enters the signature
(R213, R388). -/
def atomicOp (s : State) (sub d a b : Nat) (wide : Bool) (o : Order) (sc : Scope) : Out :=
  onThread s fun t r =>
    let n := if wide then 64 else 32
    let addr := (rdReg t a).toNat
    let y := (rdReg t b).toNat % 2 ^ n
    let c := if sub = 9 then (rdReg t d).toNat % 2 ^ n else 0
    let off := addr % 16
    let kf := atomK wide o sc
    let rls := o == .release || o == .acqRel
    let send : State :=
      if r.chorus then
        let vk := thKey s.cur.core s.cur.slot
        let v := getVoice s vk
        let s := setVoice s vk { v with groupNo := v.groupNo + 1, atoms := if t.mode then v.atoms else v.atoms ++ [[sub * 256 + kf, addr, y, c]] }
        sendSync s t r (homeDie s r) 64 addr y c d [sub, kf, addr, y, c, v.groupNo, homeKey r s.cur.slot, r.voice, r.part]
      else sendSync s t r (bits addr 31 30) (32 + 2 * sub + b2n wide) addr y c d [r.part]
    if 2 ^ 32 ≤ addr then trapNow s 0x0E1 addr y 0
    else if !(off == 0 || (!wide && off == 4)) then trapNow s 0x0E0 addr y 0
    else match objFault s r.part (addr / 16 * 16) 16 with
      | some x => trapNow s x addr y 0
      | none => if rls then comparePoint s t r fun _ => releaseThen s t r send else send

def execAadd (d a b : Nat) (w : Bool) (o : Order) (sc : Scope) (s : State) : Out := atomicOp s 0 d a b w o sc
def execAmin (d a b : Nat) (w : Bool) (o : Order) (sc : Scope) (s : State) : Out := atomicOp s 1 d a b w o sc
def execAmax (d a b : Nat) (w : Bool) (o : Order) (sc : Scope) (s : State) : Out := atomicOp s 2 d a b w o sc
def execAminu (d a b : Nat) (w : Bool) (o : Order) (sc : Scope) (s : State) : Out := atomicOp s 3 d a b w o sc
def execAmaxu (d a b : Nat) (w : Bool) (o : Order) (sc : Scope) (s : State) : Out := atomicOp s 4 d a b w o sc
def execAand (d a b : Nat) (w : Bool) (o : Order) (sc : Scope) (s : State) : Out := atomicOp s 5 d a b w o sc
def execAor (d a b : Nat) (w : Bool) (o : Order) (sc : Scope) (s : State) : Out := atomicOp s 6 d a b w o sc
def execAxor (d a b : Nat) (w : Bool) (o : Order) (sc : Scope) (s : State) : Out := atomicOp s 7 d a b w o sc
def execAxch (d a b : Nat) (w : Bool) (o : Order) (sc : Scope) (s : State) : Out := atomicOp s 8 d a b w o sc
def execAcas (d a b : Nat) (w : Bool) (o : Order) (sc : Scope) (s : State) : Out := atomicOp s 9 d a b w o sc
def execAfadd (d a b : Nat) (o : Order) (sc : Scope) (s : State) : Out := atomicOp s 10 d a b false o sc

/-- The new value of an atomic of n bits (R212). -/
def atomicNew (sub n x y c : Nat) : Nat :=
  match sub with
  | 0 => (x + y) % 2 ^ n
  | 1 => if sx n x ≤ sx n y then x else y
  | 2 => if sx n x ≤ sx n y then y else x
  | 3 => min x y
  | 4 => max x y
  | 5 => x &&& y
  | 6 => x ||| y
  | 7 => x ^^^ y
  | 8 => y
  | 9 => if x = c then y else x
  | _ => fAdd 6 x y
/-- Perform an atomic on an object's count word: the state and the old value. -/
def atomicDo (s : State) (part sub addr y c : Nat) (wide : Bool) : State × Nat :=
  let k := 2 ^ 28 * part + addr / 16
  let o := getObj s k
  let lo := if wide then 0 else addr % 16 * 8
  let n := if wide then 64 else 32
  let x := bits o.count.toNat (lo + n - 1) lo
  (putObj s k { o with count := w64 (setBits o.count.toNat (lo + n - 1) lo (atomicNew sub n x y c)) }, x)

/-! ## Service (R203, R208 to R213) -/

/-- Members of a die's engine, held in its SRAM or in a partition's on-demand range (R449). -/
def memberCount (s : State) (die : Nat) (p : Phaser → Member → Bool) : Nat :=
  s.phasers.foldl (fun n x => if x.2.live && x.2.home == die then n + ((x.2.members ++ x.2.queued).filter (p x.2)).length else n) 0
/-- Whether a new member record of a partition finds room, and whether that is the on-demand range (R449). -/
def memberRoom (s : State) (die part : Nat) : Option Bool :=
  if memberCount s die (fun _ m => !m.ext) < 65536 then some false
  else if (getPart s part).rt then none
  else
    let mine (x : Nat × Phaser) : Bool := x.2.live && x.2.home == die && (getScene s (x.1 / 4096)).part == part
    let exts := s.phasers.foldl (fun n x => if mine x then n + ((x.2.members ++ x.2.queued).filter (·.ext)).length else n) 0
    let phs := s.scenes.foldl (fun n x => if x.2.live && x.2.loaded && x.2.part == part
      then n + (x.2.phasers.filter fun e => bit e 32 && bits e 30 29 == die).length else n) 0
    let xcnt := bits (tget s.sync 0 (8 * part + 2 * die + 1)).toNat 63 48
    if 2 * phs + cdiv (exts + 1) 4 ≤ xcnt then some true else none

/-- Change the member of a thread. -/
def mapMember (p : Phaser) (gang lc t : Nat) (f : Member → Member) : Phaser :=
  { p with members := p.members.map fun m => if m.gang = gang ∧ m.lc = lc ∧ m.t = t then f m else m }
/-- PHSIG's mark: a second signal of a phase is held (R210). -/
def mark (m : Member) : Member := if m.signalled then { m with held := m.held + 1 } else { m with signalled := true }

/-- Serve a phaser operation: the state, a cause or none, and the value returned; none while it waits. -/
def phaserServe (s : State) (q : SyncReq) : State × Option (Nat × Nat) :=
  let p := getPh s q.arg
  let g := q.key.getD 0 0
  let l := q.key.getD 1 0
  let t := q.key.getD 2 0
  let me := memberOf p g l t
  let wait (s : State) : State × Option (Nat × Nat) :=
    if q.val ≤ (getPh s q.arg).phase then (s, some (0, (getPh s q.arg).phase))
    else
      let p := getPh s q.arg
      (setPh s q.arg { p with waiters := p.waiters ++ [⟨q.id, q.core, q.t, q.d, q.val⟩] }, none)
  if !p.live then (s, some (0x0E4, q.val))
  else match q.op with
    | 0 =>
      let m : Member := ⟨g, l, t, (modeOf q.val).getD .sig, false, 0, false, false⟩
      if me.isSome || p.queued.any (fun m => m.gang == g && m.lc == l && m.t == t) then (s, some (0x0E9, q.val))
      else if 256 ≤ p.members.length + p.queued.length then (s, some (0x0E6, q.val))
      else match memberRoom s q.home (getScene s (q.arg / 4096)).part with
        | none => (s, some (0x0E2, q.val))
        | some e =>
          let m := { m with ext := e }
          if p.members.all (·.mode == .wait) then (putPh s q.arg { p with members := p.members ++ [m] }, some (0, 0))
          else (setPh s q.arg { p with queued := p.queued ++ [m] }, some (0, 0))
    | 5 => (s, some (0, p.phase))
    | op => match me with
      | none => (s, some (0x0E5, q.val))
      | some m =>
        if op = 1 then
          (putPh s q.arg (mapMember p g l t fun m =>
            { m with dropping := true, signalled := m.signalled || m.mode != .wait }), some (0, 0))
        else if op = 2 then
          if m.mode = .wait then (s, some (0x0E5, q.val)) else (putPh s q.arg (mapMember p g l t mark), some (0, 0))
        else if op = 3 then
          if m.mode = .sig then (s, some (0x0E5, q.val)) else wait s
        else if m.mode ≠ .sigwait then (s, some (0x0E5, q.val))
        else wait (putPh s q.arg (mapMember p g l t mark))

/-- Add n to OUT of an object. -/
def outAdd (s : State) (k : Nat) (n : Nat) : State := putObj s k { getObj s k with out := (getObj s k).out + n }
/-- A failure recorded at an object (R200). -/
def objFail (s : State) (k cause : Nat) : State :=
  let o := getObj s k
  let o := { o with out := o.out - 1 }
  putObj s k (if bits o.status.toNat 63 55 = 0 then
    { o with status := w64 (cause * 2 ^ 55 + bits o.status.toNat 54 48 * 2 ^ 48 + min (o.count.toNat + 1) (2 ^ 48 - 1)) } else o)
/-- A completion at an object (R199): flags are CLAMP and NANBLK. -/
def objDone (s : State) (k flags : Nat) : State :=
  let o := getObj s k
  putObj s k { o with count := o.count + 1, out := o.out - 1, status := w64 (o.status.toNat ||| flags) }
/-- A digest at an object (R215). -/
def objDigest (s : State) (k : Nat) (d : W64) : State :=
  let o := getObj s k
  if o.count = 0 ∧ o.ref = none then putObj s k { o with ref := some d, count := 1, out := o.out - 1 }
  else if o.ref = some d then putObj s k { o with count := o.count + 1, out := o.out - 1 }
  else objFail s k 0x104

/-- Serve a counter operation (R203). -/
def counterServe (s : State) (q : SyncReq) : State × Option (Nat × Nat) :=
  let o := getObj s q.arg
  match q.op with
  | 8 =>
    if ctrDone o q.val then (s, some (0, b2n (ctrFailed o q.val)))
    else ({ s with objWaiters := s.objWaiters ++ [(q.arg, ⟨q.id, q.core, q.t, q.d, q.val⟩)] }, none)
  | 9 =>
    if o.out ≠ 0 then (s, some (0x0E3, q.val))
    else (putObj s q.arg { o with count := w64 q.val, status := 0, ref := none }, some (0, 0))
  | 10 => (s, some (0, o.count.toNat))
  | _ => (s, some (0, o.status.toNat))

/-- Digest of an atomic request (R365, R388). -/
def reqDigest (key : List Nat) : Nat :=
  crcWord (crcWord (crcWord (crcWord 0 (key.getD 0 0 * 256 + key.getD 1 0)) (key.getD 2 0)) (key.getD 3 0)) (key.getD 4 0)
/-- Reply to the requests of a group. -/
def groupReply (s : State) (die v : Nat) (l : List GroupReq) : State :=
  l.foldl (fun s g => reply s g.id die (s.cycle + oneWay g.core die) 0 (w64 v) (some g.d)) s
/-- A voice's atomic request differs (R213): the command fails. -/
def groupFail (s : State) (core t : Nat) (voices lead other addr : Nat) : State :=
  killFatal s core t { cause := 0x101, eng := 5, pos := addr, i0 := voices, i1 := lead, i2 := other }
/-- Serve a chorus atomic at the home (R213, R393), on an object of the partition that the request names (R396, R399). -/
def groupServe (s : State) (q : SyncReq) : State :=
  let part := q.key.getD 8 0
  let hk := q.key.getD 6 0
  let k := q.key.getD 5 0
  let key := q.key.take 5
  let me : GroupReq := ⟨q.key.getD 7 0, key, part, q.id, q.core, q.d⟩
  let h := getHome s hk
  let wide := bit (key.getD 1 0) 5
  let exec1 (g : Group) (with_ : List GroupReq) : State :=
    let (s, x) := atomicDo s part (key.getD 0 0) q.arg q.val q.cmp wide
    let h := getHome s hk
    let s := setHome s hk { h with groups := h.groups.map fun y => if y.no = g.no then { y with result := some x, key := key, reqs := g.reqs ++ [me] } else y }
    groupReply s q.home x with_
  let keep (g : Group) : State :=
    setHome s hk { h with groups := h.groups.map fun y => if y.no = g.no then { g with reqs := g.reqs ++ [me] } else y }
  match h.groups.find? (·.no == k) with
  | none =>
    if 255 ≤ h.groups.length then killFatal s q.core q.t { cause := 0x0E8, eng := 5, pos := q.arg, i0 := q.arg }
    else setHome s hk { h with groups := h.groups ++ [⟨k, [me], none, []⟩] }
  | some g =>
    match g.result with
    | some v =>
      if g.key = key then groupReply s q.home v [me]
      else groupFail s q.core q.t (2 ^ me.voice) (reqDigest g.key) (reqDigest key) q.arg
    | none =>
      match g.reqs.filter (·.key == key) with
      | [] =>
        if g.reqs.length + 1 < h.voices.length then keep g
        else groupFail s q.core q.t ((g.reqs ++ [me]).foldl (fun m x => m ||| 2 ^ x.voice) 0)
          (reqDigest ((g.reqs.head?.map (·.key)).getD [])) (reqDigest key) q.arg
      | same =>
        match g.reqs.filter (·.key != key) with
        | [] => exec1 g (same ++ [me])
        | odd :: _ =>
          groupFail (exec1 g (same ++ [me])) odd.core q.t (2 ^ odd.voice) (reqDigest key) (reqDigest odd.key) q.arg

/-- An acknowledgement of step 4 reaches the copy engine, which releases the entry (R199). -/
def ackStep4 (s : State) (q : SyncReq) : State :=
  schedule s .master (s.cycle + oneWay q.core q.home) (.row .journalRelease { core := q.core, ix := q.t })

/-- The agent that a race check or a widening names. -/
def askerOf (q : SyncReq) : Who :=
  ⟨q.core, q.key.getD 0 0, q.key.getD 1 0, q.key.getD 2 0, q.key.getD 3 0, q.key.getD 4 0⟩
/-- Core whose table holds the entry that a race check is about: for a transfer of a multicast copy, that of its destination (R196, R346). -/
def tidCore (s : State) (q : SyncReq) : Nat :=
  let u := q.key.getD 7 0
  if q.cmp = 2 ∧ u < 2 ^ 60 then (((getCopier s q.core).journal.find? (·.no == q.t)).map fun e => e.dests.getD (u / 2 ^ 50 % 64) q.core).getD q.core
  else q.core
/-- The answer to a race check: a thread's is on its way with the conflict, if there is one; a port's request, or a transfer of a copy, may perform once it is
there, unless the engine has found a conflict (R346, R348); for held stores the home decides again (R354). -/
def raceAnswer (s : State) (q : SyncReq) (bad : Option (Nat × Nat × Nat × Nat)) : State :=
  let cyc := s.cycle + oneWay q.core q.home
  match q.cmp with
  | 0 =>
    let f (t : Thread) : Thread := if t.wait = .sync q.id then { t with wait := .raced q.home cyc bad } else t
    { s with threads := s.threads.map (fun p => (p.1, f p.2)), images := s.images.map (fun i => { i with thread := f i.thread }) }
  | 1 =>
    schedule { s with reqs := s.reqs.map fun p => if p.id = q.t then
        { p with race := if bad.isSome then 3 else 2, denied := bad, notBefore := max p.notBefore cyc } else p } .master cyc
      (.row .portPerform { ix := q.t })
  | 3 =>
    match runOf s q.core q.t with
    | none => s
    | some r =>
      let h := getHome s (homeKey r q.t)
      let g := raceUnit (askerOf q) q.val (q.arg - (tidOf s q.core (askerOf q).part q.val).base)
      let note (p : Point) : Point :=
        if p.no ≠ q.key.getD 7 0 then p
        else match bad with
          | none => { p with granted := g :: p.granted }
          | some b => { p with denied := (g, b) :: p.denied }
      schedule (setHome s (homeKey r q.t) { h with points := h.points.map note }) .master cyc
        (.row .chorusSignature { core := q.core, slot := q.t, val := q.key.getD 7 0, flag := true })
  | _ =>
    let c := getCopier s q.core
    let u := q.key.getD 7 0
    let note (e : JEntry) : JEntry := match bad with
      | some b => if e.no = q.t then { e with denied := (u, b) :: e.denied } else e
      | none => e
    schedule (setCopier s q.core { c with journal := c.journal.map note }) .master cyc
      (.row .lineTransfer { core := q.core, ix := q.t, val := u, flag := true })
/-- A race check at the tag's engine, in its turn among the engine's requests (R208, R346); the core keeps the grant. -/
def raceServe (s : State) (q : SyncReq) : State :=
  let w := askerOf q
  let t := tidOf s (tidCore s q) w.part q.val
  let path := q.key.getD 5 0
  let store := q.key.getD 6 0 == 1
  match raceCheck s w t q.val q.arg path store with
  | .ok s => raceAnswer (addGrant s w t q.val q.arg path store) q none
  | .error c => raceAnswer s q (some c)

/-- A digest is accepted at its home: its bytes leave the phaser's counter then (R199). -/
def digestAccepted (s : State) (q : SyncReq) : State :=
  match runOf s q.core 4, (getCopier s q.core).journal.find? (·.no == q.t) with
  | some r, some e =>
    let c := getCopier s q.core
    let s := setCopier s q.core { c with journal := c.journal.map fun x => if x.no = e.no then { x with bytes := 0 } else x }
    if e.phaser = 0xFFF then s else phSub s (4096 * r.scene + e.phaser) e.bytes
  | _, _ => s
/-- Partition of a request at a sync engine. -/
def syncPart (s : State) (q : SyncReq) : Nat :=
  if q.op < 8 then (getScene s (q.arg / 4096)).part
  else if q.op < 32 ∨ (56 ≤ q.op ∧ q.op ≤ 60) then q.arg / 2 ^ 28
  else if q.op = 63 then (getScene s (homeScene q.arg)).part
  else if q.op = 64 then q.key.getD 8 0
  else q.key.getD 0 0
/-- Address of the object in DRAM that a request of the engine reads (R202, R434): of a counter, an atomic, or a copy's notice. -/
def objDram (s : State) (q : SyncReq) : Option Nat :=
  let k := if q.op = 64 then 2 ^ 28 * q.key.getD 8 0 + q.arg / 16
    else if 32 ≤ q.op ∧ q.op < 54 then 2 ^ 28 * q.key.getD 0 0 + q.arg / 16 else q.arg
  if q.op < 8 ∨ (61 ≤ q.op ∧ q.op ≠ 64) then none
  else match objAt s k with
    | some (.dram a) => some a
    | _ => none
/-- The object of a request is read from DRAM, with its check (R439); an uncorrectable error is queued for the partition too (DESIGN CHOICE, log 49). -/
def readObj (s : State) (q : SyncReq) : State :=
  match objDram s q with
  | none => s
  | some a => (eccRead s ⟨.dev, a⟩ 32 (syncPart s q) q.core).1
/-- Serve one request (R208). -/
def serve (s0 : State) (q : SyncReq) : State :=
  let slow := (objDram s0 q).isSome && q.op != 64
  let s := readObj s0 q
  let answer (x : State × Option (Nat × Nat)) : State :=
    match x.2 with
    | none => x.1
    | some (c, v) =>
      let wait := if slow then Config.freeNat s.free else 0
      let s := if slow then drawn x.1 else x.1
      let who := if q.op < 8 then q.arg % 4096 else if q.op < 32 then q.arg % 2 ^ 28 * 16 else q.arg
      reply s q.id q.home (s.cycle + oneWay q.core q.home + wait) c (w64 v) (if c = 0 then (if q.d = 0 then none else some q.d) else some who)
  if q.op < 8 then answer (phaserServe s q)
  else if q.op < 32 then answer (counterServe s q)
  else if q.op < 48 + 8 ∧ 32 ≤ q.op ∧ (q.op - 32) / 2 < 11 then
    let (s, x) := atomicDo s (q.key.getD 0 0) ((q.op - 32) / 2) q.arg q.val q.cmp (bit q.op 0)
    answer (s, some (0, x))
  else if q.op = 56 then outAdd s q.arg 1
  else if q.op = 57 then ackStep4 (objDone s q.arg q.val) q
  else if q.op = 58 then ackStep4 (objDigest (digestAccepted s q) q.arg (w64 q.val)) q
  else if q.op = 59 then objFail s q.arg q.val
  else if q.op = 60 then objDone s q.arg q.val
  else if q.op = 61 then raceServe s q
  else if q.op = 62 then widenAt s (askerOf q) q.arg q.val (some q.home)
  else if q.op = 63 then echoServe s q
  else if q.op = 65 then soon s (.row .chorusSignature { core := q.core, slot := q.t, val := q.val })
  else groupServe s q

/-- Requests that wait at an engine, of the highest class present, in order of arrival (R123); one whose way to the engine is down is not there yet, and one
whose answer goes to a copy engine, a port or the caravan is not served while the way back is down (R410; DESIGN CHOICE, log 46). -/
def nextRequest (s : State) (die : Nat) : Option SyncReq :=
  let backOp (q : SyncReq) : Bool := q.op == 57 || q.op == 58 || (q.op == 61 && q.cmp != 0)
  let here := s.syncQ.filter fun q => q.home == die && q.arrive ≤ s.cycle && !pathDown s (.core q.core) (.die die)
    && !(backOp q && pathDown s (.die die) (.core q.core))
  let cls := if here.any (·.p0) then here.filter (·.p0) else here
  cls.foldl (fun m q => match m with | none => some q | some x => if q.arrive < x.arrive then some q else m) none

/-- SYNC_ENGINE_SERVICE: one operation per engine and cycle (R208). -/
def execSyncService (s : State) : Out :=
  .next (match nextRequest s s.cur.ix with
    | none => s
    | some q => serve { s with syncQ := s.syncQ.filter (·.id != q.id) } q)

/-- PHASE_BOUNDARY (R211): one step; a boundary ready again comes in a later cycle. -/
def execPhaseBoundary (s : State) : Out :=
  let k := s.cur.ix
  let p := getPh s k
  .next (if !phReady p then s
    else if p.lastB = s.cycle + 1 then schedule s .master (s.cycle + 1) (.row .phaseBoundary { ix := k })
    else
      let ms := (p.members.filter (!·.dropping)).map fun m => { m with signalled := false }
      let ms := (ms ++ p.queued).map fun m => if 0 < m.held then { m with signalled := true, held := m.held - 1 } else m
      let n := p.phase + 1
      let ready := p.waiters.filter (·.target ≤ n)
      let s := ready.zipIdx.foldl (fun s w =>
        reply s w.1.id p.home (s.cycle + w.2 + oneWay w.1.core p.home) 0 (w64 n) none) s
      putPh s k { p with phase := n, members := ms, queued := [], waiters := p.waiters.filter (n < ·.target), lastB := s.cycle + 1 })

end Sys2Proof.Machine
end

