-- ==== Sys2Proof/Machine/Copy.lean ====
section
/-! DEFINITION. The copy engine: launch and issue checks, issue of the six kinds, transfers by line and by DRAM unit, the caravan,
completion, failure and replay (R119 to R121, R152, R179, R190 to R206, R419). -/

namespace Sys2Proof.Machine

/-! ## Tiles and checks (R111, R179, R195) -/

/-- SORGk or DORGk of a word. -/
def orgOf (w k : Nat) : Nat := bits w (16 * k + 15) (16 * k)
/-- Indices of a tile along each dimension. -/
def tileExt (t : TidV) (w : Nat) : List Nat :=
  (List.range 4).map fun k => min (2 ^ t.tsh k) (t.dim k - orgOf w k * 2 ^ t.tsh k)
/-- Number of elements of extents. -/
def extSize (l : List Nat) : Nat := l.foldl (· * ·) 1
/-- Position k of a tile, i0 fastest, as a linear element index of its tensor. -/
def tileElem (t : TidV) (w : Nat) (ext : List Nat) (k : Nat) : Nat :=
  let e (i : Nat) : Nat := ext.getD i 1
  let p0 := k % e 0
  let p1 := k / e 0 % e 1
  let p2 := k / (e 0 * e 1) % e 2
  let p3 := k / (e 0 * e 1 * e 2)
  let at_ (d p : Nat) : Nat := orgOf w d * 2 ^ t.tsh d + p
  at_ 0 p0 + t.dim 0 * (at_ 1 p1 + t.dim 1 * (at_ 2 p2 + t.dim 2 * at_ 3 p3))
/-- Tile origins lie below the tile counts. -/
def orgOk (t : TidV) (w : Nat) : Bool := (List.range 4).all fun k => orgOf w k < t.tiles k
/-- Linear tile index of an origin. -/
def tileIx (t : TidV) (w : Nat) : Nat := orgOf w 0 + t.tiles 0 * (orgOf w 1 + t.tiles 1 * (orgOf w 2 + t.tiles 2 * orgOf w 3))

/-- An integer format of R131. -/
def isInt (f : Nat) : Bool := (intRange f).isSome
/-- A conversion pair that a copy may make with a scale source (R131, R197). -/
def cvtAllowed (sf df scale : Nat) : Bool :=
  match scale with
  | 0 => (isFp sf && (isFp df || isInt df)) || (sf == 0x0E && isFp df) || (isInt sf && (isFp df || isInt df || df == 0x0F))
  | 1 => isMx sf && (isFp df || isInt df)
  | _ => isFp sf && isMx df

/-- The checks of R179 and R195 on an entry's words, for a partition's tables on a core: true where a command may run. -/
def copyOk (s : State) (core part kind : Nat) (x : CopyEnt) : Bool :=
  let st := tidOf s core part x.stid
  let dt := tidOf s core part x.dtid
  let it := tidOf s core part x.itid
  let needS := kind != 2
  let needD := kind != 5
  let isSp (t : TidV) : Bool := t.space == 0
  let exts : Bool := tileExt st x.w1 == tileExt dt x.w2
  x.fieldsOk && kind ≤ 5
  && (if needS then x.stid != 0xFF && st.valid && st.space != 5 && (kind == 1 || orgOk st x.w1) else x.stid == 0xFF)
  && (if needD then x.dtid != 0xFF && dt.valid && dt.space != 5 && orgOk dt x.w2 else x.dtid == 0xFF)
  && (if kind = 1 then x.itid != 0xFF && it.valid && it.fmt == 0x12 else x.itid == 0xFF)
  && (kind == 3 || (x.cvtFmt == 0 && x.cvtRm == 0 && x.cvtScale == 0))
  && ((x.rows == 0 && x.cols == 0) || ((kind == 0 || kind == 3) && x.rows != 0 && x.cols != 0 && isSp dt))
  && (x.ctr == 0xFFFFFFF || (objAt s (2 ^ 28 * part + x.ctr)).isSome)
  && (match kind with
      | 0 => st.fmt == dt.fmt && exts
      | 1 => st.rank == 2 && dt.rank == 2 && dt.fmt == st.fmt && dt.dim 0 == st.dim 0 && it.rank == 1 && isSp it && x.w1 == 0
          && orgOf x.w2 1 * 2 ^ dt.tsh 1 + it.dim 0 ≤ dt.dim 1
      | 2 => dt.fmt != 0x0F && dt.fmt != 0x10 || x.w1 / 2 ^ (if dt.fmt = 0x0F then 50 else 35) == 0
      | 3 => x.cvtFmt == dt.fmt && x.cvtFmt != 0x0E && cvtAllowed st.fmt dt.fmt x.cvtScale && exts
          && (x.cvtScale != 1 || !st.sclt || (tidOf s core part st.scale).valid)
          && (x.cvtScale != 2 || (dt.sclt && (tidOf s core part dt.scale).valid && 5 ≤ dt.tsh 0))
      | 4 => (st.fmt == 0x06 || st.fmt == 0x04 || st.fmt == 0x0F || st.fmt == 0x10) && st.tsh 3 == 0 && isSp dt && dt.fmt == st.fmt
          && extSize (tileExt dt x.w2) * width dt.fmt ≤ 8 * 65536 && (tileExt st x.w1).take 3 == (tileExt dt x.w2).take 3
      | _ => x.ctr != 0xFFFFFFF)

/-! ## A command in flight -/

/-- Fields and kind of a journal entry, and the run it belongs to. -/
structure CC where
  core : Nat
  r : Run
  e : JEntry
  kind : Nat
  x : CopyEnt
  st : TidV
  dt : TidV
  it : TidV
  z : TidV
/-- The context of an entry: its source, destination and index tensors, and the scale tensor of the source. -/
def ccOf (s : State) (core : Nat) (r : Run) (e : JEntry) : CC :=
  let w (i : Nat) : Nat := (e.words.getD i 0).toNat
  let x := copyEntOf (w 0) (w 1) (w 2) (w 3)
  let st := tidOf s core r.part x.stid
  ⟨core, r, e, w 0 / 2 ^ 60, x, st, tidOf s core r.part x.dtid, tidOf s core r.part x.itid, tidOf s core r.part st.scale⟩
/-- Elements that a command moves or reads, in copy order. -/
def ccCount (c : CC) : Nat :=
  match c.kind with
  | 1 => c.st.dim 0 * c.e.idx.length
  | 4 => extSize ((tileExt c.st c.x.w1).take 3) * (c.st.tiles 3 - orgOf c.x.w1 3)
  | 5 => extSize (tileExt c.st c.x.w1)
  | _ => extSize (tileExt c.dt c.x.w2)
/-- Source element of position k. -/
def ccSrc (c : CC) (k : Nat) : Nat :=
  match c.kind with
  | 1 => k % c.st.dim 0 + c.st.dim 0 * (c.e.idx.getD (k / c.st.dim 0) 0)
  | 4 =>
    let n := extSize ((tileExt c.st c.x.w1).take 3)
    tileElem c.st (c.x.w1 + k / n * 2 ^ 48) (tileExt c.st c.x.w1) (k % n)
  | _ => tileElem c.st c.x.w1 (tileExt c.st c.x.w1) k
/-- Destination element of position k. -/
def ccDst (c : CC) (k : Nat) : Nat :=
  match c.kind with
  | 1 => k % c.dt.dim 0 + c.dt.dim 0 * (orgOf c.x.w2 1 * 2 ^ c.dt.tsh 1 + k / c.dt.dim 0)
  | _ => tileElem c.dt c.x.w2 (tileExt c.dt c.x.w2) k
/-- Path class of a command's reads (R332). -/
def ccPath (c : CC) : Nat := if c.kind = 1 then pathG else pathX
/-- The transfers are over the source, for the kinds that write nothing as they go. -/
def readsOnly (c : CC) : Bool := c.kind == 4 || c.kind == 5
/-- Bytes of a transfer in a space. -/
def unitSize (space : Nat) : Nat := if space = 3 then 256 else 64
/-- Who a copy is, on a core. -/
def ccWho (c : CC) (core : Nat) : Who := { whoOf c.core c.r with core := core }
/-- Unit address of an element. -/
def unitOf (t : TidV) (e : Nat) : Nat := elemAddr t (unlin t e) / unitSize t.space * unitSize t.space
/-- A list of numbers, each once, ascending. -/
def sortSet (l : List Nat) : List Nat := l.foldl nins []
/-- Scale element of an element (R144): its indices, and its linear index where it lies in the scale tensor. -/
def scaleOf (t z : TidV) (e : Nat) : Option Nat :=
  let i := unlin t e
  if inDims z (i.1 / 32, i.2) then some (i.1 / 32 + z.dim 0 * (i.2.1 + z.dim 1 * (i.2.2.1 + z.dim 2 * i.2.2.2))) else none
/-- Tags of source units above their addresses: the source, the index list, the source's scales, and a REDCOPY's destination. -/
def mainTag : Nat := 2 ^ 60
def idxTag : Nat := 2 ^ 61
def scaleTag : Nat := 2 ^ 62
def accTag : Nat := 2 ^ 63
/-- The unit of scales that lie outside their tensor: its reading fails (R110). -/
def scaleOut : Nat := scaleTag + 2 ^ 59
/-- Unit of a scale code of a source element. -/
def scaleUnit (c : CC) (e : Nat) : Nat := match scaleOf c.st c.z e with
  | some i => scaleTag + unitOf c.z i
  | none => scaleOut
/-- A command reads scale codes of its source from memory. -/
def readsScales (c : CC) : Bool := c.kind == 3 && c.x.cvtScale == 1 && c.st.sclt
/-- Elements of the destination of a REDCOPY. -/
def accCount (c : CC) : Nat := extSize ((tileExt c.st c.x.w1).take 3)
/-- Positions of the block of 32 along dimension 0 that holds position k. -/
def blockKs (c : CC) (k : Nat) : List Nat :=
  let x0 := (tileExt c.dt c.x.w2).getD 0 1
  let b := k - k % x0 + k % x0 / 32 * 32
  (List.range (min 32 (x0 - k % x0 / 32 * 32))).map (b + ·)
/-- First positions of the quantised blocks of a command, which write computed scale codes (R197); none of any other. -/
def blockHeads (c : CC) : List Nat :=
  if c.kind = 3 ∧ c.x.cvtScale = 2 then (List.range (ccCount c)).filter fun k => (blockKs c k).headD 0 == k else []
/-- A transfer that writes: the number of its destination in bits from 50 on, above the address of its unit, which strides may carry beyond 2^48; of computed
scale codes with a tag above, and the unit of those that lie outside their tensor, whose writing fails (R110). -/
def castUnit : Nat := 2 ^ 50
def scaleItem : Nat := 2 ^ 59
def scaleLost : Nat := 2 ^ 59 + 2 ^ 58
/-- The commit of a REDCOPY, as a transfer. -/
def commitItem : Nat := 2 ^ 58
/-- A transfer writes computed scale codes. -/
def isScale (u : Nat) : Bool := scaleItem ≤ u && u < mainTag
/-- Core that a transfer writes to. -/
def destOf (c : CC) (u : Nat) : Nat := c.e.dests.getD (u / castUnit % 64) c.core
/-- Transfers of a command that write, each destination's after those of the one before, and the lines of its scale codes after its elements. -/
def ccItems (s : State) (c : CC) : List Nat :=
  if readsOnly c then []
  else (c.e.dests.zipIdx).flatMap fun d =>
    let t := tidOf s d.1 c.r.part c.x.dtid
    let z := tidOf s d.1 c.r.part t.scale
    sortSet ((List.range (ccCount c)).map fun k => d.2 * castUnit + unitOf t (ccDst c k))
    ++ sortSet ((blockHeads c).map fun k => match scaleOf t z (ccDst c k) with
      | some i => scaleItem + d.2 * castUnit + unitOf z i
      | none => scaleLost + d.2 * castUnit)
/-- Units of the index list of a GATHER. -/
def ccIndex (c : CC) : List Nat := sortSet ((List.range (c.it.dim 0)).map fun i => idxTag + unitOf c.it i)
/-- Units that a command reads: its source, the scales of the source, and the destination of a REDCOPY. -/
def ccReads (c : CC) : List Nat :=
  (if c.kind = 2 then [] else sortSet ((List.range (ccCount c)).map fun k => mainTag + unitOf c.st (ccSrc c k)))
  ++ (if readsScales c then sortSet ((List.range (ccCount c)).map fun k => scaleUnit c (ccSrc c k)) else [])
  ++ (if c.kind = 4 then sortSet ((List.range (accCount c)).map fun k => accTag + unitOf c.dt (ccDst c k)) else [])
/-- A transfer reads a source unit. -/
def isRead (u : Nat) : Bool := mainTag ≤ u
/-- TID and entry of the tensor of a source unit. -/
def unitTid (c : CC) (u : Nat) : Nat × TidV :=
  match u / 2 ^ 60 with
  | 2 => (c.x.itid, c.it)
  | 4 => (c.st.scale, c.z)
  | 8 => (c.x.dtid, c.dt)
  | _ => (c.x.stid, c.st)
/-- Core, TID and entry of the tensor that a transfer reaches. -/
def itemTid (s : State) (c : CC) (u : Nat) : Nat × Nat × TidV :=
  if isRead u then (c.core, unitTid c u)
  else
    let dc := destOf c u
    let t := tidOf s dc c.r.part c.x.dtid
    if isScale u then (dc, t.scale, tidOf s dc c.r.part t.scale) else (dc, c.x.dtid, t)
/-- Address in its space of the unit of a transfer. -/
def itemAddr (u : Nat) : Nat := if isRead u then u % 2 ^ 59 else u % castUnit
/-- Path class of the reading of a source unit: a REDCOPY's destination counts with its writes (R332). -/
def unitPath (c : CC) (u : Nat) : Nat := if u / 2 ^ 60 = 8 then pathX else ccPath c
/-- Elements of its tensor that a source unit brings, in copy order. -/
def unitElems (c : CC) (u : Nat) : List Nat :=
  let here (t : TidV) (l : List Nat) : List Nat := l.filter fun e => unitOf t e == u % 2 ^ 59
  match u / 2 ^ 60 with
  | 2 => here c.it (List.range (c.it.dim 0))
  | 4 => sortSet (here c.z ((List.range (ccCount c)).filterMap fun k => scaleOf c.st c.z (ccSrc c k)))
  | 8 => here c.dt ((List.range (accCount c)).map (ccDst c))
  | _ => here c.st ((List.range (ccCount c)).map (ccSrc c))

def getEntry (s : State) (core no : Nat) : Option JEntry := (getCopier s core).journal.find? (·.no == no)
def putEntry (s : State) (core : Nat) (e : JEntry) : State :=
  let c := getCopier s core
  setCopier s core { c with journal := c.journal.map fun x => if x.no = e.no then e else x }

/-- A fault kills the block of a command: where no object is named, and a translation fault in a real-time partition (R69, R117, R200); a fenced bank group or
AC adder fails the command as any other fault does (R78, R373). -/
def copyKills (s : State) (part : Nat) (e : JEntry) (cause : Nat) : Bool :=
  e.ctr == 0xFFFFFFF || ((getPart s part).rt && (cause == 0x066 || cause == 0x06D))
/-- A command fails (R200): its accesses end, its bytes are subtracted, and its object is told, or its block is killed; an uncorrectable error is queued for
the partition too (R372). -/
def copyFail (s : State) (core : Nat) (r : Run) (e : JEntry) (cause i0 i1 i2 : Nat) : State :=
  let w : Why := { cause := cause, eng := 4, pos := e.slot * 1024 + e.index, i0 := i0, i1 := i1, i2 := i2 }
  if copyKills s r.part e cause then killFatal s core 4 w
  else
    let c := getCopier s core
    let s := setCopier s core { c with journal := c.journal.filter (·.no != e.no) }
    let s := { s with dram := s.dram.filter fun a => !(a.core == core && a.entry == some e.no) }
    let s := if e.phaser = 0xFFF then s else phSub s (4096 * r.scene + e.phaser) e.bytes
    let s := if cause / 32 = 11 then queueFor s core r { w with fatal := true } else s
    let k := 2 ^ 28 * r.part + e.ctr
    let s := if e.noticed then s else postNotice s core r.part 56 k 0 e.no
    let s := postNotice s core r.part 59 k cause e.no
    if (getCopier s core).pos = (getCopier s core).nent ∧ (getCopier s core).journal = [] then
      soon s (.row .copyBlockRetirement { core := core }) else s
/-- It fails by an address fault of an element of a tensor, on a path. -/
def copyAddr (s : State) (c : CC) (cause tid : Nat) (t : TidV) (e path : Nat) : State :=
  let va := elemAddr t (unlin t e)
  if cause = 0x16C then
    copyFail (translated s c.core c.r.part 3 va) c.core c.r c.e cause (walkBad s c.r.part va).1 (walkBad s c.r.part va).2 0
  else copyFail s c.core c.r c.e cause (info3 tid t.space va) e path
/-- A command fails by a scale code that lies outside the scale tensor z of a tensor t (R110, R144): the element that names it, by its indices. -/
def copyScale (s : State) (c : CC) (tid : Nat) (t z : TidV) (es : List Nat) (path : Nat) : State :=
  let i := unlin t ((es.find? fun e => (scaleOf t z e).isNone).getD 0)
  copyFail s c.core c.r c.e 0x062 (info3 tid z.space (elemAddr z (i.1 / 32, i.2)))
    (i.1 / 32 + z.dim 0 * (i.2.1 + z.dim 1 * (i.2.2.1 + z.dim 2 * i.2.2.2))) path
/-- An index beyond the source ends a GATHER (R196). -/
def failIndex (s : State) (c : CC) (v : Nat) : State :=
  copyFail s c.core c.r c.e 0x062 (info3 c.x.stid c.st.space (c.st.base + v * c.st.stride 1)) (c.st.dim 0 * v) pathG

/-- L_noc from a core to the channel of a physical address (R119, R121). -/
def lNoc (core pa : Nat) : Nat := if dieOf core = channelOf pa / 4 then 2 else 4
/-- A reservation may be used by a partition on a channel (R120). -/
def ridOk (s : State) (rid part ch : Nat) : Bool :=
  rid == 0 || (
    let e := (tget s.resv 0 rid).toNat
    bit e 15 && e % 16 == part
    && (List.range 256).any fun j => let m := (tget s.slots 0 (256 * ch + j)).toNat; bit m 15 && m % 256 == rid)

/-- The element that position k writes in a transfer: of the destination, or of its scale tensor. -/
def itemElem (s : State) (c : CC) (u k : Nat) : Option Nat :=
  let t := tidOf s (destOf c u) c.r.part c.x.dtid
  if isScale u then scaleOf t (tidOf s (destOf c u) c.r.part t.scale) (ccDst c k) else some (ccDst c k)
/-- Positions of a command whose element lies in a transfer's unit. -/
def itemKs (s : State) (c : CC) (u : Nat) : List Nat :=
  let t := (itemTid s c u).2.2
  (if isScale u then blockHeads c else List.range (ccCount c)).filter fun k =>
    (itemElem s c u k).any fun e => unitOf t e == itemAddr u
/-- A command reads HOST space, or reads or writes it. -/
def readsHost (c : CC) : Bool := c.kind != 2 && (c.st.space == 4 || (readsScales c && c.z.space == 4))
def usesHost (s : State) (c : CC) : Bool :=
  readsHost c || (c.kind != 5 && c.dt.space == 4)
  || (c.kind == 3 && c.x.cvtScale == 2 && (tidOf s c.core c.r.part c.dt.scale).space == 4)
/-- The source units that a transfer needs have been read: a quantised block and its scale codes wait for all of them, and a REDCOPY takes the lines of its
destination before those of its sources. -/
def fed (s : State) (c : CC) (u : Nat) : Bool :=
  if isRead u then c.kind != 4 || u / 2 ^ 60 == 8 || c.st.space == 3 || c.e.waiting.all (· < accTag)
  else c.e.waiting.isEmpty || (!(c.kind == 3 && c.x.cvtScale == 2) && (itemKs s c u).all fun k =>
    !c.e.waiting.contains (mainTag + unitOf c.st (ccSrc c k)) && (!readsScales c || !c.e.waiting.contains (scaleUnit c (ccSrc c k))))

/-- What a transfer reads or writes: agent, TID and entry, elements, path, and whether it stores. -/
structure Xfer where
  w : Who
  tid : Nat
  t : TidV
  es : List Nat
  path : Nat
  store : Bool
/-- The access of a transfer. -/
def xferOf (s : State) (c : CC) (u : Nat) : Xfer :=
  if isRead u then ⟨ccWho c c.core, (unitTid c u).1, (unitTid c u).2, unitElems c u, unitPath c u, false⟩
  else
    let i := itemTid s c u
    let es := if u = commitItem then (List.range (accCount c)).map (ccDst c) else (itemKs s c u).filterMap (itemElem s c u)
    ⟨ccWho c i.1, i.2.1, i.2.2, es, pathX, true⟩
/-- The place of an element of a transfer, or its cause (R124). -/
def xferPlace (s : State) (x : Xfer) (e : Nat) : Except Nat (Nat × Nat × Place) :=
  let n := max 1 (width x.t.fmt / 8)
  accessOf s x.w x.t e 0 n n false x.store .copy
/-- The first element of a transfer whose access faults. -/
def xferFault (s : State) (x : Xfer) : Option (Nat × Nat) :=
  x.es.findSome? fun e => match xferPlace s x e with
    | .error c => some (c, e)
    | .ok _ => none
/-- Addresses of the 4 KiB granules of a transfer (R214). -/
def xferGranules (x : Xfer) : List Nat := (sortSet (x.es.map fun e => (elemAddr x.t (unlin x.t e) - x.t.base) / 4096)).map fun g => x.t.base + 4096 * g
/-- A granule of a transfer, as an entry's lists of asked and granted ones hold it. -/
def raceKey (x : Xfer) (u a : Nat) : Nat := u * 2 ^ 40 + (a - x.t.base) / 4096
/-- The first granule that neither a grant of the core nor an answer to this transfer covers (R346). -/
def raceNeeds (s : State) (c : CC) (x : Xfer) (u : Nat) : Option Nat :=
  if !x.t.shrc then none
  else (xferGranules x).find? fun a => !raceHeld s { x.w with core := c.core } x.t x.tid a x.path x.store && !c.e.granted.contains (raceKey x u a)
/-- The race check of a granule of a transfer goes to the tag's engine, and the transfer waits for its grant. -/
def askXfer (s : State) (c : CC) (x : Xfer) (u a : Nat) : State :=
  putEntry (askRace s { x.w with core := c.core } x.t x.tid a x.path x.store 2 c.e.no u) c.core { c.e with asked := nins c.e.asked (raceKey x u a) }
/-- A transfer waits for the answer to a race check. -/
def isAsked (e : JEntry) (u : Nat) : Bool := e.asked.any (· / 2 ^ 40 == u)

/-- A unit in DRAM becomes eligible (R120, R124): its checks, its reservation, and its race check first where it holds no grant. -/
def pushOne (s : State) (core no u : Nat) : State :=
  match runOf s core 4, getEntry s core no with
  | some r, some e =>
    let c := ccOf s core r e
    let x := xferOf s c u
    if isAsked e u || s.dram.any (fun a => a.core == core && a.entry == some no && a.unit == u) then s
    else match xferFault s x with
      | some (cause, i) => copyAddr s c cause x.tid x.t i x.path
      | none => match x.es.head?.map (xferPlace s x) with
        | some (.ok (a, _, p)) =>
          let pa := p.addr - a % 256
          if !ridOk s c.x.rid r.part (channelOf pa) then copyAddr s c 0x06E x.tid x.t (x.es.headD 0) x.path
          else match raceNeeds s c x u with
            | some g => askXfer s c x u g
            | none =>
              let y : Access := ⟨s.nextId, x.store, core, some no, none, u, pa, c.x.rid, r.part, clusterOf core, false⟩
              let s := translated s core r.part 3 a
              { s with nextId := s.nextId + 1, dram := s.dram ++ [y] }
        | _ => s
  | _, _ => s
/-- A transfer of scale codes that lie outside their tensor. -/
def outside (u : Nat) : Bool := u == scaleOut || (isScale u && scaleLost ≤ u)
/-- Numbers in the order of a measure of theirs, equal ones as they stood. -/
def sortOn (f : Nat → Nat) (l : List Nat) : List Nat :=
  l.foldl (fun l x => l.takeWhile (f · ≤ f x) ++ [x] ++ l.dropWhile (f · ≤ f x)) []
/-- The units in DRAM that a command reads and writes become eligible at its issue, in ascending address order, a unit read before one written (R193); a
GATHER's rows once its index list is there. -/
def pushDram (s : State) (core no : Nat) : State :=
  match runOf s core 4, getEntry s core no with
  | some r, some e =>
    let c := ccOf s core r e
    match (e.waiting ++ e.left).find? outside with
    | some u =>
      let t := (itemTid s c u).2.2
      if isRead u then copyScale s c c.st.scale c.st t ((List.range (ccCount c)).map (ccSrc c)) (ccPath c)
      else
        let d := tidOf s (destOf c u) r.part c.x.dtid
        copyScale s c d.scale d t ((blockHeads c).map (ccDst c)) pathX
    | none =>
      let us := (e.waiting ++ e.left).filter fun u => (itemTid s c u).2.2.space == 3
      (sortOn (fun u => 2 * itemAddr u + b2n (!isRead u)) us).foldl (fun s u => pushOne s core no u) s
  | _, _ => s

/-- The code of an element in what has been read, at a unit's tag. -/
def stageCode (c : CC) (tag : Nat) (t : TidV) (e : Nat) : Nat :=
  let i := unlin t e
  let v := leNat (rdBytes c.e.stage (tag + elemAddr t i) (max 1 (width t.fmt / 8)))
  if width t.fmt < 8 then bits v (elemBit t i + width t.fmt - 1) (elemBit t i) else v
/-- A GATHER has its index list: the rows before the first bad index are copied (R196). -/
def takeIndex (s : State) (c : CC) : State :=
  let l := (List.range (c.it.dim 0)).map (stageCode c idxTag c.it)
  let e := { c.e with idx := l.takeWhile (· < c.st.dim 1), failAfter := l.find? (c.st.dim 1 ≤ ·) }
  let c := { c with e := e }
  let e := { e with waiting := ccReads c, left := ccItems s c }
  let s := putEntry s c.core e
  match e.idx, e.failAfter with
  | [], some v => failIndex s { c with e := e } v
  | _, _ => pushDram s c.core e.no
/-- After a transfer: a unit that a slot served before its sources were read performs once it is fed; the last transfer brings the list of a GATHER to its rows,
and a command to its completion, or to the failure that an index left. -/
def settle (s : State) (core no : Nat) : State :=
  match runOf s core 4, getEntry s core no with
  | some r, some e =>
    let c := ccOf s core r e
    if !(e.left.isEmpty && e.waiting.isEmpty) then
      (e.ready.filter fun u => fed s c u.1).foldl (fun s u => soon s (.row .lineTransfer { core := core, ix := no, val := u.1 })) s
    else if e.performed || e.discarded then s
    else if c.kind = 1 ∧ e.idx = [] then takeIndex s c
    else match e.failAfter with
      | some v => failIndex s c v
      | none => next s (.row .copyCompletion { core := core, ix := no })
  | _, _ => s

/-- The first cycle of a command's transfers by lines: the one after its issue, or with the host's answer, whose time is not given but whose timeout is
(R123, R193, R427). -/
def hostWait (s : State) (c : CC) : State × Nat :=
  if usesHost s c then
    let s1 := if readsHost c then
      schedule s .tick (ticks s + Config.cxlTimeoutTicks) (.row .cxlTimeout { core := c.core, ix := c.e.no, flag := true }) else s
    (drawn s1, s.cycle + 1 + Config.freeNat s.free)
  else (s, s.cycle + 1)
/-- The transfers of a command start (R193): at issue, and again at a replay (R206). A GATHER begins with its index list. -/
def startTransfers (s0 : State) (core : Nat) (r : Run) (e : JEntry) : State :=
  let c := ccOf s0 core r e
  let (s, startAt) := hostWait s0 c
  let e' := { e with startAt := startAt, stage := [], idx := [], failAfter := none, asked := [], granted := [], denied := [], ready := [], discarded := false
                     left := if c.kind = 1 then [] else ccItems s c, waiting := if c.kind = 1 then ccIndex c else ccReads c }
  pushDram (putEntry s core e') core e.no

/-! ## Issue (R192 to R194) -/

/-- State of a bank code. -/
def bankNow (c : Copier) (b : Nat) : BankSt := if b = 1 then c.bankA else c.bankB
/-- The stage value that the issue check of this cycle sees (R191). -/
def stageNow (s : State) (c : Copier) : Nat := if c.stageAt = s.cycle + 1 then c.stagePrev else c.stage
/-- Commands in flight: issued and not yet performed. -/
def inFlight (c : Copier) : Nat := (c.journal.filter fun e => !e.performed).length
/-- The wait conditions of R192 hold for an entry. -/
def mayIssue (s : State) (r : Run) (c : Copier) (kind : Nat) (x : CopyEnt) : Bool :=
  (x.start : Int) ≤ since s r.fire && x.stage ≤ stageNow s c && (x.bank == 0 || bankNow c x.bank == .armed || bankNow c x.bank == .kept)
  && c.journal.length < 64 && inFlight c < 16
  && (kind != 4 || !c.journal.any fun e => !e.performed && (e.words.getD 0 0).toNat / 2 ^ 60 == 4)

/-- The lowest free place of the journal (DEDUCED, log 32). -/
def freeSlot (c : Copier) : Nat := ((List.range 64).find? fun i => !c.journal.any (·.slot == i)).getD 0
/-- Logical cores that the masks of a multicast select. -/
def castLcs (x : CopyEnt) : List Nat :=
  (List.range 64).filter fun l => bit x.rows (l / 8) && bit x.cols (l % 8)
/-- Destination tiles that a command writes. -/
def destTiles (c : CC) : List Nat :=
  match c.kind with
  | 5 => []
  | 1 => sortSet ((List.range (c.it.dim 0)).flatMap fun j => (List.range (c.dt.tiles 0)).map fun i =>
      (orgOf c.x.w2 1 * 2 ^ c.dt.tsh 1 + j) / 2 ^ c.dt.tsh 1 * c.dt.tiles 0 + i)
  | _ => [tileIx c.dt c.x.w2]
/-- B(e) (R194). -/
def bytesOf (c : CC) : Nat :=
  match c.kind with
  | 1 => cdiv (c.st.dim 0 * c.it.dim 0 * width c.dt.fmt) 8
  | 5 => cdiv (ccCount c * width c.st.fmt) 8
  | k => cdiv ((if k = 4 then extSize (tileExt c.dt c.x.w2) else ccCount c) * width c.dt.fmt) 8 * c.e.dests.length

/-- Issue(e) of a command of a kind (R193): checks, journal entry, residency, pending bytes, notice, then its transfers. A fenced generator and a logical core
beyond the gang fail a command before its generator steps (DESIGN CHOICE, log 78). -/
def issueCopy (s : State) (kind : Nat) (x : CopyEnt) : Out :=
  let core := s.cur.core
  match runOf s core 4 with
  | none => .fault .noAgent
  | some r =>
    let c := getCopier s core
    let words := c.sched.getD c.pos []
    let adv (s : State) : State := setCopier s core { getCopier s core with pos := (getCopier s core).pos + 1 }
    let dt := tidOf s core r.part x.dtid
    let ph := if kind = 5 then (x.ph) else if x.ph = 0xFFF then dt.phaser else x.ph
    let e0 : JEntry := {
      no := s.nextId, slot := freeSlot c, index := c.pos, words := words, bank := x.bank, dests := [core], gen := c.gen, ctr := x.ctr, phaser := 0xFFF,
      bytes := 0, left := [], waiting := [], part := r.part, dtid := x.dtid }
    let s := { s with nextId := s.nextId + 1 }
    let fail (cause i0 i1 i2 : Nat) : State := copyFail (adv s) core r e0 cause i0 i1 i2
    .next (
      let sr := kind == 3 && x.cvtRm == 2 && !(x.cvtScale == 0 && dt.fmt == 0x0F)
      if !copyOk s core r.part kind x then fail 0x142 c.pos 0 0
      else if sr && !bit (capMask s core) 38 then fail 0x13F 38 (words.getD 0 0).toNat 0
      else
        let lcs := castLcs x
        let multi := x.rows ≠ 0
        if multi ∧ lcs.any (nlcOf s r.scene r.gslot ≤ ·) then fail 0x06C (info3 x.dtid dt.space (elemAddr dt (unlin dt (tileElem dt x.w2 (tileExt dt x.w2) 0)))) 0 pathX
        else
          let e1 := { e0 with dests := if multi then lcs.map fun l => coreOf s r.scene r.gslot l r.voice else [core] }
          let cc := ccOf s core r e1
          let n := bytesOf cc
          let tiles := destTiles cc
          let s := if sr then setCopier s core { getCopier s core with gen := genStep c.gen } else s
          let s := e1.dests.foldl (fun s d =>
            if (tidOf s d r.part x.dtid).restrk then tiles.foldl (fun s t => resClear s (resKey d r.part x.dtid t)) s else s) s
          let pk := 4096 * r.scene + ph
          if ph ≠ 0xFFF ∧ (getPh s pk).live = false then copyFail (adv s) core r e1 0x0E4 ph n 0
          else if ph ≠ 0xFFF ∧ 2 ^ 36 - 1 < (getPh s pk).pending + n then copyFail (adv s) core r e1 0x0E7 ph n 0
          else
            let s := if ph = 0xFFF then s else setPh s pk { getPh s pk with pending := (getPh s pk).pending + n }
            let e2 := { e1 with bytes := n, phaser := ph, tiles := tiles, noticed := x.ctr != 0xFFFFFFF }
            let s := adv (setCopier s core { getCopier s core with journal := (getCopier s core).journal ++ [e2] })
            let s := if x.ctr = 0xFFFFFFF then s else postNotice s core r.part 56 (2 ^ 28 * r.part + x.ctr) 0 e2.no
            startTransfers s core r e2)

def execCCopy (e : CopyEnt) (s : State) : Out := issueCopy s 0 e
def execCGather (e : CopyEnt) (s : State) : Out := issueCopy s 1 e
def execCFill (e : CopyEnt) (s : State) : Out := issueCopy s 2 e
def execCCvtcopy (e : CopyEnt) (s : State) : Out := issueCopy s 3 e
def execCRedcopy (e : CopyEnt) (s : State) : Out := issueCopy s 4 e
def execCDigest (e : CopyEnt) (s : State) : Out := issueCopy s 5 e

/-! ## Transfers (R193, R196 to R198) -/

/-- The code of a source element, and the scale code of its block (R144). -/
def srcCode (c : CC) (e : Nat) : Nat := stageCode c mainTag c.st e
def srcScale (c : CC) (e : Nat) : Nat :=
  if !c.st.sclt then fixedScale c.st else stageCode c scaleTag c.z ((scaleOf c.st c.z e).getD 0)
/-- A generator after n steps (R150). -/
def genAfter : Nat → W32 → W32
  | 0, x => x
  | n + 1, x => genAfter n (genStep x)
/-- The draw of element k of a command (R152). -/
def copyDraw (c : CC) (k : Nat) : Nat := genDraw (genAfter (k / 16) c.e.gen) (k % 16)
/-- Rounding of an entry's code: 0 RNE, 1 RZ, 2 SR. -/
def copyRm (c : CC) : RMode := if c.x.cvtRm = 1 then .rz else if c.x.cvtRm = 2 then .sr else .rne

/-- A quantised block: codes, E, CLAMP, NANBLK (R147, R197). -/
def blockOf (c : CC) (k : Nat) : List Nat × Nat × Bool × Bool :=
  let ks := blockKs c k
  mxBlock c.dt.fmt (copyRm c) (ks.map fun j => fmtVal c.st.fmt (srcCode c (ccSrc c j))) (ks.map (copyDraw c))

/-- The code that a command writes at position k. -/
def dstCode (c : CC) (k : Nat) : Nat :=
  match c.kind with
  | 2 =>
    let w := width c.dt.fmt
    c.x.w1 / 2 ^ (k * w % 64) % 2 ^ w
  | 3 =>
    let v := srcCode c (ccSrc c k)
    match c.x.cvtScale with
    | 0 => if c.dt.fmt = 0x0F then rnsSlot false (rnsFwd false (match intRange c.st.fmt with
          | some r => if r.1 < 0 then sx (codeWidth c.st.fmt) v else (v : Int)
          | none => (v : Int)))
        else convert c.st.fmt c.dt.fmt (copyRm c) (copyDraw c k) v
    | 1 => convTo c.dt.fmt (copyRm c) (copyDraw c k) (mxVal c.st.fmt v (srcScale c (ccSrc c k)))
    | _ => (blockOf c k).1.getD (((blockKs c k).findIdx? (· == k)).getD 0) 0
  | _ => srcCode c (ccSrc c k)

/-- The code that position k writes in a transfer: an element, or the scale code of its block (R144, R197). -/
def itemCode (c : CC) (u k : Nat) : Nat := if isScale u then (blockOf c k).2.1 else dstCode c k
/-- CLAMP and NANBLK of the blocks of a command, at their places in the status word (R197, R203). -/
def blockFlags (c : CC) : Nat :=
  (blockHeads c).foldl (fun n k => n ||| (b2n (blockOf c k).2.2.1 * 2 ^ 51 + b2n (blockOf c k).2.2.2 * 2 ^ 50)) 0

/-- Bit within its byte, and place, of an element of a transfer: by its checks, or in the physical unit that the caravan served. -/
def xferAt (s : State) (x : Xfer) (pa : Option Nat) (e : Nat) : Nat × Place :=
  let i := unlin x.t e
  match pa, xferPlace s x e with
  | some a, _ => (elemBit x.t i, ⟨.dev, a + elemAddr x.t i % 256⟩)
  | none, .ok (_, lo, p) => (lo, p)
  | none, .error _ => (elemBit x.t i, ⟨.dev, Config.poolBase⟩)
/-- Bytes that an element of a transfer takes, at least one. -/
def elemBytes (x : Xfer) : Nat := max 1 (width x.t.fmt / 8)
/-- An element of a transfer lies in a bank group that is fenced (R371). -/
def xferFenced (s : State) (x : Xfer) (pa : Option Nat) : Bool := x.es.any fun e => bankFenced s (xferAt s x pa e).2 (elemBytes x)
/-- An element of a transfer takes a code: whole bytes, or its bits within one. -/
def storeElemAt (s : State) (x : Xfer) (pa : Option Nat) (e v : Nat) : State :=
  let (lo, p) := xferAt s x pa e
  if width x.t.fmt < 8 then wrMem s p (leBytes 1 (setBits (leNat (rdMem s p 1)) (lo + width x.t.fmt - 1) lo v)) else wrMem s p (leBytes (elemBytes x) v)
/-- The writes of a transfer. -/
def writeItem (s : State) (c : CC) (x : Xfer) (u : Nat) (pa : Option Nat) : State :=
  (itemKs s c u).foldl (fun s k => storeElemAt s x pa ((itemElem s c u k).getD 0) (itemCode c u k)) s

/-- Bits that a transfer writes in block j of 32 bytes of its unit. -/
def blockBits (x : Xfer) (j : Nat) : Nat :=
  let n := unitSize x.t.space
  (sortSet ((x.es.map fun e => 8 * elemAddr x.t (unlin x.t e) + elemBit x.t (unlin x.t e)).filter fun a => a / 8 % n / 32 == j)).length * width x.t.fmt
/-- The line or unit of a transfer by its check bits (R372, R439): read, all of it is checked; written, the blocks that it writes in part are, and those that
it covers carry fresh ones. -/
def xferEcc (s : State) (x : Xfer) (p : Place) (core : Nat) : State × Bool :=
  let n := unitSize x.t.space
  let q : Place := ⟨p.store, p.addr / n * n⟩
  let s := holdLines s q n
  if !x.store then eccLog s q n core
  else if p.store ≠ .dev then (s, true)
  else
    let js := List.range (n / 32)
    let r := eccBlocks s q ((js.filter fun j => blockBits x j != 0 && blockBits x j < 256).map (q.addr / 32 + ·)) core
    (js.foldl (fun s j => if 256 ≤ blockBits x j then eccFresh s ⟨.dev, q.addr + 32 * j⟩ 32 else s) r.1, r.2)
/-- The bytes of a source unit join what has been read. -/
def readUnit (s : State) (x : Xfer) (u : Nat) (pa : Option Nat) (m : Tab Byte) : Tab Byte :=
  x.es.foldl (fun m e => wrBytes m (u / 2 ^ 60 * 2 ^ 60 + elemAddr x.t (unlin x.t e)) (rdMem s (xferAt s x pa e).2 (elemBytes x))) m

/-- A transfer reads or writes, past its checks: a fenced bank group or a soft error fails its command. -/
def transfer (s : State) (c : CC) (x : Xfer) (u : Nat) (pa : Option Nat) : State :=
  let p := (xferAt s x pa (x.es.headD 0)).2
  if xferFenced s x pa then copyFail s c.core c.r c.e 0x14C 0 0 0
  else match xferEcc s x p c.core with
    | (s, false) => copyFail s c.core c.r c.e (eccCauses p).2 (eccUnit p) p.addr 0
    | (s, true) =>
      let e := c.e
      if x.store then settle (putEntry (writeItem s c x u pa) c.core { e with left := e.left.filter (· != u), ready := e.ready.filter (·.1 != u) }) c.core e.no
      else settle (putEntry s c.core { e with stage := readUnit s x u pa e.stage, waiting := e.waiting.filter (· != u) }) c.core e.no
/-- A transfer of a command performs: a unit of its sources read, or a line or unit of its destination written (R193); at the physical unit that the
caravan served, where that brought it. A unit of the destination that is served before its sources are read performs with them (DEDUCED, log 19). -/
def performItem (s : State) (core no u : Nat) (served : Option Nat) : State :=
  match runOf s core 4, getEntry s core no with
  | some r, some e =>
    let c := ccOf s core r e
    let x := xferOf s c u
    let pa := served.or (lookup e.ready u)
    if !(e.left.contains u || e.waiting.contains u) then s
    else match pa with
    | some a => if fed s c u then transfer s c x u pa else putEntry s core { e with ready := (u, a) :: e.ready }
    | none => match xferFault s x with
      | some (cause, i) => copyAddr s c cause x.tid x.t i x.path
      | none => match raceNeeds s c x u with
        | some g => askXfer s c x u g
        | none => transfer (translated s core r.part x.t.space (elemAddr x.t (unlin x.t (x.es.headD 0)))) c x u none
  | _, _ => s
/-- The answer to a race check of a transfer: a conflict fails the command (R348); with its grant the transfer may perform, a unit in DRAM becomes eligible, and
the commit of a REDCOPY goes on. -/
def raceGranted (s : State) (core no u : Nat) : State :=
  match runOf s core 4, getEntry s core no with
  | some r, some e =>
    if !isAsked e u then s
    else match e.denied.find? (·.1 == u) with
      | some (_, cause, i0, i1, i2) => copyFail s core r e cause i0 i1 i2
      | none =>
        let mine := e.asked.filter (· / 2 ^ 40 == u)
        let s := putEntry s core { e with asked := e.asked.filter (· / 2 ^ 40 != u), granted := mine.foldl nins e.granted }
        if u = commitItem then next s (.row .copyCompletion { core := core, ix := no })
        else if (itemTid s (ccOf s core r e) u).2.2.space = 3 then pushOne s core no u else s
  | _, _ => s

/-- COPY_LINE_TRANSFER (R193); flagged, the answer to the race check of a transfer (R346). -/
def execLineTransfer (s : State) : Out :=
  .next (if s.cur.flag then raceGranted s s.cur.core s.cur.ix s.cur.val else performItem s s.cur.core s.cur.ix s.cur.val none)

/-! ## The caravan (R119 to R121, R419, R439) -/

/-- Byte budget of a cluster in the present period (R419). -/
def budgetOf (s : State) (cl : Nat) : Nat := tget s.budget 64800 cl
/-- A best-effort access fits its cluster's budget; a save suspends the caps (R423). -/
def fits (s : State) (a : Access) : Bool := s.mgmt.saving.isSome || tget s.served 0 a.cluster + 256 ≤ budgetOf s a.cluster
/-- The access that a slot of a channel serves; a slot is lost to an access whose path retrains, which keeps its place (R410). -/
def slotPick (s : State) (ch j : Nat) : Option Access :=
  let m := (tget s.slots 0 (256 * ch + j)).toNat
  let here := s.dram.filter fun a => channelOf a.pa == ch && !a.served && !pathDown s (.core a.core) (.die (ch / 4)) && !pathDown s (.die (ch / 4)) (.core a.core)
  let own := if bit m 15 ∧ m % 256 ≠ 0 then here.find? fun a => a.rid == m % 256 else none
  match own with
  | some a => some a
  | none => here.find? fun a => a.rid == 0 && fits s a

/-- A served access reaches its data: a copy's source unit is read, its destination unit written, a thread's access performs. In a cycle that the pattern
disables, the copy engine does nothing: what comes for it is held until the next enabled cycle (R415). -/
def performAccess (s : State) (ch : Nat) (a : Access) : State :=
  if a.entry.isSome && !coreOn s a.core then
    schedule s (.cluster (clusterOf a.core)) (nOf s a.core + 1) (.row .caravanSlot { ix := ch, val := a.id, flag := true })
  else
  let s := { s with dram := s.dram.filter (·.id != a.id) }
  match a.req, a.entry with
  | some id, _ => performById s id (.row .prompterPerform { ix := id })
  | none, some no => performItem s a.core no a.unit (some a.pa)
  | none, none => s

/-- CARAVAN_SLOT (R120): a slot of a channel serves an access, whose data follows L_ctl + L_noc ticks later (flag, R121). -/
def execCaravanSlot (s : State) : Out :=
  let ch := s.cur.ix
  let j := ticks s % 256
  .next (
    if s.cur.flag then match s.dram.find? (·.id == s.cur.val) with
      | some a => performAccess s ch a
      | none => s
    else if j % 32 = 31 then s
    else match slotPick s ch j with
      | none => s
      | some a =>
        let s := { s with
          dram := s.dram.map fun x => if x.id = a.id then { x with served := true } else x
          served := tput s.served 0 a.cluster (tget s.served 0 a.cluster + 256) }
        schedule s .tick (ticks s + Config.lCtl + lNoc a.core a.pa) (.row .caravanSlot { ix := ch, val := a.id, flag := true }))

/-! ## Completion (R199, R215) -/

/-- Sum of REDCOPY (R198). -/
def redAdd (f a b : Nat) : Nat :=
  match f with
  | 0x06 => fAdd 6 a b
  | 0x04 => (a + b) % 2 ^ 32
  | 0x0F => rnsSlot false (rnsAdd false (rnsOf false a) (rnsOf false b))
  | _ => rnsSlot true (rnsAdd true (rnsOf true a) (rnsOf true b))
/-- The sum of a REDCOPY for element i of its destination (R198). -/
def redSum (c : CC) (i : Nat) : Nat :=
  (List.range (ccCount c / accCount c)).foldl (fun acc j => redAdd c.dt.fmt acc (srcCode c (ccSrc c (j * accCount c + i))))
    (stageCode c accTag c.dt (ccDst c i))
/-- The commit of a REDCOPY by its check bits: each line of its destination. -/
def commitEcc (s : State) (x : Xfer) (core : Nat) : State × Place × Bool :=
  (sortSet (x.es.map (unitOf x.t))).foldl (fun r u =>
    let y := { x with es := x.es.filter fun e => unitOf x.t e == u }
    let p := (xferAt r.1 y none (y.es.headD 0)).2
    if !r.2.2 then r else let q := xferEcc r.1 y p core; (q.1, p, q.2)) (s, ⟨.dev, Config.poolBase⟩, true)
/-- Step 1 of R199: a REDCOPY commits the sums over the destination as it took it (R198), once its writes hold their grants; the AC adder takes part where the
destination lies in AC. The answer is the state, and whether the command goes on to its further steps. -/
def redCommit (s : State) (c : CC) : State × Bool :=
  let x := xferOf s c commitItem
  let base := elemAddr c.dt (unlin c.dt (ccDst c 0)) % 2 ^ 23
  match xferFault s x with
  | some (cause, i) => (copyAddr s c cause x.tid x.t i x.path, false)
  | none => match raceNeeds s c x commitItem with
    | some g => (askXfer s c x commitItem g, false)
    | none =>
      if (spEnd (pw s c.core) ≤ base / 65536 && !bit (capMask s c.core) 47) || xferFenced s x none then
        (copyFail s c.core c.r c.e 0x14C 0 0 0, false)
      else match commitEcc s x c.core with
        | (s, p, false) => (copyFail s c.core c.r c.e (eccCauses p).2 (eccUnit p) p.addr 0, false)
        | (s, _, true) => ((List.range (accCount c)).foldl (fun s i => storeElemAt s x none (ccDst c i) (redSum c i)) s, true)
/-- Digest of a source tile (R198). -/
def digestOf (c : CC) : Nat :=
  let w := width c.st.fmt
  let codes := (List.range (ccCount c)).map fun k => srcCode c (ccSrc c k) % 2 ^ w
  if 8 ≤ w then crcBytes 0 (codes.flatMap fun v => leBytes (w / 8) v)
  else crcBytes 0 (leBytes (cdiv (codes.length * w) 8) (codes.zipIdx.foldl (fun n p => n + p.1 * 2 ^ (w * p.2)) 0))

/-- The entry leaves the journal; with the last entry of the schedule gone the block retires (R190). -/
def releaseEntry (s : State) (core no : Nat) : State :=
  let c := getCopier s core
  let s := setCopier s core { c with journal := c.journal.filter (·.no != no) }
  let c := getCopier s core
  if c.pos = c.nent ∧ c.journal.isEmpty = true then soon s (.row .copyBlockRetirement { core := core }) else s

/-- COPY_COMPLETION (R199): steps 1 to 4; without an object the entry is released at once. A DIGEST completes with its home's acceptance, which takes its
bytes off (digestAccepted). -/
def execCopyCompletion (s : State) : Out :=
  let core := s.cur.core
  .next (match runOf s core 4, getEntry s core s.cur.ix with
    | some r, some e =>
      let c := ccOf s core r e
      if e.performed ∨ e.discarded = true then s
      else
        match (if c.kind = 4 then redCommit s c else (s, true)) with
        | (s, false) => s
        | (s, true) =>
          let s := putEntry s core
            { e with performed := true, sent := e.ctr != 0xFFFFFFF, bytes := if c.kind = 5 then e.bytes else 0, flags := blockFlags c }
          let s := e.dests.foldl (fun s d =>
            if c.kind ≠ 5 ∧ (tidOf s d r.part e.dtid).restrk = true then
              e.tiles.foldl (fun s t => resDone s d r.part e.dtid t e.no) s
            else s) s
          let s := if e.phaser = 0xFFF ∨ c.kind = 5 then s else phSub s (4096 * r.scene + e.phaser) e.bytes
          let k := 2 ^ 28 * r.part + e.ctr
          if c.kind = 5 then postNotice s core r.part 58 k (digestOf c) e.no
          else if e.ctr = 0xFFFFFFF then releaseEntry s core e.no
          else postNotice s core r.part 57 k (blockFlags c) e.no
    | _, _ => s)

/-- JOURNAL_RELEASE (R199): the acknowledgement of step 4 has come. -/
def execJournalRelease (s : State) : Out :=
  .next (if (getEntry s s.cur.core s.cur.ix).isSome then releaseEntry s s.cur.core s.cur.ix else s)

/-- A copy that waits for the host when its timeout has passed fails (R427). -/
def copyTimeout (s : State) (core no : Nat) : State :=
  match runOf s core 4, getEntry s core no with
  | some r, some e =>
    let c := ccOf s core r e
    if e.performed || e.discarded || e.startAt ≤ s.cycle then s else copyAddr s c 0x069 c.x.stid c.st (ccSrc c 0) (ccPath c)
  | _, _ => s
/-- CXL_COMPLETION_TIMEOUT (R427): the request completes with 0x069 for its requester; its data never arrives. -/
def execCxlTimeout (s : State) : Out :=
  .next (if s.cur.flag then copyTimeout s s.cur.core s.cur.ix else match s.reqs.find? (·.id == s.cur.ix) with
    | none => s
    | some q =>
      if q.place.store = .dev then s
      else if q.store then
        match q.asker, runOf s q.core (match q.asker with | .thread t => t | _ => 8) with
        | .thread t, some r => queueFor (dropReq s q.id) q.core r
            { cause := 0x069, eng := 0, slot := t, fatal := false, pos := trapPc (getTh s (thKey q.core t)), i0 := info3 q.tid 4 q.place.addr, i1 := q.index, i2 := pathE }
        | _, _ => dropReq s q.id
      else loadReturns (dropReq s q.id) q 0x069 [])

/-- Commands discarded by a pre-emption are issued again in their order (R206). -/
def replay (s : State) (core : Nat) : State :=
  match runOf s core 4 with
  | none => s
  | some r => ((getCopier s core).journal.filter (·.discarded)).foldl (fun s e => startTransfers s core r e) s

end Sys2Proof.Machine
end

