-- ==== Sys2Proof/Machine/Placed.lean ====
section
/-! DEFINITION. What a loaded scene holds on its cores: variant images and their headers, blocks, placements, cues, usability and the
size selector (R41, R75 to R78, R84, R93). -/

namespace Sys2Proof.Machine

/-! ## Variant images in the configuration store (R76, R220) -/

/-- Base and length of a variant's image on a core. -/
def varLoc (s : State) (core scene block v : Nat) : Option (Nat × Nat) :=
  (s.cfgImages.find? fun e => e.1 == core && e.2.1 == scene && e.2.2.1 == 4 * block + v).map fun e => (e.2.2.2.1, e.2.2.2.2)
/-- Word i of the kernel header of an image. -/
def hdrWord (s : State) (core base i : Nat) : Nat := leNat (rdBytes s.cfg (core * 2 ^ 20 + base + 8 * i) 8)
/-- The words of a copy schedule: entries of 32 bytes. -/
def schedWords (s : State) (core base off n : Nat) : List (List W64) :=
  (List.range n).map fun i => (List.range 4).map fun j => w64 (leNat (rdBytes s.cfg (core * 2 ^ 20 + base + off + 32 * i + 8 * j) 8))
/-- A 256-bit entry from its four words. -/
def entryWord (l : List W64) : Nat := l.zipIdx.foldl (fun n p => n + p.1.toNat * 2 ^ (64 * p.2)) 0

/-! ## Capability matching (R77) -/

/-- A variant with an opcode-use mask and a region header is usable under a capability mask. -/
def usableUnder (cap opuse hdr : Nat) (copies : Bool) : Bool :=
  let need := bits opuse 31 0 + bits opuse 47 37 * 2 ^ 37
  let units := popcount 5 (bits cap 36 32)
  let res := !copies && hArray hdr && (bit opuse 24 || bit opuse 25)
  need &&& cap == need && (!res || (if hCorr hdr then 5 else if hChk hdr then 4 else 3) ≤ units)

/-! ## Blocks, gangs and cues of a scene -/

/-- A block of a scene. -/
def blockOfId (x : Scene) (id : Nat) : Option Block := x.blocks.find? (·.id == id)
/-- The period of a scene in ticks (R38). -/
def periodOf (x : Scene) : Nat := if x.period = 0 then 2 ^ 32 else x.period
/-- Placement words of a gang on a (logical core, voice) pair. -/
def gangOf (s : State) (scene gslot : Nat) : Option Gang := (getScene s scene).gangs[gslot]?
/-- GANGID of a gang slot. -/
def gangId (s : State) (scene gslot : Nat) : Nat := ((gangOf s scene gslot).map (·.id)).getD 0
/-- The capability mask of a core as it was when the pager put a logical core there (R78). -/
def placedCap (s : State) (scene gslot lc voice : Nat) : Nat :=
  (((gangOf s scene gslot).bind fun g => g.words.find? fun w => w.lc == lc && w.voice == voice).map (·.cap)).getD 0
/-- A gang holds its pages (R89). -/
def gangResident (s : State) (scene gslot : Nat) : Bool := ((gangOf s scene gslot).map (·.resident)).getD true
/-- Change a gang of a scene. -/
def mapGang (s : State) (scene gslot : Nat) (f : Gang → Gang) : State :=
  let x := getScene s scene
  setScene s scene { x with gangs := x.gangs.zipIdx.map fun p => if p.2 = gslot then f p.1 else p.1 }

/-- Fields of a cue (R40). -/
def qGslot (q : Cue) : Nat := bits q.word0.toNat 7 0
def qSlack (q : Cue) : Nat := bits q.word0.toNat 15 8
def qSheet (q : Cue) : Nat := bits q.word0.toNat 39 36
def qUnder (q : Cue) : Nat := bits q.word0.toNat 51 40
def qBlock (q : Cue) : Nat := bits q.word0.toNat 63 52
def qStart (q : Cue) : Nat := bits q.word1.toNat 63 32
def qDead (q : Cue) : Nat := bits q.word1.toNat 31 0
def qRtc (q : Cue) : Bool := bit q.word0.toNat 32
def qChorus (q : Cue) : Bool := bit q.word0.toNat 33
def qCurtain (q : Cue) : Bool := bit q.word0.toNat 34
def qScene (q : Cue) : Bool := bit q.word0.toNat 35

/-- Cues of a core with their indices, ascending. -/
def coreCues (s : State) (core : Nat) : List (Nat × Cue) :=
  (s.cues.filter fun p => p.1 / 1024 == core).map fun p => (p.1 % 1024, p.2)
/-- Cues of a scene: keys and contents. -/
def sceneCues (s : State) (k : Nat) : List (Nat × Cue) := s.cues.filter fun p => p.2.scene == k
/-- Cores that a scene uses: those of its placement words. -/
def sceneCores (s : State) (k : Nat) : List Nat :=
  ((getScene s k).gangs.flatMap fun g => g.words.map (·.core)).foldl nins []

/-- The launch that a cue runs in, if its scene does not run (R93). -/
def launchOf (s : State) (scene gslot : Nat) : Option Launch :=
  (s.launches.find? fun l => l.2.scene == scene && l.2.gslot == gslot).map (·.2)
/-- ARG0 to ARG3 of the job that started the scene or launched the gang (R84, R218). -/
def argsOf (s : State) (scene gslot : Nat) : List W64 :=
  match launchOf s scene gslot with
  | some l => l.args
  | none => (getScene s scene).args

/-! ## The size selector (R84) -/

/-- The run-time size of a block; a counter's value is that of before the boundary (R84). -/
def sizeOf (s : State) (core : Nat) (q : Cue) (b : Block) : Nat :=
  match b.szsrc with
  | 0 => 0
  | 1 => min (q.sizeSeen.getD (getObj s (2 ^ 28 * q.part + b.szaddr / 16)).count.toNat) (2 ^ 32 - 1)
  | 2 => (tidOf s core q.part b.sztid).dim b.szidx
  | _ => ((argsOf s q.scene (qGslot q)).getD b.szidx 0).toNat % 2 ^ 32
/-- A variant of a block is usable where a cue's block was placed (R77, R78). -/
def variantUsable (s : State) (core : Nat) (q : Cue) (b : Block) (v : Nat) : Bool :=
  match varLoc s core q.scene b.id v with
  | none => false
  | some (base, _) =>
    usableUnder (placedCap s q.scene (qGslot q) q.lc q.voice) (hdrWord s core base 0) (hdrWord s core base 1) (b.ekind == 1)
/-- The variant of least index that is usable and covers the size. -/
def pickVariant (s : State) (core : Nat) (q : Cue) (b : Block) : Option Nat :=
  let n := sizeOf s core q b
  (List.range b.caps.length).find? fun v => variantUsable s core q b v && n ≤ b.caps.getD v 0

/-! ## Reservations of a scene (R120, R412) -/

/-- Copy entries of the copy-engine blocks that a scene holds on its cores: core and words. -/
def sceneEntries (s : State) (k : Nat) : List (Nat × List W64) :=
  (s.cfgImages.filter (·.2.1 == k)).flatMap fun e =>
    match blockOfId (getScene s k) (e.2.2.1 / 4) with
    | none => []
    | some b =>
      if b.ekind = 0 then []
      else (schedWords s e.1 e.2.2.2.1 (32 * bits (hdrWord s e.1 e.2.2.2.1 2) 63 32) (bits (hdrWord s e.1 e.2.2.2.1 1) 63 48)).map
        fun w => (e.1, w)
/-- RID of an entry's words. -/
def ridOf (w : List W64) : Nat :=
  (copyEntOf (w.getD 0 0).toNat (w.getD 1 0).toNat (w.getD 2 0).toNat (w.getD 3 0).toNat).rid
/-- A loaded scene names a reservation. -/
def ridNamed (s : State) (rid : Nat) : Bool :=
  s.scenes.any fun x => x.2.live && x.2.loaded && (sceneEntries s x.1).any fun e => ridOf e.2 == rid
/-- Slots that a reservation owns on a channel; reservation 0 owns none (R120). -/
def ownSlots (s : State) (rid ch : Nat) : Nat :=
  if rid = 0 then 0
  else ((List.range 256).filter fun j => let m := (tget s.slots 0 (256 * ch + j)).toNat; bit m 15 && m % 256 == rid && j % 32 != 31).length

/-- A reservation of a scene crosses a module (R412). -/
def crosses (s : State) (k m : Nat) : Bool :=
  (sceneEntries s k).any fun e =>
    let r := ridOf e.2
    r != 0 && (List.range 16).any fun ch => ownSlots s r ch != 0 && (wayModules (.core e.1) (.die (ch / 4)) ++ wayModules (.die (ch / 4)) (.core e.1)).contains m
/-- A partition has a loaded scene with a reservation that crosses a module. -/
def partCrosses (s : State) (p m : Nat) : Bool :=
  s.scenes.any fun x => x.2.live && x.2.loaded && x.2.part == p && crosses s x.1 m
/-- A module retrains, or did so in the last 256 ticks, on a partition's path (R412). -/
def retrainNear (s : State) (p : Nat) : Bool :=
  s.links.any fun m => reached s m.2.1 && (m.2.2 == 0 || since s m.2.2 ≤ 256) && partCrosses s p m.1

end Sys2Proof.Machine
end

