-- ==== Sys2Proof/Machine/System.lean ====
section
/-! DEFINITION. Special registers, TID operations, fences and releases, time, traps, return and END, and the events of a thread
(R231, R248, R249, R252 to R260, R157, R220, R360). -/

namespace Sys2Proof.Machine

/-! ## Special registers (R183, R224, R231) -/

/-- SRRD: an unassigned number raises 0x005, a register that user mode may not name 0x004; voice 0's capability mask is echoed
in a chorus block (R384). -/
def execSrrd (d sr : Nat) (s : State) : Out :=
  onThread s fun t r =>
    if !srAssigned sr then trapNow s 0x005 (encRI 0x0C d 0 sr) 0 0
    else if !t.mode && !srUser sr then trapNow s 0x004 (encRI 0x0C d 0 sr) 0 0
    else
      let v := srRead s s.cur.core s.cur.slot t r sr
      if sr = 0x020 ∨ sr = 0x021 then echoRead s t r d v else writeBack s t d v

/-- The copy engine's generator takes a seed for the issues after the cycle of its write (R231). -/
def seedCopyEngine (s : State) (core x : Nat) : State :=
  setCopier s core { getCopier s core with gen := if x = 0 then 1 else BitVec.ofNat 32 x }
/-- SRWR: a device register raises 0x004 in either mode; SRSEED seeds generators (R224, R231). -/
def execSrwr (a sr : Nat) (s : State) : Out :=
  onThread s fun t r =>
    let v := rdReg t a
    let tgt := bits v.toNat 33 32
    let x := bits v.toNat 31 0
    let core := s.cur.core
    if !srAssigned sr then trapNow s 0x005 (encRI 0x0D 0 a sr) 0 0
    else if 0x400 ≤ sr || (!t.mode && !srUser sr) then trapNow s 0x004 (encRI 0x0D 0 a sr) 0 0
    else if sr = 0x130 then
      if (tgt = 1 ∨ tgt = 2) ∧ copyRuns s core r.part = false then trapNow s 0x0EA 0 v.toNat 0
      else
        let s1 := if tgt = 0 ∨ tgt = 2 then seedElements s core s.cur.slot x else s
        let s2 := if tgt = 1 ∨ tgt = 2 then schedule s1 .master (s.cycle + 1) (.seedCopier core x) else s1
        goOn s2 t
    else goOn s (srWrite t sr v)

/-! ## TID operations (R248, R249) -/

/-- TIDRD -/
def execTidrd (d tid w : Nat) (s : State) : Out :=
  onThread s fun t r => writeBack s t d (w64 (tidWord s s.cur.core r.part tid w))

/-- The TID is named by a command in the core's issue journal. -/
def inJournal (s : State) (core tid : Nat) : Bool :=
  (getCopier s core).journal.any fun e =>
    let x := copyEntOf (e.words.getD 0 0).toNat (e.words.getD 1 0).toNat (e.words.getD 2 0).toNat (e.words.getD 3 0).toNat
    x.stid == tid || x.dtid == tid || x.itid == tid

/-- Every residency bit of a TID on a core is cleared. -/
def resClearTid (s : State) (core part tid : Nat) : State :=
  { s with resid := s.resid.filter fun k => k / 4096 != tidKey core part tid }

/-- TIDWR: a copy issue of the same cycle comes first (R263). -/
def execTidwr (d a tid w : Nat) (s : State) : Out :=
  asSupervisor s (.tidwr d a tid w) fun t r =>
    let core := s.cur.core
    let t := { t with shadow := tput t.shadow 0 w (rdReg t a), shadowPart := tput t.shadowPart 0 w (r.part + 1) }
    let x (i : Nat) : W64 := tget t.shadow 0 i
    let v := tidParse (x 0).toNat (x 1).toNat (x 2).toNat (x 3).toNat
    if w < 3 then writeBack s t d 0
    else if s.todo.contains (.copyIssue core) then
      { s with todo := .copyIssue core :: .thread core s.cur.slot :: s.todo.filter (· != .copyIssue core) }
    else if (v.valid && !tidWf v r.part (!(getPart s r.part).rt)) || (copyRuns s core r.part && inJournal s core tid) then
      writeBack s t d 0x146
    else
      let s := (List.range 4).foldl (fun s i => setTidWord s core r.part tid i (x i)) s
      let s := { s with tidFrom := tdel s.tidFrom (tidKey core r.part tid) }
      writeBack (resClearTid s core r.part tid) t d 0

/-- RESCLR and RESTST: the checks of R249, then the effect on the tile's bit. -/
def resOp (s : State) (a tid : Nat) (f : Thread → Option Nat → State) : Out :=
  onThread s fun t r =>
    let v := tidOf s s.cur.core r.part tid
    let tile := (rdReg t a).toNat % 2 ^ 32
    if !v.valid then trapNow s 0x060 (info3 tid v.space 0) tile pathE
    else if v.tileCount ≤ tile then trapNow s 0x062 (info3 tid v.space 0) tile pathE
    else f t (if v.restrk then some (resKey s.cur.core r.part tid tile) else none)
/-- RESCLR -/
def execResclr (a tid : Nat) (s : State) : Out :=
  resOp s a tid fun t k => goOn (match k with | some k => resClear s k | none => s) t
/-- RESTST -/
def execRestst (d a tid : Nat) (s : State) : Out :=
  resOp s a tid fun t k => writeBack s t d (match k with | some k => w64 (b2n (resGet s k)) | none => 1)

/-! ## Fences, releases, acquires, jobs (R252 to R254) -/

/-- FENCE.P -/
def execFenceP (src dst : Nat) (sc : Scope) (s : State) : Out :=
  onThread s fun t r =>
    let ids := fenceIds s s.cur.core s.cur.slot r.part src
    if settled s s.cur.core ids then fenceArrives s t r src dst
    else putTh s { t with wait := .fence src dst (scopeCode sc) ids }
/-- FENCE.D: every class, at system scope, and the journal with what enters it during the stall (R252, R341); scope code 12 marks its wait. -/
def execFenceD (s : State) : Out :=
  onThread s fun t r =>
    let ids := fenceDIds s s.cur.core s.cur.slot r.part
    if settled s s.cur.core ids then fenceArrives s t r 63 63
    else putTh s { t with wait := .fence 63 63 12 ids }
/-- FENCE.SC: it ends at the first heartbeat boundary after its drain (R252). -/
def execFenceSc (s : State) : Out :=
  onThread s fun t r => putTh s { t with wait := .fenceSc (fenceScIds s s.cur.core r.part) false }

/-- REL: in a chorus block a compare point (R253). -/
def execRel (_sc : Scope) (s : State) : Out :=
  onThread s fun t r => comparePoint s t r fun _ =>
    let ids := relIds s s.cur.core s.cur.slot r.part
    if settled s s.cur.core ids then goOn s { t with wait := .none } else putTh s { t with wait := .rel ids }
/-- ACQ: loads and sync replies of the thread have returned when it issues, so it completes (R338). -/
def execAcq (_sc : Scope) (s : State) : Out := onThread s fun t _ => goOn s t

/-- The record of a JOBPOST is appended to the device queue, and gd tells whether there was room (R254). -/
def jobAppend (s : State) (t : Thread) (r : Run) (d off : Nat) : State :=
  let p := getPart s r.part
  let rec0 := (List.range 8).map fun i => w64 (leNat (rdMem s ⟨.dev, poolAddr s.cur.core (off + 8 * i)⟩ 8))
  if p.devQueue.length < 16 then
    echoBy (setPart s r.part { p with devQueue := p.devQueue ++ [rec0] }) t r d 0 true
  else echoBy s t r d 1 true
/-- JOBPOST -/
def execJobpost (d a : Nat) (s : State) : Out :=
  onThread s fun t r =>
    let core := s.cur.core
    let off := (rdReg t a).toNat % 2 ^ 23
    if off % 64 ≠ 0 then trapNow s 0x06B (info3 0 0 off) 0 pathE
    else if !areaOk s core off 64 .peer then trapNow s 0x063 (info3 0 0 off) 0 pathE
    else if !ownedOk s core r.part off 64 then trapNow s 0x064 (info3 0 0 off) 0 pathE
    else comparePoint s t r fun lead =>
      let ids := jobIds s core r.part
      if !lead then echoBy s { t with wait := .none } r d 0 false
      else if settled s core ids then jobAppend s { t with wait := .none } r d off
      else putTh s { t with wait := .jobpost d off ids }

/-! ## Time (R255, R256) -/

/-- TIMERD -/
def execTimerd (d : Nat) (s : State) : Out := onThread s fun t r => echoRead s t r d (w64 (timeNsOn s s.cur.core))
/-- TIMEFR -/
def execTimefr (d : Nat) (s : State) : Out := onThread s fun t r => echoRead s t r d (w64 (timeOn s s.cur.core).2)
/-- TICKRD -/
def execTickrd (d : Nat) (s : State) : Out := onThread s fun t r => echoRead s t r d (w64 (ticksOn s s.cur.core))

/-- Wait until a tick (R256). -/
def waitTick (s : State) (t : Thread) (n : Nat) : State :=
  if n ≤ ticksOn s s.cur.core then goOn s t else putTh s { t with wait := .tick n }
/-- Fire tick of voice 0 of a chorus block, which its home keeps, the thread's own elsewhere (R256). -/
def leadFire (s : State) (r : Run) (slot : Nat) : Nat :=
  if !r.chorus then r.fire else ((getHome s (homeKey r slot)).leadFire).getD r.fire
/-- WAITT -/
def execWaitt (a : Nat) (s : State) : Out :=
  onThread s fun t r => waitTick s t (((rdReg t a).toNat : Int) - since s r.fire + since s (leadFire s r s.cur.slot)).toNat
/-- WAITT.CUE: relative to the fire tick, which an applied step moves (R34). -/
def execWaittCue (a : Nat) (s : State) : Out :=
  onThread s fun t r =>
    if ((rdReg t a).toNat : Int) ≤ since s r.fire then goOn s t else putTh s { t with wait := .cueTick (rdReg t a).toNat }

/-! ## Traps, return and END (R257 to R260) -/

/-- TRAP -/
def execTrap (i : Nat) (s : State) : Out :=
  onThread s fun _ _ => takeTrap s s.cur.core s.cur.slot 0x008 (wordOf (.trap i)) i 0 true

/-- A debug halt is logged with the thread's identity (R257). -/
def logHalt (s : State) (r : Run) (core slot : Nat) (t : Thread) : State :=
  let w : Why := { cause := 0x16A, eng := 0, slot := slot, fatal := false, pos := t.trappc.toNat, i0 := dieOf core * 64 }
  let e : Record := ⟨0x16A, r.part, recWords w (recWord0 w false r.lc r.part r.block r.cue r.gang) (ticks s) core 0⟩
  ringWrite { s with evlog := s.evlog ++ [e] } 0 e

/-- BRK: with DBG it halts the thread, in either mode, and keeps MODE (R257, R361). -/
def execBrk (i : Nat) (s : State) : Out :=
  onThread s fun t r =>
    if !t.dbg then takeTrap s s.cur.core s.cur.slot 0x009 (wordOf (.brk i)) i 0 true
    else
      let x := trapRegs s t r s.cur.slot 0x009 0 i 0 true
      let t' := { t with trappc := x.trappc, info1 := x.info1, ds := x.ds, taken := x.taken, dsk := x.dsk, skip := x.skip,
                         pmode := t.mode, branch := none, halted := true }
      logHalt (putTh s t') r s.cur.core s.cur.slot t'

/-- The thread goes on from the state that a trap, or BRK, saved (R257, R259). A return that its slot defers finds its slice resident: one that the handler's
calls moved out is brought back first (R237). -/
def trapBack (s : State) (t : Thread) (r : Run) : State :=
  let core := s.cur.core
  let slot := s.cur.slot
  if t.ds && t.dsk == 2 && t.depth != 0 && t.depth - 1 < t.winLo then
    let dram := spillSlices (pw s core) ≤ t.depth - 1
    let wait := 20 + (if dram then Config.freeNat s.free else 0)
    putTh (askSlice (drawn s) core slot r.part (t.depth - 1) false) (stall s wait (trapReturn t))
  else putTh s (trapReturn t)
/-- ERET (R259). -/
def execEret (s : State) : Out :=
  onThread s fun t r =>
    if t.branch.isSome then trapNow s 0x003 (wordOf .eret) 0 0
    else if !t.mode then trapNow s 0x004 (wordOf .eret) 0 0
    else trapBack s t r

/-- END: it waits, and its commit retires the block; in a chorus block a compare point (R260, R387). -/
def execEndBlock (s : State) : Out :=
  onThread s fun t r =>
    if t.branch.isSome then trapNow s 0x003 (wordOf .endBlock) 0 0
    else comparePoint s t r fun _ =>
      let s' := putTh s { t with wait := .ending }
      if endReady s s.cur.core s.cur.slot then next s' (.row .blockRetirement { core := s.cur.core, slot := s.cur.slot })
      else s'

/-! ## Events of a thread -/

/-- ILLEGAL_WORD: the causes of R158, in their order; INFO0 is the word. -/
def execIllegalWord (w : Nat) (s : State) : Out :=
  match wordCause w (getTh s (thKey s.cur.core s.cur.slot)).branch.isSome (getTh s (thKey s.cur.core s.cur.slot)).mode with
  | some c => onThread s fun _ _ => trapNow s c w 0 0
  | none => .fault .noAgent

/-- INSTRUCTION_FETCH_FAULT: TRAPPC and INFO0 hold the PC (R220, R365). -/
def execFetchFault (s : State) : Out := onThread s fun t _ => trapNow s 0x00A t.pc 0 0

/-- The thread to which a queued record of a partition goes: the lowest-numbered one in user mode (R360). -/
def recordThread (s : State) (core part : Nat) : Option Nat :=
  (threadsOf s core part).find? fun t => !(getTh s (thKey core t)).mode
/-- A thread takes records at its next issue: it is in user mode, not in a delay slot, and the lowest-numbered one. -/
def takesRecords (s : State) (core slot part : Nat) : Bool :=
  recordThread s core part == some slot && (getTh s (thKey core slot)).branch.isNone && !(getTh s (thKey core slot)).halted
/-- A record waits for the thread at its next issue. -/
def recordDue (s : State) (core slot part : Nat) : Bool :=
  takesRecords s core slot part && !((lookup s.queues (16 * core + part)).getD []).isEmpty

/-- The thread with a queued record in its registers (R360, R366). -/
def recordRegs (t : Thread) (x : Record) (more : Bool) : Thread :=
  let w (i : Nat) : W64 := x.words.getD i 0
  { t with
    cause := x.cause, async := true, more := more, trappc := w64 t.pc, info0 := w 3, info1 := w 4, info2 := w 5,
    info3 := w64 ((w 0).toNat - bits (w 0).toNat 48 48 * 2 ^ 48 + b2n more * 2 ^ 48), traptick := w 1,
    ds := false, pmode := t.mode, mode := true, wait := .none }

/-- QUEUED_RECORD_DELIVERY: the thread saves its PC, takes the oldest record, and vectors with ASYNC = 1 (R360). -/
def execRecordDelivery (s : State) : Out :=
  onThread s fun t r =>
    let core := s.cur.core
    let qk := 16 * core + r.part
    match (lookup s.queues qk).getD [] with
    | [] => s
    | x :: more =>
      if !recordDue s core s.cur.slot r.part then s
      else
        let s' := { s with
          queues := if more.isEmpty then tdel s.queues qk else tins s.queues qk more,
          queueMore := s.queueMore.filter (· != qk) }
        let t' := recordRegs t x (s.queueMore.contains qk)
        let v := vector t x.cause
        if fetchable v r.len && 32 ≤ v then putTh s' { t' with pc := v } else doubleFault s' core s.cur.slot x.cause false

/-- DEBUG_RESUME: as ERET from the saved state (R257). A thread that is not halted takes no resume. -/
def execDebugResume (s : State) : Out :=
  onThread s fun t r => if t.halted then trapBack s { t with halted := false } r else s

/-- A register of a halted thread as the debug port numbers it (DESIGN CHOICE, log 52): R160's codes, then k0 to k7, WINDEPTH at 40, then the PC; the trap
registers and VECBASE under their special register numbers (R222, R366). -/
def debugRead (t : Thread) (ix : Nat) : Nat :=
  if ix < 32 then (rdReg t ix).toNat
  else if ix < 40 then (tget t.k 0 (ix - 32)).toNat
  else if ix = 40 then t.depth
  else match ix with
    | 0x100 => causeReg t
    | 0x101 => t.trappc.toNat
    | 0x102 => t.info0.toNat
    | 0x103 => t.info1.toNat
    | 0x104 => t.info2.toNat
    | 0x105 => t.info3.toNat
    | 0x106 => t.traptick.toNat
    | 0x110 => t.vecbase.toNat
    | 0x111 => privOf t
    | _ => t.pc
/-- Write such a register; TRAPTICK and WINDEPTH are not written (R222, R366). -/
def debugWrite (t : Thread) (ix v : Nat) : Thread :=
  if ix < 32 then wrReg t ix (w64 v)
  else if ix < 40 then { t with k := tput t.k 0 (ix - 32) (BitVec.ofNat 32 v) }
  else if ix = 40 then t
  else if ix < 0x100 then { t with pc := v % 2 ^ 32 }
  else srWrite t ix (w64 v)
/-- DEBUG_REGISTER_ACCESS: while halted only (R257); a read leaves its value in cur. PRIV.DBG, which the management controller sets
(R223), is written at number 0x111 whether or not the thread is halted. -/
def execDebugAccess (s : State) : Out :=
  onThread s fun t _ =>
    if s.cur.flag && s.cur.ix == 0x111 then putTh s { (if t.halted then srWrite t 0x111 (w64 s.cur.val) else t) with dbg := bit s.cur.val 7 }
    else if !t.halted then s
    else if s.cur.flag then putTh s (debugWrite t s.cur.ix s.cur.val)
    else { s with cur := { s.cur with val := debugRead t s.cur.ix } }

end Sys2Proof.Machine
end

