-- ==== Sys2Proof/Machine/Cues.lean ====
section
/-! DEFINITION. The cue unit: the steps of a tick boundary, start, slack, deadline and understudy of a cue, firing, retirement and the
occupancy entries (R39 to R55, R85, R190, R218, R359, R383, R395). -/

namespace Sys2Proof.Machine

/-! ## Firing (R48, R54, R218, R359, R447) -/

/-- Cycles from the boundary of the fire tick to the block's beginning: at most 48, with the thread's first slot (DESIGN CHOICE, log 8). -/
def fireDelay (s : State) : Nat := Config.freeNat s.free % 45

/-- The IDLE field of the entry before on a sheet is written at the next fire (R53, R54). -/
def writeIdle (s : State) (core sheet begin_ : Nat) : State :=
  (coreCues s core).foldl (fun s p =>
    match p.2.endN with
    | some e =>
      if qSheet p.2 = sheet then
        let k := 1024 * core + p.1
        let q := getCue s k
        setCue s k { q with endN := none, occ := w64 (setBits q.occ.toNat 28 0 (min (begin_ - e) (2 ^ 29 - 1))) }
      else s
    | none => s) s

/-- A thread at firing (R218, R359). -/
def firedThread (t : Thread) (entry begin_ : Nat) (args : List W64) : Thread :=
  let w := (List.range 4).foldl (fun w i => tput w 0 i (args.getD i 0)) []
  { t with
    running := true, pc := 4 * entry % 2 ^ 32, g := [], win := w, winLo := 0, depth := 0, k := []
    mode := false, pmode := false, ds := false, taken := false, dsk := 0, skip := false, dbg := false
    vecbase := BitVec.ofInt 64 (4 * (entry : Int) - 768), branch := none, wait := .start begin_, halted := false, frozen := false
    flags := 0, trapAt := 0 }

/-- The run that a firing makes. -/
def firedRun (s : State) (core ix variant block : Nat) (under : Bool) (f deadline : Nat) (loc : Nat × Nat) : Run :=
  let q := getCue s (1024 * core + ix)
  { scene := q.scene, cue := ix, block := block, variant := variant, under := under, fire := f, deadline := deadline
    fireN := s.cycle + fireDelay s, part := q.part, gslot := qGslot q, gang := gangId s q.scene (qGslot q), lc := q.lc, voice := q.voice
    chorus := qChorus q && !under, firing := firingOf q, len := loc.2, entry := bits (hdrWord s core loc.1 2) 63 32, base := loc.1 }

/-- Number of voices of a gang (R381). -/
def voicesOf (s : State) (scene gslot : Nat) : Nat :=
  match ((gangOf s scene gslot).map (·.chor)).getD 0 with
  | 0 => 1
  | 1 => 2
  | _ => 3

/-- The home of a firing of a chorus block when a voice of it fires: it starts with the first voice, and keeps the fire tick of voice 0 (R256, R389). -/
def homeFires (s : State) (r : Run) (sheet : Nat) : State :=
  let hk := homeKey r sheet
  let h : Home := if (getHome s hk).voices.isEmpty then { voices := List.range (voicesOf s r.scene r.gslot) } else getHome s hk
  setHome s hk (if r.voice = 0 then { h with leadFire := some r.fire } else h)

/-- A region block fires on its slot (R48, R218, R447): header fields from its variant, generators at their start, flags cleared. -/
def fireRegion (s : State) (core sheet : Nat) (r : Run) : State :=
  let k := thKey core sheet
  let s := setRun s core sheet r
  let g := getReg s k
  let s := setReg s k { g with hdr := w64 (hdrWord s core r.base 1), opuse := w64 (hdrWord s core r.base 0), killed := false }
  let s := { s with elems := s.elems.map fun p => if p.1 / 256 = k then (p.1, { p.2 with gen := 1 }) else p }
  let s := setTh s k (firedThread (getTh s k) r.entry r.fireN (argsOf s r.scene r.gslot))
  if r.chorus then
    let s := setVoice s k { ckDue := true }
    homeFires s r sheet
  else setVoice s k {}

/-- The first entry of a schedule that fails its launch checks (R157, R179, R190). -/
def badEntry (s : State) (core part : Nat) (l : List (List W64)) : Option Nat :=
  l.findIdx? fun w =>
    let x := copyEntOf (w.getD 0 0).toNat (w.getD 1 0).toNat (w.getD 2 0).toNat (w.getD 3 0).toNat
    (decodeCopy (entryWord w)).isNone || !copyOk s core part ((w.getD 0 0).toNat / 2 ^ 60) x

/-- A copy engine at the firing of a block on its sheet (R190). -/
def firedCopier (c : Copier) (l : List (List W64)) : Copier :=
  { c with stage := 0, stagePrev := 0, bankA := .idle, bankB := .idle, pos := 0, nent := l.length, sched := l, gen := 1, journal := [] }
/-- The schedule of a run. -/
def runSched (s : State) (core : Nat) (r : Run) : List (List W64) :=
  schedWords s core r.base (32 * bits (hdrWord s core r.base 2) 63 32) (bits (hdrWord s core r.base 1) 63 48)
/-- Why a schedule rejects its block at launch: a word with an uncorrectable error, or an entry that fails its checks (R157, R190, R371). -/
def schedBad (s : State) (core : Nat) (r : Run) (l : List (List W64)) : Option Why :=
  let off := 32 * bits (hdrWord s core r.base 2) 63 32
  match (List.range l.length).find? fun i => imageBad s core r (off + 32 * i) 32 with
  | some i => some { cause := 0x14D, eng := 4, pos := i }
  | none => (badEntry s core r.part l).map fun i => { cause := 0x142, eng := 4, pos := i, i0 := i }
/-- A copy-engine block fires on sheet 4: its entries are checked, and a bad one rejects the block (R157, R190). -/
def fireCopies (s : State) (core : Nat) (r : Run) : State :=
  let l := runSched s core r
  let s := setCopier (setRun s core 4 r) core (firedCopier (getCopier s core) l)
  match schedBad s core r l with
  | some w => killFatal s core 4 w
  | none => s

/-- A cue fires while its gang is not resident: it counts as pre-empted from its fire tick (R89); a copy schedule is checked at this launch (R190). -/
def fireSaved (s : State) (core sheet : Nat) (r0 : Run) : State :=
  let r := { r0 with frozenAt := some r0.fire }
  let mine (i : Image) : Bool := i.snap.region.scene == r.scene && i.snap.region.gslot == r.gslot && i.lc == r.lc && i.voice == r.voice
  let slot := if sheet < 4 then sheet else (((s.images.filter mine).map (·.slot)).foldl min 3)
  let args := argsOf s r.scene r.gslot
  let s := if r.chorus then homeFires s r sheet else s
  let fired (i : Image) : Image := { i with
    run := some r, thread := firedThread i.thread r.entry 0 args, chorus := if r.chorus then some { ckDue := true } else none
    snap := { i.snap with
      region := { i.snap.region with hdr := w64 (hdrWord s core r.base 1), opuse := w64 (hdrWord s core r.base 0), killed := false }
      elems := i.snap.elems.map fun e => (e.1, { e.2 with gen := 1 }) } }
  let l := runSched s core r
  let bad := if sheet < 4 then none else schedBad s core r l
  match bad with
  | some w => cueFail (queueFor s core r { w with fatal := true }) core r.cue (ticks s + 1) r.fireN w.cause r.variant
  | none =>
    let put (i : Image) : Image :=
      if mine i && i.slot == slot then (if sheet < 4 then fired i else { i with copyRun := some r, copier := some (firedCopier {} l) }) else i
    { s with images := s.images.map put }

/-- A block fires for a cue: the variant's image, its run, and its engine. -/
def fireBlock (s : State) (core ix variant block : Nat) (under : Bool) (f deadline : Nat) : State :=
  let k := 1024 * core + ix
  let q := getCue s k
  let loc := (varLoc s core q.scene block variant).getD (0, 0)
  let r := firedRun s core ix variant block under f deadline loc
  let s := drawn (setCue s k { q with st := if under then .under else .run, understudyDue := none })
  let s := writeIdle s core (qSheet q) r.fireN
  if !gangResident s q.scene (qGslot q) then fireSaved s core (qSheet q) r
  else if qSheet q < 4 then fireRegion s core (qSheet q) r
  else fireCopies s core r

/-! ## Failing a cue (R46, R49, R50, R395, R412) -/

/-- A record of the cue unit for a cue (R363, R365). -/
def cueRecord (s : State) (core ix cause i1 : Nat) (fatal : Bool) : State :=
  let q := getCue s (1024 * core + ix)
  queueWith s core q.part { cause := cause, eng := 6, fatal := fatal, pos := ix, i0 := ix, i1 := i1 } q.lc (qBlock q) ix
    (gangId s q.scene (qGslot q))
/-- A cue of a partition whose path a retrain crosses takes the late-input or overrun path: 0x167 (R412). -/
def retrainRecord (s : State) (core ix : Nat) : State :=
  let q := getCue s (1024 * core + ix)
  if retrainNear s q.part then
    let s := devLog s 0x167 0 ix
    queueWith s core q.part { cause := 0x167, eng := 7, fatal := false, i0 := 3 * 64, i1 := ix } q.lc 0xFFF ix 0
  else s

/-- The cues of the voices of a chorus cue (R383): keys, itself among them. -/
def voiceCues (s : State) (q : Cue) : List Nat :=
  (s.cues.filter fun p => p.2.scene == q.scene && p.2.lc == q.lc && p.2.word0 == q.word0 && p.2.word1 == q.word1).map (·.1)

/-- The late-input path of a cue, with 0x0C1 or 0x0C3 (R46): its understudy fires now. A chorus command fails on every voice of this firing (DEDUCED,
log 21). -/
def lateInput (s : State) (core ix cause : Nat) : State :=
  let s := retrainRecord (cueRecord s core ix cause 0 false) core ix
  let q := getCue s (1024 * core + ix)
  if !qChorus q then cueFail s core ix (ticks s) s.cycle cause 0
  else
    setHome ((firingCues s q.scene q.lc (firingOf q)).foldl (endVoice (ticks s) cause) s)
      (homeKeyOf q.scene (qGslot q) q.lc (qSheet q) (firingOf q)) {}

/-! ## Starting a cue (R46, R84, R85, R383) -/

/-- A partition is best-effort. -/
def isBe (s : State) (p : Nat) : Bool := !(getPart s p).rt
/-- Every block of a lower phase of the scene has committed in a period (R85); a held cue counts (DEDUCED, log 22). A launched gang is held by the scene's
other gangs in the same way: until those of lower phase have been launched and are done (DESIGN CHOICE, log 62). -/
def phasesDone (s : State) (scene ph n : Nat) : Bool :=
  (sceneCues s scene).all fun p =>
    ph ≤ phaseOf s scene (qGslot p.2) || n < p.2.period || (p.2.period == n && (p.2.st == .done || p.2.st == .held))
/-- A cue may leave WAIT: the phases before its own have committed, and its engine is free. -/
def eligible1 (s : State) (core : Nat) (q : Cue) : Bool :=
  (!isBe s q.part || phasesDone s q.scene (phaseOf s q.scene (qGslot q)) q.period) && (runOf s core (qSheet q)).isNone
/-- Every declared input tile of a cue is resident (R45, R112). -/
def inputsResident (s : State) (core : Nat) (q : Cue) : Bool :=
  (declTiles s q false).all fun d =>
    !(tidOf s core q.part d.1).restrk || resGet s (resKey core q.part d.1 d.2)
/-- A cue's start is due at the boundary of the present tick: the first one, or that of its next period. -/
def startDue (s : State) (q : Cue) : Bool :=
  let x := getScene s q.scene
  let p := periodOf x
  match q.st with
  | .idle => (x.running || (launchOf s q.scene (qGslot q)).isSome) && reached s q.startTick
  | .done | .held => x.running && reached s (q.startTick + p)
  | _ => false

/-- A cue enters its period: WAIT, with the period's start and deadline ticks (R39, R46). -/
def enterPeriod (s : State) (q : Cue) : Cue :=
  if q.st = .idle then { q with st := .wait, elig := q.startTick, failCause := 0 }
  else
    let st := q.startTick + periodOf (getScene s q.scene)
    { q with st := .wait, startTick := st, deadTick := st + (qDead q - qStart q), elig := st, period := q.period + 1, failCause := 0 }

/-- Fire the variant that the selector picks, or take the late-input path with 0x0C3. -/
def selectAndFire (s : State) (core ix : Nat) : State :=
  let q := getCue s (1024 * core + ix)
  match blockOfId (getScene s q.scene) (qBlock q) with
  | none => lateInput s core ix 0x0C3
  | some b => match pickVariant s core q b with
    | none => lateInput s core ix 0x0C3
    | some v => fireBlock s core ix v b.id false (ticks s) q.deadTick

/-- The cause with which a chorus command has failed on another voice in this period, before a cue of it starts (R395). -/
def chorusFailed (s : State) (q : Cue) : Option Nat :=
  if qChorus q then (voiceCues s q).findSome? fun k =>
    let v := getCue s k
    if v.period == q.period && v.voice != q.voice && v.failCause != 0 then some v.failCause else none
  else none

/-- CUE_START: the inputs were resident before the boundary or not (R45, R46). A cue whose sheet still runs an earlier block waits as one that its phase holds
does, and the slack and deadline of a best-effort cue move by that wait (R85; DESIGN CHOICE, log 60). A cue whose gang waits for pages to come back from a
damaged image goes to its understudy (R371). -/
def cueStart (s : State) (core ix : Nat) (ready : Bool) : State :=
  let k := 1024 * core + ix
  let q0 := getCue s k
  if !(startDue s q0 || q0.st == .wait) then s
  else
    let q := if q0.st = .wait then q0 else enterPeriod s q0
    let s := setCue s k q
    match chorusFailed s q with
    | some cause => endVoice (ticks s) cause s k
    | none =>
    if !eligible1 s core q then s
    else
      let w := ago s q.startTick
      let q := if isBe s q.part then { q with elig := ticks s, deadTick := q.deadTick + w } else q
      let bad := ((gangOf s q.scene (qGslot q)).map (·.bad)).getD false
      let s := setCue s k { q with drained := false }
      if bad then cueFail s core ix (ticks s) s.cycle 0x14B 0
      else if q.drained then lateInput s core ix 0x0C1
      else if ready then selectAndFire s core ix
      else if qSlack q = 0 then lateInput s core ix 0x0C1
      else setCue s k { q with st := .gated, drained := false }
/-- CUE_START -/
def execCueStart (s : State) : Out := .next (cueStart s s.cur.core s.cur.ix s.cur.flag)

/-- SLACK_EXPIRY: at S + SLACK a gated cue fires if its inputs are resident, else it is late (R46). -/
def execSlackExpiry (s : State) : Out :=
  let q := getCue s (1024 * s.cur.core + s.cur.ix)
  .next (if q.st ≠ .gated then s
    else if s.cur.flag then selectAndFire s s.cur.core s.cur.ix
    else lateInput s s.cur.core s.cur.ix 0x0C1)

/-- UNDERSTUDY_FIRE: without gating or a choice of size; its deadline is F + ub (R50). -/
def execUnderstudyFire (s : State) : Out :=
  let k := 1024 * s.cur.core + s.cur.ix
  let q := getCue s k
  .next (if q.st ≠ .under ∨ q.understudyDue.isNone = true then s
    else match blockOfId (getScene s q.scene) (qUnder q) with
      | none => enterHeld s s.cur.core s.cur.ix s.cycle 0
      | some b => fireBlock s s.cur.core s.cur.ix 0 b.id true (ticks s) (ticks s + b.ub))

/-! ## Deadlines (R49, R51) -/

/-- DEADLINE_EXPIRY: a block that has not retired is killed, and its understudy fires; an understudy is killed, and its outputs are
held. A pre-empted block's deadline moves (R51). -/
def execDeadlineExpiry (s : State) : Out :=
  let core := s.cur.core
  let ix := s.cur.ix
  let q := getCue s (1024 * core + ix)
  let sheet := qSheet q
  .next (match runOf s core sheet with
    | none => s
    | some r =>
      if r.cue ≠ ix ∨ reached s r.deadline = false ∨ r.frozenAt.isSome then s
      else if r.under then endBlocks s core sheet (ticks s) 0x0C6
      else endBlocks (retrainRecord (cueRecord s core ix 0x0C0 0 true) core ix) core sheet (ticks s) 0x0C0)

/-! ## Retirement (R45, R52, R53, R190, R260) -/

/-- A block retires: occupancy entry, cue to DONE, the sheet idle. -/
def retire (s : State) (core sheet : Nat) (r : Run) : State :=
  let k := 1024 * core + r.cue
  let fc := (getCue s k).failCause
  let outcome := if !r.under then 0 else if fc = 0x0C1 ∨ fc = 0x0C3 then 1 else 2
  let s := occWrite s core r.cue outcome (if r.under then 0 else r.variant) r.fireN
  soon (delRun (setCue s k { getCue s k with st := .done }) core sheet) .waits
/-- A voice leaves its chorus (R389). -/
def leaveChorus (s : State) (core slot : Nat) (r : Run) : State :=
  if !r.chorus then s
  else
    let hk := homeKey r slot
    let h := getHome s hk
    let vs := h.voices.filter (· != r.voice)
    let s := setVoice s (thKey core slot) {}
    setHome s hk (if vs.isEmpty then {} else { h with voices := vs })
/-- BLOCK_RETIREMENT: END's conditions hold, and its commit retires the block (R45, R260). -/
def execBlockRetirement (s : State) : Out :=
  let core := s.cur.core
  let slot := s.cur.slot
  let k := thKey core slot
  .next (match runOf s core slot with
    | none => s
    | some r =>
      let t := getTh s k
      if t.wait ≠ .ending ∨ endReady s core slot = false then s
      else
        let s := setTh s k { t with running := false, wait := .none }
        retire (leaveChorus s core slot r) core slot r)
/-- COPY_BLOCK_RETIREMENT: every entry issued or skipped, and no command in the journal (R190). -/
def execCopyBlockRetirement (s : State) : Out :=
  let core := s.cur.core
  let c := getCopier s core
  .next (match runOf s core 4 with
    | none => s
    | some r => if c.pos < c.nent ∨ c.journal.isEmpty = false then s else retire s core 4 r)

/-! ## A tick boundary (R44, R55, R86) -/

/-- A curtain of a gang slot opens a computation superstep at the present tick. -/
def curtainDue (s : State) (scene gslot : Nat) : Option Nat :=
  ((sceneCues s scene).find? fun p =>
    qGslot p.2 == gslot && qCurtain p.2 && qSheet p.2 != 4 && startDue s p.2 && p.2.voice == 0).map (·.1)
/-- A drain of phaser n cancels a command: its transfers are not all performed, or its digest has not been accepted (R55, R199, R205). -/
def drained (n : Nat) (e : JEntry) : Bool := e.phaser == n && (!e.performed || e.bytes != 0)
/-- Commands of a phaser that stand in the images of a scene's pre-empted gangs are cancelled with the others (R55, R205). -/
def cancelSaved (s : State) (scene n : Nat) : State :=
  let hit (i : Image) : Bool := (i.copyRun.map (·.scene)) == some scene
  let mine (i : Image) : List JEntry := if hit i then ((i.copier.map (·.journal)).getD []).filter (drained n) else []
  let s := s.images.foldl (fun s i => (mine i).foldl (fun s e =>
    let k := 2 ^ 28 * i.part + e.ctr
    if e.ctr = 0xFFFFFFF then s else putObj s k { getObj s k with out := (getObj s k).out - 1 }) s) s
  { s with images := s.images.map fun i => if hit i then
      { i with copier := i.copier.map fun c => { c with journal := c.journal.filter fun e => !drained n e } } else i }
/-- The drain check of one phaser (R55): 0x0C2, its outstanding copies cancelled, its counter zero, and the cues of the gang slot
that start now and read a tile it governs are marked late. -/
def drainPhaser (s : State) (scene gslot n cue : Nat) : State :=
  let pk := 4096 * scene + n
  let p := getPh s pk
  if !p.live || !p.curt || p.gslot != gslot || p.pending = 0 then s
  else
    let q := getCue s cue
    let s := queueWith s (cue / 1024) q.part { cause := 0x0C2, eng := 6, fatal := false, pos := cue % 1024, i0 := n, i1 := p.pending } q.lc
      (qBlock q) (cue % 1024) (gangId s scene gslot)
    let s := s.runs.foldl (fun s x => if x.1 % 8 = 4 ∧ x.2.scene = scene then
        cancelWhere s (x.1 / 8) (drained n) else s) s
    let s := cancelSaved s scene n
    let s := setPh s pk { getPh s pk with pending := 0 }
    let governed (c : Nat) (v : Cue) : Bool := (declTiles s v false).any fun d => (tidOf s c v.part d.1).phaser == n
    { s with cues := s.cues.map fun x =>
        if x.2.scene = scene ∧ qGslot x.2 = gslot ∧ startDue s x.2 = true ∧ governed (x.1 / 1024) x.2 = true
        then (x.1, { x.2 with drained := true }) else x }
/-- Step 2 of R44. -/
def curtainStep (s : State) : State :=
  s.scenes.foldl (fun s x =>
    if !x.2.live then s
    else (List.range x.2.gangs.length).foldl (fun s g =>
      match curtainDue s x.1 g with
      | none => s
      | some cue => ((s.phasers.filter fun p => p.1 / 4096 == x.1).map (·.1 % 4096)).foldl (fun s n => drainPhaser s x.1 g n cue) s) s) s

/-- A SCENE point of a running scene at the present tick (R40, R57). -/
def scenePoint (s : State) (k : Nat) : Bool :=
  let x := getScene s k
  x.running && reached s x.origin && (sceneCues s k).any fun p =>
    qScene p.2 && ago s x.origin % periodOf x == qStart p.2
/-- Step 3 of R44 for one scene: what is due at this boundary (R57, R58, R83). A stop and a change due at the same SCENE point: the scene stops, and the
change fails with 0x0C4 (DESIGN CHOICE, log 55). -/
def sceneActs (s : State) (k : Nat) : List Act :=
  let x := getScene s k
  let pt := scenePoint s k
  if !x.live || !x.running then []
  else if x.stopAt == some (ticks s) || (pt && !x.stopJobs.isEmpty) then [.row .sceneStop { ix := k }]
  else match x.change with
    | some (_, q, _) => if pt && 2 ^ (s.tb.hbexp + 1) ≤ since s q then [.row .sceneChange { ix := k }]
        else if pt && x.recover then [.row .recovery { ix := k }] else []
    | none => if pt && x.recover then [.row .recovery { ix := k }] else []

/-- Race tags of the tensors without a phaser of a best-effort scene are reset at the start of its periods, and the grants of them lapse (R346). -/
def resetTags (s : State) : State :=
  s.scenes.foldl (fun s x =>
    if x.2.running && isBe s x.2.part && reached s x.2.origin && ago s x.2.origin % periodOf x.2 == 0 then
      let free (tid : Nat) : Bool := x.2.tids.any fun e => e.1 == tid && bits (e.2.getD 3 0).toNat 31 20 == 0xFFF
      let lapses (k : Nat) : Bool := k / 2 ^ 40 == x.1 && free (k / 2 ^ 32 % 256)
      { s with tags := s.tags.filter (fun g => !lapses g.1), grants := s.grants.filter fun g => !lapses g.key }
    else s) s

/-- The counters that selectors of size read, as they stand when a boundary begins (R84). -/
def noteSizes (s : State) : State :=
  { s with cues := s.cues.map fun x =>
      let b := blockOfId (getScene s x.2.scene) (qBlock x.2)
      (x.1, { x.2 with sizeSeen := b.bind fun b =>
        if b.szsrc = 1 then some (getObj s (2 ^ 28 * x.2.part + b.szaddr / 16)).count.toNat else none }) }
/-- TICK_BOUNDARY: the four steps of R44 in their order, as steps that come next. -/
def execTickBoundary (s : State) : Out :=
  let dead := (s.runs.filter fun x => reached s x.2.deadline && x.2.frozenAt.isNone).map fun x =>
    Act.row .deadlineExpiry { core := x.1 / 8, ix := x.2.cue }
  let scenes := s.scenes.flatMap fun x => sceneActs s x.1
  let s := resetTags s
  .next { s with todo := dead ++ [.curtains] ++ scenes ++ [.cueChecks] ++ s.todo }

/-- Step 4 of R44 for one cue: its start, the end of its slack, or its firing within its slack. -/
def cueAct (s : State) (core ix : Nat) (q : Cue) : Option Act :=
  let ready := inputsResident s core q
  if startDue s q || q.st == .wait then some (.row .cueStart { core := core, ix := ix, flag := ready })
  else if q.st == .gated then
    if reached s (q.elig + qSlack q) || ready then some (.row .slackExpiry { core := core, ix := ix, flag := ready }) else none
  else none
/-- Step 4 of R44: every check is made on the residency of before the boundary, then the cues take their steps. -/
def cueStep (s : State) : State :=
  { s with todo := (s.cues.filterMap fun p => cueAct s (p.1 / 1024) (p.1 % 1024) p.2) ++ s.todo }

/-! ## Launches (R61, R93) -/

/-- Launches whose every cue has reached DONE or HELD complete. -/
def launchesDone (s : State) : State :=
  s.launches.foldl (fun s l =>
    if (sceneCues s l.2.scene).all (fun p => qGslot p.2 != l.2.gslot || p.2.st == .done || p.2.st == .held)
    then soon s (.row .gangLaunchComplete { ix := l.1 }) else s) s

end Sys2Proof.Machine
end

