-- ==== Sys2Proof/Machine/Power.lean ====
section
/-! DEFINITION. Power caps and byte budgets, and the registers of the thermal ladder (R417 to R420). -/

namespace Sys2Proof.Machine

/-- A list with each number once, in order of first occurrence. -/
def distinct (l : List Nat) : List Nat := l.foldl (fun a x => if a.contains x then a else a ++ [x]) []

/-- RIDs that copy entries of real-time blocks on a cluster's cores name. -/
def clusterRids (s : State) (cl : Nat) : List Nat :=
  distinct (s.scenes.flatMap fun x =>
    if x.2.live && x.2.loaded && (getPart s x.2.part).rt then
      ((sceneEntries s x.1).filter fun e => clusterOf e.1 == cl).map fun e => ridOf e.2
    else [])
/-- F_c: the floor of a cluster in bytes per period. -/
def floorOf (s : State) (cl : Nat) : Nat :=
  256 * (clusterRids s cl).foldl (fun n r => n + (List.range 16).foldl (fun m ch => m + ownSlots s r ch) 0) 0

/-- The computation of R418: CAPE, CAPINF with cause 0x164, and the budgets of the next period (R419). -/
def powerRecalc (s : State) : State :=
  let fs := (List.range 16).map (floorOf s)
  let f := fs.foldl (· + ·) 0
  let want := min s.mgmt.capw 200
  let capmin := 38 + cdiv f 6400
  let cape := max want capmin
  let t := (cape - 38) * 6400
  let s := { s with
    mgmt := { s.mgmt with cape := cape, capinf := s.mgmt.capinf || cape != want }
    budgetNext := (List.range 16).foldl (fun b c =>
      tput b 64800 c (fs.getD c 0 + (t - f) / 16 + (if c < (t - f) % 16 then 1 else 0))) [] }
  if cape = want then s else devLog s 0x164 0 capmin

/-- BUDGET_PERIOD (R418, R419): the budgets last computed take effect and the counts begin anew. -/
def execBudgetPeriod (s : State) : Out := .next { s with budget := s.budgetNext, served := [] }

/-- A write of PWRCAP (R417, R418). -/
def setPwrcap (s : State) (v : Nat) : State := powerRecalc { s with mgmt := { s.mgmt with capw := v % 65536 } }
/-- PWRCAP_WRITE -/
def execPwrcapWrite (s : State) : Out := .next (setPwrcap s s.cur.val)

/-- A write of THRCFG keeps the register unless 0 < T1 < T2 < T3 ≤ 130 and 4 ≤ T2E ≤ 15 (R420). -/
def setThrcfg (s : State) (v : Nat) : State :=
  let t1 := bits v 7 0
  let t2 := bits v 15 8
  let t3 := bits v 23 16
  let e := bits v 27 24
  if 0 < t1 ∧ t1 < t2 ∧ t2 < t3 ∧ t3 ≤ 130 ∧ 4 ≤ e then
    { s with mgmt := { s.mgmt with t1 := t1, t2 := t2, t3 := t3, t2e := e } }
  else s
/-- THRCFG_WRITE -/
def execThrcfgWrite (s : State) : Out := .next (setThrcfg s s.cur.val)

end Sys2Proof.Machine
end

