-- ==== Sys2Proof/Machine/Load.lean ====
section
/-! DEFINITION. Loading and unloading a scene: reading and parsing its image, the load checks, placement, and what a load writes
(R41, R43, R63, R64, R71 to R82, R109, R117, R118, R181, R207, R209, R214, R220, R381, R382, R400, R449). -/

namespace Sys2Proof.Machine

/-! ## Reading the image (R63, R64) -/

/-- What the walk for a line of an image leaves: its reads are checked (R439), and an uncorrectable error that it met is queued for the partition too (R372). -/
def loadWalk (s : State) (part va : Nat) : State :=
  let s1 := walkEcc s 0 part va
  match walk s part va with
  | .error c =>
    if c = 0x16C then
      queueWith s1 0 part { cause := 0x16C, eng := 7, fatal := true, i0 := (walkBad s part va).1, i1 := (walkBad s part va).2 } 0 0xFFF 0 0
    else s1
  | .ok _ => s1
/-- n aligned lines of 64 bytes of a partition's virtual addresses; none where a translation or a read fails. -/
def readVa (s : State) (part va : Nat) : Nat → State × Option (List Byte)
  | 0 => (s, some [])
  | n + 1 =>
    match walk s part va with
    | .error _ => (loadWalk s part va, none)
    | .ok (pa, rd, _, _) =>
      if !rd || dramSize s ≤ pa then (s, none)
      else
        match eccRead (loadWalk s part va) ⟨.dev, pa⟩ 64 part 0 with
        | (s, false) => (s, none)
        | (s, true) =>
          match readVa s part (va + 64) n with
          | (s, none) => (s, none)
          | (s, some l) => (s, some (rdBytes s.mem pa 64 ++ l))

/-- A 64-bit word, and a 32-bit word, of an image. -/
def iw (img : List Byte) (off : Nat) : Nat := leNat ((img.drop off).take 8)
def iw32 (img : List Byte) (off : Nat) : Nat := leNat ((img.drop off).take 4)

/-- Sheet records from an offset: the records and the offset after them; none where one is malformed. -/
def parseSheets (img : List Byte) : Nat → Nat → Option (List Sheet × Nat)
  | 0, off => some ([], off)
  | n + 1, off =>
    let h := iw img off
    let nc := bits h 45 35
    let cues := (List.range nc).map fun i => (w64 (iw img (off + 8 + 16 * i)), w64 (iw img (off + 16 + 16 * i)))
    let ok := off + 8 + 16 * nc ≤ img.length && 4 ≥ bits h 49 46 && 1 ≤ nc && nc ≤ 1024 && bits h 34 0 == 0
      && cues.all fun c => bits c.1.toNat 7 0 == bits h 63 56
    if !ok then none
    else (parseSheets img n (off + 8 + 16 * nc)).map fun r => (⟨bits h 63 56, bits h 55 50, bits h 49 46, cues⟩ :: r.1, r.2)

/-- A placement word. -/
def parsePlacement (w : Nat) : Placement := ⟨bits w 63 58, bits w 57 56, bits w 55 54, bit w 53, bits w 52 47, 0, 0⟩
/-- Gang table entries from an offset. -/
def parseGangs (img : List Byte) : Nat → Nat → Option (List Gang × Nat)
  | 0, off => some ([], off)
  | n + 1, off =>
    let h := iw img off
    let npl := bits h 29 20
    let ws := (List.range npl).map fun i => iw img (off + 8 + 8 * i)
    if img.length < off + 8 + 8 * npl ∨ bits h 19 0 ≠ 0 ∨ (ws.any fun w => bits w 46 0 != 0) = true then none
    else (parseGangs img n (off + 8 + 8 * npl)).map fun r =>
      ({ id := bits h 63 56, nlc := bits h 55 48, phase := bits h 47 40, chor := bits h 39 38, skew := bits h 37 30,
         words := ws.map parsePlacement } :: r.1, r.2)

/-- A block header at an offset. -/
def parseBlock (img : List Byte) (off : Nat) : Block :=
  let w0 := iw img off
  let n := bits w0 51 50 + 1
  let c (i : Nat) : Nat := iw img (off + 16 + 8 * i)
  ⟨bits w0 63 52, b2n (bit w0 49), bits w0 47 40, bits w0 39 38, bits w0 37 36, bits w0 31 0, bits (iw img (off + 8)) 47 0,
   (List.range n).map fun i => bits (c i) 63 32, (List.range n).map fun i => 64 * bits (c i) 31 0⟩
/-- Its reserved fields are zero. -/
def blockRsv (img : List Byte) (off : Nat) : Bool :=
  let w0 := iw img off
  !bit w0 48 && bits w0 35 32 == 0 && bits (iw img (off + 8)) 63 48 == 0
  && (List.range 4).all fun i => i < bits w0 51 50 + 1 || iw img (off + 16 + 8 * i) == 0

/-- Every reserved bit of the scene header is zero. -/
def headerRsv (img : List Byte) : Bool :=
  let h (i : Nat) : Nat := iw img (8 * i)
  bits (h 0) 27 0 == 0 && bits (h 2) 15 0 == 0 && bits (h 4) 15 0 == 0 && bits (h 5) 23 0 == 0 && bits (h 6) 15 0 == 0
  && bits (h 7) 15 0 == 0

/-- Reserved bits of the kernel header at an offset are zero (R72, R76). -/
def kernelRsv (img : List Byte) (copies : Bool) (off : Nat) : Bool :=
  let u := iw img off
  let h := iw img (off + 8)
  bits u 23 22 == 0 && bits u 36 32 == 0 && bits u 63 48 == 0 && bits (iw img (off + 16)) 31 0 == 0 && iw img (off + 24) == 0
  && (if copies then bits h 47 0 == 0 else bits h 63 56 == 0 && bits h 41 32 == 0 && bits h 2 0 == 0)
/-- The scene of an image of a partition, or none where R63 rejects the image (row 11). -/
def parseScene (part : Nat) (img : List Byte) : Option Scene :=
  let h (i : Nat) : Nat := iw img (8 * i)
  let off (i : Nat) : Nat := 64 * bits (h i) 63 32
  let nd := bits (h 3) 31 0
  let nb := bits (h 4) 31 16
  let nt := bits (h 6) 31 16
  let np := bits (h 7) 31 16
  let decls := (List.range nd).map fun i => iw32 img (off 3 + 4 * i)
  let blocks := (List.range nb).map fun i => parseBlock img (off 4 + 48 * i)
  let tids := (List.range nt).map fun i =>
    (iw img (off 6 + 40 * i), (List.range 4).map fun j => w64 (iw img (off 6 + 40 * i + 8 + 8 * j)))
  let phs := (List.range np).map fun i => iw32 img (off 7 + 4 * i)
  let fit := off 3 + 4 * nd ≤ img.length && off 4 + 48 * nb ≤ img.length && off 6 + 40 * nt ≤ img.length
    && off 7 + 4 * np ≤ img.length && blocks.all fun b => b.voffs.all fun v => v + 32 ≤ img.length
  let rsv := headerRsv img && decls.all (fun d => bits d 29 24 == 0) && (List.range nb).all (fun i => blockRsv img (off 4 + 48 * i))
    && tids.all (fun t => t.1 < 256 && (t.2.getD 3 0).toNat % 8 == 0)
    && blocks.all (fun b => b.voffs.all (kernelRsv img (b.ekind == 1))) && phs.all fun p => bits p 19 0 == 0
  if img.length < 64 ∨ bits (h 0) 63 48 ≠ 1 ∨ bits (h 0) 31 28 ≠ part ∨ fit = false ∨ rsv = false then none
  else match parseSheets img (bits (h 2) 31 16) (off 2), parseGangs img (bits (h 5) 31 24) (off 5) with
    | some (sheets, _), some (gangs, _) =>
      some { live := true, id := bits (h 0) 47 32, part := part, period := bits (h 1) 63 32, image := img, sheets := sheets, decls := decls
             blocks := blocks, gangs := gangs, tids := tids, phasers := phs }
    | _, _ => none

/-! ## Variant images (R72, R76, R77) -/

/-- Word j of the kernel header of a variant. -/
def varWord (x : Scene) (b : Block) (v j : Nat) : Nat := iw x.image (b.voffs.getD v 0 + 8 * j)
/-- Bytes of a variant's image: up to the next one, or to the end. -/
def varLen (x : Scene) (b : Block) (v : Nat) : Nat :=
  let o := b.voffs.getD v 0
  ((x.blocks.flatMap (·.voffs)).filter (o < ·)).foldl min x.image.length - o
/-- The kernel header of a region variant keeps every "must" of R72 and R76. -/
def regionHeaderOk (u h w2 w3 : Nat) : Bool :=
  let pages := (hPages h).foldl (fun m p => m + 2 ^ p) 0
  bits u 23 22 == 0 && bits u 36 32 == 0 && bits u 63 48 == 0 && bits h 63 56 == 0 && bits h 41 32 == 0 && bits h 2 0 == 0
  && (hArray h || (!hChk h && hSparse h == 0)) && hSparse h != 3 && (!hCorr h || (hArray h && hChk h))
  && bits h 31 16 &&& pages == bits h 31 16 && (!bit u 38 || bit h 6) && bits w2 31 0 == 0 && w3 == 0
/-- That of a copy-engine variant, whose schedule lies in its image. -/
def copyHeaderOk (u h w2 w3 len : Nat) : Bool :=
  bits u 37 0 == 0 && bits u 63 48 == 0 && 1 ≤ bits h 63 48 && bits h 63 48 ≤ 1024 && bits h 47 0 == 0 && bits w2 31 0 == 0 && w3 == 0
  && 32 * bits w2 63 32 + 32 * bits h 63 48 ≤ len
def varOk (x : Scene) (b : Block) (v : Nat) : Bool :=
  let w (j : Nat) : Nat := varWord x b v j
  if b.ekind = 0 then regionHeaderOk (w 0) (w 1) (w 2) (w 3) else copyHeaderOk (w 0) (w 1) (w 2) (w 3) (varLen x b v)
/-- A variant is usable under a mask. -/
def varUsable (x : Scene) (cap : Nat) (b : Block) (v : Nat) : Bool := usableUnder cap (varWord x b v 0) (varWord x b v 1) (b.ekind == 1)
/-- R78 for a cue's block and understudy under a mask. -/
def cueUsable (x : Scene) (cap : Nat) (w0 : Nat) : Bool :=
  let own := match blockOfId x (bits w0 63 52) with
    | none => false
    | some b => (List.range b.caps.length).any fun v => varUsable x cap b v
  let und := bits w0 51 40 == 0xFFF || match blockOfId x (bits w0 51 40) with
    | none => false
    | some b => varUsable x cap b 0
  own && und

/-! ## Cues with their places (R41, R63, R383) -/

/-- A cue of a scene in one place: its number in the image, its gang slot, logical core, voice and core, its sheet, its words,
its start and deadline offsets, and its understudy's budget. -/
structure LCue where
  ix : Nat
  gslot : Nat
  lc : Nat
  voice : Nat
  core : Nat
  sheet : Nat
  w0 : Nat
  w1 : Nat
  start : Nat
  dead : Nat
  ub : Nat
deriving DecidableEq, Repr

/-- (voice, core) pairs of a logical core of a gang. -/
def pairsOf (g : Gang) (lc : Nat) : List (Nat × Nat) :=
  (g.words.filter (·.lc == lc)).foldl (fun l w => if l.any (·.1 == w.voice) then l else l ++ [(w.voice, w.core)]) []
/-- Budget of a cue's understudy. -/
def ubOf (x : Scene) (w0 : Nat) : Nat :=
  if bits w0 51 40 = 0xFFF then 0 else ((blockOfId x (bits w0 51 40)).map (·.ub)).getD 0
/-- Every cue of a scene in every place it goes to, in image order; one whose gang slot or logical core is absent stands in a single place, which row 2 of
R43 refuses. -/
def placedCues (x : Scene) : List LCue :=
  (x.sheets.foldl (fun (a : Nat × List LCue) h =>
    let g := x.gangs[h.gslot]?
    let found := (g.map fun g => pairsOf g h.lc).getD []
    let ps := if found.isEmpty then [(0, 0)] else found
    let skew := (g.map (·.skew)).getD 0
    let cs := h.cues.zipIdx.flatMap fun c => ps.map fun p =>
      let w0 := c.1.1.toNat
      let w1 := c.1.2.toNat
      ⟨a.1 + c.2, h.gslot, h.lc, p.1, p.2, h.engine, w0, w1, bits w1 63 32 + p.1 * skew, bits w1 31 0 + p.1 * skew, ubOf x w0⟩
    (a.1 + h.cues.length, a.2 ++ cs)) (0, [])).2
/-- Insertion by sheet, then start offset: a record whose cues do not stand in STARTOFF order is sorted (DESIGN CHOICE, log 73). -/
def insCue (c : LCue) : List LCue → List LCue
  | [] => [c]
  | a :: r => if c.sheet < a.sheet ∨ (c.sheet = a.sheet ∧ c.start < a.start) then c :: a :: r else a :: insCue c r
/-- The cues of one core in the order of its cue store. -/
def coreOrder (l : List LCue) (core : Nat) : List LCue := (l.filter (·.core == core)).foldl (fun a c => insCue c a) []

/-! ## Load checks (R43 and the others of R64) -/

/-- Why a load fails: the row of R365, the cue or word, the gang slot. -/
abbrev LoadWhy := Nat × Nat × Nat
/-- The first cue that fails a check. -/
def failCue (row : Nat) (l : List LCue) (p : LCue → Bool) : Option LoadWhy := (l.find? p).map fun c => (row, c.ix, c.gslot)
/-- Blocks that the cues name. -/
def blocksOk (x : Scene) (c : LCue) : Bool :=
  let kind := if c.sheet = 4 then 1 else 0
  let ok (id : Nat) : Bool := ((blockOfId x id).map fun b => b.ekind == kind).getD false
  ok (bits c.w0 63 52) && (bits c.w0 51 40 == 0xFFF || ok (bits c.w0 51 40))
/-- The declaration list of a cue: it ends within 64 entries, and every tensor is valid in the scene or in the partition's table on some core of a list. -/
def declsOk (s : State) (x : Scene) (cores : List Nat) (c : LCue) : Bool :=
  let d := bits c.w0 31 16
  d == 0xFFFF ||
    (let l := declList (x.decls.drop d) 64
     (l.getLast?.map fun e => bit e 31).getD false
     && l.all fun e =>
       let t := bits e 23 16
       x.tids.any (fun r => r.1 == t && bit (r.2.getD 3 0).toNat 3) || cores.any fun k => (tidOf s k x.part t).valid)
/-- A scene point that a cue's block would run across. -/
def crossesPoint (l : List LCue) (c : LCue) : Bool :=
  l.any fun p => bit p.w0 35 && c.start < p.start && p.start < c.dead + c.ub
/-- Curtains of a gang slot, each time once, in time order: (start, communication). Of two kinds at one time, the first of the image counts first (DESIGN
CHOICE, log 70). -/
def insCurtain (c : Nat × Bool) : List (Nat × Bool) → List (Nat × Bool)
  | [] => [c]
  | a :: r => if c = a then a :: r else if c.1 < a.1 then c :: a :: r else a :: insCurtain c r
/-- The first curtain of the kind of the one before it. -/
def sameKind : List (Nat × Bool) → Option (Nat × Bool)
  | a :: b :: r => if a.2 = b.2 then some b else sameKind (b :: r)
  | _ => none
/-- The curtain cue of a gang slot that breaks the alternation of row 8. -/
def badCurtain (l : List LCue) (g : Nat) : Option LCue :=
  let cs := l.filter fun c => c.gslot == g && bit c.w0 34 && c.voice == 0
  (sameKind (cs.foldl (fun a c => insCurtain (c.start, c.sheet == 4) a) [])).bind fun b => cs.find? fun c => c.start == b.1 && (c.sheet == 4) == b.2

/-- Rows 1, 2 and 4 to 8 of R43. -/
def cueChecks (s : State) (x : Scene) (l : List LCue) : Option LoadWhy :=
  let p := periodOf x
  let slotHere (c : LCue) : Bool :=
    ((x.gangs[c.gslot]?).map fun g => g.words.any fun w => w.lc == c.lc && w.voice == c.voice && (c.sheet == 4 || w.slot == c.sheet)).getD false
  [failCue 1 l fun c => !(bits c.w1 63 32 < p && bits c.w1 63 32 + bits c.w0 15 8 < bits c.w1 31 0),
   failCue 2 l fun c => bits c.w0 39 36 != c.sheet || !slotHere c,
   failCue 4 l fun c => !blocksOk x c,
   failCue 5 l fun c => !declsOk s x (List.range 64) c,
   failCue 6 l fun c => bit c.w0 32 && !(getPart s x.part).rt,
   failCue 7 l (crossesPoint l),
   ((List.range x.gangs.length).findSome? fun g => badCurtain l g).map fun c => (8, c.ix, c.gslot)].findSome? id

/-- Order and spacing of one sheet. -/
def spacingFail (p : Nat) (f : Option LCue) : List LCue → Option LoadWhy
  | [] => none
  | [z] => match f with
    | none => none
    | some f => if p + f.start < z.dead + z.ub then some (3, z.ix, z.gslot) else none
  | a :: b :: r => if b.start < a.dead + a.ub then some (3, a.ix, a.gslot) else spacingFail p f (b :: r)
/-- The cue of a core that its cue store cannot take beside n others: the first beyond the 1,024th (row 9 of R43). -/
def cueBeyond (l : List LCue) (core n : Nat) : LoadWhy :=
  let cs := coreOrder l core
  ((cs.drop (min (1024 - n) (cs.length - 1))).head?.map fun c => (9, c.ix, c.gslot)).getD (9, 0, 0)
/-- Rows 3 and 9 of R43, on the sheets of the placed cores. -/
def sheetChecks (x : Scene) (l : List LCue) (cores : List Nat) : Option LoadWhy :=
  let sheet (c i : Nat) : List LCue := (coreOrder l c).filter (·.sheet == i)
  match cores.findSome? fun c => (List.range 5).findSome? fun i => spacingFail (periodOf x) (sheet c i).head? (sheet c i) with
  | some w => some w
  | none => (cores.find? fun c => 1024 < (l.filter (·.core == c)).length).map fun c => cueBeyond l c 0

/-- Rows of a tensor: the bytes that its elements with fixed i1, i2, i3 take. -/
def tensorRows (t : TidV) : List (Nat × Nat) :=
  (List.range (t.dim 3)).flatMap fun k => (List.range (t.dim 2)).flatMap fun j => (List.range (t.dim 1)).map fun i =>
    (elemAddr t (0, i, j, k), cdiv (t.dim 0 * width t.fmt) 8)
/-- 4 KiB granules from the base that a tensor's elements touch, as its highest one plus 1. -/
def granules (t : TidV) : Nat := (tensorRows t).foldl (fun m r => max m ((r.1 + r.2 - 1 - t.base) / 4096 + 1)) 0
/-- TID entries of a scene. -/
def sceneTids (x : Scene) : List (Nat × TidV) :=
  x.tids.map fun r => (r.1, tidParse (r.2.getD 0 0).toNat (r.2.getD 1 0).toNat (r.2.getD 2 0).toNat (r.2.getD 3 0).toNat)
/-- An object of a sync address lies in an overflow area. -/
def isOverflow (s : State) (part addr : Nat) : Bool := match objAt s (2 ^ 28 * part + addr / 16 % 2 ^ 28) with
  | some (.dram _) => true
  | _ => false
/-- Entries of a copy-engine variant's schedule. -/
def imageSched (x : Scene) (b : Block) (v : Nat) : List CopyEnt :=
  let o := b.voffs.getD v 0 + 32 * bits (varWord x b v 2) 63 32
  (List.range (bits (varWord x b v 1) 63 48)).map fun i =>
    let w (j : Nat) : Nat := iw x.image (o + 32 * i + 8 * j)
    copyEntOf (w 0) (w 1) (w 2) (w 3)
/-- Entries of the copy-engine blocks that cues satisfying p name as block or understudy. -/
def cueEntries (x : Scene) (l : List LCue) (p : LCue → Bool) : List CopyEnt :=
  (l.filter fun c => c.sheet == 4 && p c).flatMap fun c =>
    [bits c.w0 63 52, bits c.w0 51 40].flatMap fun id => match blockOfId x id with
      | none => []
      | some b => if b.ekind = 0 then [] else (List.range b.voffs.length).flatMap (imageSched x b)
/-- Entries of every copy-engine block of a scene. -/
def allEntries (x : Scene) : List CopyEnt := x.blocks.flatMap fun b => if b.ekind = 0 then [] else (List.range b.voffs.length).flatMap (imageSched x b)
/-- An element of a TID entry lies on an overflow object. -/
def onOverflow (s : State) (part : Nat) (t : TidV) : Bool :=
  (tensorRows t).any fun r => (List.range (cdiv (r.1 % 16 + r.2) 16)).any fun i => isOverflow s part (r.1 / 16 * 16 + 16 * i)
/-- The real-time checks of R118 and R207. -/
def rtOk (s : State) (x : Scene) (l : List LCue) : Bool :=
  let host (t : Nat) : Bool := (sceneTids x).any fun e => e.1 == t && e.2.valid && e.2.space == 4
  !(getPart s x.part).rt ||
    ((sceneTids x).all (fun e => !(e.2.valid && e.2.space == 5 && onOverflow s x.part e.2))
     && (allEntries x).all (fun e => e.ctr == 0xFFFFFFF || !isOverflow s x.part (16 * e.ctr))
     && x.blocks.all (fun b => b.szsrc != 1 || !isOverflow s x.part b.szaddr)
     && (cueEntries x l fun c => bit c.w0 32).all fun e => !host e.stid && !host e.dtid)
/-- Strictly rising numbers. -/
def rising : List Nat → Bool
  | a :: b :: r => a < b && rising (b :: r)
  | _ => true
/-- A gang table entry (R79, R381). -/
def gangOk (rt : Bool) (g : Gang) : Bool :=
  let v := match g.chor with
    | 0 => 1
    | 1 => 2
    | _ => 3
  1 ≤ g.nlc && g.nlc ≤ 64 && (!rt || g.phase == 0) && g.chor != 3 && 1 ≤ g.words.length && g.words.length ≤ 256
  && g.words.all (fun w => w.lc < g.nlc && w.voice < v)
  && (g.chor == 0 || g.words.all fun w => (List.range v).all fun i => g.words.any fun u => u.lc == w.lc && u.voice == i)
/-- The checks of R64 beside those of R43 that need no placement. -/
def otherChecks (s : State) (x : Scene) (l : List LCue) : Bool :=
  let rt := (getPart s x.part).rt
  let chorOf (c : LCue) : Nat := ((x.gangs[c.gslot]?).map (·.chor)).getD 0
  !(s.scenes.any fun y => y.2.live && y.2.loaded && y.2.part == x.part && y.2.id == x.id)
  && (distinct (x.blocks.map (·.id))).length == x.blocks.length
  && x.blocks.all (fun b => b.id != 0xFFF && rising b.caps && (List.range b.voffs.length).all (varOk x b))
  && l.all (fun c => bits c.w0 51 40 == 0xFFF || ((blockOfId x (bits c.w0 51 40)).map fun b => b.caps.length == 1).getD false)
  && x.gangs.all (gangOk rt)
  && (sceneTids x).all (fun e => e.1 != 0xFF && (!e.2.valid || tidWf e.2 x.part (!rt)))
  && x.phasers.all (fun p => !bit p 31 || !bit p 28 || l.any fun c => c.gslot == bits p 27 20 && bit c.w0 34)
  && l.all (fun c => bit c.w0 33 == (chorOf c != 0) && (c.sheet != 4 || chorOf c == 0))
  && rtOk s x l

/-! ## Placement (R71, R79 to R82, R382) -/

/-- Cues of a logical core of a gang slot on a sheet: their first words. -/
def sheetCues (x : Scene) (gslot lc sheet : Nat) : List Nat :=
  (x.sheets.filter fun h => h.gslot == gslot && h.lc == lc && h.engine == sheet).flatMap fun h => h.cues.map (·.1.toNat)
/-- Width and height of a placement word's region. -/
def shapeOf (x : Scene) (gslot : Nat) (w : Placement) : Nat × Nat :=
  let bs := ((sheetCues x gslot w.lc w.slot).flatMap fun c => [bits c 63 52, bits c 51 40]).filterMap (blockOfId x)
  let hs := bs.flatMap fun b => (List.range b.voffs.length).map fun v => varWord x b v 1
  (hs.foldl (fun m h => max m (hW h)) 1, hs.foldl (fun m h => max m (hH h)) 1)
/-- The pages of a rectangle meet those of a region. -/
def overlap (g : Region) (px py w h : Nat) : Bool := g.px < px + w && px < g.px + g.pw && g.py < py + h && py < g.py + g.ph
/-- The first free origin in ascending (py, px). -/
def freeRect (s : State) (core w h : Nat) : Option (Nat × Nat) :=
  let free (px py : Nat) : Bool := px + w ≤ 4 && py + h ≤ 4 && (List.range 4).all fun sl =>
    let g := getReg s (thKey core sl)
    !g.placed || !overlap g px py w h
  ((List.range 16).find? fun i => free (i % 4) (i / 4)).map fun i => (i % 4, i / 4)
/-- Candidate cores of a word in their order. -/
def candidates (w : Placement) : List Nat :=
  if w.any then List.range 64
  else
    let rest (p : Nat → Bool) : List Nat := (List.range 64).filter fun c => c != w.pref && p c
    w.pref :: rest (fun c => clusterOf c == clusterOf w.pref)
      ++ rest (fun c => clusterOf c != clusterOf w.pref && dieOf c == dieOf w.pref)
      ++ rest (fun c => clusterOf c != clusterOf w.pref && dieOf c != dieOf w.pref)
/-- A core suits a voice beside the words of its gang placed so far (R381, R382). -/
def voiceFits (s : State) (g : Gang) (done : List Placement) (w : Placement) (core : Nat) : Bool :=
  g.chor == 0 ||
    (let same := done.filter fun p => p.lc == w.lc && p.voice != w.voice
     !(getCore s core).excl && same.all (fun p => clusterOf p.core != clusterOf core)
     && done.all (fun p => (p.lc == w.lc && p.voice == w.voice) || p.core != core)
     && !(g.chor == 2 && (distinct (same.map (·.voice))).length == 2 && same.all fun p => dieOf p.core == dieOf core))
/-- Use of a core by a partition beside others (R400): disjoint bank groups, one user of the array and the epilogue and one of sheet 4, and
no shared spill where one is real-time. -/
def tenantsOk (s : State) (x : Scene) (gslot : Nat) (w : Placement) (core : Nat) : Bool :=
  let others := ((List.range 4).map fun sl => getReg s (thKey core sl)).filter fun g => g.placed && g.part != x.part
  let ks := distinct (others.map (·.scene))
  let ids := ((List.range 5).flatMap (sheetCues x gslot w.lc)).flatMap fun c => [bits c 63 52, bits c 51 40]
  let mine := ((ids.filterMap (blockOfId x)).flatMap fun b => (List.range b.voffs.length).map fun v => varWord x b v 0).foldl (· ||| ·) 0
  let theirs := ((s.cfgImages.filter fun e => e.1 == core && ks.contains e.2.1).map fun e => hdrWord s core e.2.2.2.1 0).foldl (· ||| ·) 0
  let array (u : Nat) : Bool := bits u 31 24 != 0 || bit u 37
  others.isEmpty ||
    (bits mine 46 39 &&& bits theirs 46 39 == 0 && !(array mine && array theirs)
     && !(!(sheetCues x gslot w.lc 4).isEmpty && (coreCues s core).any fun q => ks.contains q.2.scene && qSheet q.2 == 4)
     && (spTgt (pw s core) == 0 || !((getPart s x.part).rt || others.any fun g => (getPart s g.part).rt)))
/-- A core accepts a word. -/
def accepts (s : State) (x : Scene) (gslot : Nat) (g : Gang) (done : List Placement) (w : Placement) (core : Nat) : Bool :=
  let sh := shapeOf x gslot w
  !(getReg s (thKey core w.slot)).placed && (sheetCues x gslot w.lc w.slot).all (cueUsable x (capMask s core))
  && (freeRect s core sh.1 sh.2).isSome && voiceFits s g done w core && tenantsOk s x gslot w core
/-- A region as the pager places it (R71, R265). -/
def freshRegion (s : State) (x : Scene) (k gslot : Nat) (w : Placement) (core px py : Nat) : Region :=
  let sh := shapeOf x gslot w
  { placed := true, part := x.part, scene := k, gslot := gslot, lc := w.lc, voice := w.voice, px := px, py := py, pw := sh.1, ph := sh.2
    hdr := w64 ((sh.1 - 1) * 2 ^ 54 + (sh.2 - 1) * 2 ^ 52), fenced := fencedCh s core }
/-- A slot with a region and nothing left of what stood there. -/
def putRegion (s : State) (core slot : Nat) (g : Region) : State :=
  let k := thKey core slot
  setReg { s with elems := s.elems.filter (fun p => p.1 / 256 != k), agenda := s.agenda.filter (·.clk != .region k) } k g

/-- Insertion of a numbered word by (LC, VOICE, SLOT). -/
def insWord (w : Nat × Placement) : List (Nat × Placement) → List (Nat × Placement)
  | [] => [w]
  | a :: r =>
    let key (p : Placement) : Nat := p.lc * 16 + p.voice * 4 + p.slot
    if key w.2 < key a.2 then w :: a :: r else a :: insWord w r
/-- Place numbered words in order, beside the words that stay: the state, and the words with their cores; or the word that found none. -/
def placeWords (s : State) (x : Scene) (k gslot : Nat) (g : Gang) : List (Nat × Placement) → List Placement →
    Except Nat (State × List (Nat × Placement))
  | [], _ => .ok (s, [])
  | (i, w) :: r, done =>
    let cands := match done.find? fun p => p.lc == w.lc && p.voice == w.voice with
      | some p => [p.core]
      | none => candidates w
    match cands.find? (accepts s x gslot g done w) with
    | none => .error i
    | some c =>
      let sh := shapeOf x gslot w
      let o := (freeRect s c sh.1 sh.2).getD (0, 0)
      let w' := { w with core := c, cap := capMask s c }
      match placeWords (putRegion s c w.slot (freshRegion s x k gslot w c o.1 o.2)) x k gslot g r (done ++ [w']) with
      | .error e => .error e
      | .ok (s, l) => .ok (s, (i, w') :: l)
/-- Words in placement order, numbered. -/
def wordOrder (g : Gang) : List (Nat × Placement) := (g.words.zipIdx.map fun p => (p.2, p.1)).foldl (fun l w => insWord w l) []
/-- A gang with placed words. -/
def withWords (g : Gang) (l : List (Nat × Placement)) : Gang :=
  { g with words := g.words.zipIdx.map fun p => ((l.find? (·.1 == p.2)).map (·.2)).getD p.1 }
/-- Place a whole gang by R80. -/
def placeGang (s : State) (x : Scene) (k gslot : Nat) (g : Gang) : Except Nat (State × Gang) :=
  (placeWords s x k gslot g (wordOrder g) []).map fun r => (r.1, withWords g r.2)

/-- The state as the pager would see it with the regions of best-effort gangs gone. -/
def withoutBe (s : State) : State := { s with regions := s.regions.filter fun p => !(p.2.placed && isBe s p.2.part) }
/-- Context images of a gang that has no pages: regions as at placement, nothing running. -/
def freshImages (s : State) (x : Scene) (k gslot : Nat) (g : Gang) : List Image :=
  g.words.map fun w => {
    gang := g.id, part := x.part, lc := w.lc, voice := w.voice, slot := w.slot, core := w.core, freezeTick := ticks s, thread := {}
    snap := ⟨w.slot, freshRegion s x k gslot w w.core 0 0, []⟩, run := none, copier := none, records := [], chorus := none }
/-- Place a gang at load. A best-effort gang that lacks only what other best-effort gangs hold is loaded without pages, since
they share them by pre-emption (R70, R80, R89; DESIGN CHOICE, log 74). -/
def loadGang (s : State) (x : Scene) (k gslot : Nat) (g : Gang) : Except LoadWhy (State × Gang) :=
  match placeGang s x k gslot g with
  | .ok r => .ok (r.1, { r.2 with heldSince := ticks s })
  | .error i =>
    if !isBe s x.part then .error (10, i, gslot)
    else match placeGang (withoutBe s) x k gslot g with
      | .error i => .error (10, i, gslot)
      | .ok (_, g) =>
        let g := { g with resident := false }
        .ok ({ s with images := s.images ++ freshImages s x k gslot g }, g)
/-- Place every gang in gang slot order. -/
def loadGangs (s : State) (x : Scene) (k : Nat) : List (Gang × Nat) → Except LoadWhy (State × List Gang)
  | [] => .ok (s, [])
  | (g, i) :: r => match loadGang s x k i g with
    | .error e => .error e
    | .ok (s, g) => match loadGangs s x k r with
      | .error e => .error e
      | .ok (s, l) => .ok (s, g :: l)

/-! ## What a load writes (R41, R64, R117, R214, R220) -/

/-- The lowest free run of n numbers below 1,024. -/
def lowestRun (used : List Nat) (n : Nat) : Option Nat :=
  (List.range (1025 - n)).find? fun b => used.all fun u => u < b || b + n ≤ u
/-- Cues of a scene enter the cue store of a core as one run. -/
def writeCues (s : State) (x : Scene) (k core : Nat) (l : List LCue) : Option State :=
  let cs := coreOrder l core
  (lowestRun ((coreCues s core).map (·.1)) cs.length).map fun b =>
    cs.zipIdx.foldl (fun s c => setCue s (1024 * core + b + c.2)
      { word0 := w64 c.1.w0, word1 := w64 c.1.w1, lc := c.1.lc, voice := c.1.voice, part := x.part, scene := k }) s
/-- Variants that the cues of a core name: block and variant. -/
def neededVars (x : Scene) (l : List LCue) (core : Nat) : List (Block × Nat) :=
  let ids := distinct ((l.filter (·.core == core)).flatMap fun c => [bits c.w0 63 52, bits c.w0 51 40])
  (ids.filterMap (blockOfId x)).flatMap fun b => (List.range b.voffs.length).map fun v => (b, v)
/-- A free place in a core's configuration store. -/
def freeCfg (s : State) (core n : Nat) : Option Nat :=
  let here := s.cfgImages.filter (·.1 == core)
  let starts := 0 :: here.map fun e => cdiv (e.2.2.2.1 + e.2.2.2.2) 64 * 64
  let ok (b : Nat) : Bool := b + n ≤ 2 ^ 20 && here.all fun e => e.2.2.2.1 + e.2.2.2.2 ≤ b || b + n ≤ e.2.2.2.1
  (starts.filter ok).foldl (fun m b => match m with
    | none => some b
    | some x => some (min x b)) none
/-- A variant's image enters a configuration store. -/
def writeVar (s : State) (x : Scene) (k core : Nat) (b : Block) (v : Nat) : Option State :=
  if s.cfgImages.any fun e => e.1 == core && e.2.1 == k && e.2.2.1 == 4 * b.id + v then some s
  else
    let n := varLen x b v
    (freeCfg s core n).map fun base =>
      { s with
        cfgImages := s.cfgImages ++ [(core, k, 4 * b.id + v, base, n)]
        cfgBad := s.cfgBad.filter fun e => !(e.1 == core && base ≤ e.2 && e.2 < base + n)
        cfg := wrBytes s.cfg (core * 2 ^ 20 + base) ((x.image.drop (b.voffs.getD v 0)).take n) }
/-- The images that a core needs. -/
def writeVars (s : State) (x : Scene) (k core : Nat) (l : List LCue) : Option State :=
  (neededVars x l core).foldlM (fun s b => writeVar s x k core b.1 b.2) s

/-- A TID record agrees with what another loaded scene of the partition wrote, on whatever core (R64). -/
def tidAgrees (s : State) (x : Scene) (r : Nat × List W64) : Bool :=
  (List.range 64).all fun core => (tget s.tidFrom 0 (tidKey core x.part r.1)) == 0 || !(tidOf s core x.part r.1).valid
    || (List.range 4).all fun i => tidWord s core x.part r.1 i == (r.2.getD i 0).toNat
/-- The TID records enter a core's table; the residency bits of a new entry are clear. -/
def writeTids (s : State) (x : Scene) (k core : Nat) : State :=
  x.tids.foldl (fun s r =>
    let key := tidKey core x.part r.1
    if tget s.tidFrom 0 key ≠ 0 ∧ (tidOf s core x.part r.1).valid = true then s
    else
      let s := (List.range 4).foldl (fun s i => setTidWord s core x.part r.1 i (r.2.getD i 0)) s
      { s with tidFrom := tput s.tidFrom 0 key (k + 1), resid := s.resid.filter fun b => b / 4096 != key }) s

/-- 4 KiB pages that the elements of a scene's DRAM tensors touch. -/
def dramPages (x : Scene) : List Nat :=
  ((sceneTids x).filter fun e => e.2.valid && e.2.space == 3).flatMap fun e =>
    (tensorRows e.2).flatMap fun r => (List.range ((r.1 % 4096 + r.2 + 4095) / 4096)).map fun i => r.1 / 4096 + i
/-- Pinned entries of the dies of a real-time scene (R117): none where a page is not pinned or a die has no room. -/
def pinPages (s : State) (x : Scene) (dies : List Nat) : Option State :=
  if !(getPart s x.part).rt then some s
  else (dramPages x).foldlM (fun s p =>
    let va := 4096 * p
    match walk s x.part va with
    | .error _ => none
    | .ok (pa, rd, wr, pin) =>
      if !pin then none
      else
        let n := pageBits s x.part va
        let base := va / 2 ^ n * 2 ^ n
        dies.foldlM (fun s d =>
          let e := (4 * x.part + d, base, n, (pa - va % 2 ^ n) * 4 + b2n rd * 2 + b2n wr)
          if s.pinned.any fun y => y.1 == e.1 && y.2.1 == base then some s
          else if 4096 ≤ (s.pinned.filter fun y => y.1 % 4 == d).length then none
          else some { s with pinned := s.pinned ++ [e] }) s) s

/-- Home die of a tensor's race tags in a scene: that of its phaser, or the scene's own. -/
def tagDieOf (x : Scene) (t : TidV) : Nat := if t.phaser = 0xFFF then x.tagDie else bits (x.phasers.getD t.phaser 0) 30 29
/-- Race tags of a scene on a die. -/
def tagCount (x : Scene) (die : Nat) : Nat :=
  (sceneTids x).foldl (fun n e => if e.2.valid && e.2.shrc && tagDieOf x e.2 == die then n + granules e.2 else n) 0
/-- The tags of a scene fit beside those of the loaded ones. -/
def tagsFit (s : State) (x : Scene) : Bool :=
  (List.range 4).all fun d => s.scenes.foldl (fun n y => if y.2.live && y.2.loaded then n + tagCount y.2 d else n) (tagCount x d) ≤ 16384
/-- Member records of a partition that a die's on-demand range holds. -/
def extMembers (s : State) (die part : Nat) : Nat :=
  s.phasers.foldl (fun n x => if x.2.live && x.2.home == die && (getScene s (x.1 / 4096)).part == part
    then n + ((x.2.members ++ x.2.queued).filter (·.ext)).length else n) 0
/-- Room for a scene's phasers beside the members that are there (R449): those beyond the SRAM are marked by bit 32 of their map entry; none where there is no room. -/
def phaserRoom (s : State) (x : Scene) : Option Scene :=
  let count (l : List Nat) (d : Nat) (ext : Bool) : Nat := (l.filter fun p => bit p 31 && bits p 30 29 == d && bit p 32 == ext).length
  let others (d : Nat) (ext : Bool) (part : Option Nat) : Nat :=
    s.scenes.foldl (fun n y => if y.2.live && y.2.loaded && (part.getD y.2.part == y.2.part) then n + count y.2.phasers d ext else n) 0
  let r := x.phasers.foldl (fun (a : Option (List Nat)) p => a.bind fun l =>
    let d := bits p 30 29
    if !bit p 31 then some (l ++ [p])
    else if others d false none + count l d false < 4096 then some (l ++ [p])
    else if (getPart s x.part).rt then none
    else if 2 * (others d true (some x.part) + count l d true + 1) + cdiv (extMembers s d x.part) 4 ≤ bits (tget s.sync 0 (8 * x.part + 2 * d + 1)).toNat 63 48
      then some (l ++ [p + 2 ^ 32]) else none) (some [])
  r.map fun l => { x with phasers := l }
/-- The die of logical core 0, voice 0, of the lowest gang slot. -/
def tagHomeOf (x : Scene) : Nat := match x.gangs.head? with
  | none => 0
  | some g => dieOf (((g.words.find? fun w => w.lc == 0 && w.voice == 0).map (·.core)).getD 0)

/-- Loaded scenes of a partition, and the cores that they use: a real-time partition's pages are pinned in the dies of all of them (R117). -/
def partScenes (s : State) (part : Nat) : List Scene := (s.scenes.filter fun y => y.2.live && y.2.loaded && y.2.part == part).map (·.2)
def partCores (s : State) (part : Nat) : List Nat := (partScenes s part).flatMap fun y => y.gangs.flatMap fun g => g.words.map (·.core)
/-- Steps 3 and 4 of a load, after its checks: the loaded state, or why it failed. -/
def placeScene (s : State) (k : Nat) (x : Scene) : Except LoadWhy State :=
  match loadGangs s x k x.gangs.zipIdx with
  | .error e => .error e
  | .ok (s, gs) =>
    let x := { x with gangs := gs }
    let x := { x with tagDie := tagHomeOf x }
    let l := placedCues x
    let cores := (gs.flatMap fun g => g.words.map (·.core)).foldl nins []
    let bad := l.find? fun c => c.sheet == 4 && !cueUsable x (capMask s c.core) c.w0
    let undeclared := failCue 5 l fun c => !declsOk s x [c.core] c
    let dies := ((cores ++ partCores s x.part).map dieOf).foldl nins []
    let rbg := gs.all fun g => g.chor == 0 || g.words.all fun w => 1 ≤ relGran (pw s w.core)
    match bad, undeclared.or (sheetChecks x l cores), phaserRoom s x with
    | some c, _, _ => .error (10, c.ix, c.gslot)
    | none, some e, _ => .error e
    | none, none, none => .error (12, 0, 0)
    | none, none, some x =>
      if !rbg || !tagsFit s x || !(x.tids.all (tidAgrees s x)) then .error (12, 0, 0)
      else match (partScenes s x.part).foldlM (fun s y => pinPages s y dies) s |>.bind fun s => pinPages s x dies with
        | none => .error (12, 0, 0)
        | some s => match cores.foldlM (fun s c => (writeVars s x k c l).map fun s => writeTids s x k c) s with
          | none => .error (12, 0, 0)
          | some s => match cores.foldlM (fun s c => writeCues s x k c l) s with
            | none => .error (((cores.find? fun c => (writeCues s x k c l).isNone).map fun c => cueBeyond l c (coreCues s c).length).getD (9, 0, 0))
            | some s =>
              let s := cores.foldl (fun s c =>
                setCore { s with seqs := tput s.seqs 0 (16 * c + x.part) 0 } c
                  { getCore s c with guards := (getCore s c).guards.filter fun e => e.2.2.1 != x.part }) s
              .ok (setScene s k { x with loaded := true })

/-- A scene as the image of ARG0 gives it, or why its load fails (steps 1 and 2 of R64); a failed read counts as row 12. -/
def readScene (s : State) (part va : Nat) : State × Except LoadWhy Scene :=
  match readVa s part va 1 with
  | (s, none) => (s, .error (12, 0, 0))
  | (s, some h) =>
    match readVa s part va (cdiv (bits (iw h 8) 31 0) 64) with
    | (s, none) => (s, .error (12, 0, 0))
    | (s, some l) => (s, match parseScene part (l.take (bits (iw h 8) 31 0)) with
      | none => .error (11, 0, 0)
      | some x =>
        let c := placedCues x
        match cueChecks s x c with
        | some e => .error e
        | none => if otherChecks s x c then .ok x else .error (12, 0, 0))

/-! ## Unloading (R64) -/

/-- Another loaded scene of the partition names a TID. -/
def tidNamed (s : State) (k part tid : Nat) : Bool :=
  s.scenes.any fun y => y.1 != k && y.2.live && y.2.loaded && y.2.part == part && y.2.tids.any (·.1 == tid)
/-- A TID entry becomes not valid on every core, with its residency bits clear. -/
def dropTid (s : State) (part tid : Nat) : State :=
  (List.range 64).foldl (fun s c =>
    let key := tidKey c part tid
    let w3 := tidWord s c part tid 3
    { setTidWord s c part tid 3 (w64 (w3 - b2n (bit w3 3) * 8)) with
      tidFrom := tdel s.tidFrom key, resid := s.resid.filter fun b => b / 4096 != key }) s
/-- What a scene holds is released. -/
def releaseScene (s : State) (k : Nat) : State :=
  let x := getScene s k
  let s := s.regions.foldl (fun s p => if p.2.placed && p.2.scene == k then putRegion s (p.1 / 4) (p.1 % 4) {} else s) s
  let s := { s with
    images := s.images.filter fun i => i.snap.region.scene != k
    cues := s.cues.filter fun p => p.2.scene != k
    cfgImages := s.cfgImages.filter fun e => e.2.1 != k
    tags := s.tags.filter fun g => g.1 / 2 ^ 40 != k
    phasers := s.phasers.filter fun p => p.1 / 4096 != k
    grants := s.grants.filter fun g => g.key / 2 ^ 40 != k
    homes := s.homes.filter fun h => homeScene h.1 != k }
  let s := (x.tids.filter fun r => !tidNamed s k x.part r.1).foldl (fun s r => dropTid s x.part r.1) s
  let kept := s.scenes.flatMap fun y => if y.1 != k && y.2.live && y.2.loaded && y.2.part == x.part then dramPages y.2 else []
  let s := { s with pinned := s.pinned.filter fun e =>
    e.1 / 4 != x.part || kept.any fun p => 4096 * p / 2 ^ e.2.2.1 * 2 ^ e.2.2.1 == e.2.1 }
  { s with scenes := tdel s.scenes k }

end Sys2Proof.Machine
end

