-- ==== Sys2Proof/Machine/Jobs.lean ====
section
/-! DEFINITION. Jobs and scenes: reading, rejecting and admitting records, completion, starting, stopping and changing scenes, launches,
recovery re-placement (R34, R56 to R64, R83, R92, R93, R411, R430). -/

namespace Sys2Proof.Machine

/-! ## Completion (R61, R62, R430) -/

def getJob (s : State) (j : Nat) : Job := tget s.jobs default j
/-- Field PARTN of a record, and the others of word 1. -/
def jKind (j : Job) : Nat := bits (j.words.getD 1 0).toNat 63 60
def jPart (j : Job) : Nat := bits (j.words.getD 1 0).toNat 51 48
def jGang (j : Job) : Nat := bits (j.words.getD 1 0).toNat 47 40
def jScene (j : Job) : Nat := bits (j.words.getD 1 0).toNat 39 24
def jLaunch (j : Job) : Nat := (j.words.getD 0 0).toNat
def jCpl (j : Job) : Nat := (j.words.getD 2 0).toNat
def jArgs (j : Job) : List W64 := (j.words.drop 3).take 4

/-- The completion mirror of a host stream: the 16-byte object in host memory, then vector 2; with port A down it is dropped with OVF
(R430, R446). -/
def mirror (s : State) (stream : Nat) (o : SyncObj) : State :=
  let m := (getStream s stream).cmaddr.toNat / 16 * 16
  let fn := stream / 4
  if 64 ≤ stream ∨ m = 0 then s
  else if s.mgmt.portA.isNone then setRing s fn { getRing s fn with ovf := true }
  else { s with
    hostMem := wrBytes s.hostMem (hostAddr fn m) (leBytes 8 o.count.toNat ++ leBytes 8 o.status.toNat)
    irqs := s.irqs ++ [(fn, 2)] }
/-- A job signals completion once: success with cause 0 adds 1 and writes a zero status; else the status holds cause and index. An
address that is not aligned, that is 2^32 or more, or that lies outside the allotments holds no object, and the job ends without writing one (DESIGN
CHOICE, log 57). -/
def jobEnd (s : State) (j cause : Nat) : State :=
  let b := getJob s j
  let s := { s with jobs := tdel s.jobs j }
  let k := 2 ^ 28 * b.fn + jCpl b / 16
  if jCpl b % 16 ≠ 0 ∨ 2 ^ 32 ≤ jCpl b ∨ (objAt s k).isNone = true then s
  else
    let o := getObj s k
    let o := if cause = 0 then { o with count := o.count + 1, status := 0 } else { o with status := w64 (cause * 2 ^ 55 + b.index) }
    mirror (putObj s k o) b.stream o
/-- Several jobs. -/
def jobsEnd (s : State) (l : List Nat) (cause : Nat) : State := l.foldl (fun s j => jobEnd s j cause) s

/-- A stream or device queue may read its next record. -/
def kick (s : State) (n : Nat) : State :=
  let t := getStream s n
  if n < 64 then
    if t.en && t.pending.isNone && t.rdidx != t.wridx then
      schedule (drawn s) .master (s.cycle + 1 + Config.freeNat s.free) (.row .jobRecordRead { ix := n })
    else s
  else if t.pending.isNone && !(getPart s (n - 64)).devQueue.isEmpty then soon s (.row .jobRecordRead { ix := n })
  else s
/-- The pending record of a stream is gone. -/
def unpend (s : State) (n : Nat) : State := kick (setStream s n { getStream s n with pending := none }) n
/-- A pending job is rejected: 0x0C7 in its status and in the device log (R62, R65). -/
def reject (s : State) (n j : Nat) : State :=
  let i := (getJob s j).index
  unpend (devLog (jobEnd s j 0x0C7) 0x0C7 n i) n

/-! ## Records (R58, R59, R62, R92, R430) -/

/-- A stream stops on an error: 0x0C7 in the device log and so in the PF ring (R358, R431), and in the fault ring of its function (R430). -/
def streamError (s : State) (n : Nat) : State :=
  let t := getStream s n
  let w : Why := { cause := 0x0C7, eng := 6, fatal := false, i0 := n, i1 := t.rdidx }
  let r : Record := ⟨0x0C7, n / 4, recWords w (recWord0 w false 0 (n / 4) 0xFFF 0 0) (ticks s) 0 0⟩
  let s := devLogWhy (setStream s n { t with err := true, en := false }) 0 w (part := n / 4)
  if n / 4 = 0 then s else ringWrite s (n / 4) r
/-- More records are outstanding than a host stream's ring holds (R430). -/
def overfull (t : Stream) : Bool := t.en && 2 ^ t.log2n < (t.wridx + 2 ^ 32 - t.rdidx) % 2 ^ 32

/-- Conditions of R62 and R92 that the record alone decides, at the tick at which it becomes pending. -/
def recordBad (now : Nat) (b : Job) (device : Bool) : Bool :=
  let w (i : Nat) : Nat := (b.words.getD i 0).toNat
  let zero (l : List Nat) : Bool := l.all (· == 0)
  let k := jKind b
  5 < k || bits (w 1) 59 52 != 0 || bits (w 1) 23 0 != 0 || w 7 != 0 || jPart b != b.fn
  || (device && k != 1 && k != 2)
  || (k == 4 && !zero [w 0, jGang b, jScene b, w 4, w 5, w 6])
  || (k == 5 && !zero [w 0, jGang b, w 3, w 4, w 5, w 6])
  || (k < 4 && jLaunch b + 1 < now)
/-- The row that admits a job. -/
def admitRow : Nat → Instr
  | 0 => .startScene
  | 1 => .launchGang
  | 2 => .changeScene
  | 3 => .stopScene
  | 4 => .loadScene
  | _ => .unloadScene
/-- The tick of a job's admission (R60, DESIGN CHOICE, log 8): within one of its launch tick. -/
def admitTick (now launch : Nat) : Nat := max now (launch + Config.freeAdmit launch % 3 - 1)
/-- A module to the I-die retrains, so admissions wait (R411). -/
def admissionsWait (s : State) : Bool := s.links.any fun m => 8 ≤ m.1 && m.2.2 == 0
/-- A function's admissions have stopped: from the tick t0 of its reset on (R402), and in a save (R423). -/
def stopped (s : State) (fn : Nat) : Bool :=
  s.mgmt.stage < 5 || s.mgmt.saving.isSome || s.mgmt.halted || (getPart s fn).flrState == 1 || (getPart s fn).flrState == 2
/-- A record becomes pending, at the tick boundary after its read, or is rejected (R59, R62; DESIGN CHOICE, log 65). -/
def pend (s : State) (n : Nat) (b : Job) : State :=
  let j := s.nextId
  let now := ticks s + 1
  let due := if jKind b < 4 then admitTick now (jLaunch b) else now
  let s := { s with nextId := j + 1, jobs := tput s.jobs default j { b with due := due } }
  let s := setStream s n { getStream s n with pending := some j }
  if recordBad now b (64 ≤ n) then reject s n j
  else if 4 ≤ jKind b then schedule s .master (s.cycle + 1) (.row (admitRow (jKind b)) { ix := n })
  else s

/-- JOB_RECORD_READ: of a host stream through the partition's tables, or of a device queue (R59, R92, R430). A device queue has no read index: the TAG of its
records is 0 (DESIGN CHOICE, log 54). -/
def execJobRecordRead (s : State) : Out :=
  let n := s.cur.ix
  let t := getStream s n
  .next (if 64 ≤ n then
      let p := n - 64
      match (getPart s p).devQueue with
      | [] => s
      | r :: more =>
        if t.pending.isSome || stopped s p then s
        else pend (setPart s p { getPart s p with devQueue := more }) n { stream := n, index := 0, fn := p, words := r }
    else
      let left := (t.wridx + 2 ^ 32 - t.rdidx) % 2 ^ 32
      if !t.en || t.pending.isSome || left = 0 || stopped s (n / 4) then s
      else if overfull t then streamError s n
      else match readVa s (n / 4) (t.rbase.toNat + 64 * (t.rdidx % 2 ^ t.log2n)) 1 with
        | (s, none) => streamError s n
        | (s, some l) =>
          let s := setStream s n { t with rdidx := (t.rdidx + 1) % 2 ^ 32 }
          pend s n { stream := n, index := t.rdidx, fn := n / 4, words := (List.range 8).map fun i => w64 (leNat ((l.drop (8 * i)).take 8)) })

/-- Insertion by due tick, behind those of the same tick. -/
def insDue (x : Nat × Job) : List (Nat × Job) → List (Nat × Job)
  | [] => [x]
  | a :: r => if x.2.due < a.2.due then x :: a :: r else a :: insDue x r
/-- The admissions that are due at a tick boundary, in the order of R60: by tick, then host streams before device queues, ascending. A job whose launch
tick a step of TICKABS has passed, or that a retrain has held, is admitted at the first boundary that comes (DESIGN CHOICE, log 53). -/
def dueAdmissions (s : State) : List Act :=
  let due := s.streams.filterMap fun x => x.2.pending.bind fun j =>
    let b := getJob s j
    if jKind b < 4 && b.due ≤ ticks s then some (x.1, b) else none
  (due.foldl (fun l x => insDue x l) []).map fun x => .row (admitRow (jKind x.2)) { ix := x.1 }

/-! ## Starting and stopping a scene (R56, R57, R61, R93, R209) -/

/-- Each mapped phaser is created with phase 0 (R209). -/
def makePhasers (s : State) (k : Nat) : State :=
  (getScene s k).phasers.zipIdx.foldl (fun s p =>
    if bit p.1 31 then
      setPh s (4096 * k + p.2) { live := true, home := bits p.1 30 29, curt := bit p.1 28, gslot := bits p.1 27 20, ext := bit p.1 32 }
    else s) s
def dropPhasers (s : State) (k : Nat) : State := { s with phasers := s.phasers.filter fun p => p.1 / 4096 != k }
/-- Skew of a cue's voice in ticks (R383). -/
def cueSkew (s : State) (q : Cue) : Nat := q.voice * ((gangOf s q.scene (qGslot q)).map (·.skew)).getD 0
/-- The cues of a scene, or of one gang slot of it, begin their first period at an origin (R39, R93). -/
def beginCues (s : State) (k : Nat) (gslot : Option Nat) (o : Nat) : State :=
  { s with cues := s.cues.map fun p =>
      let q := p.2
      if q.scene = k ∧ (gslot.getD (qGslot q)) = qGslot q then
        (p.1, { q with st := .idle, period := 0, startTick := o + qStart q + cueSkew s q, deadTick := o + qDead q + cueSkew s q
                       understudyDue := none, failCause := 0, drained := false })
      else p }
/-- A scene starts with origin o; its race tags hold nothing yet. -/
def beginScene (s : State) (k o : Nat) (args : List W64) (job : Option Nat) : State :=
  let s := setScene s k { getScene s k with
    running := true, origin := o, args := args, job := job, stopAt := none, stopJobs := [], change := none }
  let s := { s with tags := s.tags.filter (fun g => g.1 / 2 ^ 40 != k), grants := s.grants.filter fun g => g.key / 2 ^ 40 != k }
  beginCues (makePhasers s k) k none o
/-- What a pre-empted gang had saved is dropped, and its pages of the context area are free (R57, R94): a region as at its placement, with no block. -/
def dropImage (i : Image) : Image :=
  let g := i.snap.region
  let r : Region := {
    placed := g.placed, part := g.part, scene := g.scene, gslot := g.gslot, lc := g.lc, voice := g.voice, px := g.px, py := g.py, pw := g.pw, ph := g.ph
    hdr := g.hdr, opuse := g.opuse, fenced := g.fenced, runNo := g.runNo, count := g.count }
  { i with run := none, copyRun := none, copier := none, chorus := none, records := [], more := false, pages := [], words := 0
           snap := { i.snap with region := r, elems := [] }, thread := { i.thread with running := false, wait := .none } }
/-- Blocks of a scene are discarded, no understudy fires, and its cues wait for nothing (R57, R402). -/
def haltScene (s : State) (k : Nat) : State :=
  let s := (s.runs.filter fun r => r.2.scene == k).foldl (fun s r => discardBlock s (r.1 / 8) (r.1 % 8)) s
  { s with
    cues := s.cues.map fun p => if p.2.scene = k then
      (p.1, { p.2 with st := .idle, understudyDue := none, startTick := 0, deadTick := 0, period := 0, drained := false }) else p
    images := s.images.map fun i => if i.snap.region.scene = k then dropImage i else i }
/-- A running scene stops: its phasers go, its job and stop jobs complete, a pending change fails (R57, R61, R418). Its job completes in success whatever
stops it, a failed recovery, a retrain's timeout or a function-level reset too (DESIGN CHOICE, log 58). A mark of recovery stays for the next run (R83). -/
def stopScene (s : State) (k : Nat) : State :=
  let x := getScene s k
  let s := dropPhasers (haltScene s k) k
  let s := setScene s k { x with running := false, job := none, stopAt := none, stopJobs := [], change := none, stopTick := some (ticks s) }
  let s := jobsEnd (jobsEnd s x.job.toList 0) x.stopJobs 0
  let s := match x.change with
    | some (_, _, some j) => jobEnd s j 0x0C4
    | _ => s
  powerRecalc s
/-- SCENE_STOP (R58): at a SCENE point, or at the end of the period of a scene that has none. -/
def execSceneStop (s : State) : Out := .next (if (getScene s s.cur.ix).running then stopScene s s.cur.ix else s)

/-! ## Re-placement (R41, R81, R83) -/

/-- Cues of a (logical core, voice) pair move to another core as one run of indices, with their states; what waits for them moves too. -/
def moveCues (s : State) (k gslot lc voice old new : Nat) : Option State :=
  let mine := (coreCues s old).filter fun p => p.2.scene == k && qGslot p.2 == gslot && p.2.lc == lc && p.2.voice == voice
  (lowestRun ((coreCues s new).map (·.1)) mine.length).map fun b =>
    let newIx (i : Nat) : Nat := match mine.findIdx? (·.1 == i) with
      | some n => b + n
      | none => i
    let here (i : Nat) : Bool := mine.any (·.1 == i)
    let s := mine.foldl (fun s p => setCue (setCue s (1024 * old + p.1) default) (1024 * new + newIx p.1) p.2) s
    let actMoved (a : Act) : Act := match a with
      | .row i c => if (i = .understudyFire ∨ i = .cueStart ∨ i = .slackExpiry ∨ i = .deadlineExpiry) ∧ c.core = old ∧ here c.ix = true
          then .row i { c with core := new, ix := newIx c.ix } else a
      | a => a
    let runMoved (r : Run) : Run := { r with cue := newIx r.cue }
    { s with
      agenda := s.agenda.map fun d => { d with act := actMoved d.act }
      todo := s.todo.map actMoved
      images := s.images.map fun i => if i.snap.region.scene = k ∧ i.snap.region.gslot = gslot ∧ i.lc = lc ∧ i.voice = voice then
        { i with run := i.run.map runMoved, copyRun := i.copyRun.map runMoved } else i }
/-- A core that a scene comes to takes its TID entries as they stand on the core they come from, with their residency bits (R91). -/
def copyTids (s : State) (x : Scene) (old new : Nat) : State :=
  x.tids.foldl (fun s r =>
    let o := tidKey old x.part r.1
    let n := tidKey new x.part r.1
    let s := (List.range 4).foldl (fun s i => setTidWord s new x.part r.1 i (w64 (tidWord s old x.part r.1 i))) s
    let bits_ := (s.resid.filter fun b => b / 4096 == o).map fun b => 4096 * n + b % 4096
    { s with tidFrom := tput s.tidFrom 0 n (tget s.tidFrom 0 o)
             resid := bits_.foldl nins (s.resid.filter fun b => b / 4096 != n) }) s
/-- Every core of a chorus gang has a release buffer (R99, R386). -/
def voicesHold (s : State) (g : Gang) : Bool := g.chor == 0 || g.words.all fun w => 1 ≤ relGran (pw s w.core)
/-- A gang stands on the cores of its new words: cues, TID entries, images and pinned pages follow the pairs that moved. -/
def moveGang (s : State) (k gslot : Nat) (new : Gang) : Option State :=
  let x := getScene s k
  if !voicesHold s new then none else
  let old := (x.gangs[gslot]?).getD new
  let before := sceneCores s k
  let s := mapGang s k gslot fun _ => new
  let x := getScene s k
  let pairs := (old.words.zip new.words).foldl (fun l p =>
    if p.1.core = p.2.core ∨ (l.any fun q => q.1.lc == p.1.lc && q.1.voice == p.1.voice) = true then l else l ++ [p]) []
  pairs.foldlM (fun s p => do
    let s ← moveCues s k gslot p.1.lc p.1.voice p.1.core p.2.core
    let s := if before.contains p.2.core then s else copyTids s x p.1.core p.2.core
    let s ← pinPages s x [dieOf p.2.core]
    let s ← writeVars s x k p.2.core (placedCues x)
    let left := (sceneCores s k).contains p.1.core
    some (if left then s else { s with cfgImages := s.cfgImages.filter fun e => !(e.1 == p.1.core && e.2.1 == k) })) s

/-- A word that recovery re-places: its core's mask has changed since its placement, or its voice's core is excluded (R83, R392). -/
def wordStale (s : State) (g : Gang) (w : Placement) : Bool :=
  capMask s w.core != w.cap || (g.chor != 0 && (getCore s w.core).excl)
/-- Re-place a gang of a scene, or say which word found no core. -/
def replaceGang (s : State) (k gslot : Nat) : Except Nat State :=
  let x := getScene s k
  match x.gangs[gslot]? with
  | none => .ok s
  | some g =>
    let g := { g with recover := false, heldSince := ticks s }
    if !g.resident then .ok (mapGang s k gslot fun _ => g)
    else
      let stale := (wordOrder g).filter fun w => g.words.any fun u => u.lc == w.2.lc && u.voice == w.2.voice && wordStale s g u
      let kept := (wordOrder g).filter fun w => !stale.any (·.1 == w.1)
      let s := stale.foldl (fun s w => putRegion s w.2.core w.2.slot {}) s
      match placeWords s x k gslot g stale (kept.map (·.2)) with
      | .error i => .error i
      | .ok (s, l) => match moveGang s k gslot (withWords g l) with
        | none => .error 0
        | some s => .ok s
/-- Re-place every gang of a scene that is marked (R83); if one finds no place, the scene stops with 0x0C4. -/
def recoverScene (s : State) (k : Nat) : State × Bool :=
  let x := getScene s k
  let marked := x.gangs.zipIdx.filter fun g => g.1.recover || (g.1.resident && g.1.words.any (wordStale s g.1))
  let s := setScene s k { x with recover := false }
  marked.foldl (fun (a : State × Bool) g =>
    if !a.2 then a
    else match replaceGang a.1 k g.2 with
      | .ok s => (s, true)
      | .error i =>
        let core := ((g.1.words.head?).map (·.core)).getD 0
        (queueWith a.1 core x.part { cause := 0x0C4, eng := 6, fatal := false, i0 := 10, i1 := i, i2 := g.2 } 0 0xFFF 0 g.1.id, false)) (s, true)
/-- RECOVERY_REPLACEMENT (R83): made in one step at the SCENE point, so that no cue falls due before it completes (DESIGN CHOICE, log 59). -/
def execRecovery (s : State) : Out :=
  let k := s.cur.ix
  .next (if !(getScene s k).running then s
    else match recoverScene s k with
      | (s, true) => s
      | (s, false) => stopScene s k)

/-- A refused change is reported to the supervisor of its partition: a record on the lowest core that holds a region of it (R65, R358; the core is DEDUCED,
log 31). -/
def changeRefused (s : State) (part : Nat) : State :=
  let core := ((s.regions.find? fun p => p.2.placed && p.2.part == part).map (·.1 / 4)).getD 0
  queueWith s core part { cause := 0x0C4, eng := 6, fatal := false } 0 0xFFF 0 0
/-- SCENE_CHANGE (R57): the running scene stops and the named one starts at this tick, re-placed first if it is marked (R94). -/
def execSceneChange (s : State) : Out :=
  let k := s.cur.ix
  let x := getScene s k
  .next (match x.change with
    | none => s
    | some (k', _, job) =>
      let s := stopScene (setScene s k { x with change := none }) k
      let y := getScene s k'
      if !(y.live && y.loaded) || y.running || s.launches.any fun l => l.2.scene == k' then jobsEnd (changeRefused s x.part) job.toList 0x0C4
      else
        let args := (job.map fun j => jArgs (getJob s j)).getD []
        match if y.recover then recoverScene s k' else (s, true) with
        | (s, false) => jobsEnd s job.toList 0x0C4
        | (s, true) => jobsEnd (beginScene s k' (ticks s) args none) job.toList 0)

/-! ## Admission (R56 to R64, R93) -/

/-- The admitted job of a stream: a meaning takes it and its number, and says whether the record stays pending no longer. -/
def admitted (s : State) (kind : Nat) (f : Job → Nat → State) : Out :=
  let n := s.cur.ix
  .next (match (getStream s n).pending with
    | none => s
    | some j => if jKind (getJob s j) ≠ kind ∨ stopped s (getJob s j).fn = true then s else f (getJob s j) j)
/-- The loaded scene of a partition with an ID. -/
def sceneById (s : State) (part id : Nat) : Option Nat :=
  (s.scenes.find? fun x => x.2.live && x.2.loaded && !x.2.unloading && x.2.part == part && x.2.id == id).map (·.1)
/-- A launch of a scene is in progress. -/
def launching (s : State) (k : Nat) : Bool := s.launches.any fun l => l.2.scene == k

/-- START_SCENE (R56, R62) -/
def execStartScene (s : State) : Out :=
  admitted s 0 fun b j =>
    match sceneById s b.fn (jScene b) with
    | none => reject s s.cur.ix j
    | some k =>
      let x := getScene s k
      if x.running || launching s k || (sceneRtc x && !s.tb.locked) then reject s s.cur.ix j
      else unpend (beginScene s k (ticks s) (jArgs b) (some j)) s.cur.ix

/-- The gang slots of loaded scenes of a partition that a gang ID names. -/
def gangsById (s : State) (part id : Nat) : List (Nat × Nat) :=
  s.scenes.flatMap fun x =>
    if x.2.live && x.2.loaded && !x.2.unloading && x.2.part == part then
      (x.2.gangs.zipIdx.filter fun g => g.1.id == id).map fun g => (x.1, g.2)
    else []
/-- LAUNCH_GANG (R62, R93). Of two loaded scenes whose gangs have the named ID, the first whose gang is free is launched (DESIGN CHOICE, log 75). -/
def execLaunchGang (s : State) : Out :=
  admitted s 1 fun b j =>
    let free (p : Nat × Nat) : Bool := !(getScene s p.1).running && !s.launches.any fun l => l.2.scene == p.1 && l.2.gslot == p.2
    match (gangsById s b.fn (jGang b)).find? free with
    | none => reject s s.cur.ix j
    | some (k, g) =>
      if sceneRtc (getScene s k) && !s.tb.locked then reject s s.cur.ix j
      else
        let l : Launch := ⟨k, g, ticks s, jArgs b, j⟩
        let s1 := if launching s k then s else makePhasers { s with
          tags := s.tags.filter (fun t => t.1 / 2 ^ 40 != k), grants := s.grants.filter fun t => t.key / 2 ^ 40 != k } k
        let s1 := beginCues { s1 with launches := s1.launches ++ [(j, l)] } k (some g) (ticks s)
        unpend s1 s.cur.ix
/-- GANG_LAUNCH_COMPLETE: the phasers go with the last launch of the scene (R93). -/
def execGangLaunchComplete (s : State) : Out :=
  .next (match lookup s.launches s.cur.ix with
    | none => s
    | some l =>
      let s := { s with launches := s.launches.filter fun x => x.1 != s.cur.ix }
      let s := if launching s l.scene then s else dropPhasers s l.scene
      jobEnd s l.job 0)

/-- The launches of a scene end, with what runs of them (R412): their jobs complete as that of a scene that stops does (DESIGN CHOICE, log 58). -/
def stopLaunches (s : State) (k : Nat) : State :=
  let js := (s.launches.filter fun l => l.2.scene == k).map (·.1)
  let s := dropPhasers (haltScene { s with launches := s.launches.filter fun l => l.2.scene != k } k) k
  jobsEnd s js 0
/-- The running scene of a partition that a change request addresses: the first that is not the one it names, if several run (DESIGN CHOICE, log 71). -/
def runningScene (s : State) (part k : Nat) : Option Nat :=
  let r := s.scenes.filter fun x => x.2.live && x.2.running && x.2.part == part
  match r.find? (·.1 != k) with
  | some x => some x.1
  | none => (r.head?).map (·.1)
/-- A change request is recorded at this tick; it replaces one that waits (R57). -/
def requestChange (s : State) (run k : Nat) (job : Option Nat) : State :=
  let x := getScene s run
  let s := match x.change with
    | some (_, _, some j) => jobEnd s j 0x0C4
    | _ => s
  setScene s run { getScene s run with change := some (k, ticks s, job) }
/-- CHANGE_SCENE (R57, R62): a partition with no running scene refuses it with 0x0C4 (DESIGN CHOICE, log 71). -/
def execChangeScene (s : State) : Out :=
  admitted s 2 fun b j =>
    match sceneById s b.fn (jScene b) with
    | none => reject s s.cur.ix j
    | some k => match runningScene s b.fn k with
      | none => unpend (jobEnd (changeRefused s b.fn) j 0x0C4) s.cur.ix
      | some r => unpend (requestChange s r k (some j)) s.cur.ix

/-- STOP_SCENE (R58): of a loaded scene that does not run, the job completes at once in success (DESIGN CHOICE, log 72). -/
def execStopScene (s : State) : Out :=
  admitted s 3 fun b j =>
    match sceneById s b.fn (jScene b) with
    | none => reject s s.cur.ix j
    | some k =>
      let x := getScene s k
      if !x.running then unpend (jobEnd s j 0) s.cur.ix
      else
        let p := periodOf x
        let pts := (sceneCues s k).any fun q => qScene q.2
        let stop := if pts then x.stopAt else some ((x.origin + (ago s x.origin / p + 1) * p) % 2 ^ 64)
        unpend (setScene s k { x with stopAt := stop, stopJobs := x.stopJobs ++ [j] }) s.cur.ix

/-- The lowest scene number not in use. -/
def newScene (s : State) : Nat := ((List.range (s.scenes.length + 1)).find? fun k => !(getScene s k).live).getD 0
/-- LOAD_SCENE (R62, R64): the load runs to its end while later records are admitted. -/
def execLoadScene (s : State) : Out :=
  admitted s 4 fun b j =>
    if !(getPart s b.fn).enable then reject s s.cur.ix j
    else
      let k := newScene s
      let s1 := setScene s k { live := true, part := b.fn, base := (b.words.getD 3 0).toNat, job := some j }
      unpend (schedule (drawn s1) .master (s.cycle + 1 + Config.freeNat s.free) (.row .sceneLoadComplete { ix := k })) s.cur.ix
/-- A failed load: the record in the function's fault ring, which counts among those of class 6 (R442), the job's status, and the scene gone. -/
def loadFails (s : State) (k j : Nat) (w : LoadWhy) : State :=
  let p := (getScene s k).part
  let y : Why := { cause := 0x0C4, eng := 6, fatal := true, i0 := w.1, i1 := w.2.1, i2 := w.2.2 }
  let r : Record := ⟨0x0C4, p, recWords y (recWord0 y false 0 p 0xFFF 0 0) (ticks s) 0 0⟩
  jobEnd (ringWrite { countTime s 0x0C4 with scenes := tdel s.scenes k } p r) j 0x0C4
/-- SCENE_LOAD_COMPLETE (R64): every step of the load, all or nothing. A job whose ARG0 is not a multiple of 64 is admitted, and its load fails as an image
with a wrong table entry does (DESIGN CHOICE, log 56). -/
def execSceneLoadComplete (s : State) : Out :=
  let k := s.cur.ix
  let x := getScene s k
  .next (match x.live && !x.loaded, x.job with
    | true, some j =>
      let cpl := isOverflow s x.part (jCpl (getJob s j)) && (getPart s x.part).rt
      match if x.base % 64 ≠ 0 ∨ cpl = true then (s, .error (12, 0, 0)) else readScene s x.part x.base with
      | (s, .error w) => loadFails s k j w
      | (s, .ok y) => match placeScene s k { y with base := x.base } with
        | .error w => loadFails s k j w
        | .ok s => jobEnd (powerRecalc s) j 0
    | _, _ => s)

/-- UNLOAD_SCENE (R62, R64) -/
def execUnloadScene (s : State) : Out :=
  admitted s 5 fun b j =>
    match sceneById s b.fn (jScene b) with
    | none => reject s s.cur.ix j
    | some k =>
      let x := getScene s k
      let named := s.scenes.any fun y => match y.2.change with
        | some (c, _, _) => c == k
        | none => false
      if x.running || launching s k || named then reject s s.cur.ix j
      else
        let s1 := setScene s k { x with unloading := true, job := some j }
        unpend (schedule (drawn s1) .master (s.cycle + 1 + Config.freeNat s.free) (.row .sceneUnloadComplete { ix := k })) s.cur.ix
/-- SCENE_UNLOAD_COMPLETE (R64) -/
def execSceneUnloadComplete (s : State) : Out :=
  let x := getScene s s.cur.ix
  .next (if x.live && x.unloading then jobsEnd (releaseScene s s.cur.ix) x.job.toList 0 else s)

end Sys2Proof.Machine
end

