-- ==== Sys2Proof/Machine/Timebase.lean ====
section
/-! DEFINITION. The timebase registers, the servo and its messages, and the PPS pins (R31 to R37, R436 to R438). -/

namespace Sys2Proof.Machine

/-- A scene of the partition is loaded. -/
def partLoaded (s : State) (p : Nat) : Bool := s.scenes.any fun x => x.2.live && x.2.loaded && x.2.part == p

/-! ## Registers (R32, R34, R36) -/

/-- INC is held in its range: a value outside stores the nearer bound (R32). A C-die whose module to the I-die is down goes on with the last INC (R411). -/
def setInc (s : State) (v : Nat) : State :=
  let alone := (List.range 4).filter fun d => moduleDown s (8 + d) && !s.tb.own.any (·.1 == d)
  { s with tb := { s.tb with
    inc := max 286302520 (min 286359786 (v % 2 ^ 32))
    own := s.tb.own ++ alone.map fun d => (d, s.tb.ticks, s.tb.frac, s.tb.inc) } }
/-- TBINC_WRITE -/
def execTbincWrite (s : State) : Out := .next (setInc s s.cur.val)

/-- HBEXP keeps its value for a write outside 4 to 10, and while any scene is loaded (R36). -/
def setHbexp (s : State) (v : Nat) : State :=
  let h := bits v 11 8
  if 4 ≤ h ∧ h ≤ 10 ∧ s.scenes.any (fun x => x.2.live && x.2.loaded) = false then { s with tb := { s.tb with hbexp := h } } else s
/-- TBCTL_WRITE -/
def execTbctlWrite (s : State) : Out := .next (setHbexp s s.cur.val)

/-- A step request of a signed number of ticks (R34): zero does nothing; it is refused while a real-time scene runs, else the
next heartbeat applies it, with those already waiting. -/
def requestStep (s : State) (v : Nat) : State :=
  let z := sx 64 v
  if z = 0 then s
  else if rtRunning s then devLog { s with tb := { s.tb with stepref := true } } 0x0C5 0 (v % 2 ^ 64)
  else { s with tb := { s.tb with stepPend := some (s.tb.stepPend.getD 0 + z) } }
/-- TBSTEP_WRITE -/
def execTbstepWrite (s : State) : Out := .next (requestStep s s.cur.val)

/-- A tick moved by a step, modulo 2^64 as TICKABS (R34). -/
def moved (z : Int) (n : Nat) : Nat := tr 64 ((n : Int) + z)
/-- A running best-effort scene. -/
def beRuns (s : State) (k : Nat) : Bool := (getScene s k).live && (getScene s k).running && !sceneRtc (getScene s k)
/-- A scene whose origin or launch origin moves with a step. -/
def movesWith (s : State) (k : Nat) : Bool :=
  beRuns s k || (s.launches.any (fun l => l.2.scene == k) && !sceneRtc (getScene s k))
/-- A run with its ticks moved. -/
def moveRun (z : Int) (r : Run) : Run :=
  { r with fire := moved z r.fire, deadline := moved z r.deadline, frozenAt := r.frozenAt.map (moved z) }

/-- A thread that waits for a tick from now on (R391). -/
def moveWait (z : Int) (t : Thread) : Thread :=
  match t.wait with
  | .restart n => { t with wait := .restart (moved z n) }
  | _ => t
/-- What a checkpoint or an image holds of a region, with its fire tick moved. -/
def moveSnap (z : Int) (x : RegionSnap) : RegionSnap := { x with region := { x.region with fireTick := moved z x.region.fireTick } }
/-- A voice's checkpoint with its ticks moved. -/
def moveVoice (z : Int) (v : Voice) : Voice := { v with ckThread := v.ckThread.map (moveWait z), ckRegions := v.ckRegions.map (moveSnap z) }
/-- The compare state of a chorus with its ticks moved. -/
def moveHome (z : Int) (h : Home) : Home :=
  { h with points := h.points.map fun p => { p with first := moved z p.first }, leadFire := h.leadFire.map (moved z) }
/-- STEP_APPLY (R34): TICKABS takes the step, and the origin of every running best-effort scene moves by the same number of ticks,
with its cues, blocks and stops; what is measured in ticks from now keeps its length. A step that was accepted before a real-time scene was admitted is
applied all the same, and that scene's origin does not move (DESIGN CHOICE, log 67). -/
def execStepApply (s : State) : Out :=
  .next (match s.tb.stepPend with
  | none => s
  | some z =>
    let be (k : Nat) : Bool := movesWith s k
    let regionBe (g : Region) : Bool := be g.scene
    { s with
      tb := { s.tb with ticks := tr 64 ((s.tb.ticks : Int) + z), stepPend := none, own := s.tb.own.map fun o => (o.1, tr 64 ((o.2.1 : Int) + z), o.2.2) }
      scenes := s.scenes.map fun x => if be x.1 then
        (x.1, { x.2 with origin := moved z x.2.origin, stopAt := x.2.stopAt.map (moved z), stopTick := x.2.stopTick.map (moved z)
                         gangs := x.2.gangs.map fun g => { g with heldSince := moved z g.heldSince, freezeTick := moved z g.freezeTick } }) else x
      launches := s.launches.map fun x => if be x.2.scene then (x.1, { x.2 with origin := moved z x.2.origin }) else x
      cues := s.cues.map fun x => if be x.2.scene then
        (x.1, { x.2 with startTick := moved z x.2.startTick, deadTick := moved z x.2.deadTick, elig := moved z x.2.elig
                         understudyDue := x.2.understudyDue.map (moved z) }) else x
      runs := s.runs.map fun x => if be x.2.scene then (x.1, moveRun z x.2) else x
      images := s.images.map fun i => { i with
        freezeTick := moved z i.freezeTick, run := i.run.map (moveRun z), copyRun := i.copyRun.map (moveRun z), thread := moveWait z i.thread
        snap := moveSnap z i.snap, chorus := i.chorus.map (moveVoice z) }
      voices := s.voices.map fun x => (x.1, match runOf s (x.1 / 4) (x.1 % 4) with
        | some r => if be r.scene then moveVoice z x.2 else x.2
        | none => x.2)
      threads := s.threads.map fun x => (x.1, moveWait z x.2)
      regions := s.regions.map fun x => if regionBe x.2 then (x.1, { x.2 with fireTick := moved z x.2.fireTick }) else x
      agenda := s.agenda.map fun d => if d.clk = .tick then { d with tm := ((d.tm : Int) + z).toNat } else d
      links := s.links.map fun x => (x.1, (moved z x.2.1, if x.2.2 = 0 then 0 else moved z x.2.2))
      homes := s.homes.map fun x => (x.1, if be (homeScene x.1) then moveHome z x.2
        else { x.2 with points := x.2.points.map fun p => { p with first := moved z p.first } })
      parts := s.parts.map fun x => (x.1, { x.2 with flrStart := x.2.flrStart.map (moved z) })
      mgmt := { s.mgmt with wdStart := moved z s.mgmt.wdStart } })

/-! ## PTP (R35, R436, R437) -/

/-- A timeout of a message starts anew; its length is a number of message intervals, which the manual does not give in ticks. -/
def restartTimeout (s : State) (i : Instr) : State :=
  let s := { s with agenda := s.agenda.filter fun d => d.act != .row i {} }
  schedule (drawn s) .tick (ticks s + 1 + Config.freeNat s.free) (.row i {})
/-- The servo has measured an offset in nanoseconds: INC takes a value of its range, and sixteen consecutive offsets of at most
100 ns establish lock, which ends holdover. -/
def servo (s : State) (off : Int) : State :=
  let good := -100 ≤ off && off ≤ 100
  let n := if good then min 16 (s.tb.goodSyncs + 1) else 0
  let s := setInc (drawn s) (286302520 + Config.freeNat s.free % 57267)
  let s := { s with tb := { s.tb with goodSyncs := n } }
  if n = 16 ∧ s.tb.locked = false then
    let s := { s with tb := { s.tb with locked := true, holdover := false } }
    if s.mgmt.stage = 5 then soon s (.row .bootStage { ix := 6, flag := true }) else s
  else s
/-- The hardware timestamp of a frame that arrives in this cycle, and of one that leaves: TIMENS, corrected by the PHY's latency constants (R436). -/
def rxStamp (s : State) : Int := timeNs s - s.tb.phyRx
def txStamp (s : State) : Int := timeNs s + s.tb.phyTx
/-- A frame of the profile is of domain 0; one of another domain is discarded (R436). -/
def inDomain (s : State) (f : State) : Out := .next (if s.cur.ix = 0 then f else s)
/-- PTP_SYNC_MESSAGE: a one-step Sync carries its origin time, in nanoseconds with its correction; a two-step one waits, with its timestamp, for its
Follow_Up. The offset is what the timestamp differs from the origin time and the path delay by. -/
def execPtpSync (s : State) : Out :=
  let s' := restartTimeout s .syncTimeout
  inDomain s (if s.cur.flag then { s' with tb := { s'.tb with pendSync := true, syncTs := rxStamp s } }
    else servo { s' with tb := { s'.tb with pendSync := false } } (rxStamp s - s.cur.int - s.tb.pathDelay))
/-- PTP_FOLLOW_UP_MESSAGE: it carries the origin time of the Sync that waits. -/
def execPtpFollowUp (s : State) : Out :=
  inDomain s (if s.tb.pendSync then servo { s with tb := { s.tb with pendSync := false } } (s.tb.syncTs - s.cur.int - s.tb.pathDelay) else s)
/-- PTP_PDELAY_MESSAGE: the device's request leaves (flag set), or its answer arrives, which carries the time that the other side held it: the path delay is half
of what remains of the round trip. -/
def execPtpPdelay (s : State) : Out :=
  inDomain s { s with tb := if s.cur.flag then { s.tb with pdelayTs := txStamp s }
    else { s.tb with pathDelay := (rxStamp s - s.tb.pdelayTs - s.cur.int) / 2 } }
/-- PTP_ANNOUNCE_MESSAGE -/
def execPtpAnnounce (s : State) : Out := inDomain s (restartTimeout s .announceTimeout)
/-- NON_PTP_FRAME: discarded. -/
def execNonPtpFrame (s : State) : Out := .next s

/-- Lock is lost (R35, R437): the counter goes on with the last INC, and 0x0C8 is sent to the management controller. -/
def loseLock (s : State) : State :=
  let s := { s with tb := { s.tb with goodSyncs := 0, pendSync := false } }
  if s.tb.locked then devLog { s with tb := { s.tb with locked := false, holdover := true } } 0x0C8 0 0 else s
/-- SYNC_RECEIPT_TIMEOUT -/
def execSyncTimeout (s : State) : Out := .next (loseLock s)
/-- ANNOUNCE_RECEIPT_TIMEOUT -/
def execAnnounceTimeout (s : State) : Out :=
  .next (loseLock { s with agenda := s.agenda.filter fun d => d.act != .row .announceTimeout {} })

/-! ## PPS (R438) -/

/-- PPS_OUT_RISE: from stage 6 onward, for 100 ms. -/
def execPpsRise (s : State) : Out :=
  .next (if s.mgmt.stage < 6 then s
    else schedule { s with tb := { s.tb with ppsHigh := true } } .tick (ticks s + 10000000) (.row .ppsFall {}))
/-- PPS_OUT_FALL -/
def execPpsFall (s : State) : Out := .next { s with tb := { s.tb with ppsHigh := false } }
/-- PPS_IN_EDGE: it does not discipline the timebase. -/
def execPpsIn (s : State) : Out := .next { s with tb := { s.tb with ppsIn := w64 (timeNs s) } }

end Sys2Proof.Machine
end

