-- ==== Sys2Proof/Machine/Manage.lean ====
section
/-! DEFINITION. Registers of the management controller and of the two ports, and the mailbox: what a write of each does, and what a read
gives (R6, R36, R68, R98, R101, R106, R116, R120, R403, R417, R424, R429, R430, R433 to R435, R442, R446). -/

namespace Sys2Proof.Machine

/-! ## Partitions and translation (R68, R98, R116, R435) -/

/-- PARTCFGn: not while partition n has a loaded scene. -/
def setPartcfg (s : State) (p v : Nat) : State :=
  if partLoaded s p then s
  else setPart s p { getPart s p with quant := bits v 15 8, enable := bit v 1, rt := bit v 0 }
/-- PARTCFG_WRITE -/
def execPartcfgWrite (s : State) : Out := .next (setPartcfg s s.cur.ix s.cur.val)

/-- A partition word is valid (R98). -/
def partwordOk (v : Nat) : Bool :=
  1 ≤ rfEnd v && spEnd v ≤ 127 && rfEnd v + spillGran v + relGran v ≤ spEnd v && v < 2 ^ 23
/-- PARTWORD_WRITE (R97, R98): not while any region is placed on the core; a word with SPGM1 other than 0 under SPTGT 0 or 3 is refused too (DESIGN
CHOICE, log 76). -/
def execPartwordWrite (s : State) : Out :=
  let c := s.cur.core
  let v := s.cur.val
  let placed := (List.range 4).any fun sl => (getReg s (thKey c sl)).placed
  let spgm1 := (spTgt v == 1 || spTgt v == 2) || bits v 20 19 == 0
  .next (if placed || !partwordOk v || !spgm1 then s else setCore s c { getCore s c with partword := BitVec.ofNat 32 v })

/-- PTROOTn: not while partition n has a loaded scene. -/
def setPtroot (s : State) (p v : Nat) : State :=
  if partLoaded s p then s else setPart s p { getPart s p with root := bits v 47 12, rootEn := bit v 0 }
/-- PTROOT_WRITE -/
def execPtrootWrite (s : State) : Out := .next (setPtroot s s.cur.ix s.cur.val)

/-- CTXn: as PTROOTn. -/
def setCtx (s : State) (p v : Nat) : State :=
  if partLoaded s p then s else setPart s p { getPart s p with ctxBase := bits v 47 21, ctxSize := bits v 7 0 }
/-- CTX_WRITE -/
def execCtxWrite (s : State) : Out := .next (setCtx s s.cur.ix s.cur.val)

/-- The translations that an invalidation names are gone from every TLB, pinned ones too: of a page, of a partition, or all (R116). -/
def dropPinned (s : State) (mode part vpn : Nat) : State :=
  let named (e : Nat × Nat × Nat × Nat) : Bool := match mode with
    | 0 => e.1 / 4 == part && e.2.1 ≤ vpn * 4096 && vpn * 4096 < e.2.1 + 2 ^ e.2.2.1
    | 1 => e.1 / 4 == part
    | _ => true
  let hit (x : Xlat) : Bool := match mode with
    | 0 => !x.host && x.part == part && x.va ≤ vpn * 4096 && vpn * 4096 < x.va + 2 ^ x.log2
    | 1 => x.part == part
    | _ => true
  let less (t : Tab (List Xlat)) : Tab (List Xlat) := t.filterMap fun c =>
    let l := c.2.filter fun x => !hit x
    if l.isEmpty then none else some (c.1, l)
  { s with pinned := s.pinned.filter (fun e => !named e), coreTlb := less s.coreTlb, dieTlb := less s.dieTlb }
/-- The invalidation in progress has ended. -/
def endTlbinv (s : State) : State :=
  if s.mgmt.tlbBusy then
    let s := dropPinned s s.mgmt.tlbMode s.mgmt.tlbPart s.mgmt.tlbVpn
    { s with mgmt := { s.mgmt with tlbBusy := false, tlbMode := 3 } }
  else s
/-- An invalidation starts; one that is in progress ends first. Its length is not given (DESIGN CHOICE, log 8). -/
def startTlbinv (s : State) (mode part vpn : Nat) : State :=
  let s := endTlbinv s
  let s := { s with
    agenda := s.agenda.filter fun d => d.act != .row .tlbinvComplete {}
    mgmt := { s.mgmt with tlbBusy := true, tlbMode := mode, tlbPart := part, tlbVpn := vpn } }
  schedule (drawn s) .master (s.cycle + 1 + Config.freeNat s.free) (.row .tlbinvComplete {})
/-- TLBINV_ONE_PAGE -/
def execTlbinvPage (s : State) : Out := .next (startTlbinv s 0 s.cur.ix s.cur.val)
/-- TLBINV_PARTITION -/
def execTlbinvPartition (s : State) : Out := .next (startTlbinv s 1 s.cur.ix 0)
/-- TLBINV_ALL -/
def execTlbinvAll (s : State) : Out := .next (startTlbinv s 2 0 0)
/-- TLBINV_COMPLETE -/
def execTlbinvComplete (s : State) : Out := .next (endTlbinv s)
/-- A write of TLBINV as a register. -/
def setTlbinv (s : State) (v : Nat) : State :=
  if bits v 1 0 = 3 then s else startTlbinv s (bits v 1 0) (bits v 11 8) (bits v 63 12)

/-! ## Owners, caravan, allotments (R101, R106, R120, R434) -/

/-- Owner of an entry in the layout of R101. -/
def ownerOf (e : Nat) : Option Nat := if bit e 7 then some (e % 16) else none
/-- An owner entry of a pool granule: not while a region of the old or the new owner is placed on the core. -/
def setPoolOwner (s : State) (core g v : Nat) : State :=
  let old := ownerOf (tget (getCore s core).owners 0 g).toNat
  let holds (o : Option Nat) : Bool := match o with
    | none => false
    | some p => (List.range 4).any fun sl => let r := getReg s (thKey core sl); r.placed && r.part == p
  if 128 ≤ g ∨ (holds old || holds (ownerOf v)) = true then s
  else setCore s core { getCore s core with owners := tput (getCore s core).owners 0 g (BitVec.ofNat 8 (v &&& 0x8F)) }
/-- POOL_OWNER_WRITE -/
def execPoolOwnerWrite (s : State) : Out := .next (setPoolOwner s s.cur.core s.cur.ix s.cur.val)

/-- An owner entry of a die buffer's granule: not while the old or the new owner has a loaded scene. -/
def setDieOwner (s : State) (die g v : Nat) : State :=
  let old := ownerOf (tget s.dieOwners 0 (256 * die + g)).toNat
  let loaded (o : Option Nat) : Bool := (o.map (partLoaded s)).getD false
  if 256 ≤ g ∨ (loaded old || loaded (ownerOf v)) = true then s
  else { s with dieOwners := tput s.dieOwners 0 (256 * die + g) (BitVec.ofNat 8 (v &&& 0x8F)) }
/-- DIE_BUFFER_OWNER_WRITE -/
def execDieOwnerWrite (s : State) : Out := .next (setDieOwner s s.cur.core s.cur.ix s.cur.val)

/-- A map entry names a reservation that a loaded scene names; RID 0 owns no slot. -/
def slotInUse (s : State) (e : Nat) : Bool := bit e 15 && e % 256 != 0 && ridNamed s (e % 256)
/-- A caravan map entry; its REF bit is read only. -/
def setSlot (s : State) (ch j v : Nat) : State :=
  if slotInUse s (tget s.slots 0 (256 * ch + j)).toNat || slotInUse s v then s
  else { s with slots := tput s.slots 0 (256 * ch + j) (BitVec.ofNat 16 (v &&& 0x80FF)) }
/-- CARAVAN_MAP_WRITE -/
def execCaravanMapWrite (s : State) : Out := .next (setSlot s s.cur.core s.cur.ix s.cur.val)
/-- A caravan map entry as read: REF is 1 in the refresh slots (R119). -/
def slotRead (s : State) (ch j : Nat) : Nat := (tget s.slots 0 (256 * ch + j)).toNat + (if j % 32 = 31 then 0x4000 else 0)

/-- A reservation table entry: not while a loaded scene names the reservation. -/
def setResv (s : State) (r v : Nat) : State :=
  if ridNamed s r then s else { s with resv := tput s.resv 0 r (BitVec.ofNat 16 (v &&& 0x800F)) }
/-- RESERVATION_TABLE_WRITE -/
def execReservationWrite (s : State) : Out := .next (setResv s s.cur.ix s.cur.val)

/-- The allotments of a partition on a die are acceptable (R434). -/
def allotOk (s : State) (part die a b : Nat) : Bool :=
  let base := bits a 29 16
  let cnt := bits a 14 0
  let meets (p : Nat) : Bool :=
    let o := (tget s.sync 0 (8 * p + 2 * die)).toNat
    p != part && bits o 14 0 != 0 && cnt != 0 && base < bits o 29 16 + bits o 14 0 && bits o 29 16 < base + cnt
  base + cnt ≤ 16384 && bits b 47 12 * 4096 + 32 * (bits a 47 32 + bits b 63 48) ≤ dramSize s
    && !(List.range 16).any meets
/-- SYNCS or SYNCO of a partition on a die. -/
def setAllot (s : State) (part die : Nat) (o : Bool) (v : Nat) : State :=
  let k := 8 * part + 2 * die
  let v' := if o then v - v % 4096 else v &&& 0x0000FFFF3FFF7FFF
  let a := if o then (tget s.sync 0 k).toNat else v'
  let b := if o then v' else (tget s.sync 0 (k + 1)).toNat
  if partLoaded s part || !allotOk s part die a b then s
  else { s with sync := tput s.sync 0 (if o then k + 1 else k) (BitVec.ofNat 64 v') }
/-- SYNC_ALLOTMENT_WRITE -/
def execSyncAllotWrite (s : State) : Out := .next (setAllot s s.cur.ix s.cur.core s.cur.flag s.cur.val)

/-! ## Device special registers (R6, R36, R183) -/

/-- A write of a device special register by the management controller: RW fields by their rules, W1C bits, RO fields ignored. -/
def srStore (s : State) (x v : Nat) : State :=
  if x = 0x400 then setInc s v
  else if x = 0x401 then setHbexp s v
  else if x = 0x402 then requestStep s v
  else if x = 0x403 then (if bit v 3 then { s with tb := { s.tb with stepref := false } } else s)
  else if 0x410 ≤ x ∧ x ≤ 0x41F then setPartcfg s (x - 0x410) v
  else if 0x420 ≤ x ∧ x ≤ 0x42F then setPtroot s (x - 0x420) v
  else if x = 0x430 then setTlbinv s v
  else if x = 0x450 then setPwrcap s v
  else if x = 0x451 then (if bit v 0 then { s with mgmt := { s.mgmt with capinf := false } } else s)
  else if x = 0x452 then setThrcfg s v
  else if x = 0x454 then { s with mgmt := { s.mgmt with saveBase := bits v 47 21, saveEn := bit v 0 } }
  else if 0x480 ≤ x ∧ x ≤ 0x4FF then setAllot s ((x - 0x480) / 8) ((x - 0x480) % 8 / 2) (x % 2 == 1) v
  else if 0x500 ≤ x ∧ x ≤ 0x50F then setCtx s (x - 0x500) v
  else s

/-! ## The mailbox (R114, R433) -/

/-- What an address of the mailbox names. -/
inductive Box where
  | mem (addr : Nat)
  | sram (die off : Nat)
  | special (x : Nat)
  | poolOwner (core g : Nat)
  | dieOwner (die g : Nat)
  | slot (ch j : Nat)
  | resv (r : Nat)
  | nothing
deriving DecidableEq, Repr
/-- The 8 bytes that an access at an address reads or writes start at its multiple of 8. -/
def boxOf (s : State) (addr : Nat) : Box :=
  let a := addr / 8 * 8
  let r := a - Config.regBase
  if a < dramSize s ∨ (Config.dieBase ≤ a ∧ a < Config.dieBase + 4 * 0x04000000) ∨ (Config.poolBase ≤ a ∧ a < Config.poolBase + 64 * 0x800000) then .mem a
  else if Config.syncBase ≤ a ∧ a < Config.syncBase + 4 * 0x200000 then .sram ((a - Config.syncBase) / 0x200000) ((a - Config.syncBase) % 0x200000)
  else if a < Config.regBase then .nothing
  else if r < 0x8000 ∧ 0x400 ≤ r / 8 ∧ srAssigned (r / 8) = true then .special (r / 8)
  else if 0x10000 ≤ r ∧ r < 0x14000 ∧ r % 0x100 < 128 then .poolOwner (bits r 13 8) (r % 0x100)
  else if 0x20000 ≤ r ∧ r < 0x21000 ∧ r % 0x400 < 256 then .dieOwner (bits r 11 10) (r % 0x400)
  else if 0x40000 ≤ r ∧ r < 0x42000 then .slot (bits r 12 9) (r % 0x200 / 2)
  else if 0x60000 ≤ r ∧ r < 0x60200 then .resv (r % 0x200 / 2)
  else .nothing
/-- The core in whose pool a device address lies. -/
def poolCore (a : Nat) : Option Nat := (poolOf ⟨.dev, a⟩).map (·.1)
/-- Entries of n bytes that a word holds, by f. -/
def packed (n : Nat) (f : Nat → Nat) : Nat := (List.range (8 / n)).foldl (fun w i => w + f i * 2 ^ (8 * n * i)) 0
/-- A word of a sync engine's SRAM (R208): the objects of its slots, 16 bytes each, then their digest references, 8 bytes each; the layout of the rest is the
device's own: a word there reads as it was last written, and else has no value here (DESIGN CHOICE, log 77). -/
def sramRead (s : State) (die off : Nat) : Nat :=
  if off < 0x40000 then
    let o := tget s.objs default (16384 * die + off / 16)
    if off % 16 < 8 then o.count.toNat else o.status.toNat
  else if off < 0x60000 then ((tget s.objs default (16384 * die + (off - 0x40000) / 8)).ref.getD 0).toNat
  else ((lookup s.syncRaw (0x200000 * die + off)).getD (Config.freeW64 s.free)).toNat
/-- The same word written. -/
def sramWrite (s : State) (die off v : Nat) : State :=
  if off < 0x40000 then
    let n := 16384 * die + off / 16
    let o := tget s.objs default n
    { s with objs := tput s.objs default n (if off % 16 < 8 then { o with count := w64 v } else { o with status := w64 v }) }
  else if off < 0x60000 then
    let n := 16384 * die + (off - 0x40000) / 8
    { s with objs := tput s.objs default n { tget s.objs default n with ref := if v = 0 then none else some (w64 v) } }
  else { s with syncRaw := tins s.syncRaw (0x200000 * die + off) (w64 v) }
/-- A read: the value, or none where the address is unpopulated; in a pool the shares hold the resident windows (R100). -/
def boxRead (s : State) (addr : Nat) : Option Nat :=
  match boxOf s addr with
  | .mem a => some (leNat (rdMem (((poolCore a).map (rfView s)).getD s) ⟨.dev, a⟩ 8))
  | .sram d o => some (sramRead s d o)
  | .special x => some (devRead s x)
  | .poolOwner c g => some (packed 1 fun i => (tget (getCore s c).owners 0 (g + i)).toNat)
  | .dieOwner d g => some (packed 1 fun i => (tget s.dieOwners 0 (256 * d + g + i)).toNat)
  | .slot ch j => some (packed 2 fun i => slotRead s ch (j + i))
  | .resv r => some (packed 2 fun i => (tget s.resv 0 (r + i)).toNat)
  | .nothing => none
/-- A write: each entry that the 8 bytes cover keeps its own rule. -/
def boxWrite (s : State) (addr v : Nat) : Option State :=
  let each (n : Nat) (f : State → Nat → Nat → State) : State :=
    (List.range (8 / n)).foldl (fun s i => f s i (v / 2 ^ (8 * n * i) % 2 ^ (8 * n))) s
  match boxOf s addr with
  | .mem a => some (match poolCore a with
    | some c => rfBack (wrMem (rfView s c) ⟨.dev, a⟩ (leBytes 8 v)) c
    | none => wrMem s ⟨.dev, a⟩ (leBytes 8 v))
  | .sram d o => some (sramWrite s d o v)
  | .special x => some (srStore s x v)
  | .poolOwner c g => some (each 1 fun s i e => setPoolOwner s c (g + i) e)
  | .dieOwner d g => some (each 1 fun s i e => setDieOwner s d (g + i) e)
  | .slot ch j => some (each 2 fun s i e => setSlot s ch (j + i) e)
  | .resv r => some (each 2 fun s i e => setResv s (r + i) e)
  | .nothing => none
/-- What an access of the mailbox to memory meets by its check bits (R439): a write covers a part of a block, which it reads first. -/
def boxEcc (s : State) (addr : Nat) : State × Bool :=
  match boxOf s addr with
  | .mem a => eccLog s ⟨.dev, a⟩ 8 0
  | _ => (s, true)
/-- An ended command. -/
def boxDone (s : State) (fail : Bool) : State := { s with mgmt := { s.mgmt with mbbusy := false, mbfail := fail } }
/-- MAILBOX_READ: an uncorrectable error sets FAIL, as an unpopulated address does (DEDUCED, log 49). -/
def execMailboxRead (s : State) : Out :=
  .next (match boxEcc s s.mgmt.mbaddr with
    | (s, false) => boxDone s true
    | (s, true) => match boxRead s s.mgmt.mbaddr with
      | none => boxDone s true
      | some v => boxDone { drawn s with mgmt := { s.mgmt with mbdata := w64 v } } false)
/-- MAILBOX_WRITE -/
def execMailboxWrite (s : State) : Out :=
  .next (match boxEcc s s.mgmt.mbaddr with
    | (s, false) => boxDone s true
    | (s, true) => match boxWrite s s.mgmt.mbaddr s.mgmt.mbdata.toNat with
      | none => boxDone s true
      | some s => boxDone s false)

/-! ## BAR0 of the port A functions, and port B's (R429 to R431, R442, R446) -/

/-- LOG2N as a write stores it. -/
def clampLog (v : Nat) : Nat := max 4 (min 12 (v % 32))
/-- A function's reset is in progress. -/
def inFlr (s : State) (fn : Nat) : Bool := (getPart s fn).flrStart.isSome
/-- A doorbell write (R430): where more records are outstanding than the ring holds, the stream stops at once. -/
def setWridx (s : State) (n v : Nat) : State :=
  if inFlr s (n / 4) then s
  else
    let s := setStream s n { getStream s n with wridx := v % 2 ^ 32 }
    if overfull (getStream s n) then streamError s n else kick s n
/-- WRIDX_WRITE -/
def execWridxWrite (s : State) : Out := .next (setWridx s s.cur.ix s.cur.val)
/-- A write of RCTL: LOG2N only while EN is 0; EN rising sets RDIDX to WRIDX and clears ERR (R430). -/
def setRctl (s : State) (n v : Nat) : State :=
  let t := getStream s n
  if inFlr s (n / 4) then s
  else
    let t := if t.en then t else { t with log2n := clampLog v }
    let t := if !t.en && bit v 30 then { t with rdidx := t.wridx, err := false } else t
    kick (setStream s n { t with en := bit v 30 }) n
/-- RCTL_WRITE -/
def execRctlWrite (s : State) : Out := .next (setRctl s s.cur.ix s.cur.val)

/-- A write of a stream register at an offset of its block. -/
def streamStore (s : State) (n off v : Nat) : State :=
  let t := getStream s n
  match off with
  | 0x00 => if t.en then s else setStream s n { t with rbase := w64 (bits v 47 6 * 64) }
  | 0x08 => setRctl s n v
  | 0x10 => setWridx s n v
  | 0x20 => if t.en then s else setStream s n { t with cmaddr := w64 (v - v % 16) }
  | _ => s
/-- A write of a register of a function's BAR0. -/
def barStore (s : State) (fn off v : Nat) : State :=
  let g := getRing s fn
  if inFlr s fn || (s.mgmt.numVfs < fn || (fn != 0 && s.mgmt.stage < 5)) then s
  else if off < 0x100 then (if s.mgmt.stage < 5 then s else streamStore s (4 * fn + off / 0x40) (off % 0x40) v)
  else match off with
    | 0x200 => setRing s fn { g with base := w64 (v - v % 64) }
    | 0x208 => setRing s fn { g with ovf := g.ovf && !bit v 31, en := bit v 30, log2n := clampLog v }
    | 0x218 => setRing s fn { g with rd := v % 2 ^ 32 }
    | 0x1000 => if fn = 0 then { s with mgmt := { s.mgmt with mbaddr := v % 2 ^ 48 } } else s
    | 0x1008 => if fn = 0 then { s with mgmt := { s.mgmt with mbdata := w64 v } } else s
    | 0x1010 =>
      if fn ≠ 0 ∨ s.mgmt.mbbusy = true ∨ v % 4 = 0 ∨ v % 4 = 3 then s
      else
        let act : Instr := if v % 4 = 1 then .mailboxRead else .mailboxWrite
        schedule (drawn { s with mgmt := { s.mgmt with mbbusy := true, mbfail := false } }) .master (s.cycle + 1 + Config.freeNat s.free) (.row act {})
    | _ => s
/-- A register of a function's BAR0 as the host reads it. -/
def barRead (s : State) (fn off : Nat) : Nat :=
  let g := getRing s fn
  let m := s.mgmt
  if off < 0x100 then
    let t := getStream s (4 * fn + off / 0x40)
    match off % 0x40 with
    | 0x00 => t.rbase.toNat
    | 0x08 => b2n t.err * 2 ^ 31 + b2n t.en * 2 ^ 30 + t.log2n
    | 0x10 => t.wridx
    | 0x18 => t.rdidx
    | 0x20 => t.cmaddr.toNat
    | _ => 0
  else match off with
    | 0x200 => g.base.toNat
    | 0x208 => b2n g.ovf * 2 ^ 31 + b2n g.en * 2 ^ 30 + g.log2n
    | 0x210 => g.wr
    | 0x218 => g.rd
    | 0x1000 => if fn = 0 then m.mbaddr else 0
    | 0x1008 => if fn = 0 then m.mbdata.toNat else 0
    | 0x1010 => if fn = 0 then b2n m.mbbusy * 2 ^ 31 + b2n m.mbfail * 2 ^ 30 else 0
    | 0x2000 => if fn = 0 then m.bootCode * 65536 + m.failStg * 256 + m.stage else 0
    | _ => 0

/-- A request of port B (R57, R442): recorded at the tick of its arrival, or refused. -/
def portRequest (s : State) (v : Nat) : State :=
  let p := bits v 51 48
  match sceneById s p (bits v 15 0) with
  | none => changeRefused s p
  | some k => match runningScene s p k with
    | none => changeRefused s p
    | some r => requestChange s r k none
/-- SCREQ_WRITE -/
def execScreqWrite (s : State) : Out := .next (portRequest s s.cur.val)
/-- The watchdog's period starts anew. -/
def kickWatchdog (s : State) : State := { s with mgmt := { s.mgmt with wdStart := ticks s } }
/-- WDKICK_WRITE -/
def execWdkickWrite (s : State) : Out := .next (kickWatchdog s)
/-- WATCHDOG_EXPIRY (R442) -/
def execWatchdogExpiry (s : State) : Out :=
  let m := s.mgmt
  .next (if m.wdTimeout = 0 ∨ since s m.wdStart < m.wdTimeout then s
    else devLog { s with mgmt := { m with faultN := true, wdTimeout := 0 } } 0x171 (3 * 64) 0)
/-- A write of a register of port B. -/
def portBStore (s : State) (off v : Nat) : State :=
  match off with
  | 0x00 => portRequest s v
  | 0x08 => kickWatchdog { s with mgmt := { s.mgmt with wdTimeout := v % 2 ^ 32 } }
  | 0x10 => kickWatchdog s
  | _ => s
/-- A register of port B as read. -/
def portBRead (s : State) (off : Nat) : Nat :=
  match off with
  | 0x08 => s.mgmt.wdTimeout
  | 0x18 => b2n s.mgmt.faultN * 2 ^ 18 + tripLevel s * 65536 + s.mgmt.timef
  | _ => 0

/-- VF Enable in bit 0 and NumVFs from bit 16 on: the functions that exist beside the physical one, at most TotalVFs (R428). -/
def setVfs (s : State) (v : Nat) : State :=
  { s with mgmt := { s.mgmt with numVfs := if bit v 0 && decide (5 ≤ s.mgmt.stage) then min Config.totalVfs (bits v 31 16) else 0 } }
/-- Registers of the physical function's configuration space that the manual gives (R427, R428): VF Enable with NumVFs, TotalVFs and the VF stride, Device
Capabilities 2 and Device Control 2. -/
def confRead (s : State) (x : Nat) : Nat :=
  match x with
  | 0 => b2n (0 < s.mgmt.numVfs) + s.mgmt.numVfs * 2 ^ 16
  | 1 => Config.totalVfs + Config.vfStride * 2 ^ 16
  | 2 => Config.devCap2
  | 3 => Config.devCtl2
  | _ => 0
/-- REGISTER_WRITE (R6): a special register of the management controller, or one of BAR0; port B's, from stage 5 on; at 0x200000
VF Enable with NumVFs of the physical function. Device Control 2 keeps its value (R427). -/
def execRegisterWrite (s : State) : Out :=
  let x := s.cur.ix
  let v := s.cur.val
  .next (if x < 0x10000 then srStore s x v
    else if x < 0x50000 then barStore s ((x - 0x10000) / 0x4000) (x % 0x4000) v
    else if x = 0x200000 then setVfs s v
    else if 0x100000 ≤ x ∧ x < 0x101000 ∧ s.mgmt.portB.isSome = true then portBStore s (x - 0x100000) v
    else s)

end Sys2Proof.Machine
end

