-- ==== Sys2Proof/Machine/Contain.lean ====
section
/-! DEFINITION. Containment: function-level reset, fencing of channels and capabilities, and die-link retrain (R83, R143, R377 to R379, R401 to
R404, R409 to R413, R446). -/

namespace Sys2Proof.Machine

/-! ## Function-level reset (R401 to R404) -/

/-- Requests of a partition anywhere in the package: accesses on their way, at the caravans, and at the sync engines. -/
def partRequests (s : State) (p : Nat) : Nat :=
  (s.reqs.filter fun q => q.part == p && !q.done).length + (s.dram.filter fun a => a.part == p && a.req.isNone).length
    + (s.syncQ.filter fun q => syncPart s q == p).length

/-- INITIATE_FUNCTION_LEVEL_RESET (R401): of the physical function, of every function. Step 1 follows at the next tick boundary. -/
def execInitiateFlr (s : State) : Out :=
  let one (s : State) (p : Nat) : State :=
    if (getPart s p).flrStart.isSome then s
    else schedule (setPart s p { getPart s p with flrStart := some (ticks s) }) .tick (ticks s + 1) (.row .flrStop { ix := p })
  .next (if s.cur.ix = 0 then
      if (getPart s 0).flrStart.isSome then s
      else { (List.range 16).foldl one s with mgmt := { s.mgmt with numVfs := 0 } }
    else one s s.cur.ix)

/-- A stream's record that is not yet admitted is dropped, and so are those of a device queue. -/
def dropRecords (s : State) (n : Nat) : State :=
  let t := getStream s n
  let s := match t.pending with
    | none => s
    | some j => { s with jobs := tdel s.jobs j }
  setStream s n { t with pending := none }
/-- A scene of a partition stops in a reset or a save: its launches end, and what runs of it is discarded. -/
def cutScene (s : State) (k : Nat) : State :=
  let x := getScene s k
  let s := (s.launches.filter fun l => l.2.scene == k).foldl (fun s l => { s with jobs := tdel s.jobs l.1 }) s
  let s := { s with launches := s.launches.filter fun l => l.2.scene != k }
  if x.running then stopScene s k
  else if x.loaded then dropPhasers (haltScene s k) k
  else s
/-- Scenes of a partition. -/
def sceneKeys (s : State) (p : Nat) : List Nat := (s.scenes.filter fun x => x.2.live && x.2.part == p).map (·.1)

/-- FLR_STOP (R402): step 1, and the commands cancelled; the requests that this discards count as drained. -/
def execFlrStop (s : State) : Out :=
  let p := s.cur.ix
  .next (if (getPart s p).flrStart.isNone then s
    else
      let n0 := partRequests s p
      let s := devLogP s 0x168 (3 * 64 + p) 0 p 0
      let s := [4 * p, 4 * p + 1, 4 * p + 2, 4 * p + 3, 64 + p].foldl dropRecords s
      let s := (sceneKeys s p).foldl cutScene s
      let s := { s with scenes := s.scenes.filter fun x => !(x.2.live && x.2.part == p && !x.2.loaded) }
      let n1 := partRequests s p
      let s := setPart s p { getPart s p with
        devQueue := [], flrState := 1, flrDrained := min 65535 (n0 - n1), flrLeft := n1, flrTicks := 0, transPending := true }
      schedule s .master (s.cycle + 1) (.row .flrDrainEnd { ix := p }))

/-- FLR_DRAIN_END (R402): the drain goes on until no request of the partition remains; then the scrub begins. Its length is not given, but
the reset's bound is (R401). During a save the reset never completes (R426). -/
def execFlrDrainEnd (s : State) : Out :=
  let p := s.cur.ix
  let b := getPart s p
  let n := partRequests s p
  .next (match (if s.mgmt.saving.isSome then none else b.flrStart) with
    | none => s
    | some t =>
      if b.flrState ≠ 1 then s
      else
        let b := { b with flrDrained := min 65535 (b.flrDrained + (b.flrLeft - n)), flrLeft := n }
        if n ≠ 0 then schedule (setPart s p b) .master (s.cycle + 1) (.row .flrDrainEnd { ix := p })
        else
          let last := max (ticks s + 1) (t + Config.flrLimit)
          schedule (drawn (setPart s p { b with flrState := 2 })) .tick (min (ticks s + 1 + Config.freeNat s.free) last) (.row .flrComplete { ix := p }))

/-- Bytes of a memory outside some ranges (start, length). -/
def zeroRanges (m : List Host.Cell) (l : List (Nat × Nat)) : List Host.Cell :=
  m.filter fun c => !l.any fun r => r.1 ≤ c.1 && c.1 < r.1 + r.2
/-- Ranges of the pools and die buffers that a partition owns, and of its overflow areas (R402 step 3). -/
def ownedRanges (s : State) (p : Nat) : List (Nat × Nat) :=
  (s.cores.flatMap fun c => (c.2.owners.filter fun g => ownerOf g.2.toNat == some p).map fun g => (poolAddr c.1 (g.1 * 65536), 65536))
  ++ (s.dieOwners.filter fun g => ownerOf g.2.toNat == some p).map fun g =>
      (Config.dieBase + g.1 / 256 * 0x04000000 + g.1 % 256 * 262144, 262144)
/-- Overflow areas of a partition's allotments. -/
def overflowRanges (s : State) (p : Nat) : List (Nat × Nat) :=
  (List.range 4).map fun d =>
    let a := (tget s.sync 0 (8 * p + 2 * d)).toNat
    let b := (tget s.sync 0 (8 * p + 2 * d + 1)).toNat
    (bits b 47 12 * 4096, 32 * (bits a 47 32 + bits b 63 48))
/-- An SRAM object slot belongs to a partition. -/
def ownsSlot (s : State) (p n : Nat) : Bool :=
  let a := (tget s.sync 0 (8 * p + 2 * (n / 16384))).toNat
  bits a 29 16 ≤ n % 16384 && n % 16384 < bits a 29 16 + bits a 14 0
/-- Step 3 of R402: what a partition holds anywhere becomes zero. Its scenes are gone with their tables. -/
def scrub (s0 : State) (p : Nat) : State :=
  let s := (List.range 64).foldl (fun s c => flushFor s c p) s0
  let s := { s with mem := zeroRanges s.mem (ownedRanges s p ++ overflowRanges s p) }
  let s := (sceneKeys s p).foldl releaseScene s
  let s := dropPinned s 1 p 0
  { s with
    threads := s.threads.map fun t => (t.1, { t.2 with shadow := t.2.shadow.filter fun w => tget t.2.shadowPart 0 w.1 != p + 1 })
    tids := s.tids.filter fun t => t.1 / 1024 % 16 != p
    tidFrom := s.tidFrom.filter fun t => t.1 / 256 % 16 != p
    resid := s.resid.filter fun r => r / 2 ^ 20 % 16 != p
    cues := s.cues.filter fun c => c.2.part != p
    objs := s.objs.filter fun o => !ownsSlot s p o.1
    objWaiters := s.objWaiters.filter fun w => w.1 / 2 ^ 28 != p
    queues := s.queues.filter fun q => q.1 % 16 != p
    queueMore := s.queueMore.filter fun q => q % 16 != p
    images := s.images.filter fun i => i.part != p
    cores := s.cores.map fun c => (c.1, { c.2 with guards := c.2.guards.filter fun g => g.2.2.1 != p }) }
/-- FLR_COMPLETE (R402 to R404, R446): the scrub has ended, 0x169 is logged, and the function's streams and ring are at reset. -/
def execFlrComplete (s : State) : Out :=
  let p := s.cur.ix
  let b := getPart s p
  .next (match (if s.mgmt.saving.isSome then none else b.flrStart) with
    | none => s
    | some t =>
      if b.flrState ≠ 2 then s
      else
        let s := devLog (scrub s p) 0x169 (3 * 64 + p) 0
        let s := { s with
          streams := s.streams.filter fun x => !(x.1 / 4 == p || x.1 == 64 + p)
          rings := tdel s.rings p }
        setPart s p { getPart s p with
          devQueue := [], flrState := 3, flrStart := none, flrTicks := min (2 ^ 32 - 1) (ago s (t + 1)), transPending := false })

/-! ## Fencing (R83, R143, R378, R379) -/

/-- Bits of a core's capability mask are cleared in service: every fencing is logged, and the scenes that use the core are marked. -/
def clearCaps (s : State) (core m : Nat) : State :=
  let new := m &&& capMask s core
  if new = 0 then s
  else
    let c := getCore s core
    let s := setCore s core { c with capClr := c.capClr ||| w64 new }
    let s := devLogOn s core 0x172 (dieOf core * 64 + core) (capMask s core)
    let uses (g : Gang) : Bool := g.words.any (·.core == core)
    { s with scenes := s.scenes.map fun x =>
        if x.2.live && x.2.loaded && x.2.gangs.any uses then
          (x.1, { x.2 with recover := true, gangs := x.2.gangs.map fun g => if uses g then { g with recover := true } else g })
        else x }
/-- CAPABILITY_MASK_CLEAR -/
def execCapClear (s : State) : Out := .next (clearCaps s s.cur.core s.cur.val)
/-- CHANNEL_FENCE (R379): the unit's count has reached RESTHR. The first unit of a core to reach it is fenced; after it another one clears ACHK. -/
def execChannelFence (s : State) : Out :=
  let core := s.cur.core
  let i := s.cur.ix
  let m := capMask s core
  let second := (List.range 5).any fun j => j != i && !bit m (32 + j) && s.mgmt.resthr ≤ tget (getCore s core).resK0 0 j
  .next (if tget (getCore s core).resK0 0 i < s.mgmt.resthr ∨ 5 ≤ i ∨ bit m (32 + i) = false then s
    else clearCaps s core (if second then 2 ^ 30 else 2 ^ (32 + i)))

/-! ## Die-link retrain (R409 to R412) -/

/-- INFO0 of a module's record: the C-die it joins. -/
def moduleInfo (m : Nat) : Nat := (if m < 8 then m / 2 else m - 8) * 64 + m
/-- 0x166, queued for every partition whose loaded scene crosses the module. -/
def logRetrain (s : State) (m len : Nat) : State :=
  ((List.range 16).filter fun p => partCrosses s p m).foldl (fun s p =>
    let core := ((s.regions.find? fun g => g.2.placed && g.2.part == p).map (·.1 / 4)).getD 0
    queueWith s core p { cause := 0x166, eng := 7, fatal := false, i0 := moduleInfo m, i1 := len } 0 0xFFF 0 0)
    (devLog s 0x166 (moduleInfo m) len)
/-- A module retrains at present. -/
def retrains (s : State) (m : Nat) : Bool := (tget s.links (0, 1) m).2 == 0
/-- RETRAIN_START (R410) -/
def execRetrainStart (s : State) : Out :=
  let m := s.cur.ix
  .next (if 12 ≤ m ∨ retrains s m = true ∨ s.linksOut.contains m = true then s
    else schedule { s with links := tput s.links (0, 1) m (ticks s, 0) } .tick (ticks s + Config.retrainLimit + 1) (.row .retrainTimeout { ix := m }))
/-- A module's retrain has ended; admissions that waited for it are made at the next tick boundary. -/
def endRetrain (s : State) (m : Nat) : State :=
  { s with
    links := tput s.links (0, 1) m ((tget s.links (0, 1) m).1, ticks s)
    agenda := s.agenda.filter fun d => d.act != .row .retrainTimeout { ix := m } }
/-- The C-die behind a module has the device's timebase again (R411). -/
def realign (s : State) (m : Nat) : State := { s with tb := { s.tb with own := s.tb.own.filter fun o => o.1 + 8 != m } }
/-- RETRAIN_END (R411, R412) -/
def execRetrainEnd (s : State) : Out :=
  let m := s.cur.ix
  .next (if retrains s m then logRetrain (realign (endRetrain s m) m) m (ago s (tget s.links (0, 1) m).1) else s)
/-- RETRAIN_TIMEOUT (R412): the module is out of service and carries nothing any more, and every scene whose reservations cross it stops with 0x0C4, with the
launches of its gangs. -/
def execRetrainTimeout (s : State) : Out :=
  let m := s.cur.ix
  .next (if !retrains s m then s
    else
      let s := logRetrain (endRetrain s m) m 0
      let s := { s with linksOut := nins s.linksOut m }
      let ks := (s.scenes.filter fun x => x.2.live && (x.2.running || launching s x.1) && crosses s x.1 m).map (·.1)
      ks.foldl (fun s k =>
        let p := (getScene s k).part
        let core := ((sceneCores s k).head?).getD 0
        let s := queueWith s core p { cause := 0x0C4, eng := 6, fatal := true } 0 0xFFF 0 0
        if (getScene s k).running then stopScene s k else stopLaunches s k) s)

end Sys2Proof.Machine
end

