-- ==== Sys2Proof/Machine/Readout.lean ====
section
/-! DEFINITION. State readout: what of a region is live, the words of a context image and of its parts, and the state spaces of STATERD
(R88, R261, R374, R375, R386, R396). -/

namespace Sys2Proof.Machine

/-! ## Live state (R72, R88) -/

def hLivePg (h : Nat) : Nat := bits h 31 16
def hLiveQ (h : Nat) : Nat := bits h 15 8
def hLiveX (h : Nat) : Nat := bits h 7 0
/-- Live pages of a header, ascending. -/
def livePages (h : Nat) : List Nat := (List.range 16).filter fun p => bit (hLivePg h) p
/-- Region page index of an element's key. -/
def pageOf (key : Nat) : Nat := 4 * (key % 256 / 64) + key % 16 / 4
/-- Key within a region of element e of a page. -/
def elemIn (page e : Nat) : Nat := 16 * (4 * (page / 4) + e / 4) + (4 * (page % 4) + e % 4)

/-- What of an element is live under a header; the rest is zero, but for the generator, which holds 1 as after a placement (R149). -/
def liveElem (h : Nat) (e : Elem) : Elem :=
  let x := hLiveX h
  let q := e.q.filter fun p => bit (hLiveQ h) (p.1 / 4)
  let e0 : Elem := { q := q, gen := if bit x 6 then e.gen else 1 }
  let e1 := if bit x 5 then
      { e0 with lnN := e.lnN, lnE := e.lnE, lnS := e.lnS, lnW := e.lnW, port := e.port, last := e.last, pipe := e.pipe, nxt := e.nxt } else e0
  if bit x 4 then
    { e1 with fifo := e.fifo, qmK := e.qmK, qmG := e.qmG, qmNf := e.qmNf, qxEs := e.qxEs, qxLatched := e.qxLatched } else e1
/-- The page of the element that holds a stored weight: an element holds a block of the format that its slot was loaded under (R305, R306). -/
def weightPage (g : Region) (key : Nat) : Nat :=
  let f := aFmt (tget g.wFmt 0 (key / 65536) - 1)
  pageOf (16 * (key % 65536 / 256 / f.kb) + key % 256 / f.nb)
/-- What of a region is live: its control state always, with the constants of its live pages; weight slots, bypass, its binding and the array format, and
the vote log, under their bits (R72, R88, R321). -/
def liveRegion (g : Region) : Region :=
  let x := hLiveX g.hdr.toNat
  let live (p : Nat) : Bool := bit (hLivePg g.hdr.toNat) p
  let g0 := { g with con := g.con.filter fun e => live (e.1 / 128) }
  let g1 := if bit x 7 then
      { g0 with weights := g0.weights.filter fun e => live (weightPage g e.1), wIndex := g0.wIndex.filter fun e => live (weightPage g e.1) }
    else { g0 with fmt := none, fmtNext := none, wFmt := [], wActive := 0, weights := [], wIndex := [], wScale := []
                   bypTo := none, bypFmt := 0, bypKl := 0, byp := [], bypRows := 0 }
  let g2 := if bit x 3 then g1 else { g1 with votes := [], voteNext := 0, voteOvf := 0 }
  { g2 with preload := none, passes := [], clear := [], stalls := [], faults := [] }
/-- The live state of a slot's region, by element keys within the region. A load's data that has come back is held as its result. -/
def snapOf (s : State) (core slot : Nat) : RegionSnap :=
  let k := thKey core slot
  let g := getReg s k
  let h := g.hdr.toNat
  let settle (f : Flight) : Flight := match f.req with
    | none => f
    | some id => match s.reqs.find? (·.id == id) with
      | none => { f with req := none }
      | some q => { f with req := none, tok := portData q }
  let mine := s.elems.filter fun p => p.1 / 256 == k && bit (hLivePg h) (pageOf p.1)
  ⟨slot, liveRegion g, mine.map fun p => (p.1 % 256, liveElem h { p.2 with pipe := p.2.pipe.map settle })⟩

/-! ## Words of a region (R375) -/

/-- Two 32-bit values in a word. -/
def twoWords (a b : Nat) : W64 := w64 (a + b * 2 ^ 32)
/-- A token as a word. -/
def tokWord (t : Token) : W64 := w64 (t.data.toNat + b2n t.pred * 2 ^ 32)
/-- The present period and slot of a region's II counter: zero where it does not run. -/
def iiPos (g : Region) : Nat × Nat := (regionPos g).getD (0, 0)
/-- Control words of a live page. -/
def controlWords (g : Region) : List W64 :=
  let p := iiPos g
  [w64 (p.2 + rotBase p.1 * 2 ^ 8 + g.stageMask % 64 * 2 ^ 16 + p.1 % 2 ^ 32 * 2 ^ 32), w64 (g.trip % 2 ^ 32), 0, 0, 0, 0, 0, 0]
/-- The constants plane of a page. -/
def conWords (g : Region) (page : Nat) : List W64 :=
  (List.range 64).map fun i =>
    twoWords (tget g.con 0 (128 * page + 2 * i)).toNat (tget g.con 0 (128 * page + 2 * i + 1)).toNat
/-- A result in flight. -/
def flightWord (g : Region) (f : Flight) : W64 :=
  w64 (f.tok.data.toNat + b2n f.tok.pred * 2 ^ 32 + f.dst % 32 * 2 ^ 33 + (f.due - g.count) % 32 * 2 ^ 38 + 2 ^ 43)
/-- Opcode entries of an element. -/
def elemEntries (g : Region) (page e : Nat) : List Nat := (List.range 32).map fun k => tget g.opc 0 (512 * page + 32 * e + k)
/-- Depth of a DELAY entry, if it is one. -/
def delayDepth (w : Nat) : Option Nat := if w / 2 ^ 40 = 5 then some (w % 64 + 1) else none
/-- Chains that an element's QMAX and QMX entries name. -/
def chainsOf (ws : List Nat) : List Nat :=
  [1, 2, 3].filter fun c => ws.any fun w => (w / 2 ^ 40 == 0x68 || w / 2 ^ 40 == 0x6A) && bits w 7 6 == c
/-- Items of one element of a live page. -/
def elemWords (r : RegionSnap) (page e : Nat) : List W64 :=
  let g := r.region
  let h := g.hdr.toNat
  let x := hLiveX h
  let el := tget r.elems default (elemIn page e)
  let qs := ((List.range 32).filter fun i => bit (hLiveQ h) (i / 4)).map fun i => tokWord (tget el.q {} i)
  let ws := if bit x 7 then
      let l := (g.weights ++ g.wIndex).flatMap fun p => [p.1, p.2]
      (List.range 64).map fun i => Config.freeLayout l (64 * elemIn page e + i) else []
  let gs := if bit x 6 then [w64 el.gen.toNat] else []
  let ls := if bit x 5 then
      [el.lnN, el.lnE, el.lnS, el.lnW, el.port, el.last].map tokWord
      ++ (List.range 10).map fun i => ((el.pipe[i]?).map (flightWord g)).getD 0 else []
  let es := elemEntries g page e
  let fs := if bit x 4 then
      (es.zipIdx.flatMap fun p => match delayDepth p.1 with
        | none => []
        | some d => ((lookup el.fifo p.2).getD (List.replicate d {})).map tokWord)
      ++ ((chainsOf es).flatMap fun c =>
        [w64 (tget el.qmK 0 c + b2n (el.qmNf.contains c) * 64 + tget el.qmG 0 c * 2 ^ 32),
         w64 (tget el.qxEs 0 c + b2n (el.qxLatched.contains c) * 256)]) else []
  qs ++ ws ++ gs ++ ls ++ fs
/-- A live page. -/
def pageWords (r : RegionSnap) (page : Nat) : List W64 :=
  controlWords r.region ++ conWords r.region page ++ (List.range 16).flatMap fun e => elemWords r page e

/-- A vote log in the layout of space 0x05. -/
def voteWords (g : Region) : List W64 :=
  [w64 (g.voteOvf + g.voteNext * 2 ^ 16), 0] ++ (List.range 64).flatMap fun i => match g.votes[i]? with
    | none => [0, 0]
    | some v => [w64 (v.iter * 2 ^ 32 + v.id * 2 ^ 24 + v.row * 2 ^ 16 + v.col * 2 ^ 8 + v.slot * 8 + v.odd), w64 v.tick]
/-- A weight slot of a region is loaded. -/
def slotIn (g : Region) (i : Nat) : Bool := match g.fmt with
  | none => false
  | some f => tget g.wFmt 0 i == f + 1
/-- The region part, with the queue of records that it holds. -/
def regionPart (r : RegionSnap) (records : List Record) : List W64 :=
  let g := r.region
  let x := hLiveX g.hdr.toNat
  let w0 := g.fmt.getD 0 + b2n g.fmt.isSome * 16 + b2n (slotIn g 0) * 32 + b2n (slotIn g 1) * 64 + g.wActive % 2 * 128
    + b2n g.bypTo.isSome * 256 + g.bypTo.getD 0 % 4 * 512 + g.epSel.getD 0 % 2 ^ 32 * 2 ^ 32
  let scale (i : Nat) : W64 := w64 (leNat ((List.range 8).map fun b =>
    BitVec.ofNat 8 (tget g.wScale 0 (256 * (i / 8) + 8 * (i % 8) + b))))
  [w64 w0] ++ (List.range 16).map scale ++ [w64 records.length] ++ records.flatMap (·.words)
  ++ (if bit x 7 then (List.range 2048).map (Config.freeLayout (g.byp.flatMap fun p => [p.1, p.2])) else [])
  ++ (if bit x 3 then voteWords g else [])
/-- Pages and region part of a snapshot. -/
def snapWords (r : RegionSnap) (records : List Record) : List W64 :=
  (livePages r.region.hdr.toNat).flatMap (pageWords r) ++ regionPart r records

/-! ## Words of a thread, a copy engine and a voice (R375, R386, R396) -/

/-- The pending wait of a thread: its kind and operand; a wait at an engine counts from the sending of its request. -/
def waitWords (s : State) (t : Thread) : List W64 :=
  match t.wait with
  | .sync id =>
    match s.objWaiters.find? (·.2.id == id), s.phasers.findSome? (fun p => p.2.waiters.find? (·.id == id)) with
    | some w, _ => [2, w64 w.2.target]
    | none, some w => [1, w64 w.target]
    | none, none => match s.syncQ.find? (·.id == id) with
      | some q => if q.op = 3 ∨ q.op = 4 then [1, w64 q.val] else if q.op = 8 then [2, w64 q.val] else [0, 0]
      | none => [0, 0]
  | .tick n => [3, w64 n]
  | .cueTick n => [3, w64 n]
  | .fence a b c _ => [4, w64 (a * 1024 + b * 16 + c % 8 * 2)]
  | .fenceTrip a b _ => [4, w64 (a * 1024 + b * 16)]
  | .fenceSc _ _ => [4, 0]
  | .kwait sl => [5, w64 sl]
  | .ending => [6, 0]
  | _ => [0, 0]
/-- The thread part: 56 words. -/
def threadWords (s : State) (t : Thread) : List W64 :=
  [w64 t.pc, t.trappc, w64 (causeReg t), t.info0, t.info1, t.info2, t.info3, t.traptick, w64 (privOf t), t.vecbase, w64 t.depth]
  ++ (List.range 7).map (fun i => rdReg t (i + 1)) ++ (List.range 8).map (fun i => w64 (tget t.k 0 i).toNat)
  ++ (List.range 24).map (fun i => rdReg t (8 + i)) ++ waitWords s t ++ (List.range 4).map (fun i => tget t.shadow 0 i)

/-- A bank state's code. -/
def bankCode : BankSt → Nat
  | .idle => 0
  | .armed => 1
  | .kept => 2
  | .cancelled => 3
/-- Words of a journal entry (R374). -/
def journalWords (lc : Nat) (e : JEntry) : List W64 :=
  let x := copyEntOf (e.words.getD 0 0).toNat (e.words.getD 1 0).toNat (e.words.getD 2 0).toNat (e.words.getD 3 0).toNat
  let lcs := if x.rows = 0 then 2 ^ lc else (castLcs x).foldl (fun m l => m + 2 ^ l) 0
  [w64 (2 ^ 63 + b2n e.noticed * 2 ^ 62 + b2n e.sent * 2 ^ 61 + b2n e.discarded * 2 ^ 60 + e.bank * 2 ^ 56 + e.index % 1024 * 2 ^ 46),
   w64 lcs, w64 e.gen.toNat, w64 (e.bytes % 2 ^ 37)]
/-- The copy-engine part. -/
def copierWords (c : Copier) (lc : Nat) : List W64 :=
  [w64 (c.stage + bankCode c.bankA * 256 + bankCode c.bankB * 1024 + c.pos % 1024 * 4096 + c.journal.length % 64 * 2 ^ 22), w64 c.gen.toNat]
  ++ c.journal.flatMap (journalWords lc)

/-- Units of a voice in signature order: the thread's, then the slots' (R388). -/
def unitsInOrder (v : Voice) : List (List Nat) := (List.range 5).flatMap fun src => v.units.filter (·.headD 0 == src)
/-- CRC over the units. -/
def unitsCrc (v : Voice) : Nat :=
  (unitsInOrder v).foldl (fun c u =>
    crcWord (crcWord c (u.getD 1 0 * 2 ^ 56 + u.getD 2 0 * 2 ^ 48 + u.getD 3 0 % 2 ^ 48)) (u.getD 4 0)) 0
/-- AD: CRC over the atomic requests, 0 if there were none. -/
def atomsCrc (v : Voice) : Nat := v.atoms.foldl (fun c a => a.foldl crcWord c) 0
/-- The signature of a voice. -/
def signature (v : Voice) : W64 := w64 (crcWord (crcWord (unitsCrc v) v.units.length) (atomsCrc v))

/-- The words that a checkpoint holds after its header. -/
def ckWords (s : State) (v : Voice) : List W64 :=
  ((v.ckThread.map (threadWords s)).getD []) ++ v.ckRegions.flatMap fun r => snapWords r []
/-- The words of a voice's release buffer: its checkpoint, then the records since (R386). -/
def bufferWords (s : State) (v : Voice) : List W64 :=
  (match v.ckThread with
    | none => []
    | some _ => w64 (3 * 2 ^ 60 + (ckWords s v).length) :: ckWords s v) ++ v.recs.flatMap relWords
/-- The chorus part of a voice's image. -/
def chorusWords (s : State) (v : Voice) (h : Home) (chor voice : Nat) : List W64 :=
  [w64 (min v.matched 255 * 2 ^ 56 + chor * 2 ^ 54 + voice * 2 ^ 52 + h.voices.length * 2 ^ 49 + h.mismatches % 4 * 2 ^ 47),
   w64 (unitsCrc v), w64 v.units.length, w64 (atomsCrc v), w64 v.used] ++ bufferWords s v

/-! ## Context images (R375) -/

/-- The words of an image. -/
def imageWords (s : State) (i : Image) : List W64 :=
  let g := i.snap.region
  let run := match i.run with
    | some r => some r
    | none => i.copyRun
  let chor := ((gangOf s g.scene g.gslot).map (·.chor)).getD 0
  let rest := snapWords i.snap i.records ++ threadWords s i.thread
    ++ ((i.copier.map fun c => copierWords c i.lc).getD [])
    ++ ((i.chorus.map fun v =>
      chorusWords s v (getHome s ((i.run.map fun r => homeKey r i.slot).getD 0)) chor i.voice).getD [])
  let w0 := 2 ^ 48 + i.gang * 2 ^ 40 + i.part * 2 ^ 36 + i.lc * 2 ^ 30 + i.slot * 2 ^ 28 + i.voice * 2 ^ 26
    + b2n i.copier.isSome * 2 ^ 25 + b2n i.chorus.isSome * 2 ^ 24 + (8 + rest.length)
  let w4 := (run.map fun r => r.block * 2 ^ 52 + r.variant * 2 ^ 50 + r.cue * 2 ^ 40).getD 0
  [w64 w0, w64 i.freezeTick, w64 i.core, g.hdr, w64 w4, w64 ((run.map (·.deadline)).getD 0), 0, 0] ++ rest

/-! ## STATERD (R261, R374) -/

/-- A word of a state space of a thread's core and partition. -/
def stateWord (s : State) (core : Nat) (r : Run) (space i : Nat) : W64 :=
  let c := getCore s core
  match space with
  | 0 => let q := getCue s (1024 * core + i / 2)
         if 2048 ≤ i then 0 else if i % 2 = 0 then q.word0 else q.word1
  | 1 => if 1024 ≤ i then 0 else (getCue s (1024 * core + i)).occ
  | 2 => if 2 ^ 29 ≤ i then 0 else
         let o := getObj s (2 ^ 28 * r.part + i / 2)
         if i % 2 = 0 then w64 o.out else o.ref.getD 0
  | 3 => match runOf s core 4 with
         | none => 0
         | some x => if x.part ≠ r.part then 0 else
           (((getCopier s core).journal.find? (·.slot == i / 4)).map fun e => (journalWords x.lc e).getD (i % 4) 0).getD 0
  | 4 => match (c.guards.filter fun e => e.2.2.1 == r.part)[i / 2]? with
         | none => 0
         | some e => if i % 2 = 0 then w64 (e.1 * 2 ^ 60 + e.2.1 * 2 ^ 58 + e.2.2.1 * 2 ^ 54 + e.2.2.2.1) else w64 e.2.2.2.2
  | 5 => let g := getReg s (thKey core (i / 130))
         if 520 ≤ i ∨ g.placed = false ∨ g.part ≠ r.part then 0 else (voteWords g).getD (i % 130) 0
  | 6 => let p := getPh s (4096 * r.scene + i / 4)
         if 4 * 4095 ≤ i ∨ p.live = false then 0
         else match i % 4 with
           | 0 => w64 p.phase
           | 1 => w64 (p.pending % 2 ^ 36)
           | 2 => w64 (p.members.length % 512 + (p.members.filter (·.signalled)).length % 512 * 2 ^ 9 + b2n p.curt * 2 ^ 18
               + p.gslot * 2 ^ 19)
           | _ => 0
  | 7 => let mine (x : Image) : Bool :=
           x.part == r.part && x.gang == bits i 63 56 && x.lc == bits i 55 50 && x.slot == bits i 49 48
         match s.images.find? mine with
         | none => 0
         | some x => (imageWords s x).getD (bits i 31 0) 0
  | _ => if i < 10 then w64 (if i % 2 = 0 then tget c.resK0 0 (i / 2) else tget c.resK1 0 (i / 2))
         else if i = 10 then w64 c.resTick else if i = 11 then w64 c.resCause else 0

/-- STATERD: privileged; the result is there for the second slot (R219, R261). -/
def execStaterd (d a space : Nat) (s : State) : Out :=
  asSupervisor s (.staterd d a space) fun t r =>
    let v := stateWord s s.cur.core r space (rdReg t a).toNat
    putTh s (stall s 8 (advance (wrReg t d v)))

end Sys2Proof.Machine
end

