-- ==== Sys2Proof/Machine/Bring.lean ====
section
/-! DEFINITION. Ports, the host window and the coherency cache; the emergency save; power, cold reset, boot stages and the boundary scan (R2,
R27, R350, R351, R353, R378, R380, R421, R423 to R427, R433, R441, R443, R444, R446). -/

namespace Sys2Proof.Machine

/-! ## Ports (R427, R433, R351) -/

/-- CXL_LINK_DOWN: a port that is up goes down, and 0x170 is logged with its number. -/
def execCxlLinkDown (s : State) : Out :=
  .next (if s.cur.flag then
      if s.mgmt.portB.isNone then s else devLog { s with mgmt := { s.mgmt with portB := none } } 0x170 (3 * 64 + 1) 0
    else if s.mgmt.portA.isNone then s else devLog { s with mgmt := { s.mgmt with portA := none } } 0x170 (3 * 64) 0)
/-- A width and a rate that a port trains to (R427): x16 or x8 on port A, x4 or x2 on port B, at 64 or 32 GT/s. -/
def trains (portB : Bool) (width rate : Nat) : Bool :=
  (if portB then width == 4 || width == 2 else width == 16 || width == 8) && (rate == 64 || rate == 32)
/-- CXL_PORT_TRAINED: a width and rate change no device timing; a link does not train to any other. -/
def execCxlTrained (s : State) : Out :=
  .next (if !trains s.cur.flag s.cur.ix s.cur.val then s
    else if s.cur.flag then { s with mgmt := { s.mgmt with portB := some (s.cur.ix, s.cur.val) } }
    else { s with mgmt := { s.mgmt with portA := some (s.cur.ix, s.cur.val) } })

/-- HOST_WINDOW_ACCESS: installed DRAM, from stage 5 on; beyond it, or over an uncorrectable error, the access completes with poison: it
stores nothing, and a read gives no bytes. While the module to the die of its channel carries nothing, it waits (R410). -/
def execHostWindow (s : State) : Out :=
  let n := s.cur.data.length
  let p : Place := ⟨.dev, s.cur.ix⟩
  let poison : State := { s with cur := { s.cur with data := [] } }
  .next (if s.mgmt.stage < 5 ∨ s.mgmt.portA.isNone = true ∨ dramSize s < s.cur.ix + n then poison
    else if moduleDown s (8 + channelOf s.cur.ix / 4) then schedule s .master (s.cycle + 1) (.row .hostWindow s.cur)
    else
      let (s1, ok) := if s.cur.flag then eccStore s p n 0 else eccRead s p n 0 0
      if !ok then { s1 with cur := { s1.cur with data := [] } }
      else if s.cur.flag then eccFresh (wrMem s1 p s.cur.data) p n
      else { s1 with cur := { s1.cur with data := rdMem s1 p n } })

/-- CXL_CACHE_SNOOP: the safety processor's own read or write of its memory meets the lines that the device holds; a write takes them. -/
def execCxlSnoop (s : State) : Out :=
  let p : Place := ⟨.safety, s.cur.ix⟩
  let n := s.cur.data.length
  let lines := (List.range ((s.cur.ix % 64 + n + 63) / 64)).map (s.cur.ix / 64 + ·)
  .next (if s.cur.flag then
      { wrMem s p s.cur.data with cacheLines := s.cacheLines.filter fun l => !lines.contains l }
    else { s with cur := { s.cur with data := rdMem s p n } })

/-! ## Emergency save (R423 to R426) -/

/-- Bytes from the save area's base to the end of its last block (R424). -/
def saveSpan : Nat := 0x21001000
/-- Address of the save area. -/
def saveAddr (s : State) : Nat := s.mgmt.saveBase * 2 ^ 21
/-- The progress record. -/
def saveRecord (s : State) (tick cause done : Nat) : State :=
  eccFresh (wrMem s ⟨.dev, saveAddr s⟩ (([0x5256, tick, done, cause, 0, 0, 0, 0] : List Nat).flatMap (leBytes 8))) ⟨.dev, saveAddr s⟩ 64
/-- The device halts: no step follows but a cold boot. -/
def haltDevice (s0 : State) : State :=
  let s := flushRecords s0
  { s with mgmt := { s.mgmt with halted := true, saving := none }, todo := [], agenda := s.agenda.filter fun d => d.clk == .now }
/-- The scenes of every partition stop; journals are kept (R423). -/
def cutAll (s : State) : State :=
  let keep (e : JEntry) : JEntry := if e.performed then e else { e with discarded := true }
  let cs := s.copiers.map fun (c : Nat × Copier) => (c.1, { c.2 with journal := c.2.journal.map keep })
  let s1 : State := { s with copiers := cs, dram := s.dram.filter fun a => a.entry.isNone, runs := s.runs.filter fun r => r.1 % 8 != 4 }
  ((s.scenes.filter fun x => x.2.live).map (·.1)).foldl cutScene s1
/-- EMERGENCY_SAVE_START: FAULT_N and the cause; without a save area the halt is immediate. A save in progress goes on (R426). -/
def execSaveStart (s : State) : Out :=
  let cause := s.cur.ix
  .next (if s.mgmt.saving.isSome || s.mgmt.halted then s
    else
      let hot := (List.range 4).foldl (fun m d => if sx 8 (tget s.mgmt.tmax 0 m) < sx 8 (tget s.mgmt.tmax 0 d) then d else m) 0
      let s := if cause = 0x163 then devLog s cause (hot * 64) (tget s.mgmt.tmax 0 hot) else devLog s cause (3 * 64) 0
      let s := { s with mgmt := { s.mgmt with faultN := true } }
      let s := cutAll s
      if !s.mgmt.saveEn || dramSize s < saveAddr s + saveSpan then haltDevice s
      else
        let s := { s with mgmt := { s.mgmt with saving := some (ticks s - 1, cause, 0) } }
        schedule (drawn (saveRecord s (ticks s - 1) cause 0)) .master (s.cycle + 1 + Config.freeNat s.free) (.row .saveUnit {}))

/-- Offset in a die's block and size of a kind (R424). -/
def saveKind (k : Nat) : Nat × Nat :=
  match k with
  | 0 => (0, 384 * 1024)
  | 1 => (0x60000, 1664 * 1024)
  | 2 => (0x200000, 32 * 1024)
  | 3 => (0x208000, 2016 * 1024)
  | _ => (0x400000, 128 * 2 ^ 20)
/-- A range of a memory copied to another place. -/
def copyRange (m : List Host.Cell) (src dst n : Nat) : List Host.Cell :=
  let there := (m.filter fun c => src ≤ c.1 && c.1 < src + n).map fun c => (dst + (c.1 - src), c.2)
  there.foldl (fun m c => tput m 0 c.1 c.2) (zeroRanges m [(dst, n)])
/-- The compare state of a chorus as numbers. -/
def homeNums (h : Nat × Home) : List Nat :=
  [h.1, h.2.mismatches, h.2.voices.length] ++ h.2.voices ++ h.2.samples.flatMap (fun x => [x.1, x.2]) ++ h.2.sampleIx.flatMap (fun x => [x.1, x.2])
  ++ h.2.points.flatMap fun p => [p.no, p.first] ++ p.arrived.flatMap fun a => [a.1, a.2.toNat]
/-- What a unit of kinds 0 to 3 holds, as numbers (R423): chorus state, phasers and counters, journals, and what the readout chains of the regions bring. -/
def saveNums (s : State) (k d : Nat) : List Nat :=
  let here (core : Nat) : Bool := dieOf core == d
  match k with
  | 0 => ((s.voices.filter fun v => here (v.1 / 4)).flatMap fun v =>
      let h := ((runOf s (v.1 / 4) (v.1 % 4)).map fun r => getHome s (homeKey r (v.1 % 4))).getD default
      v.1 :: (chorusWords s v.2 h 0 0).map (·.toNat)) ++ s.homes.flatMap homeNums
  | 1 => ((s.phasers.filter fun p => p.2.home == d).flatMap fun p =>
      [p.1, p.2.phase, p.2.pending, b2n p.2.curt, p.2.gslot] ++ p.2.members.flatMap fun m => [m.gang, m.lc, m.t, b2n m.signalled, m.held])
      ++ (s.objs.filter fun o => o.1 / 16384 == d).flatMap fun o => [o.1, o.2.count.toNat, o.2.status.toNat, o.2.out, (o.2.ref.getD 0).toNat]
  | 2 => (s.copiers.filter fun c => here c.1).flatMap fun c => c.1 :: (copierWords c.2 0).map (·.toNat)
  | _ => (s.regions.filter fun g => here (g.1 / 4) && g.2.placed).flatMap fun g =>
      g.1 :: ((snapWords (snapOf s (g.1 / 4) (g.1 % 4)) []) ++ threadWords s (getTh s g.1)).map (·.toNat)
/-- A range of pages written whole carries fresh check bits. -/
def freshRange (s : State) (a n : Nat) : State := { s with ecc := s.ecc.filter fun e => !(a ≤ 32 * e.1 && 32 * e.1 < a + n) }
/-- The contents of a unit: the pools of the die's cores in ascending order, or the state of its kind in a layout of the device's own (DESIGN CHOICE,
log 8). -/
def saveContents (s : State) (k d : Nat) : State :=
  let o := saveKind k
  let a := saveAddr s + 0x1000 + d * 0x8400000 + o.1
  let cores := ((List.range 64).filter fun c => dieOf c == d).zipIdx
  let s := freshRange s a o.2
  if k = 4 then { s with mem := cores.foldl (fun m c => copyRange m (poolAddr c.1 0) (a + c.2 * 0x800000) 0x800000) (cores.foldl (fun x c => rfView x c.1) s).mem }
  else wrMem s ⟨.dev, a⟩ ((List.range (o.2 / 8)).flatMap fun i => leBytes 8 (Config.freeLayout (k :: d :: saveNums s k d) i).toNat)
/-- SAVE_UNIT_COMPLETE: the next unit, in ascending kind and die, is written, and the record again; after the last the device halts. -/
def execSaveUnit (s : State) : Out :=
  .next (match s.mgmt.saving with
    | none => s
    | some (t, cause, done) =>
      let u := ((List.range 20).find? fun i => !bit done i).getD 19
      let done := setBits done u u 1
      let s := saveRecord (saveContents s (u / 4) (u % 4)) t cause done
      if u = 19 then haltDevice s
      else
        schedule (drawn { s with mgmt := { s.mgmt with saving := some (t, cause, done) } }) .master (s.cycle + 1 + Config.freeNat s.free) (.row .saveUnit {}))

/-- PWRGOOD_LOSS: the save starts in the first tick after it, unless one runs (R423, R426, R446). -/
def execPwrgoodLoss (s : State) : Out :=
  let s' := { s with mgmt := { s.mgmt with pwrgood := false } }
  .next (if s.mgmt.pwrgood = false ∨ s.mgmt.saving.isSome = true ∨ s.mgmt.halted = true then s'
    else schedule s' .tick (ticks s + 1) (.row .saveStart { ix := 0x165 }))

/-! ## Power and reset (R2, R27, R421, R441, R443) -/

/-- The device out of reset: what is not volatile stays (DRAM and its errors, the memories outside, the stored masks, the save area's
place, the fittings), with the model's own counters; every other field is at reset. -/
def coldState (s : State) : State :=
  let r := State.reset
  { r with
    free := s.free, nextId := s.nextId, agenda := s.agenda.filter fun d => d.clk == .now
    mem := s.mem.filter fun c => c.1 < dramSize s, hostMem := s.hostMem, safetyMem := s.safetyMem
    ecc := (s.ecc.filter fun e => 32 * e.1 < dramSize s && e.2 % 4 != 0).map fun e => (e.1, e.2 % 4)
    atsRefused := s.atsRefused
    cores := s.cores.map fun c => (c.1, { ({} : Core) with
      prevClr := c.2.prevClr, capClr := c.2.capClr, selfFail := c.2.selfFail, excl := c.2.excl })
    mgmt := { r.mgmt with saveBase := s.mgmt.saveBase, otpDebug := s.mgmt.otpDebug, otpKey := s.mgmt.otpKey, otpRollback := s.mgmt.otpRollback, dramGib := s.mgmt.dramGib, resthr := s.mgmt.resthr } }
/-- POWER_OFF_TRIP: power goes at once, and nothing acts until a cold reset. -/
def execPowerOff (s : State) : Out :=
  let s := coldState s
  .next { s with mgmt := { s.mgmt with powered := false, pwrgood := false, halted := true } }
/-- COLD_RESET: with power good, bring-up starts. -/
def execColdReset (s : State) : Out := .next (coldState s)

/-! ## Bring-up (R378, R380, R425, R444) -/

/-- The self-test of one core: its mask is written, a change since the previous boot is logged, and a passed test clears the exclusion
mark. -/
def selfTest (s : State) (c : Nat) : State :=
  let k := getCore s c
  let bad := k.selfFail &&& w64 capAll
  let s := setCore s c { k with capClr := bad, prevClr := bad, excl := k.excl && bad != 0 }
  if bad = k.prevClr then s else devLogOn s c 0x172 (dieOf c * 64 + c) (capMask s c)
/-- The report of a save record found at boot (R425). -/
def saveReport (s : State) : State :=
  let s := (eccLog s ⟨.dev, saveAddr s⟩ 64 0).1
  let w (i : Nat) : Nat := leNat (rdBytes s.mem (saveAddr s + 8 * i) 8)
  if w 0 ≠ 0x5256 then s
  else devLog s (if w 2 = 0xFFFFF then w 3 % 512 else 0x16F) (3 * 64) (w 2)
/-- A stage has completed. -/
def stageDone (s : State) (n : Nat) : State := { s with mgmt := { s.mgmt with stage := n } }
/-- CODE of a stage that fails (R444). Of stage 1, from the image that the boot ROM has found: none; a signature that does not verify, or under a key (int)
whose hash is not the one in OTP; a security version (val) below the rollback counter. Of stages 2 and 3, the channel or module that has not trained. -/
def stageCode1 (m : Mgmt) (c : Cur) : Option Nat :=
  if c.data.isEmpty then some 3 else if !c.flag || c.int.toNat != m.otpKey then some 1 else if c.val < m.otpRollback then some 2 else none
def stageFails (m : Mgmt) (c : Cur) : Option Nat :=
  match c.ix with
  | 1 => stageCode1 m c
  | 2 => if c.flag then none else some (c.val % 16)
  | 3 => if c.flag then none else some (c.val % 12)
  | _ => none
/-- BOOT_STAGE_COMPLETE (R444): the stages in their order; a failed one halts the device. Stage 6 waits for the first lock. -/
def execBootStage (s : State) : Out :=
  let n := s.cur.ix
  let m := s.mgmt
  .next (if m.halted || !(if n = 0 then !m.stage0 else m.stage0 && n == m.stage + 1) || 6 < n then s
    else match stageFails m s.cur with
    | some c => haltDevice { s with mgmt := { m with failStg := n, bootCode := c, faultN := true } }
    | none => match n with
      | 0 => { s with mgmt := { m with stage0 := true, portA := some (m.portA.getD (16, 64)) } }
      | 4 => saveReport (stageDone ((List.range 64).foldl selfTest s) 4)
      | 5 =>
        let s := stageDone s 5
        let s := if m.portB.isNone then devLog s 0x170 (3 * 64 + 1) 0 else s
        let s := (List.range 64).foldl kick s
        if s.tb.locked then soon s (.row .bootStage { ix := 6, flag := true }) else s
      | 6 => if s.tb.locked then stageDone s 6 else s
      | _ => stageDone s n)

/-- BOUNDARY_SCAN_INSTRUCTION (R441): a boundary-scan instruction is in the instruction register; a vendor debug one runs only with the
OTP enable, and the manual does not say what it does. -/
def execBoundaryScan (s : State) : Out :=
  if s.cur.flag = false then .next { s with mgmt := { s.mgmt with scanIr := s.cur.ix } }
  else if s.mgmt.otpDebug then .refused .vendorDebug
  else .next s

end Sys2Proof.Machine
end

