-- ==== Sys2Proof/Machine/Chorus.lean ====
section
/-! DEFINITION. Chorus: checkpoints, signatures and the home's decision of compare points, rollback, minority and lag (R354, R385 to R397). -/

namespace Sys2Proof.Machine

/-! ## Checkpoints (R390, R391) -/

/-- The checkpoint of a voice: its thread, and the live state of the regions it controls. It stands at the beginning of the release buffer (R386, R390). -/
def takeCheckpoint (s : State) (core slot : Nat) (r : Run) : State :=
  let k := thKey core slot
  let v := getVoice s k
  let v1 := { v with
    ckThread := some { getTh s k with wait := .none }, ckRegions := (controlled s core slot r.part).map (snapOf s core), recs := []
    ckGroup := v.groupNo, ckDue := false }
  let l := (bufferWords s v1).flatMap fun w => leBytes 8 w.toNat
  match relBad s core r.part 0 l.length with
  | some c => killFatal s core slot (relWhy (setVoice s k { v with used := 0 }) core slot r.voice c (trapPc (getTh s k)))
  | none => setVoice (wrMem s ⟨.dev, poolAddr core (relBase s core)⟩ l) k { v1 with used := l.length, ckBytes := l.length }

/-- An element with what a header names live taken from a snapshot, its results in flight moved by d counted cycles. -/
def restoreElem (h d : Nat) (cur snap : Elem) : Elem :=
  let x := hLiveX h
  let e0 : Elem := { cur with
    q := (List.range 32).foldl (fun t i => if bit (hLiveQ h) (i / 4) then tput t {} i (tget snap.q {} i) else t) cur.q
    gen := if bit x 6 then snap.gen else cur.gen }
  let e1 : Elem := if bit x 5 then
      { e0 with lnN := snap.lnN, lnE := snap.lnE, lnS := snap.lnS, lnW := snap.lnW, port := snap.port, last := snap.last, nxt := snap.nxt
                pipe := snap.pipe.map fun f => { f with due := f.due + d } } else e0
  if bit x 4 then { e1 with fifo := snap.fifo, qmK := snap.qmK, qmG := snap.qmG, qmNf := snap.qmNf, qxEs := snap.qxEs
                            qxLatched := snap.qxLatched } else e1
/-- The elements of the live pages of a snapshot are restored in a slot. -/
def restoreElems (s : State) (core slot d : Nat) (x : RegionSnap) : State :=
  let h := x.region.hdr.toNat
  ((livePages h).flatMap fun p => (List.range 16).map (elemIn p)).foldl (fun s e =>
    let k := 256 * thKey core slot + e
    setEl s k (restoreElem h d (getEl s k) (tget x.elems default e))) s
/-- A table with the entries of another laid over it. -/
def mergeTab (t u : Tab Nat) : Tab Nat := u.foldl (fun t e => tput t 0 e.1 e.2) t
/-- A region goes back to its checkpoint where it stands now; what the checkpoint does not hold stays as it is. -/
def rollRegion (s : State) (core : Nat) (x : RegionSnap) : State :=
  let k := thKey core x.slot
  let g := getReg s k
  let b (i : Nat) : Bool := bit (hLiveX x.region.hdr.toNat) i
  let con := (g.con.filter fun (e : Nat × W32) => !bit (hLivePg x.region.hdr.toNat) (e.1 / 128)).foldl (fun t e => tput t 0 e.1 e.2) x.region.con
  let g1 := { x.region with
    count := g.count, countedAt := g.countedAt, start := x.region.start + (g.count - x.region.count), opc := g.opc, rte := g.rte
    opLoaded := g.opLoaded, rtLoaded := g.rtLoaded, px := g.px, py := g.py, fenced := g.fenced, frozen := g.frozen
    drops := g.drops, dropTick := g.dropTick, dropPos := g.dropPos
    con := con, votes := if b 3 then x.region.votes else g.votes
    voteNext := if b 3 then x.region.voteNext else g.voteNext, voteOvf := if b 3 then x.region.voteOvf else g.voteOvf }
  let stay (e : Nat × Nat) : Bool := !bit (hLivePg x.region.hdr.toNat) (weightPage g e.1)
  let g2 := if b 7 then
      { g1 with weights := mergeTab g1.weights (g.weights.filter stay), wIndex := mergeTab g1.wIndex (g.wIndex.filter stay) }
    else { g1 with fmt := g.fmt, fmtNext := g.fmtNext, wFmt := g.wFmt, wActive := g.wActive, weights := g.weights, wIndex := g.wIndex, wScale := g.wScale
                   bypTo := g.bypTo, bypFmt := g.bypFmt, bypKl := g.bypKl, byp := g.byp, bypRows := g.bypRows }
  restoreElems (setReg s k g2) core x.slot (g.count - x.region.count) x

/-- Rollback of one voice (R391): held stores go, undo lines are written back in reverse order, the checkpoint is restored. -/
def rollVoice (s : State) (core slot : Nat) : State :=
  let k := thKey core slot
  let v := getVoice s k
  let s := v.recs.reverse.foldl (fun s x => match x with
    | .undo o old => eccFresh (wrMem s ⟨.dev, poolAddr core o⟩ old) ⟨.dev, poolAddr core o⟩ 64
    | .held _ _ _ _ _ => s) s
  let s := v.ckRegions.foldl (fun s x => rollRegion s core x) s
  let s := match v.ckThread with
    | none => s
    | some t => setTh s k { t with wait := .restart (ticks s + 1) }
  setVoice s k { v with recs := [], used := v.ckBytes, units := [], atoms := [], groupNo := v.ckGroup }

/-! ## The home's decision (R389, R391, R392) -/

/-- The core of a voice of a firing of a chorus block, while it runs. -/
def voiceCore (s : State) (slot : Nat) (r : Run) (v : Nat) : Option Nat :=
  (s.runs.find? fun p => p.1 % 8 == slot && p.2.chorus && homeKey p.2 slot == homeKey r slot && p.2.voice == v).map (·.1 / 8)

/-- Offset from BASE of the first byte that a held store writes. -/
def heldOff (base m off : Nat) : Nat := (base + off + (((List.range 8).find? fun j => bit m j).getD 0)) % 2 ^ 64 - base
/-- What the held stores of a voice wait for before they perform: none may perform while the way of one is down (R12, R410); a store to a tensor under race tags
waits for the answer of the tag's engine, unless its core holds the grant (R346, R354). The race granules that stand to be asked for, with a store of each, or
none while a way is down. -/
def commitNeeds (s : State) (core slot : Nat) (r : Run) (p : Point) : Option (List (Nat × Nat × Nat)) :=
  let w := whoOf core r
  (getVoice s (thKey core slot)).recs.foldlM (fun l x => match x with
    | .undo _ _ => some l
    | .held m tid off _ q =>
      let v := tidOf s w.core w.part tid
      let o := heldOff v.base m off
      let g := raceUnit w tid o
      let known := raceHeld s w v tid (v.base + o) pathE true || p.granted.contains g || p.denied.any (·.1 == g) || l.any (·.1 == g)
      if wayDown s core q then none else some (if known then l else l ++ [(g, tid, v.base + o)])) []

/-- One held store of a thread performs, byte by byte under its mask, unless the tag's engine has found it in conflict (R354); with a fault it does not. -/
def commitStore (core slot : Nat) (r : Run) (p : Point) (x : State × Option Why) (rec : RelRec) : State × Option Why :=
  let w := whoOf core r
  let at_ : Why := { cause := 0, eng := 0, slot := slot, pos := trapPc (getTh x.1 (thKey core slot)) }
  match x, rec with
  | (s, none), .held m tid off data q =>
    let v := tidOf s w.core w.part tid
    let o := heldOff v.base m off
    match p.denied.find? (·.1 == raceUnit w tid o) with
    | some (_, c, i0, i1, i2) => (s, some { at_ with cause := c, i0 := i0, i1 := i1, i2 := i2 })
    | none =>
      if portDown s q then
        (queueFor s core r { at_ with cause := 0x069, fatal := false, i0 := info3 tid 4 q.addr, i1 := elemAt v o, i2 := pathE }, none)
      else
        let n := if m = 255 then 8 else 0
        let (s, ok) := (if m = 255 then eccStore else eccLog) (holdLines s q 8) q 8 core
        if !ok then (s, some { at_ with cause := (eccCauses q).2, i0 := eccUnit q, i1 := q.addr })
        else
          ((List.range 8).foldl (fun s j =>
            if bit m j then wrMem s ⟨q.store, q.addr + j⟩ [BitVec.ofNat 8 (data.toNat / 2 ^ (8 * j))] else s) (eccFresh s q n), none)
  | x, _ => x
/-- Held stores of the lead perform in buffer order. -/
def commitHeld (s : State) (core slot : Nat) (r : Run) (p : Point) : State × Option Why :=
  (getVoice s (thKey core slot)).recs.foldl (commitStore core slot r p) (s, none)

/-- A voice receives the outcome of a compare point: it discards its stores and records, and a checkpoint is due (R389). -/
def outcome (s : State) (core slot die : Nat) (lead : Bool) : State :=
  let k := thKey core slot
  let v := getVoice s k
  let s := setVoice s k { v with recs := [], used := v.ckBytes, units := [], atoms := [], matched := v.matched + 1, ckDue := true }
  setTh s k { getTh s k with wait := .decided (s.cycle + oneWay core die) lead }

/-- A record of the home about a compare point: voices involved, the lead's value and the dissenting one. -/
def chorusWhy (cause voices : Nat) (lead other : W64) (fatal : Bool) : Why :=
  { cause := cause, eng := 5, fatal := fatal, i0 := voices, i1 := lead.toNat, i2 := other.toNat }

/-- The minority voice of a T3 chorus (R392): its state is discarded, its core marked, 0x103 logged, and its gang re-placed at the next SCENE
point. The requests for its samples are served by the lowest voice that goes on (R384). -/
def minority (s : State) (core slot : Nat) (r : Run) (lead other : W64) : State :=
  let hk := homeKey r slot
  let s := devLogWhy s core (chorusWhy 0x103 (2 ^ r.voice) lead other false) r.lc r.part r.block r.cue r.gang
  let s := cueDone (discardBlock s core slot) core r.cue r.fireN 0
  let s := setCore s core { getCore s core with excl := true }
  let s := mapGang s r.scene r.gslot fun g => { g with recover := true }
  let s := setScene s r.scene { getScene s r.scene with recover := true }
  let h := getHome s hk
  echoLead (setHome s hk { h with voices := h.voices.filter (· != r.voice) }) hk (homeDie s r)

/-- Points with one of a number changed or added. -/
def putPoint (l : List Point) (p : Point) : List Point :=
  if l.any (·.no == p.no) then l.map fun x => if x.no = p.no then p else x else l ++ [p]
/-- A point at which every active voice has arrived is closed, and the groups before it go (R393). -/
def closePoint (s : State) (hk : Nat) (p : Point) (groupNo : Nat) : State :=
  let h := getHome s hk
  if h.voices.all fun v => p.arrived.any (·.1 == v) then
    setHome s hk { h with points := h.points.filter (·.no != p.no), groups := h.groups.filter (groupNo ≤ ·.no) }
  else s

/-- A match of the voices of a signature: the lead commits, every voice that agrees receives the outcome (R389). It is made, or the lead's stores wait: for a
way, until the next cycle, or for the answers of the engines that they ask. -/
def matchPoint (s : State) (slot : Nat) (r : Run) (p : Point) (sig : W64) : State × Bool :=
  let hk := homeKey r slot
  let agree := (p.arrived.filter (·.2 == sig)).map (·.1)
  let lead := agree.foldl min (agree.headD 0)
  let die := homeDie s r
  match (voiceCore s slot r lead).bind fun c => (runOf s c slot).map fun x => (c, x) with
  | none => (s, false)
  | some (lc, lr) =>
    let w := whoOf lc lr
    match commitNeeds s lc slot lr p with
    | none => (schedule s .master (s.cycle + 1) (.row .chorusSignature { core := lc, slot := slot, val := p.no, flag := true }), false)
    | some (a :: l) =>
      let new := (a :: l).filter fun x => !p.asked.contains x.1
      let h := getHome s hk
      let s := setHome s hk { h with points := putPoint h.points { p with asked := p.asked ++ new.map (·.1) } }
      (new.foldl (fun s x => askRace s w (tidOf s w.core w.part x.2.1) x.2.1 x.2.2 pathE true 3 slot p.no) s, false)
    | some [] =>
      let gn := (getVoice s (thKey lc slot)).groupNo
      match commitHeld s lc slot lr p with
      | (s, some w) => (killFatal s lc slot w, false)
      | (s, none) =>
        let p := { p with decided := some (sig, lead) }
        let h := getHome s hk
        let s := setHome s hk { h with points := putPoint h.points p, mismatches := 0 }
        let s := agree.foldl (fun s v => match voiceCore s slot r v with
          | none => s
          | some c => outcome s c slot die (v == lead)) s
        (closePoint s hk p gn, true)

/-- A D2 mismatch (R391): the first at a compare point rolls both voices back, the second fails the command. -/
def mismatch (s : State) (slot : Nat) (r : Run) (p : Point) : State :=
  let hk := homeKey r slot
  let h := getHome s hk
  let vs := p.arrived.map (·.1)
  let lead := vs.foldl min (vs.headD 0)
  let at_ (f : Nat → Bool) : W64 := ((p.arrived.find? fun a => f a.1).map (·.2)).getD 0
  let w (c : Nat) (f : Bool) : Why := chorusWhy c (vs.foldl (fun m v => m ||| 2 ^ v) 0) (at_ (· == lead)) (at_ (· != lead)) f
  match voiceCore s slot r lead with
  | none => s
  | some lc =>
    if h.mismatches ≠ 0 then killFatal s lc slot (w 0x102 true)
    else
      let s := match runOf s lc slot with
        | some lr => queueFor s lc lr (w 0x100 false)
        | none => s
      let n := h.samples.length
      let s := setHome s hk { h with
        points := h.points.filter (·.no != p.no), mismatches := 1, echoes := []
        sampleIx := h.voices.foldl (fun t v => tput t 0 v n) [] }
      vs.foldl (fun s v => match voiceCore s slot r v with
        | none => s
        | some c => rollVoice s c slot) s

/-- What the arrivals at an open point say, with nv voices active (R389): nothing yet; that no two voices agree; or the signature of the match, with the voice
of the minority. -/
def verdict (nv : Nat) : List (Nat × W64) → Option (Option (W64 × Option (Nat × W64)))
  | [(_, x)] => if nv ≤ 1 then some (some (x, none)) else none
  | [(_, x), (_, y)] => if x = y then some (some (x, none)) else if nv ≤ 2 then some none else none
  | [(a, x), (b, y), (c, z)] =>
    if x = y then some (some (x, if z = x then none else some (c, z)))
    else if z = x then some (some (x, some (b, y)))
    else if z = y then some (some (y, some (a, x)))
    else some none
  | _ => none
/-- The arrivals at an open point decide it, or it waits for another (R389). -/
def decidePoint (s : State) (core slot : Nat) (r : Run) (p : Point) : State :=
  match verdict (getHome s (homeKey r slot)).voices.length p.arrived with
  | none => s
  | some none =>
    if p.arrived.length = 3 then
      killFatal s core slot (chorusWhy 0x107 7 ((p.arrived.head?.map (·.2)).getD 0) ((p.arrived[1]?.map (·.2)).getD 0) true)
    else mismatch s slot r p
  | some (some (sig, odd)) =>
    match matchPoint s slot r p sig, odd with
    | (s, true), some (v, x) => match (voiceCore s slot r v).bind fun c => (runOf s c slot).map fun y => (c, y) with
      | none => s
      | some (c, y) => minority s c slot y sig x
    | (s, _), _ => s

/-- Ticks that every active voice has to arrive at a point (R394): the voices that have left it count as active there. -/
def lagLimit (s : State) (hk : Nat) (p : Point) : Nat :=
  let skew := ((gangOf s (homeScene hk) (homeGslot hk)).map (·.skew)).getD 0
  skew * ((p.arrived.foldl (fun l a => nins l a.1) (getHome s hk).voices).length - 1) + 64

/-- A point of a home that waits to be decided is looked at again: its stores have a way, or an engine has answered. -/
def decideAgain (s : State) (core slot no : Nat) : State :=
  match runOf s core slot with
  | none => s
  | some r => match (getHome s (homeKey r slot)).points.find? fun p => p.no == no && p.decided.isNone with
    | none => s
    | some p => decidePoint s core slot r p
/-- CHORUS_SIGNATURE (R389): a signature arrives at the home; marked, a point whose stores have waited is looked at again. -/
def execChorusSignature (s : State) : Out :=
  let core := s.cur.core
  let slot := s.cur.slot
  let sig := w64 s.cur.val
  let k := thKey core slot
  .next (if s.cur.flag then decideAgain s core slot s.cur.val else match runOf s core slot with
    | none => s
    | some r =>
      if (getTh s k).wait ≠ .compare true then s
      else
        let hk := homeKey r slot
        let h := getHome s hk
        let v := getVoice s k
        let old := h.points.find? (·.no == v.matched)
        let p0 := old.getD { no := v.matched, first := ticks s }
        let p := { p0 with arrived := p0.arrived ++ [(r.voice, sig)] }
        let s := setHome s hk { h with points := putPoint h.points p }
        let s := if old.isSome then s
          else schedule s .tick (ticks s + lagLimit s hk p + 1) (.row .chorusLagExpiry { val := hk })
        match p.decided with
        | none => decidePoint s core slot r p
        | some (x, _) =>
          if x = sig then closePoint (outcome s core slot (homeDie s r) false) hk p v.groupNo
          else minority s core slot r x sig)

/-- Voices that are active and have not arrived at a point. -/
def absentVoices (h : Home) (p : Point) : List Nat := h.voices.filter fun v => !p.arrived.any (·.1 == v)
/-- A point has stayed open past its limit. -/
def lagged (s : State) (hk : Nat) (p : Point) : Bool := (lagLimit s hk p : Int) < since s p.first && !(absentVoices (getHome s hk) p).isEmpty
/-- A chorus command fails while none of its voices runs (R395): its record names the cue of a voice. -/
def failHome (s : State) (hk v : Nat) (w : Why) : State :=
  let ks := firingCues s (homeScene hk) (homeLc hk) (homeFiring hk)
  let s1 := match ks.find? fun k => (getCue s k).voice == v with
    | none => s
    | some k => queueWith s (k / 1024) (getCue s k).part w (homeLc hk) (qBlock (getCue s k)) (k % 1024) (gangId s (homeScene hk) (homeGslot hk))
  setHome (ks.foldl (endVoice (ticks s + 1) w.cause) s1) hk {}
/-- CHORUS_LAG_EXPIRY (R394): a voice that has not arrived fails the command. -/
def execChorusLagExpiry (s : State) : Out :=
  let hk := s.cur.val
  let h := getHome s hk
  .next (match h.points.find? (lagged s hk) with
    | none => s
    | some p =>
      let out := absentVoices h p
      let w := chorusWhy 0x105 (out.foldl (fun m v => m ||| 2 ^ v) 0) ((p.arrived.head?.map (·.2)).getD 0) 0 true
      match s.runs.find? fun x => x.2.chorus && homeKey x.2 (x.1 % 8) == hk with
      | some x => killFatal s (x.1 / 8) (x.1 % 8) w
      | none => failHome s hk (out.headD 0) w)

/-- A voice at a compare point sends its signature once its regions are idle and its stores have performed: compare traffic of class P0 to the home's engine
(R122, R387, R388). -/
def sendSignature (s : State) (core slot : Nat) (r : Run) : State :=
  let k := thKey core slot
  if !regionsIdle s core slot r.part || !settled s core (relIds s core slot r.part) then s
  else
    let home := homeDie s r
    let q : SyncReq := {
      id := s.nextId, core := core, t := slot, home := home, p0 := true, op := 65, arg := 0, val := (signature (getVoice s k)).toNat, cmp := 0, d := 0
      arrive := s.cycle + oneWay core home, key := [r.part] }
    setTh { s with nextId := s.nextId + 1, syncQ := s.syncQ ++ [q] } k { getTh s k with wait := .compare true }

end Sys2Proof.Machine
end

