-- ==== Sys2Proof/Machine/Deliver.lean ====
section
/-! DEFINITION. The end of a region's cycle: deliveries, link loads, faults and stalls; II boundaries and the end of a run; and the
fabric and copy phases of a pool (R74, R102 to R105, R241, R264 to R269, R282, R301, R408). -/

namespace Sys2Proof.Machine

/-! ## Periods and runs (R74, R241, R266) -/

/-- Pending constants, mask and seed of a region take effect. -/
def applyPending (s : State) (core slot : Nat) : State :=
  let k := thKey core slot
  let g := getReg s k
  let s := setReg s k { g with
    con := g.conPend.foldl (fun t p => tput t 0 p.1 p.2) g.con, conPend := [], stageMask := g.maskPend.getD g.stageMask
    maskPend := none, seedPend := none }
  match g.seedPend with
  | some x => seedRegion s core slot x.toNat
  | none => s

/-- II_BOUNDARY (R266): the rotation base follows from the period; what is pending takes effect. -/
def execIiBoundary (s : State) : Out := .next (applyPending s s.cur.core s.cur.slot)

/-- KERNEL_RUN_END (R241): the II counter stops, and the drop records of the run are queued once RIDLE is 1 (R408). -/
def execKernelRunEnd (s : State) : Out :=
  let core := s.cur.core
  let slot := s.cur.slot
  let s := applyPending s core slot
  let g := getReg s (thKey core slot)
  let s := setReg s (thKey core slot) { g with runs := false, stopReq := false }
  .next (if ridle s core slot then guardRecords s core slot else s)

/-! ## Deliveries (R267, R269, R320) -/

/-- The token of a result that is due: none while its reply is late. -/
def flightTok (s : State) (f : Flight) : Option Token :=
  match f.req with
  | none => some f.tok
  | some id => match s.reqs.find? (·.id == id) with
    | none => some {}
    | some q => if q.arrived then some (portData q) else none
/-- An output that carries array data in the present cycle loads zero where it faces out of the region (R320). -/
def loadLink (e : Elem) (side : Nat) (t : Token) (carry : Bool) : Elem := setLink e side (if carry then {} else t)

/-- A result is delivered: destination register, `last`, and the outputs it drives. -/
def deliverOne (s : State) (core slot key : Nat) (f : Flight) (t : Token) : State :=
  let row := key % 256 / 16
  let col := key % 16
  let g := getReg s (thKey core slot)
  let e := getEl s key
  let e := { e with last := t }
  let e := if f.dst < 32 then { e with q := tput e.q {} f.dst t } else if f.dst = 63 then { e with port := t } else e
  let e := (List.range 4).foldl (fun e d => if drives f d then loadLink e d t (carried g d) else e) e
  let s := setEl s key e
  (List.range 4).foldl (fun s d => if drives f d && !carried g d then guardDrop s core slot row col d f.pos t else s) s

/-- One element at the end of a cycle: in a counted cycle of a run every output loads, from a result, a pass-through link, or zero;
then the results that are due are delivered. -/
def endElem (s : State) (core slot key : Nat) (counted : Bool) : State :=
  let g := getReg s (thKey core slot)
  let e := getEl s key
  let e := if counted && g.runs then
      (List.range 4).foldl (fun x d => loadLink x d (tget e.nxt {} d) (carried g d)) { e with nxt := [] }
    else { e with nxt := [] }
  let due := e.pipe.filter fun f => f.due ≤ g.count && (flightTok s f).isSome
  let late := e.pipe.filter fun f => f.due ≤ g.count && (flightTok s f).isNone
  let s1 := setEl s key { e with pipe := e.pipe.filter fun f => !(f.due ≤ g.count && (flightTok s f).isSome) }
  let s2 := due.foldl (fun x f => deliverOne x core slot key f ((flightTok s f).getD {})) s1
  let gone := due.filterMap (·.req)
  let s3 := { s2 with reqs := s2.reqs.filter fun q => !gone.contains q.id }
  late.foldl (fun x f => match f.req with
    | some id => soon x (.row .stallFreeze { core := core, slot := slot, ix := id })
    | none => x) s3

/-- Rows of PEER passes that are due to enter in the next cycle and have not arrived drive the stall wire (R316). -/
def stallRows (s : State) (core slot : Nat) : State :=
  let g := getReg s (thKey core slot)
  g.passes.foldl (fun s p =>
    if p.src ≠ 1 then s
    else
      let d := rowPeriod g
      let e0 := p.start + 24
      if g.count + 1 < e0 ∨ (g.count + 1 - e0) % d ≠ 0 ∨ p.rows ≤ (g.count + 1 - e0) / d then s
      else
        let m := (g.count + 1 - e0) / d
        let mine := s.reqs.filter fun q => q.core == core && q.asker == .aRow slot p.id m
        mine.foldl (fun s q => soon s (.row .stallFreeze { core := core, slot := slot, ix := q.id })) s) s

/-- At the end of an enabled cycle a reply that has come, or a request that is gone, holds its region no more (R301, R304). -/
def wakeRegion (s : State) (core slot : Nat) : State :=
  let k := thKey core slot
  let g := getReg s k
  if g.stalls.isEmpty then s
  else setReg s k { g with stalls := g.stalls.filter fun id => s.reqs.any fun q => q.id == id && !q.arrived }
/-- What an opcode of the cycle leaves for the next: the format of an AMODE, under which no slot is loaded (R311), and an ACLR that has ended (R309). -/
def endArray (g : Region) : Region :=
  let g := { g with clear := g.clear.filter fun c => g.count < c.start + 2 + c.rows }
  match g.fmtNext with
  | some f => { g with fmt := some f, wFmt := [], fmtNext := none }
  | none => g

/-- Insert a fault by region row and column. -/
def insWhy (w : Why) : List Why → List Why
  | [] => [w]
  | x :: r => if w.pos / 65536 % 65536 < x.pos / 65536 % 65536 then w :: x :: r else x :: insWhy w r
/-- The faults of a cycle are recorded, in ascending row and column, and the block is killed once (R282, R302). -/
def regionFaults (s : State) (core slot : Nat) : State :=
  let k := thKey core slot
  let g := getReg s k
  match g.faults.foldl (fun l w => insWhy w l) [] with
  | [] => s
  | w :: ws =>
    let s := setReg s k { g with faults := [] }
    let s := (w :: ws).foldl (fun s w => regRecord s core slot w) s
    let s := if g.starter = slot then s
      else discardRegion (dropDrains (dropRequests (guardRecords (dropDue s core slot) core slot) core slot) core slot g.part) core slot
    endBlocks s core g.starter (ticks s + 1) w.cause

/-- The end of a cycle of one region. -/
def deliver (s : State) (core slot : Nat) : State :=
  let k := thKey core slot
  let g := getReg s k
  let counted := g.countedAt == s.cycle + 1
  let keys := (s.elems.filter fun p => p.1 / 256 == k).map (·.1)
  let s := keys.foldl (fun s key => endElem s core slot key counted) s
  let s := if !counted then s
    else
      let g := endArray (getReg s k)
      stallRows (setReg s k { g with carriedEs := !g.passes.isEmpty, carriedW := g.preload.isSome }) core slot
  let s := wakeRegion s core slot
  let s := regionFaults s core slot
  let g := getReg s k
  if !g.runs && !g.drops.isEmpty && ridle s core slot then guardRecords s core slot else s

/-! ## The fabric phase (R102 to R104) -/

/-- Row of the code table of R104 for kinds a ≤ b. -/
def conflictCode (a b : Nat) : Nat := 0x0A0 + (a * 5 - a * (a - 1) / 2) + (b - a)
/-- Engine code of a requester kind (R363). -/
def kindEng (k : Nat) : Nat := if k = 0 then 1 else if k = 4 then 3 else 2
/-- A request waits for this fabric phase: it is due, its region counts this cycle unless it is a port's, and no stores of an earlier drain are left before
those of a drain. -/
def fabReady (s : State) (core : Nat) (f : FabReq) : Bool :=
  fabDue s core f && (f.act != .epilogueStore || !storesBehind s core f.cur.val)
/-- The lowest bank that two requests share. -/
def sharedBank (a b : FabReq) : Option Nat := a.banks.find? b.banks.contains
/-- The first other request that a request conflicts with. -/
def conflictOf (l : List FabReq) (i : Nat) : Option (FabReq × Nat) :=
  match l[i]? with
  | none => none
  | some a => l.zipIdx.findSome? fun p => if p.2 = i then none else (sharedBank a p.1).map fun b => (p.1, b)
/-- The record of a conflict for the owner of request x with request y (R365). -/
def conflictWhy (x y : FabReq) (bank : Nat) : Why :=
  let a := if x.kind ≤ y.kind then x else y
  let b := if x.kind ≤ y.kind then y else x
  let at_ (f : FabReq) : Nat := if f.kind = 0 then f.row * 256 + f.col else 0xFFFF
  { cause := conflictCode a.kind b.kind, eng := kindEng x.kind, slot := x.slot, pos := x.pos
    i0 := b.slot * 2 ^ 18 + a.slot * 65536 + b.kind * 4096 + a.kind * 256 + bank, i1 := at_ a, i2 := at_ b }

/-- The fabric phase of a pool: requests that share a bank do not perform and each region's record is collected; the others perform. -/
def fabricPhase (s : State) (core : Nat) : State :=
  let c := getCore s core
  let ready := c.fabQ.filter (fabReady s core)
  let s := setCore s core { c with fabQ := c.fabQ.filter fun f => !fabReady s core f }
  let hits := ready.zipIdx.filterMap fun p => (conflictOf ready p.2).map fun q => (p.1, q)
  let s := hits.foldl (fun s h =>
    let k := thKey core h.1.slot
    let g := getReg s k
    let s := if h.1.kind = 0 then dropReq s h.1.cur.ix else s
    if g.killed || g.faults.any (fun w => 0x0A0 ≤ w.cause && w.cause ≤ 0x0AE) then s
    else setReg s k { g with faults := g.faults ++ [conflictWhy h.1 h.2.1 h.2.2] }) s
  let free := ready.zipIdx.filterMap fun p => if (conflictOf ready p.2).isSome then none else some (Act.row p.1.act p.1.cur)
  { s with todo := free ++ s.todo }

/-! ## The copy phase (R105) -/

/-- A request for lines in a copy phase: its row, and the lines of the pool it takes as banks. -/
structure PhaseReq where
  act : Act
  banks : List Nat
deriving DecidableEq, Repr
/-- Banks of a pool that a place's bytes touch, if they lie in the pool of a core. -/
def poolBanks (core : Nat) (p : Place) (n : Nat) : Option (List Nat) :=
  match poolOf p with
  | some (c, o) => if c = core then some (spanBanks [(o, n)]) else none
  | none => none
/-- The pool line of a transfer, if it goes to a pool: core and offset. -/
def itemPool (s : State) (c : CC) (u : Nat) : Option (Nat × Nat) :=
  let (dc, _, t) := itemTid s c u
  match t.space with
  | 0 => some (dc, itemAddr u % 2 ^ 23)
  | 1 => some (coreOf s c.r.scene c.r.gslot (bits t.base 47 42) c.r.voice, itemAddr u % 2 ^ 23)
  | _ => none
/-- Where a transfer goes in the mesh. -/
def itemEnd (s : State) (c : CC) (u : Nat) : Option End :=
  match itemPool s c u with
  | some (d, _) => some (.core d)
  | none =>
    let t := (itemTid s c u).2.2
    if t.space = 2 then some (.die (dieOf (coreOf s c.r.scene c.r.gslot (bits t.base 47 42) c.r.voice))) else none
/-- The way of a transfer is down, or the way back of what it reads (R12, R410). -/
def itemDown (s : State) (c : CC) (u : Nat) : Bool :=
  if (itemTid s c u).2.2.space = 4 then hostDown s c.core else
  ((itemEnd s c u).map fun e => pathDown s (.core c.core) e || (isRead u && pathDown s e (.core c.core))).getD false
/-- The next transfers of a core's copy engine that do not go through the caravan, whose sources have been read and whose race checks are made. -/
def readyItems (s : State) (core : Nat) : List (CC × Nat) :=
  match runOf s core 4 with
  | none => []
  | some r => if r.frozenAt.isSome then [] else
    (getCopier s core).journal.flatMap fun e =>
      if e.performed || e.discarded || s.cycle < e.startAt then []
      else
        let c := ccOf s core r e
        ((e.waiting ++ e.left).filter fun u =>
          (itemTid s c u).2.2.space != 3 && !isAsked e u && fed s c u && !itemDown s c u).map fun u => (c, u)
def itemAct (c : CC) (u : Nat) : Act := .row .lineTransfer { core := c.core, ix := c.e.no, val := u }
/-- Candidates of a copy phase in the order of R105: the core's own copy engine, peers, its spill engine, then threads. -/
def engineLines (s : State) (core : Nat) : List PhaseReq :=
  (readyItems s core).filterMap fun p => match itemPool s p.1 p.2 with
    | some (c, o) => if c = core then some ⟨itemAct p.1 p.2, [bankOf o]⟩ else none
    | none => some ⟨itemAct p.1 p.2, []⟩
/-- Insert a candidate by its age. -/
def insAge (x : Nat × PhaseReq) : List (Nat × PhaseReq) → List (Nat × PhaseReq)
  | [] => [x]
  | y :: r => if x.1 < y.1 then x :: y :: r else y :: insAge x r
/-- Requests of threads, ports and arrays of any core, and transfers of other cores' copy engines, at a pool: the oldest first. -/
def peerLines (s : State) (core : Nat) : List PhaseReq :=
  let asked : List (Nat × PhaseReq) := s.reqs.filterMap fun q =>
    if q.space == 1 && !q.done && q.race != 1 && q.notBefore ≤ s.cycle && !wayDown s q.core q.place && !behind s q then
      (poolBanks core q.place (if q.store then q.bytes.length else q.len)).map fun b => (q.id, ⟨.row .peerRequest { ix := q.id }, b⟩)
    else none
  let copied : List (Nat × PhaseReq) := (s.copiers.filter fun c => c.1 != core && !c.2.journal.isEmpty).flatMap fun x => (readyItems s x.1).filterMap fun p =>
    match itemPool s p.1 p.2 with
    | some (c, o) => if c = core then some (p.1.e.no, ⟨itemAct p.1 p.2, [bankOf o]⟩) else none
    | none => none
  ((asked ++ copied).foldl (fun l x => insAge x l) []).map (·.2)
/-- Slices that the spill engine of a core moves: the lines of one end of each in a phase (R102, R237). -/
def spillLines (s : State) (core : Nat) : List PhaseReq :=
  s.reqs.filterMap fun q => match q.asker with
    | .spill t slice =>
      if q.core == core && q.notBefore ≤ nOf s core && !s.dram.any (·.req == some q.id) then
        let p : Place := if (q.off == 0) == q.sext then ⟨.dev, rfPlace s core t slice⟩ else q.place
        some ⟨.row .prompterPerform { ix := q.id }, (poolBanks core p 128).getD []⟩
      else none
    | _ => none
/-- Requests of threads to their own pool: the oldest first, and of equally old ones the lower-numbered thread's. -/
def threadLines (s : State) (core : Nat) : List PhaseReq :=
  let mine := s.reqs.filter fun q => q.core == core && q.space == 0 && !q.done && q.notBefore ≤ nOf s core && !behind s q
    && (match q.asker with | .thread _ => true | _ => false)
  let ins (q : Req) (l : List Req) : List Req := l.takeWhile (fun x => x.iter ≤ q.iter) ++ [q] ++ l.dropWhile (fun x => x.iter ≤ q.iter)
  (mine.foldl (fun l q => ins q l) []).map fun q => ⟨.row .prompterPerform { ix := q.id }, [bankOf (q.place.addr % 0x800000)]⟩
/-- Grant requests in order, at most n of them, each in banks that none before it took. -/
def grant : List PhaseReq → Nat → List Nat → List Act × List Nat
  | [], _, taken => ([], taken)
  | _, 0, taken => ([], taken)
  | q :: r, n + 1, taken =>
    if q.banks.any taken.contains then grant r (n + 1) taken
    else
      let x := grant r n (taken ++ q.banks)
      (q.act :: x.1, x.2)

/-- The copy phase of a pool: the copy engine, peers and the spill engine have two lines each, every thread request one. -/
def copyPhase (s : State) (core : Nat) : State :=
  let a := grant (engineLines s core) 2 []
  let b := grant (peerLines s core) 2 a.2
  let c := grant (spillLines s core) 1 b.2
  let d := grant (threadLines s core) 32 c.2
  { s with todo := a.1 ++ b.1 ++ c.1 ++ d.1 ++ s.todo }

end Sys2Proof.Machine
end

