-- ==== Sys2Proof/Machine/Preempt.lean ====
section
/-! DEFINITION. The heartbeat: FENCE.SC, temperatures and throttle, and the pre-emption of best-effort gangs; their freeze, their context
images and their resume (R37, R51, R87 to R91, R95, R206, R252, R277, R331, R341, R360, R375, R376, R396, R415, R416, R420 to R422, R426, R435). -/

namespace Sys2Proof.Machine

/-! ## FENCE.SC (R252, R341) -/

/-- A FENCE.SC whose drain has ended ends at this boundary; a frozen thread waits for one after its resume. -/
def endFenceSc (s : State) (x : Nat × Thread) : State :=
  match x.2.wait, runOf s (x.1 / 4) (x.1 % 4) with
  | .fenceSc _ true, some r =>
    if x.2.running && !x.2.frozen && !x.2.halted then
      let s := widen s (whoOf (x.1 / 4) r) 63 63
      setTh s x.1 (advance { getTh s x.1 with wait := .none })
    else s
  | _, _ => s

/-! ## Temperatures and throttle (R415, R416, R421, R422) -/

/-- Degrees of a sample. -/
def degrees (b : Nat) : Int := sx 8 b
/-- The last sample of a C-die. -/
def tempOf (s : State) (d : Nat) : Int := degrees (tget s.mgmt.tmax 0 d)
/-- Sets of clusters that hold the regions of one gang. -/
def gangClusters (s : State) : List (List Nat) :=
  s.scenes.flatMap fun x => if x.2.live && x.2.loaded then
    (x.2.gangs.filter (·.resident)).map fun g => distinct (g.words.map fun w => clusterOf w.core) else []
/-- Close a set of clusters under shared gangs, n times. -/
def closeSet (sets : List (List Nat)) : Nat → List Nat → List Nat
  | 0, l => l
  | n + 1, l => closeSet sets n (sets.foldl (fun l g => if g.any l.contains then distinct (l ++ g) else l) l)
/-- G(d) (R422). -/
def throttleSet (s : State) (d : Nat) : List Nat :=
  closeSet (gangClusters s) 16 (distinct (((List.range 64).filter fun c => dieOf c == d).map clusterOf))
/-- Level that a cluster has, or takes at the next group of cycles. -/
def levelNext (s : State) (cl : Nat) : Nat := (lookup s.levelPend cl).getD (levelOf s cl)
/-- A cluster takes a level at the start of the first group after this boundary (R416). -/
def takeLevel (s : State) (cl e : Nat) : State := { s with levelPend := tins s.levelPend cl e }
/-- Partitions with a region on one of some clusters, each with the lowest core of them that holds one. -/
def partsOn (s : State) (cls : List Nat) : List (Nat × Nat) :=
  (s.regions.filter fun p => p.2.placed && cls.contains (clusterOf (p.1 / 4))).foldl (fun l p =>
    if l.any (·.1 == p.2.part) then l else l ++ [(p.2.part, p.1 / 4)]) []
/-- A class 11 cause, queued for partitions on cores. -/
def logFor (s : State) (cause i0 i1 : Nat) (l : List (Nat × Nat)) : State :=
  l.foldl (fun s p => queueWith s p.2 p.1 { cause := cause, eng := 7, fatal := false, i0 := i0, i1 := i1 } 0 0xFFF 0 0) (devLog s cause i0 i1)
/-- A die enters T2. -/
def enterT2 (s : State) (d : Nat) : State :=
  let cls := (throttleSet s d).filter fun c => levelNext s c != s.mgmt.t2e
  let s := { s with mgmt := { s.mgmt with t2In := s.mgmt.t2In ++ [d] } }
  logFor (cls.foldl (fun s c => takeLevel s c s.mgmt.t2e) s) 0x161 (d * 64) (tget s.mgmt.tmax 0 d) (partsOn s cls)
/-- Clusters below level 16 that no die of a list keeps there. -/
def freed (s : State) (dies : List Nat) : List Nat :=
  let kept := dies.flatMap (throttleSet s)
  (List.range 16).filter fun c => levelNext s c != 16 && !kept.contains c
/-- A die leaves T2: its clusters return at the next boundary, beside those that a die that left before it has freed. -/
def leaveT2 (s : State) (d : Nat) : State :=
  let before := freed s s.mgmt.t2In
  let s := { s with mgmt := { s.mgmt with t2In := s.mgmt.t2In.filter (· != d), t2Out := s.mgmt.t2Out ++ [d] } }
  logFor s 0x162 (d * 64) (tget s.mgmt.tmax 0 d) (partsOn s ((freed s s.mgmt.t2In).filter fun c => !before.contains c))
/-- The sample of a heartbeat, T1, T2 and T3 (R421, R422, R426); the clusters released at the last boundary return to level 16. -/
def thermal (s : State) : State :=
  let m := s.mgmt
  let s := { s with
    free := s.free + 4, mgmt := { m with tmax := (List.range 4).foldl (fun t d => tput t 0 d (Config.freeTemp (s.free + d)).toNat) [] } }
  let above (t : Nat) : Option Nat := (List.range 4).find? fun d => (t : Int) ≤ tempOf s d
  let hot := (above m.t3).isSome
  let s := match above m.t1 with
    | some d => if m.t1In then s
      else devLog { s with mgmt := { s.mgmt with t1In := true } } 0x160 (d * 64) (tget s.mgmt.tmax 0 d)
    | none => if (List.range 4).all fun d => tempOf s d < (m.t1 : Int) - 5 then { s with mgmt := { s.mgmt with t1In := false } } else s
  let s := if hot then s
    else ((List.range 4).filter fun d => !m.t2In.contains d && (m.t2 : Int) ≤ tempOf s d).foldl enterT2 s
  let s := if m.t2Out.isEmpty then s
    else (freed s s.mgmt.t2In).foldl (fun s c => takeLevel s c 16) { s with mgmt := { s.mgmt with t2Out := [] } }
  let s := (m.t2In.filter fun d => tempOf s d < (m.t2 : Int) - 5).foldl leaveT2 s
  if hot && !m.t3In then
    schedule { s with mgmt := { s.mgmt with t3In := true } } .tick (ticks s + 1) (.row .saveStart { ix := 0x163 })
  else s

/-! ## Context images (R88, R375, R435) -/

/-- Placement words of a gang. Marked is the lowest slot of each (LC, voice) pair, which takes the pair's copy engine with it, and the lowest of each core, which
takes the core's queue: a core with several LCs has one queue of a partition (R360, R375, R448). -/
def gangWords (g : Gang) : List (Placement × Bool × Bool) :=
  g.words.map fun w => (w, g.words.all fun u => !(u.lc == w.lc && u.voice == w.voice) || w.slot ≤ u.slot,
    g.words.all fun u => u.core != w.core || w.slot ≤ u.slot)
/-- A copy-engine block of a gang runs on a core. -/
def copyRunOf (s : State) (k gslot : Nat) (core : Nat) : Option Run :=
  (runOf s core 4).bind fun r => if r.scene = k ∧ r.gslot = gslot then some r else none
/-- The copy-engine block that goes with a word of a gang: that of its LC and voice. -/
def copyRunAt (s : State) (k gslot : Nat) (w : Placement × Bool × Bool) : Option Run :=
  if w.2.1 then (copyRunOf s k gslot w.1.core).filter fun r => r.lc == w.1.lc && r.voice == w.1.voice else none
/-- A region of the partition beside those of a gang is placed on a core. -/
def sharesQueue (s : State) (k gslot core part : Nat) : Bool :=
  (List.range 4).any fun sl =>
    let h := getReg s (thKey core sl)
    h.placed && h.part == part && !(h.scene == k && h.gslot == gslot)
/-- The context image of a word of a gang, as its core holds it now. -/
def takeImage (s : State) (k gslot : Nat) (g : Gang) (y : Placement × Bool × Bool) : Image :=
  let x := getScene s k
  let w := y.1
  let tk := thKey w.core w.slot
  let cr := copyRunAt s k gslot y
  let own := y.2.2 && !sharesQueue s k gslot w.core x.part
  let run := runOf s w.core w.slot
  { gang := g.id, part := x.part, lc := w.lc, voice := w.voice, slot := w.slot, core := w.core, freezeTick := g.freezeTick
    thread := getTh s tk, snap := snapOf s w.core w.slot, run := run, copyRun := cr, copier := cr.map fun _ => getCopier s w.core
    records := if own then (lookup s.queues (16 * w.core + x.part)).getD [] else []
    more := own && s.queueMore.contains (16 * w.core + x.part)
    chorus := run.bind fun r => if r.chorus then some (getVoice s tk) else none }
/-- The images of a gang. -/
def takeImages (s : State) (k gslot : Nat) (g : Gang) : List Image := (gangWords g).map (takeImage s k gslot g)
/-- Pages of 4 KiB that a number of words take. -/
def pagesFor (n : Nat) : Nat := cdiv (8 * n) 4096
/-- Free pages of a partition's context area above its first 16 MiB, by their numbers. -/
def freePages (s : State) (part : Nat) : List Nat :=
  let used := (s.images.filter (·.part == part)).flatMap (·.pages)
  ((List.range ((getPart s part).ctxSize * 512 - 4096)).map (· + 4096)).filter fun p => !used.contains p
/-- Pages that the images of a gang take. -/
def imagePages (s : State) (p : Nat × Nat) : Nat :=
  match (getScene s p.1).gangs[p.2]? with
  | none => 0
  | some g => (takeImages s p.1 p.2 g).foldl (fun n i => n + pagesFor (imageWords s i).length) 0
/-- The images of the gangs of a list fit together, for the partition of each (R435). -/
def imagesFit (s : State) (l : List (Nat × Nat)) : Bool :=
  l.all fun p =>
    let part := (getScene s p.1).part
    ((l.filter fun q => (getScene s q.1).part == part).map (imagePages s)).sum ≤ (freePages s part).length
/-- Address of a page of a context area. -/
def ctxPage (s : State) (part p : Nat) : Nat := (getPart s part).ctxBase * 2 ^ 21 + 4096 * p
/-- An image is written to pages of its context area, with the check of the blocks that it writes in part (R439). -/
def storeImage (s : State) (i : Image) : State :=
  let ws := imageWords s i
  let ps := (freePages s i.part).take (pagesFor ws.length)
  let s := ps.zipIdx.foldl (fun s p =>
    let l := ((ws.drop (512 * p.2)).take 512).flatMap fun w => leBytes 8 w.toNat
    let q : Place := ⟨.dev, ctxPage s i.part p.1⟩
    eccFresh (wrMem (eccStore s q l.length i.core).1 q l) q l.length) s
  { s with images := s.images ++ [{ i with pages := ps, words := ws.length }] }
/-- An image is read at a resume: whether no word of it has an uncorrectable error (R371, R439). -/
def readImage (s : State) (i : Image) : State × Bool :=
  i.pages.zipIdx.foldl (fun x p =>
    let y := eccRead x.1 ⟨.dev, ctxPage x.1 i.part p.1⟩ (8 * min 512 (i.words - 512 * p.2)) i.part i.core
    (y.1, x.2 && y.2)) (s, true)
/-- The length in words that the part bits of an image's word 0 and its header imply, with the entries that it holds. -/
def impliedLength (s : State) (i : Image) (w0 hdr : Nat) : Nat :=
  let copier := if bit w0 25 then some (i.copier.getD {}) else none
  let chorus := if bit w0 24 then some (i.chorus.getD {}) else none
  (imageWords s { i with snap := { i.snap with region := { i.snap.region with hdr := w64 hdr } }, copier := copier, chorus := chorus }).length
/-- The words of an image that its checks read, as the context area holds them now, are damaged (R376). -/
def imageDamaged (s : State) (i : Image) : Bool :=
  match i.pages with
  | [] => false
  | p :: _ =>
    let w := leNat (rdBytes s.mem (ctxPage s i.part p) 8)
    bits w 63 48 != 1 || bits w 47 40 != i.gang || bits w 39 36 != i.part || bits w 35 30 != i.lc || bits w 29 28 != i.slot
      || bits w 23 0 != impliedLength s i w (leNat (rdBytes s.mem (ctxPage s i.part p + 24) 8))

/-! ## Which gangs are pre-empted (R89, R95) -/

/-- A gang in the order in which ready gangs are served: ascending GANGID after the one last served. -/
def insReady (s : State) (p : Nat × Nat) : List (Nat × Nat) → List (Nat × Nat)
  | [] => [p]
  | a :: r =>
    let key (x : Nat × Nat) : Nat := (gangId s x.1 x.2 + 255 - s.mgmt.lastGang) % 256
    if key p < key a then p :: a :: r else a :: insReady s p r
/-- Gangs of loaded scenes that satisfy p. -/
def gangsWhere (s : State) (p : Nat → Nat → Gang → Bool) : List (Nat × Nat) :=
  s.scenes.flatMap fun x => if x.2.live && x.2.loaded then
    (x.2.gangs.zipIdx.filter fun g => p x.1 g.2 g.1).map fun g => (x.1, g.2) else []
/-- Gangs without pages for which a block has fired, in the order of service. -/
def readyGangs (s : State) : List (Nat × Nat) :=
  (gangsWhere s fun k gi g => !g.resident && !g.bad && s.images.any fun i =>
    i.snap.region.scene == k && i.snap.region.gslot == gi && (i.run.isSome || i.copyRun.isSome)).foldl (fun l p => insReady s p l) []
/-- Place a gang again, every word preferring the core that it last held (R91). -/
def placeAgain (s : State) (k gslot : Nat) : Except Nat (State × Gang) :=
  match (getScene s k).gangs[gslot]? with
  | none => .error 0
  | some g =>
    let pref (w : Placement) : Placement := { w with any := false, pref := w.core }
    let back (p : Nat × Placement) : Nat × Placement :=
      match g.words[p.1]? with
      | some w => (p.1, { w with core := p.2.core, cap := p.2.cap })
      | none => p
    match placeWords s (getScene s k) k gslot g ((wordOrder g).map fun w => (w.1, pref w.2)) [] with
    | .error i => .error i
    | .ok r =>
      let g1 := withWords g (r.2.map back)
      if voicesHold s g1 then .ok (r.1, g1) else .error 0
/-- The regions of a gang gone from the grid. -/
def liftGang (s : State) (p : Nat × Nat) : State :=
  { s with regions := s.regions.filter fun g => !(g.2.placed && g.2.scene == p.1 && g.2.gslot == p.2) }
/-- Gangs that may be pre-empted: best-effort, with their pages for their partition's quantum, and whose images fit; a gang that holds its pages counts,
whether or not a block of it runs at present (DESIGN CHOICE, log 61). A gang placed again at this boundary has its quantum before it, and one whose scene stops
or starts at it is not among them (R95). -/
def victims (s : State) : List (Nat × Nat) :=
  gangsWhere s fun k gi g =>
    let x := getScene s k
    let p := getPart s x.part
    let changes := x.stopTick == some (ticks s) || (x.running && x.origin == ticks s)
    !p.rt && g.resident && g.preempt == 0 && !changes
      && (((if p.quant = 0 then 256 else p.quant) * 2 ^ s.tb.hbexp : Nat) : Int) ≤ since s g.heldSince && imagesFit s [(k, gi)]
/-- The first gangs of a list whose pages a ready gang needs: the shortest prefix that makes room, without those it can do without. A gang whose images do not
fit beside those of the gangs taken before it is passed over (R435). -/
def needed (s h : State) (p : Nat × Nat) (taken : List (Nat × Nat)) : List (Nat × Nat) → List (Nat × Nat) → Option (List (Nat × Nat))
  | acc, l =>
    if (placeAgain (acc.foldl liftGang h) p.1 p.2).toBool then
      some (acc.foldl (fun a v => let b := a.filter (· != v); if (placeAgain (b.foldl liftGang h) p.1 p.2).toBool then b else a) acc)
    else match l with
      | [] => none
      | v :: r => needed s h p taken (if imagesFit s (taken ++ acc ++ [v]) then acc ++ [v] else acc) r
  termination_by structural _ l => l
/-- Gangs to pre-empt for the ready gangs in their order: each takes its room in the grid h before the next is considered; the images of those taken already
have their pages. -/
def chooseVictims (s h : State) (taken : List (Nat × Nat)) : List (Nat × Nat) → List (Nat × Nat) → List (Nat × Nat)
  | [], _ => []
  | p :: r, l =>
    match needed s h p taken [] l with
    | none => chooseVictims s h taken r l
    | some vs =>
      let h := vs.foldl liftGang h
      let h := match placeAgain h p.1 p.2 with
        | .ok x => x.1
        | .error _ => h
      vs ++ chooseVictims s h (taken ++ vs) r (l.filter fun v => !vs.contains v)

/-! ## Freeze and release (R87, R90) -/

/-- The region slots of a gang: cores and slots. -/
def gangSlots (g : Gang) : List (Nat × Nat) := g.words.map fun w => (w.core, w.slot)
/-- A gang's array operations have ended, with what they schedule on its regions' clocks (R331). -/
def arrayQuiet (s : State) (g : Gang) : Bool :=
  (gangSlots g).all fun w => (arrayOps s w.1 w.2).isEmpty && !s.agenda.any fun d => d.clk == .region (thKey w.1 w.2)
/-- A region freezes at the beginning of a cycle (R87): it does not count the cycle, and a boundary or an end of a run in it happens when counting resumes
(R304). -/
def freezeRegion (s : State) (w : Nat × Nat) : State :=
  let k := thKey w.1 w.2
  let g := getReg s k
  let g := if countsNow s g then { g with count := g.count - 1, countedAt := 0 } else g
  let here (c : Cur) : Bool := c.core == w.1 && c.slot == w.2
  setReg { s with todo := s.todo.filter fun a => match a with
      | .row .iiBoundary c => !here c
      | .row .kernelRunEnd c => !here c
      | _ => true } k { g with frozen := true }
/-- A gang freezes (R90): regions, threads, and copies, whose transfers stop. -/
def freezeGang (s : State) (k gslot : Nat) (g : Gang) : State :=
  let s := mapGang s k gslot fun g => { g with preempt := 2, freezeTick := ticks s }
  let s := (gangSlots g).foldl (fun s w =>
    let tk := thKey w.1 w.2
    let s := freezeRegion (guardRecords s w.1 w.2) w
    setTh s tk { getTh s tk with frozen := true }) s
  let s := (distinct (g.words.map (·.core))).foldl (fun s c =>
    if (copyRunOf s k gslot c).isNone then s
    else
      let e := getCopier s c
      setCopier { s with dram := s.dram.filter fun a => !(a.core == c && a.entry.isSome) } c
        { e with journal := e.journal.map fun e => if e.performed then e else { e with discarded := true } }) s
  { s with runs := s.runs.map fun r => if r.2.scene = k ∧ r.2.gslot = gslot then (r.1, { r.2 with frozenAt := some (ticks s) }) else r }
/-- A region slot may be read out: no branch without its slot, no access of its region or thread on its way, no signature, race check or
widening on its way, and no program of its core being selected (R245). -/
def slotQuiet (s : State) (core slot : Nat) : Bool :=
  let t := getTh s (thKey core slot)
  let mine (q : Req) : Bool := q.core == core && (match q.asker with
    | .thread i => i == slot
    | .port sl _ _ => sl == slot
    | .aRow sl _ _ => sl == slot
    | .spill t _ => t == slot)
  let coming : Bool := match t.wait with
    | .load _ => true
    | .loaded _ _ _ _ => true
    | .compare true => s.syncQ.any fun q => q.op == 65 && q.core == core && q.t == slot
    | .raced _ _ _ => true
    | .fenceTrip _ _ _ => widening s core slot
    | _ => false
  let selecting : Bool := s.agenda.any fun d => match d.act with
    | .epLoaded c _ _ _ _ => c == core
    | _ => false
  t.branch.isNone && !coming && !selecting && s.reqs.all fun q => !mine q || (q.done && q.arrived)
/-- A copy engine may be read out: every notice of its journal is served, and step-4 messages are acknowledged (R206). -/
def copierQuiet (s : State) (core : Nat) : Bool :=
  (getCopier s core).journal.all fun e => !e.performed && !s.syncQ.any fun q => q.op == 56 && q.core == core && q.t == e.no
/-- A gang may be read out. -/
def gangQuiet (s : State) (k gslot : Nat) (g : Gang) : Bool :=
  (gangSlots g).all (fun w => slotQuiet s w.1 w.2) && g.words.all fun w => (copyRunOf s k gslot w.core).isNone || copierQuiet s w.core
/-- A region slot passes to its image, with its thread, and with the queue and the copy engine that go with it. -/
def clearSlot (s : State) (k gslot : Nat) (y : Placement × Bool × Bool) : State :=
  let w := y.1
  let tk := thKey w.core w.slot
  let part := (getScene s k).part
  let qk := 16 * w.core + part
  let s := if y.2.2 && !sharesQueue s k gslot w.core part then
    { s with queues := tdel s.queues qk, queueMore := s.queueMore.filter (· != qk) } else s
  let s := if (copyRunAt s k gslot y).isSome then setCopier (delRun s w.core 4) w.core {} else s
  let s := setVoice (setTh s tk { getTh s tk with running := false, frozen := false, wait := .none, flags := 0 }) tk {}
  let port (q : Req) : Bool := q.core == w.core && (match q.asker with
    | .port sl _ _ => sl == w.slot
    | _ => false)
  putRegion (delRun { s with reqs := s.reqs.filter fun q => !port q } w.core w.slot) w.core w.slot {}
/-- The cores of a gang. -/
def gangCores (g : Gang) : List Nat := distinct (g.words.map (·.core))
/-- The images of a gang are written, and its pages and slots released. -/
def releaseGang (s0 : State) (k gslot : Nat) (g : Gang) : State :=
  let s := (gangCores g).foldl (fun s c => flushFor s c (getScene s k).part) s0
  let is := takeImages s k gslot g
  let s := (gangWords g).foldl (fun s w => clearSlot s k gslot w) s
  let s := is.foldl storeImage s
  mapGang s k gslot fun g => { g with resident := false, preempt := 0 }
/-- A gang whose images have grown past its context area while it was read out stays resident, and goes on (R435). -/
def thawGang (s : State) (k gslot : Nat) (g : Gang) : State :=
  let s := (gangSlots g).foldl (fun s w =>
    let tk := thKey w.1 w.2
    setTh (setReg s tk { getReg s tk with frozen := false }) tk { getTh s tk with frozen := false }) s
  let s := (gangCores g).foldl (fun s c => if (copyRunOf s k gslot c).isSome then replay s c else s) s
  mapGang s k gslot fun g => { g with preempt := 0 }
/-- Ready gangs that can be placed now take their pages. -/
def resumeReady (s : State) : State :=
  match readyGangs s with
  | [] => s
  | p :: r => match (p :: r).find? fun q => (placeAgain s q.1 q.2).toBool with
    | none => s
    | some q => soon s (.row .resume { ix := q.1, val := q.2 })
/-- A pre-emption goes on as far as it can: a gang freezes at the beginning of a cycle. -/
def preemptOne (s : State) (p : Nat × Nat) : State :=
  match (getScene s p.1).gangs[p.2]? with
  | none => s
  | some g =>
    if g.preempt = 1 then (if s.phase = 0 ∧ arrayQuiet s g = true then freezeGang s p.1 p.2 g else s)
    else if g.preempt = 2 then
      (if !gangQuiet s p.1 p.2 g then s
       else if imagesFit s [p] then resumeReady (releaseGang s p.1 p.2 g)
       else thawGang s p.1 p.2 g)
    else s
/-- Pre-emptions in progress go on. -/
def preemptStep (s : State) : State := (gangsWhere s fun _ _ g => g.preempt != 0).foldl preemptOne s

/-- Pre-emption of a heartbeat boundary (R89): gangs being read out count as gone. -/
def preemption (s : State) : State :=
  let open_ := gangsWhere s fun _ _ g => g.preempt != 0
  let vs := chooseVictims s (open_.foldl liftGang s) open_ (readyGangs s) (victims s)
  let s := vs.foldl (fun s v => mapGang s v.1 v.2 fun g => { g with preempt := 1 }) s
  resumeReady (preemptStep s)
/-- HEARTBEAT (R37): FENCE.SC ends, the sample and the throttle, then pre-emption, which reads out under the new pattern (R426). -/
def execHeartbeat (s : State) : Out := .next (preemption (thermal ((List.range 256).foldl (fun (st : State) k => endFenceSc st (k, getTh s k)) s)))

/-! ## Resume (R51, R91, R376) -/

/-- A region as its image restores it in a new place: what was not live is zero, and its generators 1 (R149). A result whose reply came late is delivered before
the region counts again (R304). -/
def restoreRegion (s : State) (i : Image) (core : Nat) : State :=
  let k := thKey core i.slot
  let f := getReg s k
  let r := i.snap.region
  let h := r.hdr.toNat
  let s := setReg s k { r with px := f.px, py := f.py, pw := f.pw, ph := f.ph, fenced := f.fenced, frozen := false, countedAt := 0 }
  (List.range 16).foldl (fun s page => (List.range 16).foldl (fun s e =>
    let ek := elemIn page e
    setEl s (256 * k + ek) (if bit (hLivePg h) page then liveElem h (tget i.snap.elems default ek) else {})) s) s
/-- Results of a region that were due before its freeze and have come since are delivered (R304). -/
def deliverLate (s : State) (k : Nat) : State :=
  ((s.elems.filter fun e => e.1 / 256 == k && e.2.pipe.any fun f => f.due ≤ (getReg s k).count).map (·.1)).foldl
    (fun s e => endElem s (k / 4) (k % 4) e false) s
/-- A saved wait, re-evaluated at the thread's first opportunity. -/
def restoreWait : Wait → Wait
  | .untilN _ => .none
  | .raced _ _ none => .none
  | .fenceSc ids _ => .fenceSc ids false
  | w => w
/-- Waiters of a thread's request at an engine, on its new core. -/
def moveWaiters (s : State) (w : Wait) (core : Nat) : State :=
  match w with
  | .sync id =>
    let f (x : Waiter) : Waiter := if x.id = id then { x with core := core } else x
    { s with
      objWaiters := s.objWaiters.map fun p => (p.1, f p.2)
      phasers := s.phasers.map fun p => (p.1, { p.2 with waiters := p.2.waiters.map f })
      homes := s.homes.map fun p => (p.1, { p.2 with echoes := p.2.echoes.map fun e => (e.1, e.2.1, f e.2.2) })
      syncQ := s.syncQ.map fun q => if q.id = id then { q with core := core } else q }
  | _ => s
/-- Where the block of a run stands in the configuration store of a core. -/
def runOn (s : State) (core : Nat) (r : Run) : Run := { r with base := ((varLoc s core r.scene r.block r.variant).map (·.1)).getD r.base }
/-- Destinations of a journal entry, resolved where the gang stands now. -/
def entryOn (s : State) (core : Nat) (r : Run) (e : JEntry) : JEntry :=
  let w (i : Nat) : Nat := (e.words.getD i 0).toNat
  let x := copyEntOf (w 0) (w 1) (w 2) (w 3)
  { e with dests := if x.rows ≠ 0 then (castLcs x).map fun l => coreOf s r.scene r.gslot l r.voice else [core] }
/-- A held store of a voice, whose place may have moved with its gang. -/
def heldOn (s : State) (core : Nat) (r : Run) (x : RelRec) : RelRec :=
  match x with
  | .undo o old => .undo o old
  | .held m tid off data q =>
    let w := whoOf core r
    let v := tidOf s core r.part tid
    let j := ((List.range 8).find? fun j => bit m j).getD 0
    match placeOf s w v (v.base + heldOff v.base m off) 1 true .prompter with
    | .ok p => .held m tid off data ⟨p.store, p.addr - j⟩
    | .error _ => .held m tid off data q
/-- The chorus part of an image is restored: the release buffer stands in its area of the new core's pool (R386, R396). -/
def restoreVoice (s : State) (core slot : Nat) (r : Run) (v : Voice) : State :=
  let v := { v with recs := v.recs.map (heldOn s core r) }
  setVoice (wrMem s ⟨.dev, poolAddr core (relBase s core)⟩ ((bufferWords s v).flatMap fun w => leBytes 8 w.toNat)) (thKey core slot) v
/-- An image is restored on a core: region, thread, copy engine with its journal replayed, records, and chorus part. -/
def restoreImage (s : State) (i : Image) (core : Nat) : State :=
  let tk := thKey core i.slot
  let s := deliverLate (restoreRegion s i core) tk
  let s := match i.run with
    | none => s
    | some r => setRun s core i.slot (runOn s core r)
  let s := moveWaiters (setTh s tk { i.thread with frozen := false, wait := restoreWait i.thread.wait }) i.thread.wait core
  let s := match i.chorus, i.run with
    | some v, some r => restoreVoice s core i.slot r v
    | _, _ => s
  let qk := 16 * core + i.part
  let q := i.records ++ (lookup s.queues qk).getD []
  let s := if q.isEmpty then s else { s with queues := tins s.queues qk (q.take 16) }
  let s := if i.more || 16 < q.length then { s with queueMore := nins s.queueMore qk } else s
  match i.copyRun, i.copier with
  | some r, some c =>
    let s := setRun s core 4 (runOn s core r)
    replay (setCopier s core { c with journal := c.journal.map (entryOn s core r) }) core
  | _, _ => s
/-- Compare points of a home moved by d ticks. -/
def laterPoints (h : Home) (d : Nat) : Home := { h with points := h.points.map fun p => { p with first := p.first + d } }
/-- The lag expiries of a home's open points. -/
def lagAgain (s : State) (hk : Nat) : State :=
  (getHome s hk).points.foldl (fun s p => schedule s .tick (p.first + lagLimit s hk p + 1) (.row .chorusLagExpiry { val := hk })) s
/-- Open compare points of a gang's chorus threads: the time of the freeze does not count against their limit (R394, R396). -/
def movePoints (s : State) (k gslot d : Nat) : State :=
  let mine (hk : Nat) : Bool := homeScene hk == k && homeGslot hk == gslot
  let hs := s.homes.map fun (h : Nat × Home) => if mine h.1 then (h.1, laterPoints h.2 d) else h
  ((hs.map (·.1)).filter mine).foldl lagAgain { s with homes := hs }
/-- An image of a gang is damaged: 0x14B is queued, and the gang is not resumed (R371, R376). -/
def refuseResume (s : State) (k gslot : Nat) (g : Gang) (i : Image) : State :=
  let w : Why := { cause := 0x14B, eng := 7, slot := i.slot, fatal := false }
  let s := queueWith s i.core i.part w i.lc ((i.run.map (·.block)).getD 0xFFF) ((i.run.map (·.cue)).getD 0) g.id
  let s := mapGang s k gslot fun g => { g with bad := true }
  { s with
    cues := s.cues.map fun p => if p.2.scene = k ∧ qGslot p.2 = gslot ∧ (p.2.st = .run ∨ p.2.st = .under) then (p.1, { p.2 with st := .done }) else p
    images := s.images.map fun j => if j.snap.region.scene = k ∧ j.snap.region.gslot = gslot then
      { j with run := none, copyRun := none, copier := none, chorus := none } else j }
/-- A gang is placed again from its images; one with an uncorrectable error is not used (DESIGN CHOICE, log 49). -/
def resumeGang (s0 : State) (k gslot : Nat) (g : Gang) : State :=
  let mine (i : Image) : Bool := i.snap.region.scene == k && i.snap.region.gslot == gslot
  let x := (s0.images.filter mine).foldl (fun (x : State × List Image) i =>
    let y := readImage x.1 i
    (y.1, if y.2 && !imageDamaged s0 i then x.2 else x.2 ++ [i])) (s0, [])
  let s := x.1
  match x.2.head? with
  | some i => refuseResume s k gslot g i
  | none =>
    match placeAgain s k gslot with
    | .error _ => s
    | .ok (s1, g1) => match moveGang s1 k gslot { g1 with resident := true, heldSince := ticks s } with
      | none => s
      | some s2 =>
        let is := s2.images.filter mine
        let s3 := { s2 with images := s2.images.filter fun i => !mine i, mgmt := { s2.mgmt with lastGang := g.id } }
        let core (i : Image) : Nat := coreOf s3 k gslot i.lc i.voice
        movePoints (is.foldl (fun s i => restoreImage s i (core i)) s3) k gslot (ago s g.freezeTick)
/-- RESUME (R91): then the next ready gang that has room. -/
def execResume (s : State) : Out :=
  let k := s.cur.ix
  .next (match (getScene s k).gangs[s.cur.val]? with
    | none => s
    | some g => if g.resident || !(readyGangs s).contains (k, s.cur.val) then s else resumeReady (resumeGang s k s.cur.val g))

end Sys2Proof.Machine
end

