-- ==== Sys2Proof/Machine/Dispatch.lean ====
section
/-! DEFINITION. One arm for each constructor of Instr: the meaning of each row of the opcode table. -/

namespace Sys2Proof.Machine

/-- What an instruction does in a state: the call of its meaning. -/
def exec (i : Instr) (s : State) : Host.Outcome State Fault Refusal :=
  match i with
  | .add d a b => Sys2Proof.Machine.execAdd d a b s
  | .sub d a b => Sys2Proof.Machine.execSub d a b s
  | .mul d a b => Sys2Proof.Machine.execMul d a b s
  | .mulh d a b => Sys2Proof.Machine.execMulh d a b s
  | .mulhu d a b => Sys2Proof.Machine.execMulhu d a b s
  | .andR d a b => Sys2Proof.Machine.execAndR d a b s
  | .orR d a b => Sys2Proof.Machine.execOrR d a b s
  | .xorR d a b => Sys2Proof.Machine.execXorR d a b s
  | .andnR d a b => Sys2Proof.Machine.execAndnR d a b s
  | .shl d a b => Sys2Proof.Machine.execShl d a b s
  | .shr d a b => Sys2Proof.Machine.execShr d a b s
  | .sar d a b => Sys2Proof.Machine.execSar d a b s
  | .minS d a b => Sys2Proof.Machine.execMinS d a b s
  | .maxS d a b => Sys2Proof.Machine.execMaxS d a b s
  | .minU d a b => Sys2Proof.Machine.execMinU d a b s
  | .maxU d a b => Sys2Proof.Machine.execMaxU d a b s
  | .slt d a b => Sys2Proof.Machine.execSlt d a b s
  | .sltu d a b => Sys2Proof.Machine.execSltu d a b s
  | .seq d a b => Sys2Proof.Machine.execSeq d a b s
  | .popc d a => Sys2Proof.Machine.execPopc d a s
  | .clz d a => Sys2Proof.Machine.execClz d a s
  | .addi d a imm => Sys2Proof.Machine.execAddi d a imm s
  | .andi d a imm => Sys2Proof.Machine.execAndi d a imm s
  | .ori d a imm => Sys2Proof.Machine.execOri d a imm s
  | .xori d a imm => Sys2Proof.Machine.execXori d a imm s
  | .shli d a n => Sys2Proof.Machine.execShli d a n s
  | .shri d a n => Sys2Proof.Machine.execShri d a n s
  | .sari d a n => Sys2Proof.Machine.execSari d a n s
  | .slti d a imm => Sys2Proof.Machine.execSlti d a imm s
  | .lis d lane imm => Sys2Proof.Machine.execLis d lane imm s
  | .ldd d a tid off => Sys2Proof.Machine.execLdd d a tid off s
  | .ldw d a tid off => Sys2Proof.Machine.execLdw d a tid off s
  | .std d a tid off => Sys2Proof.Machine.execStd d a tid off s
  | .stw d a tid off => Sys2Proof.Machine.execStw d a tid off s
  | .srrd d sr => Sys2Proof.Machine.execSrrd d sr s
  | .srwr a sr => Sys2Proof.Machine.execSrwr a sr s
  | .br off => Sys2Proof.Machine.execBr off s
  | .call off => Sys2Proof.Machine.execCall off s
  | .bc c a off => Sys2Proof.Machine.execBc c a off s
  | .bstS line off => Sys2Proof.Machine.execBstS line off s
  | .bstC line off => Sys2Proof.Machine.execBstC line off s
  | .bct k off => Sys2Proof.Machine.execBct k off s
  | .jr a => Sys2Proof.Machine.execJr a s
  | .ret => Sys2Proof.Machine.execRet s
  | .callr a => Sys2Proof.Machine.execCallr a s
  | .kset a k => Sys2Proof.Machine.execKset a k s
  | .krd d k => Sys2Proof.Machine.execKrd d k s
  | .kstart a sl => Sys2Proof.Machine.execKstart a sl s
  | .kwait sl => Sys2Proof.Machine.execKwait sl s
  | .kstop sl => Sys2Proof.Machine.execKstop sl s
  | .cfgld p a b sl => Sys2Proof.Machine.execCfgld p a b sl s
  | .constw a b j sl => Sys2Proof.Machine.execConstw a b j sl s
  | .vsel a sl => Sys2Proof.Machine.execVsel a sl s
  | .epsel a sl => Sys2Proof.Machine.execEpsel a sl s
  | .qarm => Sys2Proof.Machine.execQarm s
  | .qsel k => Sys2Proof.Machine.execQsel k s
  | .qcancel k => Sys2Proof.Machine.execQcancel k s
  | .stage => Sys2Proof.Machine.execStage s
  | .stageset a => Sys2Proof.Machine.execStageset a s
  | .tidrd d tid w => Sys2Proof.Machine.execTidrd d tid w s
  | .tidwr d a tid w => Sys2Proof.Machine.execTidwr d a tid w s
  | .resclr a tid => Sys2Proof.Machine.execResclr a tid s
  | .restst d a tid => Sys2Proof.Machine.execRestst d a tid s
  | .phreg m a => Sys2Proof.Machine.execPhreg m a s
  | .phdrop a => Sys2Proof.Machine.execPhdrop a s
  | .phsig a => Sys2Proof.Machine.execPhsig a s
  | .phwait a b => Sys2Proof.Machine.execPhwait a b s
  | .phsw a b => Sys2Proof.Machine.execPhsw a b s
  | .phqry d a => Sys2Proof.Machine.execPhqry d a s
  | .ctrwait d a b => Sys2Proof.Machine.execCtrwait d a b s
  | .ctrinit a b => Sys2Proof.Machine.execCtrinit a b s
  | .ctrrd d a => Sys2Proof.Machine.execCtrrd d a s
  | .ctrstat d a => Sys2Proof.Machine.execCtrstat d a s
  | .aadd d a b wide o sc => Sys2Proof.Machine.execAadd d a b wide o sc s
  | .amin d a b wide o sc => Sys2Proof.Machine.execAmin d a b wide o sc s
  | .amax d a b wide o sc => Sys2Proof.Machine.execAmax d a b wide o sc s
  | .aminu d a b wide o sc => Sys2Proof.Machine.execAminu d a b wide o sc s
  | .amaxu d a b wide o sc => Sys2Proof.Machine.execAmaxu d a b wide o sc s
  | .aand d a b wide o sc => Sys2Proof.Machine.execAand d a b wide o sc s
  | .aor d a b wide o sc => Sys2Proof.Machine.execAor d a b wide o sc s
  | .axor d a b wide o sc => Sys2Proof.Machine.execAxor d a b wide o sc s
  | .axch d a b wide o sc => Sys2Proof.Machine.execAxch d a b wide o sc s
  | .acas d a b wide o sc => Sys2Proof.Machine.execAcas d a b wide o sc s
  | .afadd d a b o sc => Sys2Proof.Machine.execAfadd d a b o sc s
  | .fenceP src dst sc => Sys2Proof.Machine.execFenceP src dst sc s
  | .fenceSc => Sys2Proof.Machine.execFenceSc s
  | .fenceD => Sys2Proof.Machine.execFenceD s
  | .rel sc => Sys2Proof.Machine.execRel sc s
  | .acq sc => Sys2Proof.Machine.execAcq sc s
  | .jobpost d a => Sys2Proof.Machine.execJobpost d a s
  | .timerd d => Sys2Proof.Machine.execTimerd d s
  | .timefr d => Sys2Proof.Machine.execTimefr d s
  | .tickrd d => Sys2Proof.Machine.execTickrd d s
  | .waitt a => Sys2Proof.Machine.execWaitt a s
  | .waittCue a => Sys2Proof.Machine.execWaittCue a s
  | .trap imm => Sys2Proof.Machine.execTrap imm s
  | .eret => Sys2Proof.Machine.execEret s
  | .endBlock => Sys2Proof.Machine.execEndBlock s
  | .brk imm => Sys2Proof.Machine.execBrk imm s
  | .staterd d a space => Sys2Proof.Machine.execStaterd d a space s
  | .illegalWord w => Sys2Proof.Machine.execIllegalWord w s
  | .fetchFault => Sys2Proof.Machine.execFetchFault s
  | .recordDelivery => Sys2Proof.Machine.execRecordDelivery s
  | .debugResume => Sys2Proof.Machine.execDebugResume s
  | .debugAccess => Sys2Proof.Machine.execDebugAccess s
  | .eNop x => Sys2Proof.Machine.execENop x s
  | .eMov x => Sys2Proof.Machine.execEMov x s
  | .eSel x => Sys2Proof.Machine.execESel x s
  | .ePick x => Sys2Proof.Machine.execEPick x s
  | .ePset x => Sys2Proof.Machine.execEPset x s
  | .eVote3 x => Sys2Proof.Machine.execEVote3 x s
  | .eDelay x => Sys2Proof.Machine.execEDelay x s
  | .eFlag x => Sys2Proof.Machine.execEFlag x s
  | .eTrap x => Sys2Proof.Machine.execETrap x s
  | .eIadd x => Sys2Proof.Machine.execEIadd x s
  | .eIsub x => Sys2Proof.Machine.execEIsub x s
  | .eImul x => Sys2Proof.Machine.execEImul x s
  | .eImulh x => Sys2Proof.Machine.execEImulh x s
  | .eImad x => Sys2Proof.Machine.execEImad x s
  | .eIabs x => Sys2Proof.Machine.execEIabs x s
  | .eIneg x => Sys2Proof.Machine.execEIneg x s
  | .eImin x => Sys2Proof.Machine.execEImin x s
  | .eImax x => Sys2Proof.Machine.execEImax x s
  | .eIminu x => Sys2Proof.Machine.execEIminu x s
  | .eImaxu x => Sys2Proof.Machine.execEImaxu x s
  | .eIsat x => Sys2Proof.Machine.execEIsat x s
  | .eShl x => Sys2Proof.Machine.execEShl x s
  | .eShr x => Sys2Proof.Machine.execEShr x s
  | .eSar x => Sys2Proof.Machine.execESar x s
  | .eRol x => Sys2Proof.Machine.execERol x s
  | .eAnd x => Sys2Proof.Machine.execEAnd x s
  | .eOr x => Sys2Proof.Machine.execEOr x s
  | .eXor x => Sys2Proof.Machine.execEXor x s
  | .eAndn x => Sys2Proof.Machine.execEAndn x s
  | .eNot x => Sys2Proof.Machine.execENot x s
  | .ePopc x => Sys2Proof.Machine.execEPopc x s
  | .eClz x => Sys2Proof.Machine.execEClz x s
  | .eBfx x => Sys2Proof.Machine.execEBfx x s
  | .eBfi x => Sys2Proof.Machine.execEBfi x s
  | .eIcmp x => Sys2Proof.Machine.execEIcmp x s
  | .eFcmp x => Sys2Proof.Machine.execEFcmp x s
  | .ePand x => Sys2Proof.Machine.execEPand x s
  | .ePor x => Sys2Proof.Machine.execEPor x s
  | .ePnot x => Sys2Proof.Machine.execEPnot x s
  | .eFadd x => Sys2Proof.Machine.execEFadd x s
  | .eFsub x => Sys2Proof.Machine.execEFsub x s
  | .eFmul x => Sys2Proof.Machine.execEFmul x s
  | .eFfma x => Sys2Proof.Machine.execEFfma x s
  | .eFmin x => Sys2Proof.Machine.execEFmin x s
  | .eFmax x => Sys2Proof.Machine.execEFmax x s
  | .eFabs x => Sys2Proof.Machine.execEFabs x s
  | .eFneg x => Sys2Proof.Machine.execEFneg x s
  | .eFrcp x => Sys2Proof.Machine.execEFrcp x s
  | .eFrsq x => Sys2Proof.Machine.execEFrsq x s
  | .eFexp2 x => Sys2Proof.Machine.execEFexp2 x s
  | .eFlog2 x => Sys2Proof.Machine.execEFlog2 x s
  | .eFtanh x => Sys2Proof.Machine.execEFtanh x s
  | .eFaddB2 x => Sys2Proof.Machine.execEFaddB2 x s
  | .eFmulB2 x => Sys2Proof.Machine.execEFmulB2 x s
  | .eFfmaB2 x => Sys2Proof.Machine.execEFfmaB2 x s
  | .eFaddH2 x => Sys2Proof.Machine.execEFaddH2 x s
  | .eFmulH2 x => Sys2Proof.Machine.execEFmulH2 x s
  | .eFfmaH2 x => Sys2Proof.Machine.execEFfmaH2 x s
  | .eCvtRn x => Sys2Proof.Machine.execECvtRn x s
  | .eCvtRz x => Sys2Proof.Machine.execECvtRz x s
  | .eCvtRd x => Sys2Proof.Machine.execECvtRd x s
  | .eCvtRu x => Sys2Proof.Machine.execECvtRu x s
  | .eCvtSr x => Sys2Proof.Machine.execECvtSr x s
  | .eQmax x => Sys2Proof.Machine.execEQmax x s
  | .eScle x => Sys2Proof.Machine.execEScle x s
  | .eQmx x => Sys2Proof.Machine.execEQmx x s
  | .eRfwd x => Sys2Proof.Machine.execERfwd x s
  | .eRadd x => Sys2Proof.Machine.execERadd x s
  | .eRsub x => Sys2Proof.Machine.execERsub x s
  | .eRmul x => Sys2Proof.Machine.execERmul x s
  | .eRmac x => Sys2Proof.Machine.execERmac x s
  | .eLdp x => Sys2Proof.Machine.execELdp x s
  | .eStp x => Sys2Proof.Machine.execEStp x s
  | .eLdpx x => Sys2Proof.Machine.execELdpx x s
  | .eStpx x => Sys2Proof.Machine.execEStpx x s
  | .aMode x => Sys2Proof.Machine.execAMode x s
  | .aWpreI x => Sys2Proof.Machine.execAWpreI x s
  | .aWpreA x => Sys2Proof.Machine.execAWpreA x s
  | .aWswap x => Sys2Proof.Machine.execAWswap x s
  | .aPass x => Sys2Proof.Machine.execAPass x s
  | .aDrain x => Sys2Proof.Machine.execADrain x s
  | .aClr x => Sys2Proof.Machine.execAClr x s
  | .aBind x => Sys2Proof.Machine.execABind x s
  | .aBindOff x => Sys2Proof.Machine.execABindOff x s
  | .weightFetch => Sys2Proof.Machine.execWeightFetch s
  | .preloadComplete => Sys2Proof.Machine.execPreloadComplete s
  | .aOperandFetch => Sys2Proof.Machine.execAOperandFetch s
  | .acAccumulate => Sys2Proof.Machine.execAcAccumulate s
  | .passComplete => Sys2Proof.Machine.execPassComplete s
  | .aclrZeroWrite => Sys2Proof.Machine.execAclrZeroWrite s
  | .drainStart => Sys2Proof.Machine.execDrainStart s
  | .epilogueBeat => Sys2Proof.Machine.execEpilogueBeat s
  | .epilogueStore => Sys2Proof.Machine.execEpilogueStore s
  | .drainComplete => Sys2Proof.Machine.execDrainComplete s
  | .pEend => Sys2Proof.Machine.execPEend s
  | .pErd d => Sys2Proof.Machine.execPErd d s
  | .pRrev d a p => Sys2Proof.Machine.execPRrev d a p s
  | .pSclx d a f => Sys2Proof.Machine.execPSclx d a f s
  | .pCvf d a f rm => Sys2Proof.Machine.execPCvf d a f rm s
  | .pBias d a tid => Sys2Proof.Machine.execPBias d a tid s
  | .pEadd d a b fp => Sys2Proof.Machine.execPEadd d a b fp s
  | .pEmul d a b fp => Sys2Proof.Machine.execPEmul d a b fp s
  | .pEmax d a b fp => Sys2Proof.Machine.execPEmax d a b fp s
  | .pEmin d a b fp => Sys2Proof.Machine.execPEmin d a b fp s
  | .pClmp d a f => Sys2Proof.Machine.execPClmp d a f s
  | .pRelu d a fp => Sys2Proof.Machine.execPRelu d a fp s
  | .pElut d a => Sys2Proof.Machine.execPElut d a s
  | .pQnt d a f rm => Sys2Proof.Machine.execPQnt d a f rm s
  | .pEst a f => Sys2Proof.Machine.execPEst a f s
  | .pEbyp a => Sys2Proof.Machine.execPEbyp a s
  | .pEsum d a fp => Sys2Proof.Machine.execPEsum d a fp s
  | .pEsel d a b c => Sys2Proof.Machine.execPEsel d a b c s
  | .pEmov d a => Sys2Proof.Machine.execPEmov d a s
  | .pEflg a line => Sys2Proof.Machine.execPEflg a line s
  | .cCopy e => Sys2Proof.Machine.execCCopy e s
  | .cGather e => Sys2Proof.Machine.execCGather e s
  | .cFill e => Sys2Proof.Machine.execCFill e s
  | .cCvtcopy e => Sys2Proof.Machine.execCCvtcopy e s
  | .cRedcopy e => Sys2Proof.Machine.execCRedcopy e s
  | .cDigest e => Sys2Proof.Machine.execCDigest e s
  | .lineTransfer => Sys2Proof.Machine.execLineTransfer s
  | .caravanSlot => Sys2Proof.Machine.execCaravanSlot s
  | .copyCompletion => Sys2Proof.Machine.execCopyCompletion s
  | .journalRelease => Sys2Proof.Machine.execJournalRelease s
  | .copyBlockRetirement => Sys2Proof.Machine.execCopyBlockRetirement s
  | .peerRequest => Sys2Proof.Machine.execPeerRequest s
  | .prompterPerform => Sys2Proof.Machine.execPrompterPerform s
  | .portPerform => Sys2Proof.Machine.execPortPerform s
  | .portReply => Sys2Proof.Machine.execPortReply s
  | .stallFreeze => Sys2Proof.Machine.execStallFreeze s
  | .iiBoundary => Sys2Proof.Machine.execIiBoundary s
  | .kernelRunEnd => Sys2Proof.Machine.execKernelRunEnd s
  | .tickBoundary => Sys2Proof.Machine.execTickBoundary s
  | .heartbeat => Sys2Proof.Machine.execHeartbeat s
  | .cueStart => Sys2Proof.Machine.execCueStart s
  | .slackExpiry => Sys2Proof.Machine.execSlackExpiry s
  | .deadlineExpiry => Sys2Proof.Machine.execDeadlineExpiry s
  | .understudyFire => Sys2Proof.Machine.execUnderstudyFire s
  | .blockRetirement => Sys2Proof.Machine.execBlockRetirement s
  | .resume => Sys2Proof.Machine.execResume s
  | .sceneChange => Sys2Proof.Machine.execSceneChange s
  | .sceneStop => Sys2Proof.Machine.execSceneStop s
  | .recovery => Sys2Proof.Machine.execRecovery s
  | .jobRecordRead => Sys2Proof.Machine.execJobRecordRead s
  | .startScene => Sys2Proof.Machine.execStartScene s
  | .launchGang => Sys2Proof.Machine.execLaunchGang s
  | .changeScene => Sys2Proof.Machine.execChangeScene s
  | .stopScene => Sys2Proof.Machine.execStopScene s
  | .loadScene => Sys2Proof.Machine.execLoadScene s
  | .unloadScene => Sys2Proof.Machine.execUnloadScene s
  | .sceneLoadComplete => Sys2Proof.Machine.execSceneLoadComplete s
  | .sceneUnloadComplete => Sys2Proof.Machine.execSceneUnloadComplete s
  | .gangLaunchComplete => Sys2Proof.Machine.execGangLaunchComplete s
  | .phaseBoundary => Sys2Proof.Machine.execPhaseBoundary s
  | .chorusSignature => Sys2Proof.Machine.execChorusSignature s
  | .chorusLagExpiry => Sys2Proof.Machine.execChorusLagExpiry s
  | .tbincWrite => Sys2Proof.Machine.execTbincWrite s
  | .tbctlWrite => Sys2Proof.Machine.execTbctlWrite s
  | .tbstepWrite => Sys2Proof.Machine.execTbstepWrite s
  | .stepApply => Sys2Proof.Machine.execStepApply s
  | .ptpSync => Sys2Proof.Machine.execPtpSync s
  | .ptpFollowUp => Sys2Proof.Machine.execPtpFollowUp s
  | .ptpPdelay => Sys2Proof.Machine.execPtpPdelay s
  | .ptpAnnounce => Sys2Proof.Machine.execPtpAnnounce s
  | .nonPtpFrame => Sys2Proof.Machine.execNonPtpFrame s
  | .syncTimeout => Sys2Proof.Machine.execSyncTimeout s
  | .announceTimeout => Sys2Proof.Machine.execAnnounceTimeout s
  | .ppsRise => Sys2Proof.Machine.execPpsRise s
  | .ppsFall => Sys2Proof.Machine.execPpsFall s
  | .ppsIn => Sys2Proof.Machine.execPpsIn s
  | .partcfgWrite => Sys2Proof.Machine.execPartcfgWrite s
  | .partwordWrite => Sys2Proof.Machine.execPartwordWrite s
  | .ptrootWrite => Sys2Proof.Machine.execPtrootWrite s
  | .tlbinvPage => Sys2Proof.Machine.execTlbinvPage s
  | .tlbinvPartition => Sys2Proof.Machine.execTlbinvPartition s
  | .tlbinvAll => Sys2Proof.Machine.execTlbinvAll s
  | .tlbinvComplete => Sys2Proof.Machine.execTlbinvComplete s
  | .poolOwnerWrite => Sys2Proof.Machine.execPoolOwnerWrite s
  | .dieOwnerWrite => Sys2Proof.Machine.execDieOwnerWrite s
  | .caravanMapWrite => Sys2Proof.Machine.execCaravanMapWrite s
  | .reservationWrite => Sys2Proof.Machine.execReservationWrite s
  | .syncAllotWrite => Sys2Proof.Machine.execSyncAllotWrite s
  | .ctxWrite => Sys2Proof.Machine.execCtxWrite s
  | .thrcfgWrite => Sys2Proof.Machine.execThrcfgWrite s
  | .pwrcapWrite => Sys2Proof.Machine.execPwrcapWrite s
  | .registerWrite => Sys2Proof.Machine.execRegisterWrite s
  | .mailboxRead => Sys2Proof.Machine.execMailboxRead s
  | .mailboxWrite => Sys2Proof.Machine.execMailboxWrite s
  | .wridxWrite => Sys2Proof.Machine.execWridxWrite s
  | .rctlWrite => Sys2Proof.Machine.execRctlWrite s
  | .hostWindow => Sys2Proof.Machine.execHostWindow s
  | .cxlTimeout => Sys2Proof.Machine.execCxlTimeout s
  | .cxlLinkDown => Sys2Proof.Machine.execCxlLinkDown s
  | .screqWrite => Sys2Proof.Machine.execScreqWrite s
  | .wdkickWrite => Sys2Proof.Machine.execWdkickWrite s
  | .watchdogExpiry => Sys2Proof.Machine.execWatchdogExpiry s
  | .initiateFlr => Sys2Proof.Machine.execInitiateFlr s
  | .flrStop => Sys2Proof.Machine.execFlrStop s
  | .flrDrainEnd => Sys2Proof.Machine.execFlrDrainEnd s
  | .flrComplete => Sys2Proof.Machine.execFlrComplete s
  | .channelFence => Sys2Proof.Machine.execChannelFence s
  | .capClear => Sys2Proof.Machine.execCapClear s
  | .retrainStart => Sys2Proof.Machine.execRetrainStart s
  | .retrainEnd => Sys2Proof.Machine.execRetrainEnd s
  | .retrainTimeout => Sys2Proof.Machine.execRetrainTimeout s
  | .budgetPeriod => Sys2Proof.Machine.execBudgetPeriod s
  | .saveStart => Sys2Proof.Machine.execSaveStart s
  | .saveUnit => Sys2Proof.Machine.execSaveUnit s
  | .pwrgoodLoss => Sys2Proof.Machine.execPwrgoodLoss s
  | .powerOff => Sys2Proof.Machine.execPowerOff s
  | .coldReset => Sys2Proof.Machine.execColdReset s
  | .bootStage => Sys2Proof.Machine.execBootStage s
  | .syncService => Sys2Proof.Machine.execSyncService s
  | .cxlTrained => Sys2Proof.Machine.execCxlTrained s
  | .cxlSnoop => Sys2Proof.Machine.execCxlSnoop s
  | .boundaryScan => Sys2Proof.Machine.execBoundaryScan s

end Sys2Proof.Machine
end

