-- ==== Sys2Proof/Machine/Sched.lean ====
section
/-! DEFINITION. When each step comes: the phases of a master cycle, the clocks of the agenda, the issue slots of threads, the issue attempts of
copy engines, and the fetch of a word (R5, R31, R44, R102, R105, R192, R217 to R220, R263 to R266, R301, R360, R415; DESIGN CHOICE, log 1). -/

namespace Sys2Proof.Machine

/-! ## Clocks (R31, R217, R264, R301, R415, R416) -/

/-- The present cycle brought a new tick: the fraction has wrapped (R31). -/
def tickCrossed (s : State) : Bool := s.tb.frac < s.tb.inc

/-- The timebase adds INC (R31), and that of a C-die that goes on alone its last INC (R411). -/
def tickOn (tb : TimeBase) : TimeBase :=
  { tb with
    ticks := (tb.ticks + (tb.frac + tb.inc) / 2 ^ 32) % 2 ^ 64, frac := (tb.frac + tb.inc) % 2 ^ 32
    own := tb.own.map fun o => (o.1, (o.2.1 + (o.2.2.1 + o.2.2.2) / 2 ^ 32) % 2 ^ 64, (o.2.2.1 + o.2.2.2) % 2 ^ 32, o.2.2.2) }
/-- Levels that wait take effect at the start of a group (R416). -/
def newLevels (s : State) : State :=
  if s.cycle % 16 = 0 then
    { s with level := s.levelPend.foldl (fun l p => tput l 16 p.1 p.2) s.level, levelPend := [] }
  else s
/-- A disabled cycle is not numbered (R217). -/
def countLost (s : State) : State :=
  { s with lost := (List.range 16).foldl (fun l cl => if enabled s cl then l else tput l 0 cl (tget l 0 cl + 1)) s.lost }
/-- A region counts a cycle that its cluster has, unless it is frozen or stalled (R87, R264, R301, R415). -/
def countRegion (s : State) (k : Nat) (g : Region) : Region :=
  if g.placed && coreOn s (k / 4) && !g.frozen && g.stalls.isEmpty then { g with count := g.count + 1, countedAt := s.cycle + 1 } else g

/-! ## The steps of a tick boundary and of a cycle -/

/-- A heartbeat boundary (R37). -/
def atHeartbeat (s : State) : Bool := ticks s % 2 ^ s.tb.hbexp == 0
/-- Channels with an access that no slot has served (R120). -/
def busyChannels (s : State) : List Nat :=
  (s.dram.filter fun a => !a.served).foldl (fun l a => nins l (channelOf a.pa)) []
/-- A step, if a condition holds. -/
def actIf (c : Bool) (a : Act) : List Act := if c then [a] else []
/-- The steps of a tick boundary at the tick that TICKABS shows: PPS_OUT, admissions, the four steps of R44, the heartbeat, the budget period, and the caravan's
slots (DESIGN CHOICE, log 1). -/
def tickRest (s : State) (beat : Bool) : List Act :=
  actIf (ticks s % 100000000 == 0) (.row .ppsRise {})
  ++ (if admissionsWait s then [] else dueAdmissions s)
  ++ [Act.row .tickBoundary {}]
  ++ actIf beat (.row .heartbeat {})
  ++ actIf (ticks s % 256 == 0) (.row .budgetPeriod {})
  ++ (busyChannels s).map (fun ch => Act.row .caravanSlot { ix := ch })
  ++ actIf (s.mgmt.wdTimeout != 0 && (s.mgmt.wdTimeout : Int) ≤ since s s.mgmt.wdStart) (.row .watchdogExpiry {})
/-- The steps of a tick boundary; a step of the timebase that waits comes first at a heartbeat, and the rest at the tick that it leads to (R34, R438). -/
def tickActs (s : State) : List Act :=
  if atHeartbeat s && s.tb.stepPend.isSome then [.row .stepApply {}, .tickRest] else tickRest s (atHeartbeat s)
/-- Device queues whose next record is read (R92). -/
def queueActs (s : State) : List Act :=
  (s.parts.filter fun (p : Nat × Part) => !p.2.devQueue.isEmpty && (getStream s (64 + p.1)).pending.isNone && !stopped s p.1).map fun (p : Nat × Part) =>
    .row .jobRecordRead { ix := 64 + p.1 }
/-- The boundary of a period, or the end of a run, at the start of a counted cycle (R241, R266). -/
def periodAct (s : State) (k : Nat) (g : Region) : Option Act :=
  let ii := hII g.hdr.toNat
  let r := g.count - g.start - 4
  if !g.runs || !countsNow s g || g.count < g.start + 4 || r % ii ≠ 0 then none
  else
    let c : Cur := { core := k / 4, slot := k % 4 }
    some (.row (if r / ii = g.trip ∨ g.stopReq = true then .kernelRunEnd else .iiBoundary) c)
/-- A gang is being pre-empted (R89). -/
def preempting (s : State) : Bool := s.scenes.any fun x => x.2.gangs.any fun g => g.preempt != 0
/-- The steps with which a master cycle begins. -/
def cycleActs (s : State) : List Act :=
  (if tickCrossed s then tickActs s else []) ++ queueActs s ++ (if preempting s then [.waits] else [])
  ++ s.regions.filterMap fun (p : Nat × Region) => periodAct s p.1 p.2

/-- What the threads see of the beginning of a cycle (R219, R235). -/
def seenAll (s : State) : List (Nat × Nat × Bool) :=
  s.runs.filterMap fun (p : Nat × Run) =>
    if p.1 % 8 < 4 then some (thKey (p.1 / 8) (p.1 % 8), seenNow s (p.1 / 8) (p.1 % 8) p.2) else none
/-- FENCE.SC: the drains that had ended when this cycle began (R252). -/
def noteDrains (s : State) : State :=
  { s with threads := s.threads.map fun (p : Nat × Thread) => match p.2.wait, runOf s (p.1 / 4) (p.1 % 4) with
    | .fenceSc ids false, some r =>
      if p.2.running && !p.2.frozen && holdSeen s (p.1 / 4) (p.1 % 4) r.part then (p.1, { p.2 with wait := .fenceSc ids true }) else p
    | _, _ => p }
/-- The next master cycle. -/
def newCycle (s : State) : State :=
  let s := newLevels { s with cycle := s.cycle + 1, tb := tickOn s.tb, residAt := [], phase := 0 }
  let s := countLost s
  let s := noteDrains { s with regions := s.regions.map fun (p : Nat × Region) => (p.1, countRegion s p.1 p.2), seen := seenAll s }
  let s := if tickCrossed s then noteSizes s else s
  { s with todo := cycleActs s }

/-- Phase 1: the issue slots, one operation of each sync engine, and the issue attempts of the copy engines (R192, R208, R217). -/
def issueActs (s : State) : List Act :=
  (s.runs.filterMap fun (p : Nat × Run) => if p.1 % 8 == nOf s (p.1 / 8) % 4 && coreOn s (p.1 / 8) then some (.thread (p.1 / 8) (p.1 % 8)) else none)
  ++ ((List.range 4).filterMap fun d => if (nextRequest s d).isSome then some (.row .syncService { ix := d }) else none)
  ++ s.runs.filterMap fun (p : Nat × Run) => if p.1 % 8 == 4 && coreOn s (p.1 / 8) then some (.copyIssue (p.1 / 8)) else none
/-- Key of the entry of an element and slot within a region's opcode plane (R73). -/
def entryKey (row col k : Nat) : Nat := 512 * (4 * (row / 4) + col / 4) + 32 * (4 * (row % 4) + col % 4) + k
/-- Phase 2: the elements of the running regions issue the entries of their slot, those of the variant that fired in the order of row and column; an all-zero
entry is a NOP (R264, R388, R447). -/
def elemActs (s : State) : List Act :=
  s.regions.flatMap fun p =>
    if !countsNow s p.2 then []
    else match regionPos p.2 with
      | none => []
      | some (_, k) =>
        (List.range (4 * hH p.2.hdr.toNat)).flatMap fun row => (List.range (4 * hW p.2.hdr.toNat)).filterMap fun col =>
          if (lookup p.2.opc (entryKey row col k)).isSome then some (.elem (p.1 / 4) (p.1 % 4) row col) else none
/-- Phase 3: the fabric phase in even enabled cycles, the copy phase in odd ones (R102, R105). -/
def poolActs (s : State) : List Act :=
  (List.range 64).filterMap fun c =>
    if !coreOn s c then none
    else if nOf s c % 2 == 0 then (if (getCore s c).fabQ.isEmpty then none else some (.fabric c))
    else if s.reqs.isEmpty && s.copiers.isEmpty then none else some (.copyPhase c)
/-- Phase 4: the end of the cycle of every region that counts it or has something in flight. -/
def deliverActs (s : State) : List Act :=
  s.regions.filterMap fun p =>
    let busy := s.elems.any fun e => e.1 / 256 == p.1 && !e.2.pipe.isEmpty
    if p.2.placed && coreOn s (p.1 / 4) && (countsNow s p.2 || !p.2.faults.isEmpty || !p.2.drops.isEmpty || !p.2.stalls.isEmpty || busy) then
      some (.deliver (p.1 / 4) (p.1 % 4)) else none
/-- The list of a phase. -/
def phaseActs (s : State) : Nat → List Act
  | 1 => issueActs s
  | 2 => elemActs s
  | 3 => poolActs s
  | _ => deliverActs s

/-! ## The agenda -/

/-- A scheduled step is due. A halted device does nothing but take its inputs. -/
def isDue (s : State) (d : Due) : Bool :=
  match d.clk with
  | .now => true
  | .master => !s.mgmt.halted && d.tm ≤ s.cycle
  | .cluster k => !s.mgmt.halted && d.tm ≤ s.cycle - tget s.lost 0 k
  | .region k => !s.mgmt.halted && d.tm ≤ (getReg s k).count && countsNow s (getReg s k)
  | .tick => !s.mgmt.halted && d.tm ≤ ticks s
/-- Nothing is left to do in this phase: what is due comes next, then the next phase; the last queues the records of the cycle (R377), and the next
cycle begins. -/
def turn (s : State) : State :=
  let due := s.agenda.filter (isDue s)
  if !due.isEmpty then { s with todo := due.map (·.act), agenda := s.agenda.filter fun d => !isDue s d }
  else if s.mgmt.halted then s
  else if s.phase < 4 then { s with phase := s.phase + 1, todo := phaseActs s (s.phase + 1) }
  else if !s.recs.isEmpty then flushRecords s
  else newCycle s

/-! ## A thread's issue slot (R217 to R220, R263, R360) -/

/-- A block that was pre-empted goes on: in a best-effort partition the deadline of a cue without RTC moves by the ticks lost (R51). -/
def resumeRun (s : State) (core sheet : Nat) (r : Run) : State :=
  match r.frozenAt with
  | none => s
  | some f =>
    let k := 1024 * core + r.cue
    let q := getCue s k
    let d := if qRtc q || !isBe s r.part then 0 else ago s f
    setRun (setCue s k { q with deadTick := q.deadTick + d }) core sheet { r with frozenAt := none, deadline := r.deadline + d }

/-- Execute an instruction for a thread. -/
def runWord (s : State) (core slot : Nat) (i : Instr) : Out := exec i { s with cur := { core := core, slot := slot } }

/-- Fetch and execute the word at the thread's PC (R158, R159, R220). -/
def fetchWord (s : State) (core slot : Nat) (t : Thread) (r : Run) : Out :=
  if !fetchable t.pc r.len then runWord s core slot .fetchFault
  else if s.cfgBad.contains (core, (r.base + t.pc) / 4 * 4) then
    .next (killFatal s core slot { cause := 0x14D, eng := 0, slot := slot, pos := trapPc t })
  else
    let w := imageWord s core r t.pc
    match wordCause w t.branch.isSome t.mode with
    | some _ => runWord s core slot (.illegalWord w)
    | none => match decodePrompter w with
      | some i => runWord s core slot i
      | none => runWord s core slot (.illegalWord w)

/-- The thread can issue: a checkpoint that is due is taken, then a queued record is delivered, then its word is fetched (R360, R390). -/
def issue (s : State) (core slot : Nat) : Out :=
  let k := thKey core slot
  match runOf s core slot with
  | none => .next s
  | some r0 =>
    let s := resumeRun s core slot r0
    let s := if (getVoice s k).ckDue then takeCheckpoint s core slot r0 else s
    match runOf s core slot with
    | none => .next s
    | some r =>
      if !recordDue s core slot r.part then fetchWord s core slot (getTh s k) r
      else match runWord s core slot .recordDelivery with
        | .next s1 => match runOf s1 core slot with
          | some r1 => fetchWord s1 core slot (getTh s1 k) r1
          | none => .next s1
        | .fault f => .fault f
        | .refused x => .refused x

/-- A thread whose wait has ended goes on in this slot, if nothing new holds it. -/
def goesOn (s : State) (core slot : Nat) : Out :=
  let t := getTh s (thKey core slot)
  if t.running && !t.halted && t.wait == .none && (!t.frozen || t.branch.isSome) then issue s core slot else .next s
/-- The thread no longer waits. -/
def waitOver (s : State) (core slot : Nat) : State :=
  setTh s (thKey core slot) { getTh s (thKey core slot) with wait := .none }
/-- Its word completes, and it goes on. -/
def wordDone (s : State) (core slot : Nat) : Out :=
  goesOn (setTh s (thKey core slot) (advance (getTh (waitOver s core slot) (thKey core slot)))) core slot
/-- A load's data is there, or the reply of an engine: the register is written, or the cause is taken (R208, R230). -/
def dataBack (s : State) (core slot cause : Nat) (v : W64) (d : Option Nat) (path : Nat) : Out :=
  let k := thKey core slot
  let t := { getTh s k with wait := .none }
  if cause ≠ 0 then .next (takeTrap (setTh s k t) core slot cause (d.getD 0) v.toNat path false)
  else goesOn (setTh s k (advance (match d with
    | some d => wrReg t d v
    | none => t))) core slot
/-- The issue slot of a thread that waits: whether its wait has ended, and what then happens. An engine's answer waits while its way back is down (R12, R410). -/
def waitSlot (s : State) (core slot : Nat) (t : Thread) (r : Run) : Out :=
  let on (c : Bool) : Out := if c then goesOn (waitOver s core slot) core slot else .next s
  let holds := holdSeen s core slot r.part
  let back (die cyc : Nat) : Bool := cyc < s.cycle && !pathDown s (.die die) (.core core)
  match t.wait with
  | .none => goesOn s core slot
  | .start cyc => on (cyc ≤ s.cycle)
  | .untilN n => on (n ≤ nOf s core && !sliceMoves s core slot)
  | .load _ => .next s
  | .loaded n cause v d => if n < nOf s core then dataBack s core slot cause v (some d) (if cause / 32 = 3 then pathE else 0) else .next s
  | .stores => on holds
  | .sync _ => .next s
  | .reply die cyc cause v d => if back die cyc then dataBack s core slot cause v d 0 else .next s
  | .raced die cyc none => if back die cyc then fetchWord s core slot t r else .next s
  | .raced die cyc (some (c, i0, i1, i2)) => if back die cyc then .next (takeTrap s core slot c i0 i1 i2 false) else .next s
  | .kwait _ => if holds then wordDone s core slot else .next s
  | .tick n => if n ≤ ticksOn s core then wordDone s core slot else .next s
  | .cueTick n => if (n : Int) ≤ since s r.fire then wordDone s core slot else .next s
  | .fence src dst _ _ => if holds then goesOn (fenceArrives s t r src dst) core slot else .next s
  | .fenceTrip _ _ cyc => if cyc < s.cycle && !widening s core slot then wordDone s core slot else .next s
  | .fenceSc _ _ => .next s
  | .rel _ => if holds then wordDone s core slot else .next s
  | .jobpost d off _ => if holds then goesOn (jobAppend s { t with wait := .none } r d off) core slot else .next s
  | .relSync _ => if holds then fetchWord s core slot t r else .next s
  | .ending => .next (if holds then next s (.row .blockRetirement { core := core, slot := slot }) else s)
  | .compare sent => .next (if sent then s else sendSignature s core slot r)
  | .decided cyc _ => if cyc ≤ s.cycle && !pathDown s (.die (homeDie s r)) (.core core) then fetchWord s core slot t r else .next s
  | .restart n => on (reached s n)

/-- An issue slot of a thread. A frozen thread ends what it has begun: a load, a request, a delay slot (R87, R90, R263). -/
def threadSlot (s0 : State) (core slot : Nat) : Out :=
  let s := { s0 with cur := { core := core, slot := slot } }
  let t := getTh s (thKey core slot)
  match runOf s core slot with
  | none => .next s
  | some r =>
    let begun : Bool := match t.wait with
      | .loaded _ _ _ _ => true
      | .reply _ _ _ _ _ => true
      | .raced _ _ _ => true
      | _ => t.branch.isSome
    if !t.running || t.halted || (t.frozen && !begun) then .next s else waitSlot s core slot t r

/-! ## Copy engines (R192) -/

/-- The first entry from a position on whose bank is not cancelled. -/
def skipCancelled (c : Copier) : Nat :=
  ((List.range (c.nent - c.pos)).find? fun i =>
    let b := bits ((c.sched.getD (c.pos + i) []).getD 0 0).toNat 59 56
    !(b != 0 && bankNow c b == .cancelled)).elim c.nent (c.pos + ·)
/-- The gang of a run does not run at present. -/
def runHeld (s : State) (r : Run) : Bool :=
  r.frozenAt.isSome && (((gangOf s r.scene r.gslot).map fun g => g.preempt == 2 || !g.resident).getD false)
/-- A copy engine considers its next entry: at most one command issues in a cycle (R192), and a block with nothing left retires (R190). -/
def copyTry (s0 : State) (core : Nat) : Out :=
  let s := { s0 with cur := { core := core } }
  match runOf s core 4 with
  | none => .next s
  | some r0 =>
    if s.cycle < r0.fireN || runHeld s r0 then .next s
    else
      let s := resumeRun s core 4 r0
      let r := (runOf s core 4).getD r0
      let c := { getCopier s core with pos := skipCancelled (getCopier s core) }
      let s := setCopier s core c
      if c.nent ≤ c.pos then
        .next (if c.journal.isEmpty then next s (.row .copyBlockRetirement { core := core }) else s)
      else
        let w := c.sched.getD c.pos []
        let x := copyEntOf (w.getD 0 0).toNat (w.getD 1 0).toNat (w.getD 2 0).toNat (w.getD 3 0).toNat
        if !mayIssue s r c ((w.getD 0 0).toNat / 2 ^ 60) x then .next s
        else match decodeCopy (entryWord w) with
          | some i => exec i s
          | none => .next s

/-! ## Elements and the epilogue -/

/-- An entry, its route, or a constant that it reads stands among the words with an uncorrectable error (R371). -/
def planeBad (s : State) (core slot row col key w : Nat) : Bool :=
  let x := entOf w
  let con (c : Nat) : Bool := 36 ≤ c && c < 44 && s.cfgBad.contains (core, badPlane slot 2 (conKey row col (c - 36)))
  s.cfgBad.contains (core, badPlane slot 0 key) || s.cfgBad.contains (core, badPlane slot 1 key) || con x.sa || con x.sb || con x.sc
/-- An element issues the entry of its slot, which is an issue of its block after a resume (R91); a plane with a soft error faults (R264, R371). -/
def elemSlot (s0 : State) (core slot row col : Nat) : Out :=
  let s := { s0 with cur := { core := core, slot := slot, row := row, col := col } }
  let g := getReg s (thKey core slot)
  match regionPos g with
  | none => .next s
  | some (p, k) =>
    let key := entryKey row col k
    let w := tget g.opc 0 key
    let s := match runOf s core g.starter with
      | some r => resumeRun s core g.starter r
      | none => s
    if planeBad s core slot row col key w then .next (elemFault s (contextOf s (entOf w) core slot row col p k) 1 0x14D 0 0 0)
    else match decodeElement w with
      | some i => exec i s
      | none => .next s
/-- The next word of the beat in progress. -/
def epilogueWord (s0 : State) (core : Nat) : Out :=
  let s := { s0 with cur := { core := core } }
  let c := getCore s core
  match c.beat with
  | none => .next s
  | some (id, _) => match c.drains.find? (·.id == id) with
    | none => .next s
    | some d => match decodeEpilogue (d.prog.getD c.pcEpi 0) with
      | some i => exec i s
      | none => .next s
/-- A program that has been read becomes the slot's, if the thread that selected it still waits for it (R245). -/
def programRead (s : State) (core slot off : Nat) (prog tab : List Nat) : State :=
  let waits : Bool := (List.range 4).any fun t =>
    (getTh s (thKey core t)).running && (match (getTh s (thKey core t)).wait with
      | .untilN n => n ≤ nOf s core
      | _ => false)
  let k := thKey core slot
  if waits then setReg s k { getReg s k with epSel := some off, epProg := prog, epTab := tab } else s
/-- EFLG's line of a slot is set (R142, R234). -/
def raiseFlag (s : State) (core slot line : Nat) : State :=
  let k := thKey core slot
  setTh s k { getTh s k with flags := (getTh s k).flags ||| 2 ^ (line - 16) }

/-! ## One step -/

/-- A step of the model. Without power nothing acts but the reset that ends it (R27, R421). -/
def runAct (s : State) : Act → Out
  | .thread core t => threadSlot s core t
  | .elem core slot row col => elemSlot s core slot row col
  | .deliver core slot => .next (deliver s core slot)
  | .epiWord core => epilogueWord s core
  | .epLoaded core slot off prog tab => .next (programRead s core slot off prog tab)
  | .setFlag core slot line => .next (raiseFlag s core slot line)
  | .seedCopier core x => .next (seedCopyEngine s core x)
  | .copyIssue core => copyTry s core
  | .fabric core => .next (fabricPhase s core)
  | .copyPhase core => .next (copyPhase s core)
  | .curtains => .next (curtainStep s)
  | .tickRest => .next { s with todo := tickRest s true ++ s.todo }
  | .cueChecks => .next (cueStep s)
  | .waits => .next (preemptStep (launchesDone s))
  | .post core kind slot row col i c => .next (postFab s core kind slot row col i c)
  | .row i c => if !s.mgmt.powered && i != .coldReset then .next s else exec i { s with cur := c }

end Sys2Proof.Machine
end

