-- ==== Sys2Proof/Machine/Step.lean ====
section
/-! DEFINITION. One step of the device, and the state with an instruction placed so that the next step runs it (DESIGN CHOICE, log 1, 2). -/

namespace Sys2Proof.Machine

/-- One step: the first of the steps to do, or, where none is left, the next ones (DESIGN CHOICE, log 1). -/
def step (s : State) : Out :=
  match s.todo with
  | a :: r => runAct { s with todo := r } a
  | [] => .next (turn s)

/-- The run of the block that `withFetchWord` puts on a sheet of core 0. -/
def placedRun : Run :=
  { scene := 0, cue := 0, block := 0, variant := 0, under := false, fire := 0, deadline := 2 ^ 32, fireN := 0, part := 0, gslot := 0, gang := 0
    lc := 0, voice := 0, chorus := false, len := 2 ^ 20, entry := 8, base := 0 }
/-- The byte offset of the word that `withFetchWord` places: just past the kernel header of the image (R76). -/
def placedPc : Nat := 32

/-- A prompter word in the configuration store of core 0, where thread 0 of a running block fetches it in this step. -/
def placePrompter (s : State) (w : Nat) : State :=
  { setTh (setRun s 0 0 placedRun) 0 { getTh s 0 with running := true, pc := placedPc, wait := .none, branch := none, halted := false, frozen := false }
    with cfg := wrBytes s.cfg placedPc (leBytes 4 w), todo := [.thread 0 0] }
/-- An element entry in the opcode plane of a running region of core 0 and slot 0, issued by element (0, 0) in this step. -/
def placeElement (s : State) (w : Nat) : State :=
  let g := getReg s 0
  { setReg s 0 { g with placed := true, opc := tput g.opc 0 0 w, runs := true, start := 0, trip := 1, count := 4, countedAt := s.cycle + 1 }
    with todo := [.elem 0 0 0 0] }
/-- An epilogue word as the program of a drain of core 0, executed by its first beat in this step. -/
def placeEpilogue (s : State) (w : Nat) : State :=
  let c := getCore s 0
  let d : Drain := {
    id := 0, core := 0, slot := 0, acTid := 0, outTid := 0, mxe := false, rows := 1, h0 := 0, o0 := 0, ctr := 0xFFFFFFF, start := some 0
    prog := [w], busy := true }
  { setCore s 0 { c with drains := [d], beat := some (0, 0), pcEpi := 0 } with todo := [.epiWord 0] }
/-- The four words of a copy entry. -/
def copyWords (w : Nat) : List W64 := (List.range 4).map fun i => w64 (w / 2 ^ (64 * i) % 2 ^ 64)
/-- A copy entry as the schedule of a copy-engine block on core 0, considered in this step. -/
def placeCopy (s : State) (w : Nat) : State :=
  { setCopier (setRun s 0 4 placedRun) 0 { getCopier s 0 with sched := [copyWords w], nent := 1, pos := 0 } with todo := [.copyIssue 0] }

/-- An instruction of the table's size placed so that the next step runs it: a word of 32 bits goes to the prompter if its
decoder takes it, else to the epilogue processor; one of 48 bits to an element, one of 256 bits to the copy engine. -/
def State.withFetchWord (s : State) (nbits w : Nat) : State :=
  if nbits = 48 then placeElement s w
  else if nbits = 256 then placeCopy s w
  else if (decodePrompter w).isNone && (decodeEpilogue w).isSome then placeEpilogue s w
  else placePrompter s w

end Sys2Proof.Machine
end

