-- ==== Sys2Proof/Safety.lean ====
section
/-! DEFINITION. What a safe step and a safe run are: the device goes on. Then the canonical form of memory, and the words in which the claims say what a step changes. -/

namespace Sys2Proof.Machine

/-- The canonical form of a memory: addresses strictly rising, and no entry 0, which is what an unlisted address reads as (DESIGN CHOICE, log 3). -/
def Memory.wf (m : List Host.Cell) : Bool := tabWf 0 m
/-- The three memories are canonical. -/
def memoriesWf (s : State) : Bool := Memory.wf s.mem && Memory.wf s.hostMem && Memory.wf s.safetyMem

end Sys2Proof.Machine

namespace Sys2Proof.Safety

open Sys2Proof.Machine

/-- An answer that goes on. -/
def goesNext : Out → Bool
  | .next _ => true
  | .fault _ => false
  | .refused _ => false

/-- A step that ends in a next state. -/
def Safe (s : State) : Prop := goesNext (step s) = true

/-- Every one of n steps ends in a next state. -/
def SafeRun : Nat → State → Prop
  | 0, _ => True
  | n + 1, s => ∃ s', step s = .next s' ∧ SafeRun n s'

/-! ## The words of the claims -/

/-- The key of the thread, and of the region slot, of cur. -/
def curKey (s : State) : Nat := thKey s.cur.core s.cur.slot
/-- The thread of cur runs: its registers are t, and its block is r. -/
def Runs (s : State) (t : Thread) (r : Run) : Prop :=
  runOf s s.cur.core s.cur.slot = some r ∧ getTh s (curKey s) = t ∧ t.running = true
/-- Every byte of the three memories reads as before. -/
def SameBytes (s s' : State) : Prop := ∀ p : Place, rdMem s' p 1 = rdMem s p 1
/-- Every byte of the three memories outside n bytes at p reads as before. -/
def SameBytesBut (s s' : State) (p : Place) (n : Nat) : Prop :=
  ∀ q : Place, q.store ≠ p.store ∨ q.addr < p.addr ∨ p.addr + n ≤ q.addr → rdMem s' q 1 = rdMem s q 1
/-- Every thread but that of cur is as before. -/
def OtherThreads (s s' : State) : Prop := ∀ k, k ≠ curKey s → getTh s' k = getTh s k
/-- Nothing differs but the registers of cur's thread: no memory, no other thread, no other part of the state. -/
def OnlyThread (s s' : State) : Prop := { s' with threads := s.threads } = s ∧ OtherThreads s s' ∧ SameBytes s s'
/-- The step goes on to a state that differs in cur's thread only, which is t'. -/
def Becomes (s : State) (t' : Thread) (o : Out) : Prop := ∃ s', o = .next s' ∧ OnlyThread s s' ∧ getTh s' (curKey s) = t'
/-- t' is t but for register code d, which reads v: g0 stays 0, and no register of another window changes. -/
def Wrote (t t' : Thread) (d : Nat) (v : W64) : Prop :=
  rdReg t' d = (if d = 0 then 0 else v) ∧ (∀ c, c ≠ d → rdReg t' c = rdReg t c)
  ∧ (∀ i, i ≠ 16 * t.depth + (d - 8) → tget t'.win 0 i = tget t.win 0 i) ∧ { t' with g := t.g, win := t.win } = t
/-- The word completes with value v for register d: only the thread changes, by that register and by going on to its next word. -/
def Result (s : State) (t : Thread) (d : Nat) (v : W64) (o : Out) : Prop := ∃ t1, Wrote t t1 d v ∧ Becomes s (advance t1) o
/-- The word completes without a result. -/
def Passes (s : State) (t : Thread) (o : Out) : Prop := Becomes s (advance t) o
/-- The word takes a trap of a cause with INFO0 to INFO2; done says that it completed first. -/
def Traps (s : State) (cause i0 i1 i2 : Nat) (done : Bool) (o : Out) : Prop :=
  o = .next (takeTrap s s.cur.core s.cur.slot cause i0 i1 i2 done)
/-- A word decodes to an instruction, in the size of the instruction's kind: a prompter or an epilogue word of 32 bits, an element entry of 48, a
copy entry of 256. -/
def Decodes (x : Instr) (w : Nat) : Prop :=
  (w < 2 ^ 32 ∧ decodePrompter w = some x) ∨ (w < 2 ^ 32 ∧ decodeEpilogue w = some x) ∨ (w < 2 ^ 48 ∧ decodeElement w = some x)
  ∨ (w < 2 ^ 256 ∧ decodeCopy w = some x)

end Sys2Proof.Safety
end

