-- ==== Sys2Proof/Certificates/Slice0/Obligations.lean ====
section
/-! DEFINITION. The statements about the model, one for each rule or group of rules of the manual. -/

open Sys2Proof Sys2Proof.Machine Sys2Proof.Safety

/-! ## Prompter words: arithmetic -/

/-- R225: each two-source word writes its result to gd, and changes nothing else. -/
def Sys2Proof.Safety.AluTwoSourceRule : Prop :=
  ∀ (s : State) (t : Thread) (r : Run) (d a b : Nat), Runs s t r →
    let x := rdReg t a
    let y := rdReg t b
    let sh := y.toNat % 64
    Result s t d (x + y) (exec (.add d a b) s)
    ∧ Result s t d (x - y) (exec (.sub d a b) s)
    ∧ Result s t d (BitVec.ofNat 64 (x.toNat * y.toNat)) (exec (.mul d a b) s)
    ∧ Result s t d (BitVec.ofInt 64 (x.toInt * y.toInt / 2 ^ 64)) (exec (.mulh d a b) s)
    ∧ Result s t d (BitVec.ofNat 64 (x.toNat * y.toNat / 2 ^ 64)) (exec (.mulhu d a b) s)
    ∧ Result s t d (x &&& y) (exec (.andR d a b) s)
    ∧ Result s t d (x ||| y) (exec (.orR d a b) s)
    ∧ Result s t d (x ^^^ y) (exec (.xorR d a b) s)
    ∧ Result s t d (x &&& ~~~y) (exec (.andnR d a b) s)
    ∧ Result s t d (BitVec.ofNat 64 (x.toNat * 2 ^ sh)) (exec (.shl d a b) s)
    ∧ Result s t d (BitVec.ofNat 64 (x.toNat / 2 ^ sh)) (exec (.shr d a b) s)
    ∧ Result s t d (BitVec.ofInt 64 (x.toInt / 2 ^ sh)) (exec (.sar d a b) s)
    ∧ Result s t d (BitVec.ofInt 64 (min x.toInt y.toInt)) (exec (.minS d a b) s)
    ∧ Result s t d (BitVec.ofInt 64 (max x.toInt y.toInt)) (exec (.maxS d a b) s)
    ∧ Result s t d (BitVec.ofNat 64 (min x.toNat y.toNat)) (exec (.minU d a b) s)
    ∧ Result s t d (BitVec.ofNat 64 (max x.toNat y.toNat)) (exec (.maxU d a b) s)
    ∧ Result s t d (if x.toInt < y.toInt then 1 else 0) (exec (.slt d a b) s)
    ∧ Result s t d (if x.toNat < y.toNat then 1 else 0) (exec (.sltu d a b) s)
    ∧ Result s t d (if x.toNat = y.toNat then 1 else 0) (exec (.seq d a b) s)

/-- R225: POPC counts the 1 bits of its operand, CLZ its leading zero bits, 64 for 0. -/
def Sys2Proof.Safety.AluOneSourceRule : Prop :=
  ∀ (s : State) (t : Thread) (r : Run) (d a : Nat), Runs s t r →
    let x := rdReg t a
    Result s t d (BitVec.ofNat 64 ((List.range 64).countP fun i => x.getLsbD i)) (exec (.popc d a) s)
    ∧ Result s t d (BitVec.ofNat 64 (if x = 0 then 64 else 63 - x.toNat.log2)) (exec (.clz d a) s)

/-- Register arithmetic of the prompter: all of AluTwoSourceRule, AluOneSourceRule. -/
def Obligations.RegisterArithmetic : Prop :=
  AluTwoSourceRule ∧ AluOneSourceRule

/-- R226 with R163: the immediate forms, for every immediate of 16 bits, every shift amount, and the four lanes of LIS. -/
def Obligations.AluImmediate : Prop :=
  ∀ (s : State) (t : Thread) (r : Run) (d a i n : Nat), Runs s t r → i < 2 ^ 16 → n < 64 →
    let x := rdReg t a
    let z := (BitVec.ofNat 16 i).setWidth 64
    let e := (BitVec.ofNat 16 i).signExtend 64
    Result s t d (x + e) (exec (.addi d a i) s)
    ∧ Result s t d (x &&& z) (exec (.andi d a i) s)
    ∧ Result s t d (x ||| z) (exec (.ori d a i) s)
    ∧ Result s t d (x ^^^ z) (exec (.xori d a i) s)
    ∧ Result s t d (BitVec.ofNat 64 (x.toNat * 2 ^ n)) (exec (.shli d a n) s)
    ∧ Result s t d (BitVec.ofNat 64 (x.toNat / 2 ^ n)) (exec (.shri d a n) s)
    ∧ Result s t d (BitVec.ofInt 64 (x.toInt / 2 ^ n)) (exec (.sari d a n) s)
    ∧ Result s t d (if x.toInt < e.toInt then 1 else 0) (exec (.slti d a i) s)
    ∧ Result s t d e (exec (.lis d 0 i) s)
    ∧ ∀ l, 1 ≤ l → l ≤ 3 → ∃ v : W64, (∀ j, v.getLsbD j = if 16 * l ≤ j ∧ j < 16 * l + 16 then i.testBit (j - 16 * l) else (rdReg t d).getLsbD j)
        ∧ Result s t d v (exec (.lis d l i) s)

/-- R239: KSET writes the low 32 bits of ga to kn, KRD zero-extends kn to gd; no call and no return, which act after the slot, changes a counter. -/
def Obligations.LoopCounters : Prop :=
  ∀ (s : State) (t : Thread) (r : Run) (d a k : Nat), Runs s t r →
    Result s t d ((tget t.k 0 k).setWidth 64) (exec (.krd d k) s)
    ∧ ∃ t1, (∀ j, tget t1.k 0 j = if j = k then (rdReg t a).setWidth 32 else tget t.k 0 j) ∧ { t1 with k := t.k } = t
        ∧ Passes s t1 (exec (.kset a k) s)
    ∧ (advance t).k = t.k

/-! ## Control transfer -/

/-- R232, R236, R259: where a thread goes on after a word. Outside a delay slot it goes on past the word. After the slot of a branch it goes to the target
or past the slot; the slot of a call also enters a new window with the link in w8 and w9 to w23 zero, the slot of a return leaves one. After a slot that ERET has
executed again it goes where TRAPPC and PRIV.TAKEN then say, and DS and SKIP clear. -/
def Obligations.GoingOn : Prop :=
  (∀ t : Thread, t.branch = none → advance t = { t with pc := (t.pc + 4) % 2 ^ 32 })
  ∧ (∀ (t : Thread) (b : Branch), t.branch = some b → b.eret = true → (advance t).branch = none ∧ (advance t).ds = false ∧ (advance t).skip = false
      ∧ (advance t).pc = if t.taken then t.trappc.toNat / 2 ^ 32 else (t.trappc.toNat + 4) % 2 ^ 32)
  ∧ ∀ (t : Thread) (b : Branch), t.branch = some b → b.eret = false →
      let t' := advance t
      t'.branch = none ∧ t'.pc = (if b.taken then b.target else (b.addr + 8) % 2 ^ 32)
      ∧ (b.kind = 0 → t'.depth = t.depth ∧ ∀ c, rdReg t' c = rdReg t c)
      ∧ (b.kind = 1 → t'.depth = t.depth + 1
          ∧ (∀ c, c < 32 → rdReg t' c = if c < 8 then rdReg t c else if c < 16 then rdReg t (c + 16)
              else if c = 16 then BitVec.ofNat 64 ((b.addr + 8) % 2 ^ 32) else 0)
          ∧ ∀ i, i < 16 * t.depth + 24 → tget t'.win 0 i = tget t.win 0 i)
      ∧ (b.kind = 2 → 1 ≤ t.depth → t'.depth = t.depth - 1 ∧ t'.win = t.win
          ∧ ∀ c, 24 ≤ c → c < 32 → rdReg t' c = rdReg t (c - 16))

/-- A branch at the thread's word that decides taken or not, with a target: the slot word is next. -/
def Sys2Proof.Safety.Branches (s : State) (t : Thread) (kind : Nat) (taken : Bool) (target : Nat) (o : Out) : Prop :=
  Becomes s { t with pc := (t.pc + 4) % 2 ^ 32, branch := some ⟨t.pc, kind, taken, target, false⟩ } o

/-- A + 4 x SignExt(off, n), as 32 bits. -/
def Sys2Proof.Safety.target (t : Thread) (n off : Nat) : Nat := ((BitVec.ofNat 32 t.pc) + 4 * (BitVec.ofNat n off).signExtend 32).toNat

/-- R233, R235: when the branches that move no window are taken, and where they go, outside a delay slot; a line reads as it was when the cycle began. -/
def Sys2Proof.Safety.BranchDecisionsRule : Prop :=
  ∀ (s : State) (t : Thread) (r : Run) (a k l off : Nat), Runs s t r → t.branch = none →
    let x := (rdReg t a).toInt
    let v := tget t.k 0 k
    Branches s t 0 true (target t 26 off) (exec (.br off) s)
    ∧ Branches s t 0 (decide (x = 0)) (target t 16 off) (exec (.bc .eqz a off) s)
    ∧ Branches s t 0 (decide (x ≠ 0)) (target t 16 off) (exec (.bc .nez a off) s)
    ∧ Branches s t 0 (decide (x < 0)) (target t 16 off) (exec (.bc .ltz a off) s)
    ∧ Branches s t 0 (decide (x ≥ 0)) (target t 16 off) (exec (.bc .gez a off) s)
    ∧ Branches s t 0 (decide (x ≤ 0)) (target t 16 off) (exec (.bc .lez a off) s)
    ∧ Branches s t 0 (decide (x > 0)) (target t 16 off) (exec (.bc .gtz a off) s)
    ∧ Branches s t 0 (lineSeen s s.cur.core s.cur.slot r.part l) (target t 16 off) (exec (.bstS l off) s)
    ∧ Branches s t 0 (!lineSeen s s.cur.core s.cur.slot r.part l) (target t 16 off) (exec (.bstC l off) s)
    ∧ (∃ t1, (∀ j, tget t1.k 0 j = if j = k ∧ v ≠ 0 then v - 1 else tget t.k 0 j) ∧ { t1 with k := t.k } = t
        ∧ Branches s t1 0 (decide (v ≠ 0 ∧ v - 1 ≠ 0)) (target t 16 off) (exec (.bct k off) s))
    ∧ Branches s t 0 true ((rdReg t a).toNat % 2 ^ 32) (exec (.jr a) s)

/-- Status line i of a thread in the state as it stands: an idle region or drain of a slot that no kill has cleared, the copy engine's two, and the flag lines of its own region. -/
def Sys2Proof.Safety.LineSet (s : State) (core t part i : Nat) : Prop :=
  let g (slot : Nat) := getReg s (thKey core slot)
  (i < 4 ∧ (g i).killed = false ∧ (g i).runs = false ∧ ∀ q ∈ s.reqs, ∀ row col, q.core = core → q.asker = .port i row col → q.done = true)
  ∨ (4 ≤ i ∧ i < 8 ∧ (g (i - 4)).killed = false ∧ ∀ d ∈ (getCore s core).drains, d.slot ≠ i - 4)
  ∨ (i = 8 ∧ ((∀ q, runOf s core 4 = some q → q.part ≠ part) ∨ (getCopier s core).journal = []))
  ∨ (i = 9 ∧ ∃ q, runOf s core 4 = some q ∧ q.part = part)
  ∨ (16 ≤ i ∧ bit (getTh s (thKey core t)).flags (i - 16) = true)

/-- R234, R235: the 32 status lines, and what a thread sees of them: the lines as they stood when its cycle began, or, of a thread whose cycle's beginning
took no note of them, as they stand. -/
def Sys2Proof.Safety.StatusLinesRule : Prop :=
  ∀ (s : State) (core t part i : Nat), i < 32 →
    (lookup s.seen (thKey core t) = none → (lineSeen s core t part i = true ↔ LineSet s core t part i))
    ∧ (∀ n h, lookup s.seen (thKey core t) = some (n, h) → lineSeen s core t part i = bit n i)
    ∧ (∀ r, t < 4 → runOf s core t = some r → (lineSeen { s with seen := seenAll s } core t part i = true ↔ LineSet s core t r.part i))
    ∧ (LineSet s core t part i → i < 10 ∨ 16 ≤ i)

/-- Decisions and targets of the branches, and the status lines: all of BranchDecisionsRule, StatusLinesRule. -/
def Obligations.BranchDecisions : Prop :=
  BranchDecisionsRule ∧ StatusLinesRule

/-- R233, R236 to R238: calls and returns whose slices are resident: the call entry or the return comes after the slot. A call at depth 4095, and
a return at depth 0, trap with 0x006 and 0x007. -/
def Sys2Proof.Safety.CallsAndReturnsRule : Prop :=
  ∀ (s : State) (t : Thread) (r : Run) (a off : Nat), Runs s t r → t.branch = none → a < 32 → off < 2 ^ 26 →
    (t.depth ≠ 4095 → t.depth + 3 - t.winLo ≤ 128 * rfEnd (pw s s.cur.core) →
      Branches s t 1 true (target t 26 off) (exec (.call off) s)
      ∧ Branches s t 1 true ((rdReg t a).toNat % 2 ^ 32) (exec (.callr a) s))
    ∧ (t.depth ≠ 0 → t.winLo < t.depth → Branches s t 2 true ((rdReg t 16).toNat % 2 ^ 32) (exec .ret s))
    ∧ (t.depth = 4095 → Traps s 0x006 (0x11 * 2 ^ 26 + off) 0 0 false (exec (.call off) s)
        ∧ Traps s 0x006 (0x15 * 2 ^ 26 + a * 65536 + 2) 0 0 false (exec (.callr a) s))
    ∧ (t.depth = 0 → Traps s 0x007 (0x15 * 2 ^ 26 + 1) 0 0 false (exec .ret s))

/-- A slice of cur's thread starts on its way between the share and its spill location, out or in, and the word's branch is decided; the thread's next
issue is 20 enabled cycles away, and n more. No byte changes yet. -/
def Sys2Proof.Safety.MovesSlice (s : State) (t : Thread) (r : Run) (slice : Nat) (out : Bool) (n kind target : Nat) (o : Out) : Prop :=
  ∃ s' q, o = .next s' ∧ s'.reqs = s.reqs ++ [q] ∧ q.id = s.nextId ∧ q.core = s.cur.core ∧ q.asker = .spill s.cur.slot slice
    ∧ q.place = spillPlace s s.cur.core s.cur.slot r.part slice ∧ q.sext = out ∧ q.off = 0 ∧ SameBytes s s' ∧ OtherThreads s s'
    ∧ getTh s' (curKey s) = { t with
        wait := .untilN (nOf s s.cur.core + 20 + n), pc := (t.pc + 4) % 2 ^ 32, branch := some ⟨t.pc, kind, true, target, false⟩ }

/-- R237, R238: a call whose slice finds the share full sends the lowest resident slice to its place in the spill target; a return to a slice that is not
resident brings it back. A call whose slice the target does not take traps with 0x006, and either meets a granule of another owner with 0x064 (R101), at the
word that would move the slice. That the word's wait of 20 enabled cycles stands beside those of the slice, and where 0x064 comes, is the model's (log 15); so
are the place of a slice and its move in two copy phases (log 48). -/
def Sys2Proof.Safety.CallSpillsRule : Prop :=
  ∀ (s : State) (t : Thread) (r : Run) (a off : Nat), Runs s t r → t.branch = none → a < 32 → off < 2 ^ 26 →
    let owned (k : Nat) : Prop := sliceOwned s s.cur.core s.cur.slot r.part k = true
    let info (k : Nat) : Nat := (spillPlace s s.cur.core s.cur.slot r.part k).addr % 2 ^ 23
    (t.depth ≠ 4095 → 128 * rfEnd (pw s s.cur.core) < t.depth + 3 - t.winLo →
      (spillTakes s s.cur.core r.part t.winLo = true → owned t.winLo →
        MovesSlice s t r t.winLo true 0 1 (target t 26 off) (exec (.call off) s)
        ∧ MovesSlice s t r t.winLo true 0 1 ((rdReg t a).toNat % 2 ^ 32) (exec (.callr a) s))
      ∧ (spillTakes s s.cur.core r.part t.winLo = true → ¬ owned t.winLo →
        Traps s 0x064 (info t.winLo) 0 0x20 false (exec (.call off) s) ∧ Traps s 0x064 (info t.winLo) 0 0x20 false (exec (.callr a) s))
      ∧ (spillTakes s s.cur.core r.part t.winLo = false → Traps s 0x006 (0x11 * 2 ^ 26 + off) 0 0 false (exec (.call off) s)
        ∧ Traps s 0x006 (0x15 * 2 ^ 26 + a * 65536 + 2) 0 0 false (exec (.callr a) s)))
    ∧ (t.depth ≠ 0 → t.depth ≤ t.winLo →
      (owned (t.depth - 1) → ∃ n, MovesSlice s t r (t.depth - 1) false n 2 ((rdReg t 16).toNat % 2 ^ 32) (exec .ret s))
      ∧ (¬ owned (t.depth - 1) → Traps s 0x064 (info (t.depth - 1)) 0 0x20 false (exec .ret s)))

/-- The request of cur's index is a slice of cur's thread in its last copy phase. -/
def Sys2Proof.Safety.LastPhase (s : State) (q : Req) (slice : Nat) (out : Bool) : Prop :=
  s.reqs.find? (·.id == s.cur.ix) = some q ∧ q.core = s.cur.core ∧ q.asker = .spill s.cur.slot slice ∧ q.done = false ∧ q.off = 1 ∧ q.sext = out
  ∧ q.place.store = .dev ∧ wayDown s q.core q.place = false

/-- R237: the lowest resident slice of 128 bytes that moves out stands at its place in the spill target, no other byte changes, and the slice above it is
then the lowest; a slice that moves in, from a place without a soft error, holds its bytes in its sixteen registers and is the lowest, and no byte changes. The
place of a slice is the model's (log 48). -/
def Sys2Proof.Safety.SlicesMoveRule : Prop :=
  ∀ (s : State) (q : Req),
    let t := getTh s (curKey s)
    let p := spillPlace s s.cur.core s.cur.slot q.part t.winLo
    (LastPhase s q t.winLo true → ∃ s', exec .prompterPerform s = .next s'
      ∧ rdMem s' p 128 = (List.range 16).flatMap (fun i => leBytes 8 (tget t.win 0 (16 * t.winLo + i)).toNat)
      ∧ SameBytesBut s s' p 128 ∧ OtherThreads s s'
      ∧ (getTh s' (curKey s)).winLo = t.winLo + 1 ∧ (getTh s' (curKey s)).depth = t.depth ∧ (getTh s' (curKey s)).g = t.g)
    ∧ ∀ k, LastPhase s q k false → eccOf s q.place.addr 128 = 0 → ∃ s', exec .prompterPerform s = .next s' ∧ SameBytes s s' ∧ OtherThreads s s'
      ∧ (∀ i, i < 16 → tget (getTh s' (curKey s)).win 0 (16 * k + i)
          = BitVec.ofNat 64 (leNat (rdMem s ⟨(spillPlace s s.cur.core s.cur.slot q.part k).store, (spillPlace s s.cur.core s.cur.slot q.part k).addr + 8 * i⟩ 8)))
      ∧ (∀ j, j < 16 * k ∨ 16 * k + 16 ≤ j → tget (getTh s' (curKey s)).win 0 j = tget t.win 0 j)
      ∧ (getTh s' (curKey s)).winLo = k

/-- R158: a control transfer in a delay slot has no effect but the trap of cause 0x003. -/
def Sys2Proof.Safety.TransferInSlotRule : Prop :=
  ∀ (s : State) (t : Thread) (r : Run) (i : Instr), Runs s t r → t.branch.isSome = true →
    (∃ a off l k, i = .br off ∨ i = .call off ∨ (∃ c, i = .bc c a off) ∨ i = .bstS l off ∨ i = .bstC l off ∨ i = .bct k off ∨ i = .jr a
      ∨ i = .ret ∨ i = .callr a) →
    ∃ w, Traps s 0x003 w 0 0 false (exec i s)

/-- Calls, returns, window spills and transfers in a delay slot: all of CallsAndReturnsRule, CallSpillsRule, SlicesMoveRule, TransferInSlotRule. -/
def Obligations.Transfers : Prop :=
  CallsAndReturnsRule ∧ CallSpillsRule ∧ SlicesMoveRule ∧ TransferInSlotRule

/-! ## Loads and stores -/

/-- An address of a space is translated without a walk that meets a soft error: it is no DRAM address, a TLB holds its page, or the table entries that the walk
reads, with the blocks beside them, are good. -/
def Sys2Proof.Safety.WalksClean (s : State) (core part space va : Nat) : Prop :=
  space = 3 → (tlbFind s core part va).isSome = true
    ∨ ∀ ea ∈ walkReads s va [(39, 1), (30, 2), (21, 3), (12, 4)] ((getPart s part).root * 4096), eccOf s (ea / 128 * 128) 128 = 0

/-- The thread's word that names a TID, a register and a displacement makes the access of n bytes that R227 locates; held says whether it has the grant
that its race tag requires (R346): it holds it already, or its reply has come. A table walk that the access needs meets no soft error. -/
def Sys2Proof.Safety.Accesses (s : State) (t : Thread) (r : Run) (a tid off n : Nat) (store : Bool) (p : Place) (held : Bool) : Prop :=
  ∃ addr b, accessOf s (whoOf s.cur.core r) (tidOf s s.cur.core r.part tid) ((rdReg t a).toInt + sx 8 off) 0 n n false store .prompter
    = .ok (addr, b, p)
  ∧ (held = true ↔ raceHeld s (whoOf s.cur.core r) (tidOf s s.cur.core r.part tid) tid addr 0x20 store = true ∨ ∃ e c, t.wait = .raced e c none)
  ∧ WalksClean s s.cur.core r.part (tidOf s s.cur.core r.part tid).space addr

/-- A request of cur's thread joins those on their way, and nothing in memory changes yet. -/
def Sys2Proof.Safety.Sends (s s' : State) (q : Req) : Prop :=
  s'.reqs = s.reqs ++ [q] ∧ q.id = s.nextId ∧ q.core = s.cur.core ∧ q.asker = .thread s.cur.slot ∧ q.bits = none
  ∧ SameBytes s s' ∧ OtherThreads s s'

/-- R227, R228, R230: a load that every check of R124 passes and that needs no grant of a race tag sends a request for its bytes, and the thread waits
for them. -/
def Sys2Proof.Safety.LoadIssueRule : Prop :=
  ∀ (s : State) (t : Thread) (r : Run) (d a tid off : Nat) (p : Place), Runs s t r →
    (Accesses s t r a tid off 8 false p true → ∃ s' q, exec (.ldd d a tid off) s = .next s' ∧ Sends s s' q ∧ q.store = false ∧ q.place = p
      ∧ q.len = 8 ∧ q.sext = false ∧ q.dst = d ∧ getTh s' (curKey s) = { t with wait := .load s.nextId })
    ∧ (Accesses s t r a tid off 4 false p true → ∃ s' q, exec (.ldw d a tid off) s = .next s' ∧ Sends s s' q ∧ q.store = false ∧ q.place = p
      ∧ q.len = 4 ∧ q.sext = true ∧ q.dst = d ∧ getTh s' (curKey s) = { t with wait := .load s.nextId })

/-- R219, R227, R228: a store that every check of R124 passes and that needs no grant of a race tag sends the low bytes of gd and goes on; where eight
stores of the thread are out it then waits for one to perform. The thread is in no chorus block, or in supervisor mode. -/
def Sys2Proof.Safety.StoreIssueRule : Prop :=
  ∀ (s : State) (t : Thread) (r : Run) (d a tid off : Nat) (p : Place), Runs s t r →
    (r.chorus = false ∨ t.mode = true) →
    let goes (s' : State) : Prop :=
      getTh s' (curKey s) = advance (if 8 ≤ storesOut s' s.cur.core s.cur.slot then { t with wait := .stores } else { t with wait := .none })
    (Accesses s t r a tid off 8 true p true → ∃ s' q, exec (.std d a tid off) s = .next s' ∧ Sends s s' q ∧ q.store = true ∧ q.place = p
      ∧ q.bytes = leBytes 8 (rdReg t d).toNat ∧ goes s')
    ∧ (Accesses s t r a tid off 4 true p true → ∃ s' q, exec (.stw d a tid off) s = .next s' ∧ Sends s s' q ∧ q.store = true ∧ q.place = p
      ∧ q.bytes = leBytes 4 (rdReg t d).toNat ∧ goes s')

/-- R208, R346: a load or a store that every check of R124 passes and that lacks the grant of its race tag asks the engine that holds the tag, and the
thread waits for the reply: no access is made yet. The thread is in no chorus block, or in supervisor mode. -/
def Sys2Proof.Safety.AccessAsksRule : Prop :=
  ∀ (s : State) (t : Thread) (r : Run) (d a tid off n : Nat) (st : Bool) (p : Place) (i : Instr), Runs s t r → (r.chorus = false ∨ t.mode = true) →
    (i = .ldd d a tid off ∧ n = 8 ∧ st = false ∨ i = .ldw d a tid off ∧ n = 4 ∧ st = false
      ∨ i = .std d a tid off ∧ n = 8 ∧ st = true ∨ i = .stw d a tid off ∧ n = 4 ∧ st = true) → (∀ e c b, t.wait ≠ .raced e c b) →
    Accesses s t r a tid off n st p false →
    let home := tagHome s r.scene (tidOf s s.cur.core r.part tid)
    ∃ s' q, exec i s = .next s' ∧ s'.syncQ = s.syncQ ++ [q] ∧ q.id = s.nextId ∧ q.core = s.cur.core ∧ q.t = s.cur.slot ∧ q.home = home ∧ q.op = 61
      ∧ q.arrive = s.cycle + oneWay s.cur.core home ∧ s'.reqs = s.reqs ∧ SameBytes s s' ∧ OtherThreads s s'
      ∧ getTh s' (curKey s) = { t with wait := .sync s.nextId }

/-- R124, R365: a load or a store whose check fails takes the trap of that cause at once, with path class E in INFO2, and sends nothing. A translation
fault in a real-time partition, and an uncorrectable error met by the table walk, kill the block instead (R69, R117, R373). -/
def Sys2Proof.Safety.AccessFaultsRule : Prop :=
  ∀ (s : State) (t : Thread) (r : Run) (d a tid off n c : Nat) (st : Bool) (i : Instr), Runs s t r →
    (i = .ldd d a tid off ∧ n = 8 ∧ st = false ∨ i = .ldw d a tid off ∧ n = 4 ∧ st = false
      ∨ i = .std d a tid off ∧ n = 8 ∧ st = true ∨ i = .stw d a tid off ∧ n = 4 ∧ st = true) →
    accessOf s (whoOf s.cur.core r) (tidOf s s.cur.core r.part tid) ((rdReg t a).toInt + sx 8 off) 0 n n false st .prompter = .error c →
    let fatal := ((getPart s r.part).rt = true ∧ (c = 0x066 ∨ c = 0x06D)) ∨ c = 0x16C
    (¬ fatal → ∃ i0 i1, Traps s c i0 i1 0x20 false (exec i s))
    ∧ (fatal → ∃ s', exec i s = .next s' ∧ runOf s' s.cur.core s.cur.slot = none ∧ s'.reqs.all (fun q => s.reqs.contains q) = true
        ∧ ∃ x ∈ s'.recs, x.2.cause = c)

/-- Loads and stores at issue, and their faults: all of LoadIssueRule, StoreIssueRule, AccessAsksRule, AccessFaultsRule. -/
def Obligations.AccessIssue : Prop :=
  LoadIssueRule ∧ StoreIssueRule ∧ AccessAsksRule ∧ AccessFaultsRule

/-- The request of cur's index is one of thread n that performs now: it has not yet, its port is up, its way is free, no store of the thread is before it,
no pool bank it touches is fenced, and no stored block of memory it touches is bad. -/
def Sys2Proof.Safety.Performs (s : State) (q : Req) (n : Nat) : Prop :=
  s.reqs.find? (·.id == s.cur.ix) = some q ∧ q.asker = .thread n ∧ q.done = false ∧ portDown s q.place = false ∧ behind s q = false
  ∧ wayDown s q.core q.place = false
  ∧ (let m := if q.store then q.bytes.length else q.len
     bankFenced s q.place m = false ∧ (q.place.store ≠ .dev ∨ eccOf s q.place.addr m = 0))

/-- R230: a store changes exactly its bytes when it performs; one of a chorus block's user mode may first save an old line in the release buffer (R385). -/
def Sys2Proof.Safety.StorePerformsRule : Prop :=
  ∀ (s : State) (q : Req) (n : Nat), Performs s q n → q.store = true → q.bits = none → q.voice = false →
    ∃ s', exec .prompterPerform s = .next s' ∧ rdMem s' q.place q.bytes.length = q.bytes ∧ SameBytesBut s s' q.place q.bytes.length
      ∧ s'.reqs = s.reqs.filter (·.id != q.id) ∧ s'.threads = s.threads

/-- R229, R230: a load samples its bytes when it performs, and changes none; the data returns to the thread that waits for it, sign-extended for LDW, where the
way back is not down. -/
def Sys2Proof.Safety.LoadPerformsRule : Prop :=
  ∀ (s : State) (q : Req) (n : Nat) (t : Thread), Performs s q n → q.store = false →
    ((runOf s q.core n).map (·.chorus)).getD false = false →
    getTh s (thKey q.core n) = t → t.wait = .load q.id → backDown s q.core q.place = false →
    (∀ p ∈ s.reqs, p.store = true → p.core = q.core → p.asker = q.asker → q.id ≤ p.id) →
    let x := leNat (rdMem s q.place q.len)
    let v : W64 := if q.sext then BitVec.ofInt 64 (sx 32 x) else BitVec.ofNat 64 x
    ∃ s' back, exec .prompterPerform s = .next s' ∧ SameBytes s s' ∧ getTh s' (thKey q.core n) = { t with wait := .loaded back 0 v q.dst }

/-- R219: when the data of a load is back, the thread's next slot writes it to the load's register and goes on to the next word. -/
def Sys2Proof.Safety.LoadReturnsRule : Prop :=
  ∀ (s : State) (t : Thread) (d m : Nat) (v : W64), getTh s (curKey s) = { t with wait := .loaded m 0 v d } →
    ∃ t1, Wrote { t with wait := .none } t1 d v
      ∧ dataBack s s.cur.core s.cur.slot 0 v (some d) 0 = goesOn (setTh s (curKey s) (advance t1)) s.cur.core s.cur.slot

/-- R427: a request to a port that times out completes with 0x069: a load for the thread that waits for it, with the element's index for INFO1 (R365), a store as a record. That a store leaves a record is the choice of log 29. -/
def Sys2Proof.Safety.HostTimeoutsRule : Prop :=
  ∀ (s : State) (q : Req), s.cur.flag = false → s.reqs.find? (·.id == s.cur.ix) = some q → q.place.store ≠ .dev →
    (q.store = false → ∃ s', exec .cxlTimeout s = .next s' ∧ SameBytes s s' ∧ (∀ p ∈ s'.reqs, p.id ≠ q.id)
      ∧ ∀ k, (getTh s k).wait = .load q.id → ∃ n d, (getTh s' k).wait = .loaded n 0x069 (BitVec.ofNat 64 q.index) d)
    ∧ (q.store = true → ∀ t r, q.asker = .thread t → runOf s q.core t = some r → ∃ s', exec .cxlTimeout s = .next s' ∧ SameBytes s s'
      ∧ s'.threads = s.threads ∧ (∀ p ∈ s'.reqs, p.id ≠ q.id) ∧ ∃ x ∈ s'.recs, x.2.cause = 0x069)

/-- Loads and stores as they perform, return and time out: all of StorePerformsRule, LoadPerformsRule, LoadReturnsRule, HostTimeoutsRule. -/
def Obligations.AccessPerforms : Prop :=
  StorePerformsRule ∧ LoadPerformsRule ∧ LoadReturnsRule ∧ HostTimeoutsRule

/-! ## Special registers, the TID table and residency -/

/-- R222, R223, R231: what SRRD writes to gd for the registers a thread may read. -/
def Sys2Proof.Safety.SpecialReadsRule : Prop :=
  ∀ (s : State) (t : Thread) (r : Run) (d x : Nat), Runs s t r → srAssigned x = true → (t.mode = true ∨ srUser x = true) →
    (r.chorus = false ∨ x ≠ 0x020 ∧ x ≠ 0x021) →
    Result s t d (srRead s s.cur.core s.cur.slot t r x) (exec (.srrd d x) s)

/-- R31, R33, R97, R180, R222, R223, R357: the values of the user and supervisor registers. The time is that of the thread's C-die: the device's, or its own while
the die goes on alone (R411). -/
def Sys2Proof.Safety.SpecialValuesRule : Prop :=
  ∀ (s : State) (core slot : Nat) (t : Thread) (r : Run),
    let n (v : Nat) : W64 := BitVec.ofNat 64 v
    let b (x : Bool) : Nat := if x then 1 else 0
    let rd := srRead s core slot t r
    let own := s.tb.own.find? fun o => o.1 == dieOf core
    let now : Nat × Nat := match own with
      | none => (s.tb.ticks, s.tb.frac)
      | some o => (o.2.1, o.2.2.1)
    rd 0x001 = n now.1
    ∧ (r.fire < 2 ^ 64 → rd 0x002 = n now.1 - n r.fire)
    ∧ rd 0x003 = n (now.1 * 10 + now.2 * 10 / 2 ^ 32)
    ∧ rd 0x004 = n now.2
    ∧ rd 0x008 = n (r.lc % 64)
    ∧ rd 0x009 = n (r.gang % 256)
    ∧ rd 0x00A = n (16 * b (getPart s r.part).rt + r.part)
    ∧ rd 0x00B = n slot
    ∧ (∀ i, i < 32 → (rd 0x010).getLsbD i = lineSeen s core slot r.part i)
    ∧ rd 0x011 = n t.depth
    ∧ rd 0x012 = n (getCopier s core).stage
    ∧ (∀ i, i < 64 → (rd 0x020).getLsbD i = (decide (i < 48 ∧ i ≠ 22 ∧ i ≠ 23) && !(getCore s core).capClr.getLsbD i))
    ∧ (∀ i, i < 64 → (rd 0x021).getLsbD i = (decide (i < 5) && !(rd 0x020).getLsbD (32 + i)))
    ∧ rd 0x100 = n (b t.more * 1024 + b t.async * 512 + t.cause % 512)
    ∧ rd 0x101 = t.trappc ∧ rd 0x102 = t.info0 ∧ rd 0x103 = t.info1 ∧ rd 0x104 = t.info2 ∧ rd 0x105 = t.info3
    ∧ rd 0x106 = t.traptick
    ∧ rd 0x110 = t.vecbase
    ∧ rd 0x111 = n (b t.dbg * 128 + b t.skip * 64 + t.dsk % 4 * 16 + b t.taken * 8 + b t.ds * 4 + b t.pmode * 2 + b t.mode)
    ∧ rd 0x120 = n core ∧ rd 0x130 = 0 ∧ rd 0x140 = n (getCore s core).partword.toNat

/-- R34 to R36, R68, R116, R224, R403, R416, R418, R420, R424, R434, R435, R438: the values of the device registers; what may only be written reads 0 (R6). -/
def Sys2Proof.Safety.DeviceValuesRule : Prop :=
  ∀ (s : State) (core slot : Nat) (t : Thread) (r : Run),
    let n (v : Nat) : W64 := BitVec.ofNat 64 v
    let b (x : Bool) : Nat := if x then 1 else 0
    let rd := srRead s core slot t r
    let m := s.mgmt
    let temp (d : Nat) : Nat := tget m.tmax 0 d % 256
    rd 0x400 = n s.tb.inc ∧ rd 0x401 = n (s.tb.hbexp * 256) ∧ rd 0x402 = 0
    ∧ rd 0x403 = n (b s.tb.stepref * 8 + b s.tb.holdover * 4 + b s.tb.locked * 2 + b (rtRunning s))
    ∧ (∀ p, p < 16 →
        rd (0x410 + p) = n ((getPart s p).quant * 256 + b (getPart s p).enable * 2 + b (getPart s p).rt)
        ∧ rd (0x420 + p) = n ((getPart s p).root * 4096 + b (getPart s p).rootEn)
        ∧ rd (0x440 + p) = n ((getPart s p).flrState * 2 ^ 62 + (getPart s p).flrDrained * 2 ^ 32 + (getPart s p).flrTicks)
        ∧ rd (0x460 + p) = n (tget s.level 16 p)
        ∧ rd (0x500 + p) = n ((getPart s p).ctxBase * 2 ^ 21 + (getPart s p).ctxSize))
    ∧ rd 0x430 = n (b m.tlbBusy * 4)
    ∧ rd 0x450 = n m.capw ∧ rd 0x451 = n (m.cape * 65536 + b m.capinf)
    ∧ rd 0x452 = n (m.t2e * 2 ^ 24 + m.t3 * 65536 + m.t2 * 256 + m.t1)
    ∧ rd 0x453 = n ((if m.t3In then 3 else if m.t2In ≠ [] then 2 else if m.t1In then 1 else 0) * 2 ^ 32
        + (temp 0 + temp 1 * 2 ^ 8 + temp 2 * 2 ^ 16 + temp 3 * 2 ^ 24))
    ∧ rd 0x454 = n (m.saveBase * 2 ^ 21 + b m.saveEn)
    ∧ (∀ i, i < 128 → rd (0x480 + i) = tget s.sync 0 i)
    ∧ rd 0x510 = s.tb.ppsIn

/-- Reads of special registers: all of SpecialReadsRule, SpecialValuesRule, DeviceValuesRule. -/
def Obligations.SpecialReads : Prop :=
  SpecialReadsRule ∧ SpecialValuesRule ∧ DeviceValuesRule

/-- R183, R224: an unassigned register number traps with 0x005; a register that user mode may not name, and SRWR of a device register in either mode,
trap with 0x004. -/
def Sys2Proof.Safety.SpecialRefusalsRule : Prop :=
  ∀ (s : State) (t : Thread) (r : Run) (d a x : Nat), Runs s t r →
    (srAssigned x = false → (∃ w, Traps s 0x005 w 0 0 false (exec (.srrd d x) s)) ∧ ∃ w, Traps s 0x005 w 0 0 false (exec (.srwr a x) s))
    ∧ (srAssigned x = true → t.mode = false → srUser x = false →
        (∃ w, Traps s 0x004 w 0 0 false (exec (.srrd d x) s)) ∧ ∃ w, Traps s 0x004 w 0 0 false (exec (.srwr a x) s))
    ∧ (srAssigned x = true → 0x400 ≤ x → ∃ w, Traps s 0x004 w 0 0 false (exec (.srwr a x) s))

/-- R223, R231, R359: SRWR of the thread's own registers in supervisor mode, of a read-only register, which changes nothing, and of SRSEED with a
target that seeds nothing. -/
def Sys2Proof.Safety.SpecialWritesRule : Prop :=
  ∀ (s : State) (t : Thread) (r : Run) (a : Nat), Runs s t r → t.mode = true →
    let v := rdReg t a
    let p : Thread := { t with
      skip := v.getLsbD 6, dsk := if v.toNat / 16 % 4 = 3 then 0 else v.toNat / 16 % 4, taken := v.getLsbD 3, ds := v.getLsbD 2,
      pmode := v.getLsbD 1, mode := v.getLsbD 0 }
    Passes s { t with trappc := v } (exec (.srwr a 0x101) s)
    ∧ Passes s { t with info0 := v } (exec (.srwr a 0x102) s)
    ∧ Passes s { t with info1 := v } (exec (.srwr a 0x103) s)
    ∧ Passes s { t with info2 := v } (exec (.srwr a 0x104) s)
    ∧ Passes s { t with vecbase := v } (exec (.srwr a 0x110) s)
    ∧ Passes s p (exec (.srwr a 0x111) s)
    ∧ (∀ x, x = 0x001 ∨ x = 0x008 ∨ x = 0x010 ∨ x = 0x020 ∨ x = 0x106 → Passes s t (exec (.srwr a x) s))
    ∧ (v.toNat / 2 ^ 32 % 4 = 3 → Passes s t (exec (.srwr a 0x130) s))

/-- Writes of special registers, and what refuses reads and writes: all of SpecialRefusalsRule, SpecialWritesRule. -/
def Obligations.SpecialWrites : Prop :=
  SpecialRefusalsRule ∧ SpecialWritesRule

/-- R248: TIDRD reads a word of the committed entry; TIDWR in supervisor mode writes words 0 to 2 of the thread's shadow, and its word 3 commits the
shadow and clears the residency bits of the TID, or is refused with 0x146 in gd and changes nothing else. A copy issue of the same cycle comes before word 3 (R263). -/
def Sys2Proof.Safety.TidWordsRule : Prop :=
  ∀ (s : State) (t : Thread) (r : Run) (d a tid w : Nat), Runs s t r →
    Result s t d (tget s.tids 0 (4 * tidKey s.cur.core r.part tid + w)) (exec (.tidrd d tid w) s)
    ∧ (t.mode = true → w < 3 → ∃ t1, (∀ j, tget t1.shadow 0 j = if j = w then rdReg t a else tget t.shadow 0 j) ∧ { t1 with shadow := t.shadow, shadowPart := t.shadowPart } = t
        ∧ Result s t1 d 0 (exec (.tidwr d a tid w) s))
    ∧ (t.mode = true → s.todo.contains (.copyIssue s.cur.core) = false →
        let x (j : Nat) : Nat := if j = 3 then (rdReg t a).toNat else (tget t.shadow 0 j).toNat
        let e := tidParse (x 0) (x 1) (x 2) (x 3)
        let ok := (e.valid = true → tidWf e r.part (!(getPart s r.part).rt) = true) ∧ ¬ (copyRuns s s.cur.core r.part = true ∧ inJournal s s.cur.core tid = true)
        (ok → ∃ s', exec (.tidwr d a tid 3) s = .next s' ∧ (∀ j, j < 4 → tidWord s' s.cur.core r.part tid j = x j)
            ∧ (∀ k, k / 4 ≠ tidKey s.cur.core r.part tid → tget s'.tids 0 k = tget s.tids 0 k)
            ∧ s'.resid = s.resid.filter (fun k => k / 4096 != tidKey s.cur.core r.part tid)
            ∧ SameBytes s s' ∧ OtherThreads s s'
            ∧ ∃ t1 t2, { t1 with shadow := t.shadow, shadowPart := t.shadowPart } = t ∧ Wrote t1 t2 d 0 ∧ getTh s' (curKey s) = advance t2)
        ∧ (¬ ok → ∃ t1, { t1 with shadow := t.shadow, shadowPart := t.shadowPart } = t ∧ Result s t1 d 0x146 (exec (.tidwr d a tid 3) s)))
    ∧ (t.mode = true → s.todo.contains (.copyIssue s.cur.core) = true → exec (.tidwr d a tid 3) s
        = .next { s with todo := .copyIssue s.cur.core :: .thread s.cur.core s.cur.slot :: s.todo.filter (· != .copyIssue s.cur.core) })
    ∧ (t.mode = false → ∃ i0, Traps s 0x004 i0 0 0 false (exec (.tidwr d a tid w) s))

/-- R249: RESCLR clears the residency bit of a tile and RESTST reads it; with RESTRK = 0 RESCLR does nothing and RESTST gives 1. An entry that is not
valid traps with 0x060, a tile beyond the tile count with 0x062. -/
def Sys2Proof.Safety.ResidencyWordsRule : Prop :=
  ∀ (s : State) (t : Thread) (r : Run) (d a tid : Nat), Runs s t r →
    let e := tidOf s s.cur.core r.part tid
    let tile := (rdReg t a).toNat % 2 ^ 32
    let k := resKey s.cur.core r.part tid tile
    (e.valid = true → tile < e.tileCount → e.restrk = true →
      Result s t d (if s.resid.contains k then 1 else 0) (exec (.restst d a tid) s)
      ∧ ∃ s', exec (.resclr a tid) s = .next s' ∧ s'.resid = s.resid.filter (· != k) ∧ getTh s' (curKey s) = advance t
          ∧ SameBytes s s' ∧ OtherThreads s s')
    ∧ (e.valid = true → tile < e.tileCount → e.restrk = false →
        Result s t d 1 (exec (.restst d a tid) s) ∧ Passes s t (exec (.resclr a tid) s))
    ∧ (e.valid = false → ∃ i0, Traps s 0x060 i0 tile 0x20 false (exec (.restst d a tid) s) ∧ Traps s 0x060 i0 tile 0x20 false (exec (.resclr a tid) s))
    ∧ (e.valid = true → e.tileCount ≤ tile →
        ∃ i0, Traps s 0x062 i0 tile 0x20 false (exec (.restst d a tid) s) ∧ Traps s 0x062 i0 tile 0x20 false (exec (.resclr a tid) s))

/-- TID entries and residency bits: all of TidWordsRule, ResidencyWordsRule. -/
def Obligations.TidTable : Prop :=
  TidWordsRule ∧ ResidencyWordsRule

/-! ## Engine control and steering -/

/-- The thread of r may control a slot of its core that holds a region of its partition (R240). -/
def Sys2Proof.Safety.MayControl (s : State) (r : Run) (sl : Nat) : Prop :=
  (getReg s (thKey s.cur.core sl)).placed = true ∧ (getReg s (thKey s.cur.core sl)).part = r.part
  ∧ (sl = s.cur.slot ∨ runOf s s.cur.core sl = none)

/-- Only the region of a slot of cur's core and cur's thread change. -/
def Sys2Proof.Safety.OnlyRegion (s s' : State) (sl : Nat) : Prop :=
  { s' with threads := s.threads, regions := s.regions } = s ∧ SameBytes s s'
  ∧ ∀ k, k ≠ thKey s.cur.core sl → getReg s' k = getReg s k

/-- R241, R242: KSTART of an idle region with all planes loaded starts n instances at the region's present cycle, or does nothing for n = 0, and clears
the slot's flag lines; results still in flight in its elements are due before instance 0 issues (R267); KSTOP stops a running region at its next boundary and does nothing to an idle one; KWAIT of an idle slot goes on. -/
def Sys2Proof.Safety.KernelWordsRule : Prop :=
  ∀ (s : State) (t : Thread) (r : Run) (a sl : Nat), Runs s t r → MayControl s r sl →
    let k := thKey s.cur.core sl
    let g := getReg s k
    let n := (rdReg t a).toNat % 2 ^ 32
    (ridle s s.cur.core sl = true → (∀ p ∈ hPages g.hdr.toNat, p ∈ g.opLoaded ∧ p ∈ g.rtLoaded) →
      (n = 0 → Passes s t (exec (.kstart a sl) s))
      ∧ (n ≠ 0 → ∃ s' t1, exec (.kstart a sl) s = .next s' ∧ OnlyRegion s { s' with elems := s.elems } sl
          ∧ (∀ e, { getEl s' e with pipe := (getEl s e).pipe } = getEl s e ∧ (e / 256 ≠ k → getEl s' e = getEl s e)
              ∧ (e / 256 = k → (getEl s' e).pipe.map (fun f => { f with due := 0 }) = (getEl s e).pipe.map (fun f => { f with due := 0 })
                  ∧ ∀ f ∈ (getEl s' e).pipe, f.due ≤ g.count + 3))
          ∧ (getReg s' k).runs = true ∧ (getReg s' k).trip = n ∧ (getReg s' k).start = g.count ∧ (getReg s' k).stopReq = false
          ∧ { t1 with flags := t.flags } = t ∧ (sl = s.cur.slot → t1.flags = 0) ∧ getTh s' (curKey s) = advance t1
          ∧ (sl ≠ s.cur.slot → (getTh s' k).flags = 0)))
    ∧ (g.runs = true → ∃ s', exec (.kstop sl) s = .next s' ∧ OnlyRegion s s' sl ∧ getReg s' k = { g with stopReq := true }
        ∧ getTh s' (curKey s) = advance t)
    ∧ (g.runs = false → Passes s t (exec (.kstop sl) s))
    ∧ (ridle s s.cur.core sl = true → didle s s.cur.core sl = true → Passes s t (exec (.kwait sl) s))
    ∧ (ridle s s.cur.core sl = false ∨ didle s s.cur.core sl = false → Becomes s { t with wait := .kwait sl } (exec (.kwait sl) s))

/-- R240, R241, R244: control of a slot that the thread may not control traps with 0x143 and changes nothing, and KSTART of a region that lacks a plane
traps with 0x144. -/
def Sys2Proof.Safety.ControlRefusedRule : Prop :=
  ∀ (s : State) (t : Thread) (r : Run) (a b sl : Nat), Runs s t r →
    (getReg s (thKey s.cur.core sl)).placed = true → (getReg s (thKey s.cur.core sl)).part = r.part →
    (sl ≠ s.cur.slot → (runOf s s.cur.core sl).isSome = true → ∀ i,
      (i = .kstart a sl ∨ i = .kstop sl ∨ (∃ p, i = .cfgld p a b sl) ∨ (∃ j, i = .constw a b j sl) ∨ i = .vsel a sl ∨ i = .epsel a sl) →
      ∃ w, Traps s 0x143 w 0 0 false (exec i s))
    ∧ (MayControl s r sl → ridle s s.cur.core sl = true →
        (∃ p ∈ hPages (getReg s (thKey s.cur.core sl)).hdr.toNat, p ∉ (getReg s (thKey s.cur.core sl)).opLoaded
          ∨ p ∉ (getReg s (thKey s.cur.core sl)).rtLoaded) →
        ∃ w, Traps s 0x144 w 0 0 false (exec (.kstart a sl) s))

/-- Starting, awaiting and stopping a region, and what refuses it: all of KernelWordsRule, ControlRefusedRule. -/
def Obligations.KernelControl : Prop :=
  KernelWordsRule ∧ ControlRefusedRule

/-- R74, R244: VSEL and CONSTW of an idle region write its stage-valid mask and the constant at once; in a running one they wait for its next boundary.
CONSTW of a slot whose region is pre-empted writes the constant of the saved image. -/
def Sys2Proof.Safety.ConstantsAndMaskRule : Prop :=
  ∀ (s : State) (t : Thread) (r : Run) (a b j sl : Nat), Runs s t r → j < 8 →
    let k := thKey s.cur.core sl
    let g := getReg s k
    let e := (rdReg t b).toNat
    let m := (rdReg t a).toNat % 64
    let v : W32 := (rdReg t a).setWidth 32
    (MayControl s r sl → ∃ s', exec (.vsel a sl) s = .next s' ∧ OnlyRegion s s' sl ∧ getTh s' (curKey s) = advance t
      ∧ getReg s' k = (if g.runs then { g with maskPend := some m } else { g with stageMask := m }))
    ∧ (MayControl s r sl → e / 16 < 4 * hH g.hdr.toNat → e % 16 < 4 * hW g.hdr.toNat →
        ∃ s' g', exec (.constw a b j sl) s = .next s' ∧ OnlyRegion s { s' with cfgBad := s.cfgBad } sl ∧ getTh s' (curKey s) = advance t
          ∧ getReg s' k = g'
          ∧ (g.runs = false → { g' with con := g.con } = g ∧ ∀ x, tget g'.con 0 x = if x = conKey (e / 16) (e % 16) j then v else tget g.con 0 x)
          ∧ (g.runs = true → { g' with conPend := g.conPend } = g ∧ lookup g'.conPend (conKey (e / 16) (e % 16) j) = some v))
    ∧ (MayControl s r sl → 4 * hH g.hdr.toNat ≤ e / 16 ∨ 4 * hW g.hdr.toNat ≤ e % 16 → ∃ w, Traps s 0x145 w e 0 false (exec (.constw a b j sl) s))
    ∧ ∀ i, g.placed = false → s.images.find? (fun i => i.part == r.part && i.core == s.cur.core && i.slot == sl) = some i →
        let h := i.snap.region.hdr.toNat
        (e / 16 < 4 * hH h → e % 16 < 4 * hW h → ∃ s' i', exec (.constw a b j sl) s = .next s' ∧ getTh s' (curKey s) = advance t ∧ SameBytes s s'
          ∧ OtherThreads s s' ∧ s'.regions = s.regions ∧ i' ∈ s'.images ∧ { i' with snap := i.snap } = i
          ∧ ∀ x, tget i'.snap.region.con 0 x = if x = conKey (e / 16) (e % 16) j then v else tget i.snap.region.con 0 x)
        ∧ (4 * hH h ≤ e / 16 ∨ 4 * hW h ≤ e % 16 → ∃ w, Traps s 0x145 w e 0 false (exec (.constw a b j sl) s))

/-- R177, R219, R243, R245: a CFGLD of an idle region whose bytes the image holds, whose entries pass the checks, and that completes no region that fails its
joint checks, loads the planes of the page, clears the page's elements with an opcode plane, and stalls the thread for the cycles of the planes. That the planes load and
the page clears at the issue, and not at the stall's end, is the reading of log 25. -/
def Sys2Proof.Safety.ConfigurationLoadRule : Prop :=
  ∀ (s : State) (t : Thread) (r : Run) (p : Plane) (a b sl : Nat) (g' : Region), Runs s t r → MayControl s r sl →
    let k := thKey s.cur.core sl
    let g := getReg s k
    let off := (rdReg t a).toNat
    let page := (rdReg t b).toNat
    let size := match p with | .op => 3072 | .rt => 1024 | .cn => 512 | .all => 4608
    let cycles := match p with | .op => 48 | .rt => 16 | .cn => 8 | .all => 72
    let full (x : Region) : Prop := ∀ q ∈ hPages g.hdr.toNat, q ∈ x.opLoaded ∧ q ∈ x.rtLoaded
    ridle s s.cur.core sl = true → off % 64 = 0 → off + size ≤ r.len → page ∈ hPages g.hdr.toNat → imageBad s s.cur.core r off size = false →
    loadPlanes g p page (imageBytes s s.cur.core r off size) = .ok g' →
    (p = .cn ∨ ¬ full g' ∨ full g ∨ regionCheck s s.cur.core r.part g' = none) →
    ∃ s', exec (.cfgld p a b sl) s = .next s' ∧ getReg s' k = g' ∧ (∀ j, j ≠ k → getReg s' j = getReg s j)
      ∧ SameBytes s s' ∧ OtherThreads s s' ∧ getTh s' (curKey s) = advance { t with wait := .untilN (nOf s s.cur.core + cycles) }
      ∧ (p = .op ∨ p = .all → ∀ e, e < 16 → (getEl s' (256 * k + 16 * (page / 4 * 4 + e / 4) + (page % 4 * 4 + e % 4))).q = [])

/-- R177, R245: EPSEL of a good program stalls the thread for a cycle a word, and schedules its use from the end of that time; an offset outside the
image traps with 0x145 (R246). -/
def Sys2Proof.Safety.EpilogueSelectRule : Prop :=
  ∀ (s : State) (t : Thread) (r : Run) (a sl : Nat), Runs s t r → MayControl s r sl →
    let core := s.cur.core
    let off := (rdReg t a).toNat
    let ws := progWords ((List.range (min 64 ((r.len - 4 * off) / 4))).map fun i => imageWord s core r (4 * (off + i)))
    (r.len < 4 * off + 4 → ∃ w, Traps s 0x145 w off 0 false (exec (.epsel a sl) s))
    ∧ (4 * off + 4 ≤ r.len → (∀ w ∈ ws, w / 2 ^ 27 ≠ 0x0C) → imageBad s core r (4 * off) (4 * ws.length) = false →
    progFault s core r.part (hArray (getReg s (thKey core sl)).hdr.toNat) ws true = none →
    ∃ s', exec (.epsel a sl) s = .next s' ∧ SameBytes s s' ∧ OtherThreads s s'
      ∧ getTh s' (curKey s) = advance { t with wait := .untilN (nOf s core + ws.length) }
      ∧ s'.agenda = s.agenda ++ [⟨.cluster (clusterOf core), nOf s core + ws.length, .epLoaded core sl off ws []⟩])

/-- Constants, stage masks, configuration planes and epilogue programs: all of ConstantsAndMaskRule, ConfigurationLoadRule, EpilogueSelectRule. -/
def Obligations.RegionSetup : Prop :=
  ConstantsAndMaskRule ∧ ConfigurationLoadRule ∧ EpilogueSelectRule

/-- R191: STAGE adds 1 and stops at 255, STAGESET writes 8 bits; without a copy-engine block of the partition on the core every steering word traps
with 0x0EA and changes nothing; that INFO0 is 0 there is the reading of log 14. R204: QARM arms idle banks, QSEL keeps its bank and QCANCEL cancels its own, where the bank is not cancelled. -/
def Sys2Proof.Safety.CopySteeringRule : Prop :=
  ∀ (s : State) (t : Thread) (r : Run) (a : Nat) (k : Bank), Runs s t r →
    let core := s.cur.core
    let c := getCopier s core
    let done (s' : State) : Prop := getTh s' (curKey s) = advance t ∧ SameBytes s s'
    (copyRuns s core r.part = true → r.chorus = false →
      (∃ s', exec .stage s = .next s' ∧ done s' ∧ (getCopier s' core).stage = min 255 (c.stage + 1))
      ∧ (∃ s', exec (.stageset a) s = .next s' ∧ done s' ∧ (getCopier s' core).stage = (rdReg t a).toNat % 256)
      ∧ (∃ s', exec .qarm s = .next s' ∧ done s'
          ∧ (getCopier s' core).bankA = (if c.bankA = .idle then .armed else c.bankA)
          ∧ (getCopier s' core).bankB = (if c.bankB = .idle then .armed else c.bankB))
      ∧ (bankSt c k = .cancelled → (∃ s', exec (.qsel k) s = .next s' ∧ done s' ∧ getCopier s' core = c)
          ∧ ∃ s', exec (.qcancel k) s = .next s' ∧ done s' ∧ getCopier s' core = c)
      ∧ (c.journal = [] → bankSt c k ≠ .cancelled →
          (∃ s', exec (.qsel k) s = .next s' ∧ done s' ∧ bankSt (getCopier s' core) k = .kept ∧ bankSt (getCopier s' core) (otherBank k) = .cancelled)
          ∧ ∃ s', exec (.qcancel k) s = .next s' ∧ done s' ∧ bankSt (getCopier s' core) k = .cancelled
              ∧ bankSt (getCopier s' core) (otherBank k) = bankSt c (otherBank k)))
    ∧ (copyRuns s core r.part = false → ∀ i, i = .stage ∨ i = .stageset a ∨ i = .qarm ∨ i = .qsel k ∨ i = .qcancel k →
        Traps s 0x0EA 0 0 0 false (exec i s))

/-- R204, R205: as QCANCEL cancels its bank, or QSEL the other one, every journal entry of the bank is gone in the same cycle: its DRAM accesses not yet granted are
dropped, no residency bit is set, its remaining bytes leave its phaser's pending counter, and OUT of its object goes down by 1, while count and status stay; bytes
already written stay. -/
def Sys2Proof.Safety.CopyCancelsRule : Prop :=
  ∀ (s : State) (t : Thread) (r ce : Run) (i : Instr) (gone : Bank), Runs s t r → runOf s s.cur.core 4 = some ce → ce.part = r.part → r.chorus = false →
    let core := s.cur.core
    let c := getCopier s core
    let b := match gone with | .a => 1 | .b => 2
    let lost := c.journal.filter (·.bank == b)
    let obj (e : JEntry) : Nat := 2 ^ 28 * r.part + e.ctr
    (c.journal.map (·.no)).Nodup → bankSt c gone ≠ .cancelled → (i = .qcancel gone ∨ i = .qsel (otherBank gone) ∧ bankSt c (otherBank gone) ≠ .cancelled) →
    ∃ s', exec i s = .next s' ∧ getTh s' (curKey s) = advance t ∧ bankSt (getCopier s' core) gone = .cancelled
      ∧ (getCopier s' core).journal = c.journal.filter (·.bank != b)
      ∧ (∀ a, a ∈ s'.dram ↔ a ∈ s.dram ∧ ¬ (a.core = core ∧ ∃ e ∈ lost, a.entry = some e.no))
      ∧ s'.resid = s.resid
      ∧ (∀ p, p < 4095 → (getPh s (4096 * ce.scene + p)).live = true →
          (getPh s' (4096 * ce.scene + p)).pending = (getPh s (4096 * ce.scene + p)).pending - ((lost.filter (·.phaser == p)).map (·.bytes)).sum)
      ∧ ((∀ e ∈ lost, e.ctr = 0xFFFFFFF ∨ ∃ m, objAt s (obj e) = some (.sram m)) → SameBytes s s')
      ∧ ∀ e m, lost = [e] → e.ctr ≠ 0xFFFFFFF → objAt s (obj e) = some (.sram m) → e.sent = false →
          (∀ q ∈ s.syncQ, q.op ≠ 56) → getObj s' (obj e) = { getObj s (obj e) with out := (getObj s (obj e)).out - 1 }

/-- Queue banks, the copy stage and cancellation: all of CopySteeringRule, CopyCancelsRule. -/
def Obligations.CopySteering : Prop :=
  CopySteeringRule ∧ CopyCancelsRule

/-! ## Synchronisation -/

/-- cur's thread sends one request to a sync engine and waits for its reply; nothing else changes. -/
def Sys2Proof.Safety.Requests (s : State) (t : Thread) (p0 : Bool) (home op arg val cmp d : Nat) (key : List Nat) (o : Out) : Prop :=
  ∃ s', o = .next s'
    ∧ s'.syncQ = s.syncQ ++ [⟨s.nextId, s.cur.core, s.cur.slot, home, p0, op, arg, val, cmp, d, s.cycle + oneWay s.cur.core home, key⟩]
    ∧ getTh s' (curKey s) = { t with wait := .sync s.nextId } ∧ SameBytes s s' ∧ OtherThreads s s'

/-- R208, R210, R250: each phaser word of a block that is in no chorus sends its request to the phaser's home, once the accesses that its signal
releases have performed; a number above 4094, or no such phaser, traps with 0x0E4, with the mode or the target for INFO1 (R365). -/
def Sys2Proof.Safety.PhaserWordsRule : Prop :=
  ∀ (s : State) (t : Thread) (r : Run) (d a b : Nat) (m : PhMode), Runs s t r →
    let n := (rdReg t a).toNat
    let k := 4096 * r.scene + n
    let tgt := (rdReg t b).toNat
    let key := [r.gang, r.lc, s.cur.slot]
    let p0 := (getPart s r.part).rt
    (n ≤ 4094 → (getPh s k).live = true →
      let home := (getPh s k).home
      Requests s t p0 home 0 k (match m with | .sig => 0 | .wait => 1 | .sigwait => 2) 0 0 key (exec (.phreg m a) s)
      ∧ Requests s t p0 home 3 k tgt 0 0 key (exec (.phwait a b) s)
      ∧ Requests s t p0 home 5 k 0 0 d key (exec (.phqry d a) s)
      ∧ (r.chorus = false → t.wait = .none → settled s s.cur.core (relIds s s.cur.core s.cur.slot r.part) = true →
          Requests s t p0 home 2 k 0 0 0 key (exec (.phsig a) s)
          ∧ Requests s t p0 home 4 k tgt 0 0 key (exec (.phsw a b) s)
          ∧ Requests s t p0 home 1 k 0 0 0 key (exec (.phdrop a) s)))
    ∧ (4094 < n ∨ (getPh s k).live = false →
        Traps s 0x0E4 n (match m with | .sig => 0 | .wait => 1 | .sigwait => 2) 0 false (exec (.phreg m a) s)
        ∧ Traps s 0x0E4 n 0 0 false (exec (.phdrop a) s) ∧ Traps s 0x0E4 n 0 0 false (exec (.phsig a) s)
        ∧ Traps s 0x0E4 n tgt 0 false (exec (.phwait a b) s) ∧ Traps s 0x0E4 n tgt 0 false (exec (.phsw a b) s)
        ∧ Traps s 0x0E4 n 0 0 false (exec (.phqry d a) s))

/-- R209, R210, R449: what a phaser's engine does with a request: an operation on no phaser, a duplicate registration, a 257th member, a member without room, and an operation that
the thread's mode, or its not being a member, does not allow each reply with their cause and change nothing; a registration joins the queue, or the members where
no member signals; a drop and a signal are noted; a wait replies once its target is reached, and a query at once. -/
def Sys2Proof.Safety.PhaserServiceRule : Prop :=
  ∀ (s : State) (q : SyncReq), nextRequest s s.cur.ix = some q → q.op < 6 →
    let p := getPh s q.arg
    let s0 : State := { s with syncQ := s.syncQ.filter (·.id != q.id) }
    let answer (t : State) (c v : Nat) (d : Option Nat) : State := reply t q.id q.home (s.cycle + oneWay q.core q.home) c (BitVec.ofNat 64 v) d
    let fails (c : Nat) : Prop := exec .syncService s = .next (answer s0 c q.val (some (q.arg % 4096)))
    let gang := q.key.getD 0 0
    let lc := q.key.getD 1 0
    let th := q.key.getD 2 0
    let mine (m : Member) : Prop := m.gang = gang ∧ m.lc = lc ∧ m.t = th
    let d := if q.d = 0 then none else some q.d
    let becomes (f : Phaser) (v : Nat) : Prop := exec .syncService s = .next (answer (putPh s0 q.arg f) 0 v d)
    let note (f : Member → Member) : Phaser := { p with members := p.members.map (fun (m : Member) => if m.gang = gang ∧ m.lc = lc ∧ m.t = th then f m else m) }
    let signal (m : Member) : Member := if m.signalled then { m with held := m.held + 1 } else { m with signalled := true }
    (p.live = false → fails 0x0E4)
    ∧ (p.live = true →
      (q.op = 0 → (∃ m ∈ p.members ++ p.queued, mine m) → fails 0x0E9)
      ∧ (q.op = 0 → (∀ m ∈ p.members ++ p.queued, ¬ mine m) →
          (256 ≤ p.members.length + p.queued.length → fails 0x0E6)
          ∧ (p.members.length + p.queued.length < 256 →
              (memberRoom s0 q.home (getScene s (q.arg / 4096)).part = none → fails 0x0E2)
              ∧ ∀ e, memberRoom s0 q.home (getScene s (q.arg / 4096)).part = some e →
                  let m : Member := ⟨gang, lc, th, (modeOf q.val).getD .sig, false, 0, false, e⟩
                  ((∀ x ∈ p.members, x.mode = .wait) → becomes { p with members := p.members ++ [m] } 0)
                  ∧ ((∃ x ∈ p.members, x.mode ≠ .wait) → becomes { p with queued := p.queued ++ [m] } 0)))
      ∧ (q.op = 5 → exec .syncService s = .next (answer s0 0 p.phase d))
      ∧ (1 ≤ q.op → q.op ≤ 4 → (∀ m ∈ p.members, ¬ mine m) → fails 0x0E5)
      ∧ ∀ m ∈ p.members, mine m → (∀ x ∈ p.members, mine x → x = m) →
          (q.op = 2 ∧ m.mode = .wait ∨ q.op = 3 ∧ m.mode = .sig ∨ q.op = 4 ∧ m.mode ≠ .sigwait → fails 0x0E5)
          ∧ (q.op = 1 → becomes (note fun x => { x with dropping := true, signalled := x.signalled || x.mode != .wait }) 0)
          ∧ (q.op = 2 → m.mode ≠ .wait → becomes (note signal) 0)
          ∧ (q.op = 3 → m.mode ≠ .sig → q.val ≤ p.phase → exec .syncService s = .next (answer s0 0 p.phase d))
          ∧ (q.op = 3 → m.mode ≠ .sig → p.phase < q.val →
              exec .syncService s = .next (setPh s0 q.arg { p with waiters := p.waiters ++ [⟨q.id, q.core, q.t, q.d, q.val⟩] }))
          ∧ (q.op = 4 → m.mode = .sigwait → q.val ≤ p.phase → becomes (note signal) p.phase))

/-- R203, R207, R250: each counter word sends its request to the engine of its object's address; an address that is not below 2^32 traps with 0x0E1,
one that is not a multiple of 16 with 0x0E0, one of no object of the partition with 0x0E1, and of a real-time partition's overflow object
with 0x0EB. INFO1 is the operand, 0 for CTRRD and CTRSTAT (R365). -/
def Sys2Proof.Safety.CounterWordsRule : Prop :=
  ∀ (s : State) (t : Thread) (r : Run) (d a b : Nat), Runs s t r →
    let x := (rdReg t a).toNat
    let v := (rdReg t b).toNat
    let k := 2 ^ 28 * r.part + x / 16
    let p0 := (getPart s r.part).rt
    (objFault s r.part x 16 = none →
      Requests s t p0 (x / 2 ^ 30 % 4) 8 k v 0 d [] (exec (.ctrwait d a b) s)
      ∧ Requests s t p0 (x / 2 ^ 30 % 4) 9 k v 0 0 [] (exec (.ctrinit a b) s)
      ∧ Requests s t p0 (x / 2 ^ 30 % 4) 10 k 0 0 d [] (exec (.ctrrd d a) s)
      ∧ Requests s t p0 (x / 2 ^ 30 % 4) 11 k 0 0 d [] (exec (.ctrstat d a) s))
    ∧ (let refused (c : Nat) : Prop := Traps s c x v 0 false (exec (.ctrwait d a b) s) ∧ Traps s c x v 0 false (exec (.ctrinit a b) s)
          ∧ Traps s c x 0 0 false (exec (.ctrrd d a) s) ∧ Traps s c x 0 0 false (exec (.ctrstat d a) s)
       (2 ^ 32 ≤ x → refused 0x0E1) ∧ (x < 2 ^ 32 → x % 16 ≠ 0 → refused 0x0E0)
       ∧ (x < 2 ^ 32 → x % 16 = 0 → objAt s k = none → refused 0x0E1)
       ∧ (x < 2 ^ 32 → x % 16 = 0 → (∃ m, objAt s k = some (.dram m)) → p0 = true → refused 0x0EB)
       ∧ (x < 2 ^ 32 → x % 16 = 0 → ((∃ m, objAt s k = some (.sram m)) ∨ (∃ m, objAt s k = some (.dram m)) ∧ p0 = false) → objFault s r.part x 16 = none))

/-- The atomic words in the order of R166 (AFADD has no wide form). -/
def Sys2Proof.Safety.atomicWord (sub d a b : Nat) (wide : Bool) (o : Order) (sc : Scope) : Instr :=
  match sub with
  | 0 => .aadd d a b wide o sc
  | 1 => .amin d a b wide o sc
  | 2 => .amax d a b wide o sc
  | 3 => .aminu d a b wide o sc
  | 4 => .amaxu d a b wide o sc
  | 5 => .aand d a b wide o sc
  | 6 => .aor d a b wide o sc
  | 7 => .axor d a b wide o sc
  | 8 => .axch d a b wide o sc
  | 9 => .acas d a b wide o sc
  | _ => .afadd d a b o sc

/-- R212, R251: each atomic of a block that is in no chorus sends its operand, and ACAS its compare value, to the engine of its object, after the
release that its order bits ask for; an offset that its size does not allow traps with 0x0E0. -/
def Sys2Proof.Safety.AtomicWordsRule : Prop :=
  ∀ (s : State) (t : Thread) (r : Run) (sub d a b : Nat) (wide : Bool) (o : Order) (sc : Scope), Runs s t r → sub ≤ 10 → (sub = 10 → wide = false) →
    r.chorus = false → t.wait = .none →
    let x := (rdReg t a).toNat
    let n := if wide then 64 else 32
    let y := (rdReg t b).toNat % 2 ^ n
    let c := if sub = 9 then (rdReg t d).toNat % 2 ^ n else 0
    (x < 2 ^ 32 → (x % 16 = 0 ∨ wide = false ∧ x % 16 = 4) → objFault s r.part (x / 16 * 16) 16 = none →
      (o = .relaxed ∨ o = .acquire ∨ settled s s.cur.core (relIds s s.cur.core s.cur.slot r.part) = true) →
      Requests s t (getPart s r.part).rt (x / 2 ^ 30 % 4) (32 + 2 * sub + (if wide then 1 else 0)) x y c d [r.part] (exec (atomicWord sub d a b wide o sc) s))
    ∧ (x < 2 ^ 32 → ¬ (x % 16 = 0 ∨ wide = false ∧ x % 16 = 4) → Traps s 0x0E0 x y 0 false (exec (atomicWord sub d a b wide o sc) s))

/-- R155, R212: the new value of each atomic of n bits, for an old value x and an operand y below 2^n; AFADD's is the sum of two FP32 values, rounded once. -/
def Sys2Proof.Safety.AtomicValuesRule : Prop :=
  ∀ (n x y c : Nat), 0 < n → x < 2 ^ n → y < 2 ^ n →
    let sg (v : Nat) : Int := (BitVec.ofNat n v).toInt
    atomicNew 0 n x y c = (x + y) % 2 ^ n
    ∧ sg (atomicNew 1 n x y c) = min (sg x) (sg y) ∧ sg (atomicNew 2 n x y c) = max (sg x) (sg y)
    ∧ atomicNew 3 n x y c = min x y ∧ atomicNew 4 n x y c = max x y
    ∧ (∀ i, (atomicNew 5 n x y c).testBit i = (x.testBit i && y.testBit i))
    ∧ (∀ i, (atomicNew 6 n x y c).testBit i = (x.testBit i || y.testBit i))
    ∧ (∀ i, (atomicNew 7 n x y c).testBit i = (x.testBit i != y.testBit i))
    ∧ atomicNew 8 n x y c = y ∧ atomicNew 9 n x y c = (if x = c then y else x)
    ∧ atomicNew 10 32 x y c = roundF 6 .rne 0 (fvAdd (fpVal 6 x) (fpVal 6 y))

/-- R202, R208, R212: as its engine serves an atomic on an object in SRAM on which no thread waits, the bits of the object's count that the atomic names take the new value, nothing
else changes, and the old value goes back to the thread. -/
def Sys2Proof.Safety.AtomicServiceRule : Prop :=
  ∀ (s : State) (q : SyncReq) (sub w m : Nat), nextRequest s s.cur.ix = some q → sub ≤ 10 → w ≤ 1 → q.op = 32 + 2 * sub + w →
    (q.arg % 16 = 0 ∨ w = 0 ∧ q.arg % 16 = 4) →
    let k := 2 ^ 28 * q.key.getD 0 0 + q.arg / 16
    objAt s k = some (.sram m) → (∀ x ∈ s.objWaiters, x.1 ≠ k) →
    let o := tget s.objs default m
    let n := if w = 1 then 64 else 32
    let lo := if w = 1 then 0 else q.arg % 16 * 8
    let x := o.count.toNat / 2 ^ lo % 2 ^ n
    ∃ o', { o' with count := o.count } = o
      ∧ (∀ i, i < 64 → o'.count.getLsbD i = if lo ≤ i ∧ i < lo + n then (atomicNew sub n x q.val q.cmp).testBit (i - lo) else o.count.getLsbD i)
      ∧ exec .syncService s = .next (reply { s with syncQ := s.syncQ.filter (·.id != q.id), objs := tput s.objs default m o' } q.id q.home
          (s.cycle + oneWay q.core q.home) 0 (BitVec.ofNat 64 x) (if q.d = 0 then none else some q.d))

/-- Atomics, their values and their service: all of AtomicWordsRule, AtomicValuesRule, AtomicServiceRule. -/
def Obligations.Atomics : Prop :=
  AtomicWordsRule ∧ AtomicValuesRule ∧ AtomicServiceRule

/-- R203, R208: the engine of a die serves the oldest request of the highest class that has arrived, one in a cycle: CTRRD and CTRSTAT reply with the
count and the status, CTRWAIT at once where it is done, CTRINIT writes an idle object and replies 0x0E3 where commands are out. -/
def Sys2Proof.Safety.CounterServiceRule : Prop :=
  ∀ (s : State) (q : SyncReq) (n : Nat), nextRequest s s.cur.ix = some q → q.op = n → (∃ m, objAt s q.arg = some (.sram m)) →
    let o := getObj s q.arg
    let s0 : State := { s with syncQ := s.syncQ.filter (·.id != q.id) }
    let at1 := s.cycle + oneWay q.core q.home
    let d := if q.d = 0 then none else some q.d
    (n = 10 → exec .syncService s = .next (reply s0 q.id q.home at1 0 (BitVec.ofNat 64 o.count.toNat) d))
    ∧ (n = 11 → exec .syncService s = .next (reply s0 q.id q.home at1 0 (BitVec.ofNat 64 o.status.toNat) d))
    ∧ (n = 8 → ctrDone o q.val = true → exec .syncService s = .next (reply s0 q.id q.home at1 0 (BitVec.ofNat 64 (if ctrFailed o q.val then 1 else 0)) d))
    ∧ (n = 8 → ctrDone o q.val = false → exec .syncService s =
        .next { s0 with objWaiters := s.objWaiters ++ [(q.arg, ⟨q.id, q.core, q.t, q.d, q.val⟩)] })
    ∧ (n = 9 → o.out ≠ 0 → exec .syncService s = .next (reply s0 q.id q.home at1 0x0E3 (BitVec.ofNat 64 q.val) (some (q.arg % 2 ^ 28 * 16))))
    ∧ (n = 9 → o.out = 0 → ∃ s', exec .syncService s = .next s' ∧ getObj s' q.arg = ⟨BitVec.ofNat 64 q.val, 0, 0, none⟩)

/-- Completion counters, and their service at the engine: all of CounterWordsRule, CounterServiceRule. -/
def Obligations.Counters : Prop :=
  CounterWordsRule ∧ CounterServiceRule

/-- R211: a boundary of a ready phaser, once in a cycle, raises its phase by 1, removes the members that drop, takes in the queued ones, clears the
signals but those held for the new phase, and replies to the waits that the new phase reaches. -/
def Sys2Proof.Safety.PhaseBoundariesRule : Prop :=
  ∀ (s : State), let p := getPh s s.cur.ix
    (phReady p = true → p.lastB ≠ s.cycle + 1 → ∃ s', exec .phaseBoundary s = .next s'
      ∧ (getPh s' s.cur.ix).phase = p.phase + 1 ∧ (getPh s' s.cur.ix).queued = []
      ∧ (getPh s' s.cur.ix).waiters = p.waiters.filter (p.phase + 1 < ·.target)
      ∧ (getPh s' s.cur.ix).members = ((p.members.filter fun (m : Member) => !m.dropping).map (fun (m : Member) => { m with signalled := false }) ++ p.queued).map
          (fun (m : Member) => if 0 < m.held then { m with signalled := true, held := m.held - 1 } else m)
      ∧ SameBytes s s')
    ∧ (phReady p = true → p.lastB = s.cycle + 1 →
        exec .phaseBoundary s = .next { s with agenda := s.agenda ++ [⟨.master, s.cycle + 1, .row .phaseBoundary { ix := s.cur.ix }⟩] })
    ∧ (phReady p = false → exec .phaseBoundary s = .next s)

/-- Phaser instructions, their service and phase boundaries: all of PhaserWordsRule, PhaserServiceRule, PhaseBoundariesRule. -/
def Obligations.Phasers : Prop :=
  PhaserWordsRule ∧ PhaserServiceRule ∧ PhaseBoundariesRule

/-! ## Fences, releases, time -/

/-- R253, R337, R338, R340, R341, R252: a fence whose source set has performed, and that has no race tags to reach, widens the tags of its sources by
its destinations and goes on; one with tags to reach asks each engine that holds some to widen them (R355) and waits for the farthest; any other fence or
release waits for its set; ACQ goes on. The block is in no chorus, where REL is a compare point. -/
def Obligations.FencesAndReleases : Prop :=
  ∀ (s : State) (t : Thread) (r : Run) (src dst : Nat) (sc : Scope), Runs s t r → r.chorus = false →
    let core := s.cur.core
    let slot := s.cur.slot
    let widens (a b : Nat) (s' : State) : Prop := SameBytes s s' ∧ OtherThreads s s' ∧ getTh s' (curKey s) = advance { t with wait := .none }
      ∧ ∀ (k : Nat) (g : RaceTag), (k, g) ∈ s.tags →
          (k, if k / 2 ^ 32 / 256 = r.scene ∧ g.wlc = r.lc ∧ g.phase = racePhase s (whoOf core r) (tidOf s core r.part (k / 2 ^ 32 % 256)) ∧ g.wpath &&& a ≠ 0
              then { g with wpath := g.wpath ||| b } else g) ∈ s'.tags
    let rel := relIds s core slot r.part
    let fp := fenceIds s core slot r.part src
    let fd := fenceDIds s core slot r.part
    let asks (a b : Nat) (s' : State) : Prop := SameBytes s s' ∧ OtherThreads s s' ∧ s'.tags = s.tags
      ∧ getTh s' (curKey s) = { t with wait := .fenceTrip a b (s.cycle + tagTrip s core r.part) }
      ∧ ∃ l : List SyncReq, s'.syncQ = s.syncQ ++ l ∧ l.map (·.home) = tagDies s core r.part
          ∧ ∀ q ∈ l, q.op = 62 ∧ q.arg = a ∧ q.val = b ∧ q.core = core ∧ q.t = slot ∧ q.arrive = s.cycle + oneWay core q.home
    (settled s core fp = true → tagTrip s core r.part = 0 → ∃ s', exec (.fenceP src dst sc) s = .next s' ∧ widens src dst s')
    ∧ (settled s core fd = true → tagTrip s core r.part = 0 → ∃ s', exec .fenceD s = .next s' ∧ widens 63 63 s')
    ∧ (settled s core fp = true → tagTrip s core r.part ≠ 0 → ∃ s', exec (.fenceP src dst sc) s = .next s' ∧ asks src dst s')
    ∧ (settled s core fd = true → tagTrip s core r.part ≠ 0 → ∃ s', exec .fenceD s = .next s' ∧ asks 63 63 s')
    ∧ (settled s core fp = false → ∃ n, Becomes s { t with wait := .fence src dst n fp } (exec (.fenceP src dst sc) s))
    ∧ (settled s core fd = false → Becomes s { t with wait := .fence 63 63 12 fd } (exec .fenceD s))
    ∧ Becomes s { t with wait := .fenceSc (fenceScIds s core r.part) false } (exec .fenceSc s)
    ∧ (settled s core rel = true → Passes s { t with wait := .none } (exec (.rel sc) s))
    ∧ (settled s core rel = false → Becomes s { t with wait := .rel rel } (exec (.rel sc) s))
    ∧ Passes s t (exec (.acq sc) s)

/-- R101, R254, R365: a JOBPOST whose release has performed appends the record at its SP offset to the partition's device queue and gives 0, or gives 1 where the
queue holds 16 records; one whose release has not waits for it. A misaligned offset traps with 0x06B, a record outside SP with 0x063, one in a granule of
another owner with 0x064. -/
def Obligations.JobPost : Prop :=
  ∀ (s : State) (t : Thread) (r : Run) (d a : Nat), Runs s t r → r.chorus = false →
    let core := s.cur.core
    let off := (rdReg t a).toNat % 2 ^ 23
    let q := (getPart s r.part).devQueue
    (off % 64 = 0 → areaOk s core off 64 .peer = true → ownedOk s core r.part off 64 = true → settled s core (jobIds s core r.part) = true →
      (q.length < 16 → ∃ s' t1, exec (.jobpost d a) s = .next s' ∧ SameBytes s s' ∧ OtherThreads s s'
        ∧ (getPart s' r.part).devQueue
            = q ++ [(List.range 8).map fun i => BitVec.ofNat 64 (leNat (rdMem s ⟨.dev, poolAddr core (off + 8 * i)⟩ 8))]
        ∧ Wrote { t with wait := .none } t1 d 0 ∧ getTh s' (curKey s) = advance t1)
      ∧ (16 ≤ q.length → Result s { t with wait := .none } d 1 (exec (.jobpost d a) s)))
    ∧ (off % 64 = 0 → areaOk s core off 64 .peer = true → ownedOk s core r.part off 64 = true → settled s core (jobIds s core r.part) = false →
        Becomes s { t with wait := .jobpost d off (jobIds s core r.part) } (exec (.jobpost d a) s))
    ∧ (off % 64 = 0 → areaOk s core off 64 .peer = true → ownedOk s core r.part off 64 = false →
        ∃ i0, Traps s 0x064 i0 0 0x20 false (exec (.jobpost d a) s))
    ∧ (off % 64 ≠ 0 → ∃ i0, Traps s 0x06B i0 0 0x20 false (exec (.jobpost d a) s))
    ∧ (off % 64 = 0 → areaOk s core off 64 .peer = false → ∃ i0, Traps s 0x063 i0 0 0x20 false (exec (.jobpost d a) s))

/-- R33, R255, R256, R411: the time reads give the nanoseconds, the fraction and the tick of their cycle, as the C-die of the core has them; WAITT and WAITT_CUE go on when their tick has come
and wait for it before. The block is in no chorus. -/
def Obligations.TimeWords : Prop :=
  ∀ (s : State) (t : Thread) (r : Run) (d a : Nat), Runs s t r → r.chorus = false →
    let x := (rdReg t a).toNat
    let now : Nat × Nat := match s.tb.own.find? fun o => o.1 == dieOf s.cur.core with
      | none => (s.tb.ticks, s.tb.frac)
      | some o => (o.2.1, o.2.2.1)
    Result s t d (BitVec.ofNat 64 (10 * now.1 + 10 * now.2 / 2 ^ 32)) (exec (.timerd d) s)
    ∧ Result s t d (BitVec.ofNat 64 now.2) (exec (.timefr d) s)
    ∧ Result s t d (BitVec.ofNat 64 now.1) (exec (.tickrd d) s)
    ∧ (x ≤ now.1 → Passes s t (exec (.waitt a) s))
    ∧ (now.1 < x → Becomes s { t with wait := .tick x } (exec (.waitt a) s))
    ∧ ((x : Int) ≤ since s r.fire → Passes s t (exec (.waittCue a) s))
    ∧ (since s r.fire < (x : Int) → Becomes s { t with wait := .cueTick x } (exec (.waittCue a) s))

/-! ## Traps -/

/-- R258, R359, R366: what taking a precise trap in user mode does to its thread, where the handler's address can be fetched; nothing else changes. -/
def Sys2Proof.Safety.TrapEntryRule : Prop :=
  ∀ (s : State) (t : Thread) (r : Run) (core slot c i0 i1 i2 : Nat) (done : Bool),
    runOf s core slot = some r → getTh s (thKey core slot) = t → t.mode = false →
    let v := (t.vecbase.toNat % 2 ^ 32 + 64 * (c / 32)) % 2 ^ 32
    v % 4 = 0 → v + 4 ≤ r.len → 32 ≤ v →
    let s' := takeTrap s core slot c i0 i1 i2 done
    let t' := getTh s' (thKey core slot)
    { s' with threads := s.threads } = s ∧ SameBytes s s' ∧ (∀ k, k ≠ thKey core slot → getTh s' k = getTh s k)
    ∧ t'.pc = v ∧ t'.mode = true ∧ t'.pmode = false ∧ t'.cause = c ∧ t'.async = false
    ∧ t'.info0 = BitVec.ofNat 64 i0 ∧ t'.info1 = BitVec.ofNat 64 i1 ∧ t'.info2 = BitVec.ofNat 64 i2 ∧ t'.traptick = BitVec.ofNat 64 s.tb.ticks
    ∧ (∀ x, rdReg t' x = rdReg t x) ∧ t'.branch = none
    ∧ (t.branch = none → t'.ds = false ∧ t'.taken = t.taken ∧ t'.dsk = t.dsk ∧ t'.skip = t.skip ∧ t'.trappc = BitVec.ofNat 64 (if done then (t.pc + 4) % 2 ^ 32 else t.pc))
    ∧ ∀ b, t.branch = some b → t'.ds = true ∧ t'.taken = b.taken ∧ t'.dsk = b.kind ∧ t'.skip = done
        ∧ t'.trappc = BitVec.ofNat 64 (t.pc + (if b.taken then b.target * 2 ^ 32 else 0))

/-- R361: a trap in supervisor mode is a double fault: its block, in no chorus, is killed, with a record of cause 0x00B in its cycle's records and in
the management controller's log. -/
def Sys2Proof.Safety.DoubleFaultRule : Prop :=
  ∀ (s : State) (r : Run) (core slot c i0 i1 i2 : Nat) (done : Bool), slot < 4 →
    runOf s core slot = some r → r.chorus = false → (getTh s (thKey core slot)).mode = true →
    let s' := takeTrap s core slot c i0 i1 i2 done
    runOf s' core slot = none ∧ (getTh s' (thKey core slot)).running = false
    ∧ (∃ x ∈ s'.recs, x.2.cause = 0x00B) ∧ ∃ e ∈ s'.evlog, e.cause = 0x00B

/-- R157, R158, R220, R257: TRAP, BRK without DBG, an illegal word and a fetch fault take their traps; BRK with DBG halts the thread and keeps MODE. -/
def Sys2Proof.Safety.TrapWordsRule : Prop :=
  ∀ (s : State) (t : Thread) (r : Run) (i w c : Nat), Runs s t r →
    Traps s 0x008 (0x30 * 2 ^ 26 + i) i 0 true (exec (.trap i) s)
    ∧ Traps s 0x00A t.pc 0 0 false (exec .fetchFault s)
    ∧ (wordCause w t.branch.isSome t.mode = some c → Traps s c w 0 0 false (exec (.illegalWord w) s))
    ∧ (t.dbg = false → ∃ w0, Traps s 0x009 w0 i 0 true (exec (.brk i) s))
    ∧ (t.dbg = true → ∃ s', exec (.brk i) s = .next s' ∧ OtherThreads s s' ∧ s'.mem = s.mem
        ∧ (let t' := getTh s' (curKey s)
           t'.halted = true ∧ t'.mode = t.mode ∧ t'.pmode = t.mode ∧ t'.info1 = BitVec.ofNat 64 i
           ∧ (t.branch = none → t'.ds = false ∧ t'.trappc = BitVec.ofNat 64 ((t.pc + 4) % 2 ^ 32))
           ∧ ∀ b, t.branch = some b → t'.branch = none ∧ t'.ds = true ∧ t'.taken = b.taken ∧ t'.dsk = b.kind ∧ t'.skip = true
               ∧ t'.trappc = BitVec.ofNat 64 (t.pc + (if b.taken then b.target * 2 ^ 32 else 0)))
        ∧ ∃ e ∈ s'.evlog, e.cause = 0x16A)

/-- Taking a trap, the double fault, and the trap instructions: all of TrapEntryRule, DoubleFaultRule, TrapWordsRule. -/
def Obligations.Traps : Prop :=
  TrapEntryRule ∧ DoubleFaultRule ∧ TrapWordsRule

/-- R224, R237, R259: ERET in supervisor mode restores the mode and goes to TRAPPC, or executes again the delay slot that the trap interrupted as the slot of
its branch, or finishes a completed one; a slice that a deferred return needs and that is not resident is brought back first. DS and SKIP are cleared, after
the slot where one is executed again. In user mode ERET traps with 0x004, and in a delay slot with 0x003. How a slice moves is the choice of log 48, and that the return
takes 20 enabled cycles and n more that of log 15. -/
def Sys2Proof.Safety.TrapReturnRule : Prop :=
  ∀ (s : State) (t : Thread) (r : Run), Runs s t r →
    let lo := t.trappc.toNat % 2 ^ 32
    let hi := t.trappc.toNat / 2 ^ 32
    let fills := t.ds = true ∧ t.dsk = 2 ∧ t.depth ≠ 0 ∧ t.depth ≤ t.winLo
    let returned (t' : Thread) : Prop := t'.mode = t.pmode
      ∧ (t.ds = false → t'.pc = lo ∧ t'.branch = none ∧ t'.ds = false ∧ t'.skip = false)
      ∧ (t.ds = true → t.skip = false → t'.pc = lo ∧ t'.branch = some ⟨(lo + 2 ^ 32 - 4) % 2 ^ 32, t.dsk, t.taken, hi, true⟩
          ∧ (advance t').ds = false ∧ (advance t').skip = false)
      ∧ (t.ds = true → t.skip = true → t'.branch = none ∧ t'.pc = (if t.taken then hi else (lo + 4) % 2 ^ 32) ∧ t'.ds = false ∧ t'.skip = false
          ∧ t'.depth = (if t.dsk = 1 then t.depth + 1 else if t.dsk = 2 then t.depth - 1 else t.depth))
    (t.branch = none → t.mode = true → ¬ fills → ∃ t', Becomes s t' (exec .eret s) ∧ returned t' ∧ t'.wait = .none)
    ∧ (t.branch = none → t.mode = true → fills → ∃ s' q n, exec .eret s = .next s' ∧ s'.reqs = s.reqs ++ [q] ∧ q.asker = .spill s.cur.slot (t.depth - 1)
        ∧ q.core = s.cur.core ∧ q.sext = false ∧ SameBytes s s' ∧ OtherThreads s s' ∧ returned (getTh s' (curKey s))
        ∧ (getTh s' (curKey s)).wait = .untilN (nOf s s.cur.core + 20 + n))
    ∧ (t.branch = none → t.mode = false → ∃ w, Traps s 0x004 w 0 0 false (exec .eret s))
    ∧ (t.branch.isSome = true → ∃ w, Traps s 0x003 w 0 0 false (exec .eret s))

/-- R45, R260: END of a block in no chorus waits for its conditions; where they hold, its retirement is the next step. -/
def Sys2Proof.Safety.EndWordRule : Prop :=
  ∀ (s : State) (t : Thread) (r : Run), Runs s t r → t.branch = none → r.chorus = false →
    (endReady s s.cur.core s.cur.slot = false → Becomes s { t with wait := .ending } (exec .endBlock s))
    ∧ (endReady s s.cur.core s.cur.slot = true → ∃ s', exec .endBlock s = .next s' ∧ getTh s' (curKey s) = { t with wait := .ending }
        ∧ s'.todo = .row .blockRetirement { core := s.cur.core, slot := s.cur.slot } :: s.todo ∧ SameBytes s s' ∧ OtherThreads s s')

/-- R359, R360, R366: the oldest queued record of the partition is delivered to its lowest user-mode thread, which saves its PC and vectors with
ASYNC = 1; a queue that has dropped records sets MORE. -/
def Sys2Proof.Safety.RecordDeliveryRule : Prop :=
  ∀ (s : State) (t : Thread) (r : Run) (x : Record) (rest : List Record), Runs s t r →
    recordDue s s.cur.core s.cur.slot r.part = true → lookup s.queues (16 * s.cur.core + r.part) = some (x :: rest) →
    let v := (t.vecbase.toNat % 2 ^ 32 + 64 * (x.cause / 32)) % 2 ^ 32
    v % 4 = 0 → v + 4 ≤ r.len → 32 ≤ v →
    ∃ s', exec .recordDelivery s = .next s' ∧ SameBytes s s' ∧ OtherThreads s s'
      ∧ (lookup s'.queues (16 * s.cur.core + r.part)).getD [] = rest
      ∧ let t' := getTh s' (curKey s)
        t'.pc = v ∧ t'.mode = true ∧ t'.pmode = t.mode ∧ t'.cause = x.cause ∧ t'.async = true ∧ t'.ds = false
        ∧ t'.more = s.queueMore.contains (16 * s.cur.core + r.part)
        ∧ t'.trappc = BitVec.ofNat 64 t.pc ∧ t'.traptick = x.words.getD 1 0 ∧ t'.info0 = x.words.getD 3 0 ∧ ∀ c, rdReg t' c = rdReg t c

/-- Return from a trap, and the delivery of a record: all of TrapReturnRule, RecordDeliveryRule. -/
def Obligations.TrapReturns : Prop :=
  TrapReturnRule ∧ RecordDeliveryRule

/-- R237, R257: a resume of a halted thread returns from the saved state as ERET does, in its own mode, and brings back first a slice that a deferred return needs; a
thread that is not halted takes none. -/
def Sys2Proof.Safety.DebugResumesRule : Prop :=
  ∀ (s : State) (t : Thread) (r : Run), Runs s t r →
    let lo := t.trappc.toNat % 2 ^ 32
    let fills := t.ds = true ∧ t.dsk = 2 ∧ t.depth ≠ 0 ∧ t.depth ≤ t.winLo
    (t.halted = true → fills → ∃ s' q, exec .debugResume s = .next s' ∧ s'.reqs = s.reqs ++ [q] ∧ q.asker = .spill s.cur.slot (t.depth - 1)
        ∧ q.core = s.cur.core ∧ q.sext = false ∧ SameBytes s s' ∧ OtherThreads s s' ∧ (getTh s' (curKey s)).halted = false
        ∧ (getTh s' (curKey s)).mode = t.pmode)
    ∧ (t.halted = true → ¬ fills → ∃ t', Becomes s t' (exec .debugResume s) ∧ t'.halted = false ∧ t'.mode = t.pmode ∧ t'.running = true
      ∧ (t.ds = false → t'.pc = lo ∧ t'.branch = none) ∧ (t.ds = true → t.skip = false → t'.pc = lo ∧ t'.branch.isSome = true))
    ∧ (t.halted = true → ¬ fills → t.ds = true → t.skip = true → ∃ t', Becomes s t' (exec .debugResume s) ∧ t'.branch = none ∧ t'.ds = false
        ∧ t'.pc = if t.taken then t.trappc.toNat / 2 ^ 32 else (lo + 4) % 2 ^ 32)
    ∧ (t.halted = false → exec .debugResume s = .next s)

/-- R222, R223, R257, R366: every register of a halted thread is read and written through the debug port: codes 0 to 31 of R160, then k0 to k7, WINDEPTH, which is only read, the PC, and
the trap registers and VECBASE under their special register numbers; the controller sets DBG of any thread. Another access of a thread that is not halted
changes nothing. The numbering is the choice of log 52. -/
def Sys2Proof.Safety.DebugPortRule : Prop :=
  ∀ (s : State) (t : Thread) (r : Run), Runs s t r →
    let ix := s.cur.ix
    let v := s.cur.val
    let w : W64 := BitVec.ofNat 64 v
    let reads (x : Nat) : Prop := exec .debugAccess s = .next { s with cur := { s.cur with val := x } }
    (s.cur.flag = true → ix = 0x111 → t.halted = false → Becomes s { t with dbg := v.testBit 7 } (exec .debugAccess s))
    ∧ (s.cur.flag = true → ix = 0x111 → t.halted = true → Becomes s { t with
        skip := v.testBit 6, dsk := (if v / 16 % 4 = 3 then 0 else v / 16 % 4), taken := v.testBit 3, ds := v.testBit 2, pmode := v.testBit 1
        mode := v.testBit 0, dbg := v.testBit 7 } (exec .debugAccess s))
    ∧ (t.halted = false → (s.cur.flag = false ∨ ix ≠ 0x111) → exec .debugAccess s = .next s)
    ∧ (t.halted = true → s.cur.flag = true →
        (ix < 32 → ∃ t1, Wrote t t1 ix w ∧ Becomes s t1 (exec .debugAccess s))
        ∧ (32 ≤ ix → ix < 40 → ∃ t1, (∀ j, tget t1.k 0 j = if j = ix - 32 then BitVec.ofNat 32 v else tget t.k 0 j) ∧ { t1 with k := t.k } = t
            ∧ Becomes s t1 (exec .debugAccess s))
        ∧ (ix = 40 → Becomes s t (exec .debugAccess s))
        ∧ (40 < ix → ix < 0x100 → Becomes s { t with pc := v % 2 ^ 32 } (exec .debugAccess s))
        ∧ (ix = 0x100 → Becomes s { t with more := v.testBit 10, async := v.testBit 9, cause := v % 2 ^ 9 } (exec .debugAccess s))
        ∧ (ix = 0x101 → Becomes s { t with trappc := w } (exec .debugAccess s))
        ∧ (ix = 0x102 → Becomes s { t with info0 := w } (exec .debugAccess s)) ∧ (ix = 0x103 → Becomes s { t with info1 := w } (exec .debugAccess s))
        ∧ (ix = 0x104 → Becomes s { t with info2 := w } (exec .debugAccess s)) ∧ (ix = 0x105 → Becomes s { t with info3 := w } (exec .debugAccess s))
        ∧ (ix = 0x110 → Becomes s { t with vecbase := w } (exec .debugAccess s))
        ∧ (0x100 ≤ ix → ix ∉ [0x100, 0x101, 0x102, 0x103, 0x104, 0x105, 0x110, 0x111] → Becomes s t (exec .debugAccess s)))
    ∧ (t.halted = true → s.cur.flag = false →
        (ix < 32 → reads (rdReg t ix).toNat) ∧ (32 ≤ ix → ix < 40 → reads (tget t.k 0 (ix - 32)).toNat) ∧ (ix = 40 → reads t.depth) ∧ (40 < ix → ix < 0x100 → reads t.pc)
        ∧ (ix = 0x100 → reads (t.cause % 512 + (if t.async then 512 else 0) + if t.more then 1024 else 0))
        ∧ (ix = 0x101 → reads t.trappc.toNat) ∧ (ix = 0x102 → reads t.info0.toNat) ∧ (ix = 0x103 → reads t.info1.toNat)
        ∧ (ix = 0x104 → reads t.info2.toNat) ∧ (ix = 0x105 → reads t.info3.toNat) ∧ (ix = 0x106 → reads t.traptick.toNat)
        ∧ (ix = 0x110 → reads t.vecbase.toNat) ∧ (ix = 0x111 → reads (privOf t))
        ∧ (0x100 ≤ ix → ix ∉ [0x100, 0x101, 0x102, 0x103, 0x104, 0x105, 0x106, 0x110, 0x111] → reads t.pc))

/-- R219, R224, R261: STATERD in supervisor mode gives the word of its space at index U(ga) in the second slot; the words of cue entries, of occupancy
entries and of the residue log are said here. In user mode it traps with 0x004. That the spaces of cue and occupancy entries give those of every partition is the
reading of log 38. -/
def Sys2Proof.Safety.StateReadsRule : Prop :=
  ∀ (s : State) (t : Thread) (r : Run) (d a space : Nat), Runs s t r →
    let i := (rdReg t a).toNat
    let core := s.cur.core
    (t.mode = true → ∃ t1, Wrote t t1 d (stateWord s core r space i)
      ∧ Becomes s { advance t1 with wait := .untilN (nOf s core + 8) } (exec (.staterd d a space) s))
    ∧ (t.mode = false → ∃ w, Traps s 0x004 w 0 0 false (exec (.staterd d a space) s))
    ∧ (i < 2048 → stateWord s core r 0 i = (let q := getCue s (1024 * core + i / 2); if i % 2 = 0 then q.word0 else q.word1))
    ∧ (i < 1024 → stateWord s core r 1 i = (getCue s (1024 * core + i)).occ)
    ∧ (2048 ≤ i → stateWord s core r 0 i = 0) ∧ (1024 ≤ i → stateWord s core r 1 i = 0)
    ∧ (i < 10 → stateWord s core r 8 i = BitVec.ofNat 64
        (if i % 2 = 0 then tget (getCore s core).resK0 0 (i / 2) else tget (getCore s core).resK1 0 (i / 2)))
    ∧ (12 ≤ i → stateWord s core r 8 i = 0)

/-- The debug resume, the debug port and STATERD: all of DebugResumesRule, DebugPortRule, StateReadsRule. -/
def Obligations.DebugAccess : Prop :=
  DebugResumesRule ∧ DebugPortRule ∧ StateReadsRule

/-! ## Chorus -/

/-- R389: the first signature of a compare point opens it at the home and decides nothing. -/
def Sys2Proof.Safety.CompareOpensRule : Prop :=
  ∀ (s : State) (r : Run), s.cur.flag = false → runOf s s.cur.core s.cur.slot = some r → (getTh s (curKey s)).wait = .compare true →
    let h := getHome s (homeKey r s.cur.slot)
    let n := (getVoice s (curKey s)).matched
    h.points.find? (·.no == n) = none → 2 ≤ h.voices.length →
    ∃ s', exec .chorusSignature s = .next s' ∧ SameBytes s s' ∧ s'.threads = s.threads
      ∧ (getHome s' (homeKey r s.cur.slot)).points
          = h.points ++ [({ no := n, arrived := [(r.voice, BitVec.ofNat 64 s.cur.val)], first := s.tb.ticks } : Point)]

/-- R389: the second, equal signature of a D2 chorus, whose lead holds no stores, is a match: both voices receive the outcome, and voice 0, the lower
of the two, is the lead. Which voice leads is the choice of log 28. -/
def Sys2Proof.Safety.CompareMatchesRule : Prop :=
  ∀ (s : State) (r r0 : Run) (core0 : Nat) (p : Point), s.cur.flag = false → runOf s s.cur.core s.cur.slot = some r → (getTh s (curKey s)).wait = .compare true →
    r.voice = 1 → core0 ≠ s.cur.core → s.cur.slot < 4 → voiceCore s s.cur.slot r 1 = some s.cur.core → voiceCore s s.cur.slot r 0 = some core0 →
    runOf s core0 s.cur.slot = some r0 → (getVoice s (thKey core0 s.cur.slot)).recs = [] →
    let h := getHome s (homeKey r s.cur.slot)
    let die := homeDie s r
    h.voices.length = 2 → h.points.find? (·.no == (getVoice s (curKey s)).matched) = some p → p.decided = none →
    p.arrived = [(0, BitVec.ofNat 64 s.cur.val)] →
    ∃ s', exec .chorusSignature s = .next s' ∧ SameBytes s s'
      ∧ (getTh s' (curKey s)).wait = .decided (s.cycle + oneWay s.cur.core die) false
      ∧ (getTh s' (thKey core0 s.cur.slot)).wait = .decided (s.cycle + oneWay core0 die) true

/-- cur's voice v of a chorus block of nv voices sends the last signature that an open point p of its home waits for, which the voices of l have sent theirs; the
voices of this firing run on the cores that f gives. -/
def Sys2Proof.Safety.Arrives (s : State) (r : Run) (p : Point) (nv : Nat) (f : Nat → Nat) (l : List (Nat × W64)) : Prop :=
  s.cur.flag = false ∧ s.cur.slot < 4 ∧ runOf s s.cur.core s.cur.slot = some r ∧ (getTh s (curKey s)).wait = .compare true ∧ f r.voice = s.cur.core
  ∧ r.chorus = true ∧ (getHome s (homeKey r s.cur.slot)).voices = List.range nv
  ∧ (getHome s (homeKey r s.cur.slot)).points.find? (·.no == (getVoice s (curKey s)).matched) = some p ∧ p.decided = none ∧ p.arrived = l
  ∧ (∀ v w, v < nv → w < nv → f v = f w → v = w)
  ∧ ∀ v, v < nv → voiceCore s s.cur.slot r v = some (f v) ∧ ∃ x, runOf s (f v) s.cur.slot = some x ∧ x.voice = v ∧ x.chorus = true ∧ x.scene = r.scene
      ∧ homeKey x s.cur.slot = homeKey r s.cur.slot

/-- R391, R395: the second signature of a D2 chorus that differs from the first rolls both voices back, once, with 0x100: their old lines are written back, their
threads are as in their checkpoints and restart from the next tick. A second mismatch of the chorus fails the command with 0x102. -/
def Sys2Proof.Safety.CompareMismatchRule : Prop :=
  ∀ (s : State) (r : Run) (p : Point) (f : Nat → Nat) (x : W64) (t0 t1 : Thread), r.voice = 1 → x ≠ BitVec.ofNat 64 s.cur.val →
    Arrives s r p 2 f [(0, x)] →
    let slot := s.cur.slot
    let hk := homeKey r slot
    let k0 := thKey (f 0) slot
    let k1 := curKey s
    ((getHome s hk).mismatches = 0 → (getVoice s k0).ckThread = some t0 → (getVoice s k1).ckThread = some t1 →
      (getVoice s k0).ckRegions = [] → (getVoice s k1).ckRegions = [] →
      ∃ s', exec .chorusSignature s = .next s' ∧ getTh s' k0 = { t0 with wait := .restart (s.tb.ticks + 1) }
        ∧ getTh s' k1 = { t1 with wait := .restart (s.tb.ticks + 1) } ∧ s'.runs = s.runs
        ∧ (getHome s' hk).mismatches = 1 ∧ (∀ q ∈ (getHome s' hk).points, q.no ≠ p.no) ∧ (∃ z ∈ s'.recs, z.2.cause = 0x100)
        ∧ (getVoice s' k0).recs = [] ∧ (getVoice s' k1).recs = []
        ∧ ((getVoice s k0).recs = [] → (getVoice s k1).recs = [] → SameBytes s s')
        ∧ ∀ o old, (getVoice s k0).recs = [] → (getVoice s k1).recs = [.undo o old] →
            rdMem s' ⟨.dev, poolAddr s.cur.core o⟩ old.length = old ∧ SameBytesBut s s' ⟨.dev, poolAddr s.cur.core o⟩ old.length)
    ∧ ((getHome s hk).mismatches ≠ 0 → ∃ s', exec .chorusSignature s = .next s' ∧ runOf s' (f 0) slot = none
        ∧ (∃ z ∈ s'.recs, z.2.cause = 0x102) ∧ (getHome s' hk).points = [] ∧ (getHome s' hk).voices = [])

/-- R392, R389: where the third signature of a T3 chorus equals the first, and the second differs, voices 0 and 2 receive the outcome and go on; voice 1 is the minority:
its block is discarded, 0x103 is logged, its core is marked, and its gang is to be placed anew. Where all three differ the command fails with 0x107. Which voice
leads is the choice of log 28. -/
def Sys2Proof.Safety.CompareMinorityRule : Prop :=
  ∀ (s : State) (r : Run) (p : Point) (f : Nat → Nat) (x y : W64), r.voice = 2 → x ≠ y → Arrives s r p 3 f [(0, x), (1, y)] →
    let z := BitVec.ofNat 64 s.cur.val
    let slot := s.cur.slot
    let hk := homeKey r slot
    let die := homeDie s r
    ((getVoice s (thKey (f 0) slot)).recs = [] → z = x → ∃ s', exec .chorusSignature s = .next s'
      ∧ (getTh s' (thKey (f 0) slot)).wait = .decided (s.cycle + oneWay (f 0) die) true
      ∧ (getTh s' (curKey s)).wait = .decided (s.cycle + oneWay s.cur.core die) false
      ∧ runOf s' (f 1) slot = none ∧ (getHome s' hk).voices = [0, 2] ∧ (getCore s' (f 1)).excl = true ∧ (getScene s' r.scene).recover = true
      ∧ ∃ e ∈ s'.evlog, e.cause = 0x103)
    ∧ (z ≠ x → z ≠ y → ∃ s', exec .chorusSignature s = .next s' ∧ runOf s' s.cur.core slot = none ∧ (∃ e ∈ s'.recs, e.2.cause = 0x107)
        ∧ (getHome s' hk).points = [] ∧ (getHome s' hk).voices = [])

/-- R394, R395: a compare point that has stayed open past its limit with a voice missing fails the command with 0x105: the voice that runs is killed, and the home is as
after the command. The limit is read as log 28 says. -/
def Sys2Proof.Safety.CompareLagRule : Prop :=
  ∀ (s : State) (k : Nat) (r : Run) (p : Point), let hk := s.cur.val
    (getHome s hk).points.find? (lagged s hk) = some p →
    (s.runs.find? (fun x => x.2.chorus && homeKey x.2 (x.1 % 8) == hk) = some (k, r) → k % 8 < 4 → runOf s (k / 8) (k % 8) = some r →
      ∃ s', exec .chorusLagExpiry s = .next s' ∧ runOf s' (k / 8) (k % 8) = none ∧ (∃ x ∈ s'.recs, x.2.cause = 0x105) ∧ (getHome s' hk).points = [])
    ∧ (s.runs.find? (fun x => x.2.chorus && homeKey x.2 (x.1 % 8) == hk) = none → ∃ s', exec .chorusLagExpiry s = .next s' ∧ (getHome s' hk).points = [])

/-- Compare points of a chorus: all of CompareOpensRule, CompareMatchesRule, CompareMismatchRule, CompareMinorityRule, CompareLagRule. -/
def Obligations.ComparePoints : Prop :=
  CompareOpensRule ∧ CompareMatchesRule ∧ CompareMismatchRule ∧ CompareMinorityRule ∧ CompareLagRule

/-! ## The cue unit -/

/-- R44: a tick boundary puts its four steps next, in their order: the deadlines that are due, the curtains, the scenes' points, the cues. The place of the scene points is the choice of log 12. -/
def Obligations.TickOrder : Prop :=
  ∀ (s : State), ∃ s', exec .tickBoundary s = .next s' ∧ SameBytes s s' ∧ s'.threads = s.threads ∧ s'.cues = s.cues ∧ s'.runs = s.runs
    ∧ s'.todo = ((s.runs.filter fun x => reached s x.2.deadline && x.2.frozenAt.isNone).map fun x =>
          Act.row .deadlineExpiry { core := x.1 / 8, ix := x.2.cue })
        ++ [.curtains] ++ (s.scenes.flatMap fun x => sceneActs s x.1) ++ [.cueChecks] ++ s.todo

/-- A cue of cur's core and index whose gang is resident, in no chorus, on a region sheet, whose scene's blocks hold its block and a variant that fits. -/
def Sys2Proof.Safety.Fireable (s : State) (q : Cue) (b : Block) (v : Nat) : Prop :=
  getCue s (1024 * s.cur.core + s.cur.ix) = q ∧ qSheet q < 4 ∧ qChorus q = false ∧ gangResident s q.scene (qGslot q) = true
  ∧ blockOfId (getScene s q.scene) (qBlock q) = some b ∧ pickVariant s s.cur.core q b = some v

/-- The block b runs on the sheet of a cue from the present tick, in user mode from its entry, and the cue is in a state. -/
def Sys2Proof.Safety.Fired (s s' : State) (q : Cue) (b v deadline : Nat) (under : Bool) : Prop :=
  ∃ r, runOf s' s.cur.core (qSheet q) = some r ∧ r.cue = s.cur.ix ∧ r.block = b ∧ r.variant = v ∧ r.under = under ∧ r.fire = s.tb.ticks
    ∧ r.deadline = deadline ∧ r.part = q.part
    ∧ (let t := getTh s' (thKey s.cur.core (qSheet q))
       t.running = true ∧ t.pc = 4 * r.entry % 2 ^ 32 ∧ t.mode = false ∧ t.depth = 0 ∧ t.vecbase = BitVec.ofInt 64 (4 * (r.entry : Int) - 768)
       ∧ ∀ i, i < 4 → rdReg t (8 + i) = (argsOf s q.scene (qGslot q)).getD i 0)
    ∧ (getCue s' (1024 * s.cur.core + s.cur.ix)).st = (if under then .under else .run) ∧ SameBytes s s'

/-- R46, R48, R218, R359: a waiting or gated cue of a real-time partition whose inputs are resident fires its block with F the present tick. -/
def Sys2Proof.Safety.CueFiresRule : Prop :=
  ∀ (s : State) (q : Cue) (b : Block) (v : Nat), Fireable s q b v → s.cur.flag = true →
    (q.st = .wait → isBe s q.part = false → (runOf s s.cur.core (qSheet q)).isNone = true → q.drained = false →
      ((gangOf s q.scene (qGslot q)).map (·.bad)).getD false = false →
      ∃ s', exec .cueStart s = .next s' ∧ Fired s s' q b.id v q.deadTick false)
    ∧ (q.st = .gated → ∃ s', exec .slackExpiry s = .next s' ∧ Fired s s' q b.id v q.deadTick false)

/-- A cue passes to its understudy, due now, or is held where it names none; a record of the cause is queued. -/
def Sys2Proof.Safety.Fails (s s' : State) (q : Cue) (cause : Nat) : Prop :=
  let q' := getCue s' (1024 * s.cur.core + s.cur.ix)
  (qUnder q ≠ 0xFFF → q'.st = .under ∧ q'.understudyDue = some s.tb.ticks) ∧ (qUnder q = 0xFFF → q'.st = .held)
  ∧ ∃ x ∈ s'.recs, x.2.cause = cause

/-- R46: a cue, in no chorus, whose inputs are missing waits in GATED for its slack, or is late with 0x0C1 where it has none or it has passed. -/
def Sys2Proof.Safety.CueLateRule : Prop :=
  ∀ (s : State) (q : Cue), getCue s (1024 * s.cur.core + s.cur.ix) = q → qChorus q = false → s.cur.flag = false →
    (q.st = .wait → isBe s q.part = false → (runOf s s.cur.core (qSheet q)).isNone = true → q.drained = false →
      ((gangOf s q.scene (qGslot q)).map (·.bad)).getD false = false →
      (qSlack q = 0 → ∃ s', exec .cueStart s = .next s' ∧ Fails s s' q 0x0C1)
      ∧ (qSlack q ≠ 0 → ∃ s', exec .cueStart s = .next s' ∧ getCue s' (1024 * s.cur.core + s.cur.ix) = { q with st := .gated } ∧ SameBytes s s'))
    ∧ (q.st = .gated → ∃ s', exec .slackExpiry s = .next s' ∧ Fails s s' q 0x0C1)

/-- Firing of a cue, and late inputs: all of CueFiresRule, CueLateRule. -/
def Obligations.CueStarts : Prop :=
  CueFiresRule ∧ CueLateRule

/-- R46, R49: at its deadline a block in no chorus that has not retired is killed: its sheet runs nothing, and its cue fails with 0x0C0. -/
def Sys2Proof.Safety.OverrunsRule : Prop :=
  ∀ (s : State) (q : Cue) (r : Run), getCue s (1024 * s.cur.core + s.cur.ix) = q → q.st = .run → qSheet q < 4 →
    runOf s s.cur.core (qSheet q) = some r → r.cue = s.cur.ix → r.chorus = false → r.under = false → reached s r.deadline = true → r.frozenAt = none →
    ∃ s', exec .deadlineExpiry s = .next s' ∧ runOf s' s.cur.core (qSheet q) = none
      ∧ (getTh s' (thKey s.cur.core (qSheet q))).running = false ∧ Fails s s' q 0x0C0

/-- R46, R50: an understudy that is due fires variant 0 of its block, with the deadline F + ub; one whose deadline has come is killed and its cue
is held, with 0x0C6. -/
def Sys2Proof.Safety.UnderstudiesRule : Prop :=
  ∀ (s : State) (q : Cue), getCue s (1024 * s.cur.core + s.cur.ix) = q → q.st = .under → qSheet q < 4 →
    (∀ b, q.understudyDue.isSome = true → gangResident s q.scene (qGslot q) = true → blockOfId (getScene s q.scene) (qUnder q) = some b →
      ∃ s', exec .understudyFire s = .next s' ∧ Fired s s' q b.id 0 (s.tb.ticks + b.ub) true)
    ∧ (∀ r, runOf s s.cur.core (qSheet q) = some r → r.cue = s.cur.ix → r.chorus = false → r.under = true → reached s r.deadline = true →
        r.frozenAt = none → ∃ s', exec .deadlineExpiry s = .next s' ∧ runOf s' s.cur.core (qSheet q) = none
          ∧ (getCue s' (1024 * s.cur.core + s.cur.ix)).st = .held ∧ ∃ x ∈ s'.recs, x.2.cause = 0x0C6)

/-- Deadlines and understudies: all of OverrunsRule, UnderstudiesRule. -/
def Obligations.Deadlines : Prop :=
  OverrunsRule ∧ UnderstudiesRule

/-- R45, R54, R190, R260: a block in no chorus that ends retires: its sheet and thread run nothing, its cue is DONE, and its occupancy entry holds
OUTCOME 0 and its variant; a copy-engine block retires when every entry has issued and its journal is empty. -/
def Sys2Proof.Safety.RetirementRule : Prop :=
  ∀ (s : State) (r : Run) (sheet : Nat), runOf s s.cur.core sheet = some r → r.chorus = false → r.under = false →
    let q' (s' : State) : Cue := getCue s' (1024 * s.cur.core + r.cue)
    let done (s' : State) : Prop := runOf s' s.cur.core sheet = none ∧ (q' s').st = .done
      ∧ (q' s').occ.toNat / 2 ^ 62 = 0 ∧ (q' s').occ.toNat / 2 ^ 60 % 4 = r.variant % 4 ∧ SameBytes s s'
    (sheet = s.cur.slot → (getTh s (thKey s.cur.core sheet)).wait = .ending → endReady s s.cur.core sheet = true →
      ∃ s', exec .blockRetirement s = .next s' ∧ done s' ∧ (getTh s' (thKey s.cur.core sheet)).running = false)
    ∧ (sheet = 4 → (getCopier s s.cur.core).nent ≤ (getCopier s s.cur.core).pos → (getCopier s s.cur.core).journal = [] →
        ∃ s', exec .copyBlockRetirement s = .next s' ∧ done s')

/-- The end of a block and its retirement: all of EndWordRule, RetirementRule. -/
def Obligations.BlockEnds : Prop :=
  EndWordRule ∧ RetirementRule

/-! ## Timebase -/

/-- R32, R34, R36, R411: the writes of the timebase registers: INC is held in its range, and a C-die whose module to the I-die is down goes on from the present
tick with the last INC; HBEXP keeps its value for a write outside 4 to 10 and while a scene
is loaded, a step waits for the next heartbeat, and is refused, with STEPREF and 0x0C5, while a real-time scene runs. That requested steps add up is the choice of log 18. -/
def Sys2Proof.Safety.TimebaseWritesRule : Prop :=
  ∀ (s : State), let v := s.cur.val
    ((∀ d < 4, moduleDown s (8 + d) = false) → exec .tbincWrite s = .next { s with tb := { s.tb with inc := max 286302520 (min 286359786 (v % 2 ^ 32)) } })
    ∧ (∃ s', exec .tbincWrite s = .next s' ∧ s'.tb.inc = max 286302520 (min 286359786 (v % 2 ^ 32)) ∧ s'.threads = s.threads ∧ SameBytes s s'
        ∧ ∀ d < 4, s'.tb.own.find? (·.1 == d) = (if moduleDown s (8 + d) = true ∧ (s.tb.own.find? (·.1 == d)).isNone = true
            then some (d, s.tb.ticks, s.tb.frac, s.tb.inc) else s.tb.own.find? (·.1 == d)))
    ∧ (let h := v / 256 % 16
       (4 ≤ h → h ≤ 10 → (∀ x ∈ s.scenes, x.2.live = true → x.2.loaded = false) → exec .tbctlWrite s = .next { s with tb := { s.tb with hbexp := h } })
       ∧ (h < 4 ∨ 10 < h ∨ (∃ x ∈ s.scenes, x.2.live = true ∧ x.2.loaded = true) → exec .tbctlWrite s = .next s))
    ∧ (rtRunning s = false → v % 2 ^ 64 ≠ 0 →
        exec .tbstepWrite s = .next { s with tb := { s.tb with stepPend := some (s.tb.stepPend.getD 0 + (BitVec.ofNat 64 v).toInt) } })
    ∧ (rtRunning s = true → v % 2 ^ 64 ≠ 0 → ∃ s', exec .tbstepWrite s = .next s' ∧ s'.tb = { s.tb with stepref := true }
        ∧ ∃ e ∈ s'.evlog, e.cause = 0x0C5)

/-- R34: an applied step moves TICKABS, and moves the origin of a running best-effort scene by the same number of ticks, modulo 2^64; a real-time scene keeps
its origin, one admitted after the request too (log 67). No register, memory or thread changes, but that a re-run that starts at a tick moves with it. That launches of a best-effort scene move too is the choice of log 18. -/
def Sys2Proof.Safety.StepAppliedRule : Prop :=
  ∀ (s : State) (z : Int), s.tb.stepPend = some z → ∃ s', exec .stepApply s = .next s'
    ∧ (s'.tb.ticks : Int) = ((s.tb.ticks : Int) + z) % 2 ^ 64 ∧ s'.tb.stepPend = none ∧ s'.tb.inc = s.tb.inc
    ∧ (∀ k, (getScene s' k).origin = (if movesWith s k then ((((getScene s k).origin : Int) + z) % 2 ^ 64).toNat else (getScene s k).origin) ∨ getScene s k = default)
    ∧ s'.tb.own = s.tb.own.map (fun o => (o.1, (((o.2.1 : Int) + z) % 2 ^ 64).toNat, o.2.2))
    ∧ (∀ core sheet r, runOf s core sheet = some r → ∃ r', runOf s' core sheet = some r' ∧ { r' with fire := r.fire, deadline := r.deadline, frozenAt := r.frozenAt } = r
        ∧ (r'.fire : Int) = (if movesWith s r.scene then ((r.fire : Int) + z) % 2 ^ 64 else (r.fire : Int))
        ∧ (r'.deadline : Int) = (if movesWith s r.scene then ((r.deadline : Int) + z) % 2 ^ 64 else (r.deadline : Int)))
    ∧ SameBytes s s' ∧ ∀ k, { getTh s' k with wait := (getTh s k).wait } = getTh s k ∧ ((∀ n, (getTh s k).wait ≠ .restart n) → getTh s' k = getTh s k)

/-- R35, R437: the sixteenth consecutive offset of at most 100 ns establishes lock and ends holdover; a larger one starts the count anew, and INC
stays in its range. An offset is the hardware timestamp of the Sync, corrected by the PHY's constant, less the time that its sender gives and the path delay; a
two-step Sync keeps its timestamp for its Follow_Up. A peer delay answer gives the path delay, half of the round trip (log 17). A frame that is not of domain 0 is
discarded (R436). A lost lock is reported with 0x0C8 and holds the last INC. -/
def Sys2Proof.Safety.ServoLockRule : Prop :=
  ∀ (s : State), s.mgmt.stage ≠ 5 →
    let now : Int := 10 * s.tb.ticks + 10 * s.tb.frac / 2 ^ 32
    let servoed (off : Int) (s' : State) : Prop := 286302520 ≤ s'.tb.inc ∧ s'.tb.inc ≤ 286359786 ∧ s'.tb.pendSync = false
      ∧ (-100 ≤ off → off ≤ 100 → s'.tb.goodSyncs = min 16 (s.tb.goodSyncs + 1) ∧ (15 ≤ s.tb.goodSyncs → s'.tb.locked = true ∧ (s.tb.locked = false → s'.tb.holdover = false)))
      ∧ ((off < -100 ∨ 100 < off) → s'.tb.goodSyncs = 0 ∧ s'.tb.locked = s.tb.locked) ∧ s'.tb.ticks = s.tb.ticks
    (s.cur.ix = 0 → s.cur.flag = false → ∃ s', exec .ptpSync s = .next s' ∧ servoed (now - s.tb.phyRx - s.cur.int - s.tb.pathDelay) s')
    ∧ (s.cur.ix = 0 → s.cur.flag = true → ∃ s', exec .ptpSync s = .next s' ∧ s'.tb = { s.tb with pendSync := true, syncTs := now - s.tb.phyRx })
    ∧ (s.cur.ix = 0 → s.tb.pendSync = true → ∃ s', exec .ptpFollowUp s = .next s' ∧ servoed (s.tb.syncTs - s.cur.int - s.tb.pathDelay) s')
    ∧ (s.tb.pendSync = false → exec .ptpFollowUp s = .next s)
    ∧ (s.cur.ix = 0 → s.cur.flag = true → exec .ptpPdelay s = .next { s with tb := { s.tb with pdelayTs := now + s.tb.phyTx } })
    ∧ (s.cur.ix = 0 → s.cur.flag = false →
        exec .ptpPdelay s = .next { s with tb := { s.tb with pathDelay := (now - s.tb.phyRx - s.tb.pdelayTs - s.cur.int) / 2 } })
    ∧ exec .nonPtpFrame s = .next s
    ∧ (s.cur.ix = 0 → ∃ s', exec .ptpAnnounce s = .next s' ∧ s'.tb = s.tb ∧ s'.threads = s.threads)
    ∧ (s.cur.ix ≠ 0 → ∀ i, i = .ptpSync ∨ i = .ptpFollowUp ∨ i = .ptpPdelay ∨ i = .ptpAnnounce → exec i s = .next s)
    ∧ (s.tb.locked = true → ∀ i, i = .syncTimeout ∨ i = .announceTimeout → ∃ s', exec i s = .next s' ∧ s'.tb.locked = false ∧ s'.tb.holdover = true
        ∧ s'.tb.inc = s.tb.inc ∧ ∃ e ∈ s'.evlog, e.cause = 0x0C8)

/-- R438: PPS_OUT rises from stage 6 on, for ten million ticks, and falls; an edge of PPS_IN is stamped with the PTP time, and the timebase is as before. The pin that a step raises is kept as state (log 40). -/
def Sys2Proof.Safety.PulsePinsRule : Prop :=
  ∀ (s : State),
    (6 ≤ s.mgmt.stage → exec .ppsRise s = .next { s with
      tb := { s.tb with ppsHigh := true }, agenda := s.agenda ++ [⟨.tick, s.tb.ticks + 10000000, .row .ppsFall {}⟩] })
    ∧ (s.mgmt.stage < 6 → exec .ppsRise s = .next s)
    ∧ exec .ppsFall s = .next { s with tb := { s.tb with ppsHigh := false } }
    ∧ exec .ppsIn s = .next { s with tb := { s.tb with ppsIn := BitVec.ofNat 64 (10 * s.tb.ticks + 10 * s.tb.frac / 2 ^ 32) } }

/-- Timebase registers, steps, servo and pulse pins: all of TimebaseWritesRule, StepAppliedRule, ServoLockRule, PulsePinsRule. -/
def Obligations.Timebase : Prop :=
  TimebaseWritesRule ∧ StepAppliedRule ∧ ServoLockRule ∧ PulsePinsRule

/-! ## Elements of the fabric -/

/-- The key of cur's element. -/
def Sys2Proof.Safety.elKey (s : State) : Nat := 256 * curKey s + 16 * s.cur.row + s.cur.col

/-- What the issue of x in period p and slot k by cur's element sees: its sources, its enable, its stage. -/
def Sys2Proof.Safety.issue (s : State) (x : Ent) (p k : Nat) : EC := contextOf s x s.cur.core s.cur.slot s.cur.row s.cur.col p k

/-- cur's element issues an entry x of an opcode, in period p and slot k, with predicate P: the core has the opcode's capability, and an entry that is
valid drives no output that carries array data. -/
def Sys2Proof.Safety.Issues (s : State) (opc : Nat) (x : Ent) (p k : Nat) (P : Bool) : Prop :=
  regionPos (getReg s (curKey s)) = some (p, k) ∧ missing s s.cur.core (needBits opc x) = none
  ∧ (P = true → drivesCarried (getReg s (curKey s)) x = false)

/-- Only cur's element changes; a region's counts of tokens dropped at its guards, and a core's guard log, may grow. -/
def Sys2Proof.Safety.OnlyElem (s s' : State) : Prop :=
  { s' with elems := s.elems, regions := s.regions, cores := s.cores } = s ∧ SameBytes s s'
  ∧ (∀ k, k ≠ elKey s → getEl s' k = getEl s k)
  ∧ (∀ k, { getReg s' k with drops := (getReg s k).drops, dropTick := (getReg s k).dropTick, dropPos := (getReg s k).dropPos } = getReg s k)
  ∧ ∀ k, { getCore s' k with guards := (getCore s k).guards } = getCore s k

/-- The links that cur's element loads through its route entry at the end of the cycle. -/
def Sys2Proof.Safety.Routes (s : State) (x : Ent) (p k : Nat) (e : Elem) : Prop :=
  let rt := routeOf (issue s x p k)
  ∀ i, i < 4 → let f := (routeFields rt).getD i 0
    tget e.nxt {} i = if bit x.lnk (3 - i) = true ∧ f ≠ 0 then linkIn s s.cur.core s.cur.slot s.cur.row s.cur.col (f - 1)
      else tget (getEl s (elKey s)).nxt {} i

/-- A result of latency lat goes on its way to the register that x names in period p; the element is E beside it. -/
def Sys2Proof.Safety.Launches (s : State) (x : Ent) (p k lat : Nat) (v : W32) (P : Bool) (E : Elem) (o : Out) : Prop :=
  ∃ s', o = .next s' ∧ OnlyElem s s' ∧ Routes s x p k (getEl s' (elKey s))
    ∧ let c := issue s x p k
      let dst := if x.dst < 32 then (x.dst + 32 - p % 32) % 32 else x.dst
      { getEl s' (elKey s) with nxt := E.nxt } = { E with pipe := E.pipe ++ [⟨c.g.count + lat - 1, ⟨v, P⟩, dst, x.lnk, routeOf c, none, elemPos c⟩] }

/-- An opcode whose result is a function of its sources, with the AND of their predicates and the enable. -/
def Sys2Proof.Safety.Computes (s : State) (opc : Nat) (x : Ent) (p k lat : Nat) (f : W32 → W32 → W32 → W32) (i : Instr) : Prop :=
  let c := issue s x p k
  let P := predOf x c (psrcOf opc x c)
  Issues s opc x p k P → Launches s x p k lat (f c.a.data c.b.data c.c.data) P (getEl s (elKey s)) (exec i s)

/-- A truth token. -/
def Sys2Proof.Safety.Tests (s : State) (opc : Nat) (x : Ent) (p k : Nat) (P T : Bool) (i : Instr) : Prop :=
  Issues s opc x p k P → Launches s x p k 1 (if T then 1 else 0) (T && (issue s x p k).en) (getEl s (elKey s)) (exec i s)

/-- R271, R266: what the sources of an entry read, and which physical register a name is in a period. -/
def Sys2Proof.Safety.ElementSourcesRule : Prop :=
  ∀ (s : State) (core slot row col p j imm : Nat) (el : Elem) (g : Region),
    let src := source s core slot row col p j imm el g
    (∀ n, n < 32 → src n = tget el.q {} ((n + 32 - p % 32) % 32))
    ∧ (∀ n, n < 4 → src (32 + n) = linkIn s core slot row col n)
    ∧ (∀ n, n < 8 → src (36 + n) = ⟨tget g.con 0 (conKey row col n), true⟩)
    ∧ src 44 = el.port ∧ src 45 = el.last
    ∧ (imm < 256 → src 46 = ⟨(BitVec.ofNat 8 imm).signExtend 32, true⟩)
    ∧ src 47 = ⟨0, true⟩
    ∧ (g.fireTick ≤ ticksOn s core → src 48 = ⟨BitVec.ofNat 32 (ticksOn s core - g.fireTick), true⟩)
    ∧ (j ≤ p → src 49 = ⟨BitVec.ofNat 32 (p - j), true⟩)
    ∧ src 50 = ⟨BitVec.ofNat 32 (row * 256 + col), true⟩

/-- R283, R285, R276: the integer opcodes, with their results and latencies. -/
def Sys2Proof.Safety.ElementIntegersRule : Prop :=
  ∀ (s : State) (x : Ent) (p k : Nat),
    let lo (b : W32) : Nat := b.toNat % 32
    Computes s 0x10 x p k 1 (fun a b _ => a + b) (.eIadd x)
    ∧ Computes s 0x11 x p k 1 (fun a b _ => a - b) (.eIsub x)
    ∧ Computes s 0x12 x p k 2 (fun a b _ => a * b) (.eImul x)
    ∧ Computes s 0x13 x p k 2 (fun a b _ => BitVec.ofInt 32 (a.toInt * b.toInt / 2 ^ 32)) (.eImulh x)
    ∧ Computes s 0x14 x p k 2 (fun a b c => a * b + c) (.eImad x)
    ∧ Computes s 0x15 x p k 1 (fun a _ _ => if a.toInt < 0 then -a else a) (.eIabs x)
    ∧ Computes s 0x16 x p k 1 (fun a _ _ => -a) (.eIneg x)
    ∧ Computes s 0x17 x p k 1 (fun a b _ => BitVec.ofInt 32 (min a.toInt b.toInt)) (.eImin x)
    ∧ Computes s 0x18 x p k 1 (fun a b _ => BitVec.ofInt 32 (max a.toInt b.toInt)) (.eImax x)
    ∧ Computes s 0x19 x p k 1 (fun a b _ => BitVec.ofNat 32 (min a.toNat b.toNat)) (.eIminu x)
    ∧ Computes s 0x1A x p k 1 (fun a b _ => BitVec.ofNat 32 (max a.toNat b.toNat)) (.eImaxu x)
    ∧ Computes s 0x1C x p k 1 (fun a b _ => a <<< lo b) (.eShl x)
    ∧ Computes s 0x1D x p k 1 (fun a b _ => a >>> lo b) (.eShr x)
    ∧ Computes s 0x1E x p k 1 (fun a b _ => BitVec.ofInt 32 (a.toInt / 2 ^ lo b)) (.eSar x)
    ∧ Computes s 0x1F x p k 1 (fun a b _ => a.rotateLeft (lo b)) (.eRol x)
    ∧ Computes s 0x20 x p k 1 (fun a b _ => a &&& b) (.eAnd x)
    ∧ Computes s 0x21 x p k 1 (fun a b _ => a ||| b) (.eOr x)
    ∧ Computes s 0x22 x p k 1 (fun a b _ => a ^^^ b) (.eXor x)
    ∧ Computes s 0x23 x p k 1 (fun a b _ => a &&& ~~~b) (.eAndn x)
    ∧ Computes s 0x24 x p k 1 (fun a _ _ => ~~~a) (.eNot x)
    ∧ Computes s 0x25 x p k 1 (fun a _ _ => BitVec.ofNat 32 ((List.range 32).countP fun i => a.getLsbD i)) (.ePopc x)
    ∧ Computes s 0x26 x p k 1 (fun a _ _ => BitVec.ofNat 32 (if a = 0 then 32 else 31 - a.toNat.log2)) (.eClz x)

/-- R284, R285: ISAT limits a signed 32-bit source to n signed or unsigned bits; BFX extracts the bits pos to hi, and BFI puts the low bits of c
there. Bits of the field above 31 are dropped. -/
def Obligations.SaturationAndFields : Prop :=
  ∀ (s : State) (x : Ent) (p k : Nat),
    let lo (b : W32) : Nat := b.toNat % 32
    let hi (b : W32) : Nat := min (b.toNat % 32 + (b.toNat / 32 % 32 + 1) - 1) 31
    (∀ n, 1 ≤ n → n ≤ 32 → (x.imm = n → Computes s 0x1B x p k 1 (fun a _ _ => BitVec.ofInt 32 (max (-(2 ^ (n - 1))) (min (2 ^ (n - 1) - 1) a.toInt))) (.eIsat x))
        ∧ (x.imm = 128 + n → Computes s 0x1B x p k 1 (fun a _ _ => BitVec.ofInt 32 (max 0 (min (2 ^ n - 1) a.toInt))) (.eIsat x)))
    ∧ Computes s 0x27 x p k 1 (fun a b _ => BitVec.ofNat 32 (a.toNat / 2 ^ lo b % 2 ^ (hi b + 1 - lo b))) (.eBfx x)
    ∧ (let mask (b : W32) : W32 := BitVec.ofNat 32 (2 ^ (hi b + 1) - 2 ^ lo b)
       Computes s 0x28 x p k 1 (fun a b c => (a &&& ~~~(mask b)) ||| ((c <<< lo b) &&& mask b)) (.eBfi x))

/-- R286, R278: comparisons and predicate operations produce a truth token, 0 or 1, with predicate T and the enable. -/
def Sys2Proof.Safety.ElementTruthsRule : Prop :=
  ∀ (s : State) (x : Ent) (p k : Nat),
    let c := issue s x p k
    let both := c.a.pred && c.b.pred
    let a := c.a.data
    let b := c.b.data
    let cmp (n : Nat) (T : Bool) : Prop := x.imm = n → Tests s 0x30 x p k (predOf x c both) (both && T) (.eIcmp x)
    let fcmp (n : Nat) (T : Bool) : Prop := x.imm = n → Tests s 0x31 x p k (predOf x c both) (both && T) (.eFcmp x)
    let u := isNan32 a.toNat || isNan32 b.toNat
    let lt := fvLt (f32 a.toNat) (f32 b.toNat)
    let gt := fvLt (f32 b.toNat) (f32 a.toNat)
    let t := predOf x c true
    cmp 0 (a == b) ∧ cmp 1 (a != b) ∧ cmp 2 (decide (a.toInt < b.toInt)) ∧ cmp 3 (decide (a.toInt ≤ b.toInt))
    ∧ cmp 4 (decide (a.toInt > b.toInt)) ∧ cmp 5 (decide (a.toInt ≥ b.toInt)) ∧ cmp 6 (decide (a.toNat < b.toNat))
    ∧ cmp 7 (decide (a.toNat ≤ b.toNat)) ∧ cmp 8 (decide (a.toNat > b.toNat)) ∧ cmp 9 (decide (a.toNat ≥ b.toNat))
    ∧ fcmp 0 (!u && !lt && !gt) ∧ fcmp 1 (u || lt || gt) ∧ fcmp 2 (!u && lt) ∧ fcmp 3 (!u && !gt) ∧ fcmp 4 (!u && gt) ∧ fcmp 5 (!u && !lt)
    ∧ fcmp 6 u ∧ fcmp 7 (!u)
    ∧ Tests s 0x32 x p k t (a.getLsbD 0 && b.getLsbD 0) (.ePand x)
    ∧ Tests s 0x33 x p k t (a.getLsbD 0 || b.getLsbD 0) (.ePor x)
    ∧ Tests s 0x34 x p k t (!a.getLsbD 0) (.ePnot x)
    ∧ Tests s 0x08 x p k t (c.a.pred && a != 0) (.ePset x)

/-- Integer and truth opcodes of elements: all of ElementIntegersRule, ElementTruthsRule. -/
def Obligations.ElementIntegers : Prop :=
  ElementIntegersRule ∧ ElementTruthsRule

/-- R287 to R289, R276: the floating-point opcodes, over the exact values of their operands, with their latencies; the two lanes of the packed ones
do not interact. The results of FEXP2, FLOG2 and FTANH are those of log 11. -/
def Obligations.ElementFloats : Prop :=
  ∀ (s : State) (x : Ent) (p k : Nat),
    let w (n : Nat) : W32 := BitVec.ofNat 32 n
    let rn (v : FV) : W32 := w (roundF 6 .rne 0 v)
    let v (a : W32) : FV := fpVal 6 a.toNat
    let h (f : Nat) (a : W32) (i : Nat) : FV := fpVal f (a.toNat / 2 ^ (16 * i) % 65536)
    let two (f : Nat) (g : Nat → FV) : W32 := w (roundF f .rne 0 (g 0) + 65536 * roundF f .rne 0 (g 1))
    Computes s 0x40 x p k 4 (fun a b _ => rn (fvAdd (v a) (v b))) (.eFadd x)
    ∧ Computes s 0x41 x p k 4 (fun a b _ => rn (fvAdd (v a) (fvNeg (v b)))) (.eFsub x)
    ∧ Computes s 0x42 x p k 4 (fun a b _ => rn (fvMul (v a) (v b))) (.eFmul x)
    ∧ Computes s 0x43 x p k 4 (fun a b c => rn (fvAdd (fvMul (v a) (v b)) (v c))) (.eFfma x)
    ∧ Computes s 0x44 x p k 2 (fun a b _ => w (fMinMax false a.toNat b.toNat)) (.eFmin x)
    ∧ Computes s 0x45 x p k 2 (fun a b _ => w (fMinMax true a.toNat b.toNat)) (.eFmax x)
    ∧ Computes s 0x46 x p k 1 (fun a _ _ => if isNan32 a.toNat then 0x7FC00000 else a &&& 0x7FFFFFFF) (.eFabs x)
    ∧ Computes s 0x47 x p k 1 (fun a _ _ => if isNan32 a.toNat then 0x7FC00000 else a ^^^ 0x80000000) (.eFneg x)
    ∧ Computes s 0x48 x p k 6 (fun a _ _ => w (fRcp a.toNat)) (.eFrcp x)
    ∧ Computes s 0x49 x p k 6 (fun a _ _ => w (fRsq a.toNat)) (.eFrsq x)
    ∧ Computes s 0x4A x p k 6 (fun a _ _ => w (fExp2 a.toNat)) (.eFexp2 x)
    ∧ Computes s 0x4B x p k 6 (fun a _ _ => w (fLog2 a.toNat)) (.eFlog2 x)
    ∧ Computes s 0x4C x p k 6 (fun a _ _ => w (fTanh a.toNat)) (.eFtanh x)
    ∧ Computes s 0x50 x p k 4 (fun a b _ => two 7 fun i => fvAdd (h 7 a i) (h 7 b i)) (.eFaddB2 x)
    ∧ Computes s 0x51 x p k 4 (fun a b _ => two 7 fun i => fvMul (h 7 a i) (h 7 b i)) (.eFmulB2 x)
    ∧ Computes s 0x52 x p k 4 (fun a b c => two 7 fun i => fvAdd (fvMul (h 7 a i) (h 7 b i)) (h 7 c i)) (.eFfmaB2 x)
    ∧ Computes s 0x53 x p k 4 (fun a b _ => two 8 fun i => fvAdd (h 8 a i) (h 8 b i)) (.eFaddH2 x)
    ∧ Computes s 0x54 x p k 4 (fun a b _ => two 8 fun i => fvMul (h 8 a i) (h 8 b i)) (.eFmulH2 x)
    ∧ Computes s 0x55 x p k 4 (fun a b c => two 8 fun i => fvAdd (fvMul (h 8 a i) (h 8 b i)) (h 8 c i)) (.eFfmaH2 x)

/-- The value of a finite code as a rational number. -/
def Sys2Proof.Safety.ratOf : FV → ℚ
  | .num n m e => (if n then -1 else 1) * m * (2 : ℚ) ^ e
  | _ => 0

/-- R128, R130, R287, R288: sums and products are exact before their one rounding, rounding to nearest is to an adjacent integer with ties to even, a NaN
operand gives the canonical NaN, and the special cases of FRCP to FTANH are those of the manual's table. -/
def Sys2Proof.Safety.ExactArithmeticRule : Prop :=
  (∀ a b n m e n' m' e', a = FV.num n m e → b = FV.num n' m' e' → ratOf (fvAdd a b) = ratOf a + ratOf b ∧ ratOf (fvMul a b) = ratOf a * ratOf b
    ∧ ratOf (fvNeg a) = -ratOf a)
  ∧ (∀ (neg : Bool) (m sh b : Nat), let r := roundMag .rne neg m sh b
      2 * (r * 2 ^ sh) ≤ 2 * m + 2 ^ sh ∧ 2 * m ≤ 2 * (r * 2 ^ sh) + 2 ^ sh
      ∧ (2 * (m % 2 ^ sh) = 2 ^ sh → r % 2 = 0))
  ∧ (∀ a : Nat, isNan32 a = true → ∀ b, fAdd 6 a b = 0x7FC00000 ∧ fMul 6 a b = 0x7FC00000 ∧ fFma 6 b b a = 0x7FC00000 ∧ fRcp a = 0x7FC00000
      ∧ fRsq a = 0x7FC00000 ∧ fExp2 a = 0x7FC00000 ∧ fLog2 a = 0x7FC00000 ∧ fTanh a = 0x7FC00000)
  ∧ [0, 0x80000000, 0x7F800000, 0xFF800000].map fRcp = [0x7F800000, 0xFF800000, 0, 0x80000000]
  ∧ [0, 0x80000000, 0x7F800000, 0xFF800000].map fRsq = [0x7F800000, 0xFF800000, 0, 0x7FC00000]
  ∧ [0, 0x80000000, 0x7F800000, 0xFF800000].map fExp2 = [0x3F800000, 0x3F800000, 0x7F800000, 0]
  ∧ [0, 0x80000000, 0x7F800000, 0xFF800000].map fLog2 = [0xFF800000, 0xFF800000, 0x7F800000, 0x7FC00000]
  ∧ [0, 0x80000000, 0x7F800000, 0xFF800000].map fTanh = [0, 0x80000000, 0x3F800000, 0xBF800000]
  ∧ fAdd 6 0x7F800000 0xFF800000 = 0x7FC00000 ∧ fMul 6 0 0x7F800000 = 0x7FC00000 ∧ fAdd 6 0x3F800000 0xBF800000 = 0

/-- u is the distance of the neighbouring values of a format of fb fraction bits about y ≠ 0, on a grid with subnormals and no upper limit. -/
def Sys2Proof.Safety.UlpOf (fb bias : Nat) (y u : ℚ) : Prop :=
  ∃ k : ℤ, (2 : ℚ) ^ k ≤ |y| ∧ |y| < (2 : ℚ) ^ (k + 1) ∧ u = (2 : ℚ) ^ max (k - fb) (1 - bias - fb)

/-- t is the multiple of u that y rounds to in a mode; b is the 16-bit draw of SR (R8, R130). -/
def Sys2Proof.Safety.Rounds (rm : RMode) (b : Nat) (u y t : ℚ) : Prop :=
  ∃ k : ℤ, t = u * k ∧ match rm with
    | .rne => 2 * |y - t| ≤ u ∧ (2 * |y - t| = u → k % 2 = 0)
    | .rz => |t| ≤ |y| ∧ |y| < |t| + u ∧ 0 ≤ t * y
    | .rd => t ≤ y ∧ y < t + u
    | .ru => y ≤ t ∧ t < y + u
    | .sr => k = ⌊y / u⌋ + (if (b : ℚ) < (y / u - ⌊y / u⌋) * 65536 then 1 else 0)

/-- A code is the finite value t with a sign. -/
def Sys2Proof.Safety.IsFinite (f c : Nat) (neg : Bool) (t : ℚ) : Prop := ∃ m e, fpVal f c = .num neg m e ∧ ratOf (fpVal f c) = t

/-- c is the code of y ≠ 0 rounded to a floating-point format, with the outcome that R131 gives beyond the greatest finite value. -/
def Sys2Proof.Safety.RoundsTo (f : Nat) (rm : RMode) (b : Nat) (y : ℚ) (c : Nat) : Prop :=
  ∃ eb fb bias u t, fpInfo f = some (eb, fb, bias) ∧ UlpOf fb bias y u ∧ Rounds rm b u y t ∧
    let neg := decide (y < 0)
    let top := ratOf (fpVal f (maxCode f))
    (|t| ≤ top → (rm = .sr → |y| ≤ top) → IsFinite f c neg t)
    ∧ (top < |t| ∨ rm = .sr ∧ top < |y| →
        if f = 9 ∨ rm = .rz ∨ rm = .rd ∧ neg = false ∨ rm = .ru ∧ neg = true then IsFinite f c neg (if neg then -top else top)
        else fpVal f c = .inf neg)

/-- R127, R130, R131: what a code of a format stands for, and what the rounding of a value that is not 0 gives: the rounded value where it is finite, and beyond the
greatest finite value the outcome of the mode and the format. -/
def Sys2Proof.Safety.RoundingRule : Prop :=
  (∀ f c eb fb bias : Nat, fpInfo f = some (eb, fb, bias) → c < 2 ^ (eb + fb + 1) →
    let neg := c.testBit (eb + fb)
    let E := c / 2 ^ fb % 2 ^ eb
    let F := c % 2 ^ fb
    let sg : ℚ := if neg then -1 else 1
    (E = 0 → IsFinite f c neg (sg * F * (2 : ℚ) ^ (1 - (bias : ℤ) - fb)))
    ∧ (0 < E → (E < 2 ^ eb - 1 ∨ f = 9 ∧ F < 7) → IsFinite f c neg (sg * (2 ^ fb + F) * (2 : ℚ) ^ ((E : ℤ) - bias - fb)))
    ∧ (E = 2 ^ eb - 1 → (f ≠ 9 ∧ F ≠ 0 ∨ f = 9 ∧ F = 7) → fpVal f c = .nan)
    ∧ (E = 2 ^ eb - 1 → f ≠ 9 → F = 0 → fpVal f c = .inf neg))
  ∧ ∀ (f b m : Nat) (rm : RMode) (neg : Bool) (e : ℤ), isFp f = true → m ≠ 0 → b < 65536 →
      RoundsTo f rm b (ratOf (.num neg m e)) (roundF f rm b (.num neg m e))

/-- R288: FMIN and FMAX give one of their operands, and no operand lies below, or above, it, with -0 below +0; a NaN gives way to the other operand. FRCP is the
nearest value to the exact quotient; FRSQ the nearest to the exact root, which its square shows. -/
def Sys2Proof.Safety.RoundedFunctionsRule : Prop :=
  (∀ a b : Nat, a < 2 ^ 32 → b < 2 ^ 32 →
    let below (x y : Nat) : Prop := match f32 x, f32 y with
      | .inf n, .inf n' => n = true ∧ n' = false
      | .inf n, _ => n = true
      | _, .inf n' => n' = false
      | v, v' => ratOf v < ratOf v' ∨ ratOf v = ratOf v' ∧ x.testBit 31 = true ∧ y.testBit 31 = false
    (isNan32 a = true → isNan32 b = true → fMinMax false a b = 0x7FC00000 ∧ fMinMax true a b = 0x7FC00000)
    ∧ (isNan32 a = true → isNan32 b = false → fMinMax false a b = b ∧ fMinMax true a b = b)
    ∧ (isNan32 a = false → isNan32 b = true → fMinMax false a b = a ∧ fMinMax true a b = a)
    ∧ (isNan32 a = false → isNan32 b = false →
        let lo := fMinMax false a b
        let hi := fMinMax true a b
        (lo = a ∨ lo = b) ∧ ¬ below a lo ∧ ¬ below b lo ∧ (hi = a ∨ hi = b) ∧ ¬ below hi a ∧ ¬ below hi b))
  ∧ (∀ a n m e, f32 a = .num n m e → m ≠ 0 → RoundsTo 6 .rne 0 (ratOf (f32 a))⁻¹ (fRcp a))
  ∧ (∀ a m e, f32 a = .num false m e → m ≠ 0 →
      let x := ratOf (f32 a)
      ∃ (q u : ℚ) (k n : ℤ), IsFinite 6 (fRsq a) false q ∧ ((2 : ℚ) ^ k) ^ 2 * x ≤ 1 ∧ 1 < ((2 : ℚ) ^ (k + 1)) ^ 2 * x ∧ u = (2 : ℚ) ^ (k - 23) ∧ q = u * n
        ∧ (2 * q - u) ^ 2 * x ≤ 4 ∧ 4 ≤ (2 * q + u) ^ 2 * x)
  ∧ ∀ a m e, f32 a = .num true m e → m ≠ 0 → fRsq a = 0x7FC00000

/-- The exact values that floating-point results round, and how they are rounded: all of ExactArithmeticRule, RoundingRule, RoundedFunctionsRule. -/
def Obligations.ExactArithmetic : Prop :=
  ExactArithmeticRule ∧ RoundingRule ∧ RoundedFunctionsRule

/-- R126, R131, R291: a conversion rounds the exact value of its source: an integer or E8M0 code stands for its number; a floating-point destination rounds as above; an
integer destination takes the rounded integer, held in its range, infinities its bounds and a NaN 0. -/
def Sys2Proof.Safety.ConvertedValuesRule : Prop :=
  (∀ c : Nat, let v (f : Nat) : ℚ := ratOf (fmtVal f c)
    v 0 = (BitVec.ofNat 8 c).toInt ∧ v 1 = (c % 256 : Nat) ∧ v 2 = (BitVec.ofNat 4 c).toInt ∧ v 3 = (BitVec.ofNat 16 c).toInt ∧ v 4 = (BitVec.ofNat 32 c).toInt
    ∧ v 5 = (BitVec.ofNat 64 c).toInt ∧ v 0x12 = (c % 2 ^ 32 : Nat) ∧ (c < 255 → v 0x0E = (2 : ℚ) ^ ((c : ℤ) - 127)) ∧ fmtVal 0x0E 255 = .nan
    ∧ ∀ f, f ∈ [6, 7, 8, 9, 10] → fmtVal f c = fpVal f c)
  ∧ (∀ (src dst b c : Nat) (rm : RMode), isFp dst = true → b < 65536 →
      (fmtVal src c = .nan → convert src dst rm b c = canonNan dst)
      ∧ (∀ n, fmtVal src c = .inf n → if dst = 9 then fpVal 9 (convert src dst rm b c) = .nan else fpVal dst (convert src dst rm b c) = .inf n)
      ∧ (∀ n m e, fmtVal src c = .num n m e → (m = 0 → IsFinite dst (convert src dst rm b c) n 0)
          ∧ (m ≠ 0 → RoundsTo dst rm b (ratOf (fmtVal src c)) (convert src dst rm b c))))
  ∧ ∀ (src dst b c : Nat) (rm : RMode) (lo hi : Int), intRange dst = some (lo, hi) → b < 65536 →
      let code (x : Int) : Nat := (BitVec.ofInt (codeWidth dst) x).toNat
      (fmtVal src c = .nan → convert src dst rm b c = 0)
      ∧ (∀ n, fmtVal src c = .inf n → convert src dst rm b c = code (if n then lo else hi))
      ∧ (∀ n m e, fmtVal src c = .num n m e → ∃ x : ℤ, Rounds rm b 1 (ratOf (fmtVal src c)) x ∧ convert src dst rm b c = code (max lo (min hi x)))

/-- R145, R147, R294: QMX of a value against a scale register rounds the value divided by the scale: to an integer of 1/64 for MXINT8, held between -127 and
127, or on the element format's grid without an upper limit, held at its greatest finite value; CLAMP tells that it was held, and a NaN, or the scale 0xFF, sets NANBLK alone. -/
def Sys2Proof.Safety.QuantisedValuesRule : Prop :=
  ∀ imm es a : Nat, imm % 4 < 3 → es < 256 →
    let rm : RMode := match imm / 4 % 4 with | 0 => .rne | 1 => .rz | 2 => .rd | _ => .ru
    let X : ℤ := if es = 0 then -127 else (es : ℤ) - 127
    let g := if imm % 4 = 1 then 9 else 10
    let top := ratOf (fpVal g (maxCode g))
    let r := qmxOf imm es a
    let v := f32 a
    (es = 255 ∨ v = .nan → r = 512)
    ∧ (es ≠ 255 → v ≠ .nan → r < 512
      ∧ (imm % 4 = 0 → (∀ n, v = .inf n → r = 256 + (BitVec.ofInt 8 (if n then -127 else 127)).toNat)
          ∧ ∀ n m e, v = .num n m e → ∃ k : ℤ, Rounds rm 0 1 (ratOf v * (2 : ℚ) ^ (6 - X)) k
              ∧ r = (BitVec.ofInt 8 (max (-127) (min 127 k))).toNat + (if k < -127 ∨ 127 < k then 256 else 0))
      ∧ (imm % 4 ≠ 0 → (∀ n, v = .inf n → 256 ≤ r ∧ IsFinite g (r % 256) n (if n then -top else top))
          ∧ (∀ n m e, v = .num n m e → m = 0 → r < 256 ∧ IsFinite g r n 0)
          ∧ ∀ n m e, v = .num n m e → m ≠ 0 → let y := ratOf v * (2 : ℚ) ^ (-X)
              ∃ eb fb bias u t, fpInfo g = some (eb, fb, bias) ∧ UlpOf fb bias y u ∧ Rounds rm 0 u y t
                ∧ (|t| ≤ top → r < 256 ∧ IsFinite g r n t) ∧ (top < |t| → 256 ≤ r ∧ IsFinite g (r % 256) n (if n then -top else top))))

/-- R290, R291, R293, R296: the conversions with the mode of their opcode, the block scale and the residue opcodes. CVT.SR draws from the element's
generator, which steps on an issue with P = 1 and not otherwise. -/
def Sys2Proof.Safety.ElementConversionsRule : Prop :=
  ∀ (s : State) (x : Ent) (p k : Nat),
    let c := issue s x p k
    let w (n : Nat) : W32 := BitVec.ofNat 32 n
    let conv (rm : RMode) (f : Nat × Nat) (a : W32) : Nat := convert f.1 f.2 rm 0 a.toNat
    let one (rm : RMode) (f : Nat × Nat) (a : W32) : W32 :=
      if f.2 = 4 ∨ f.2 = 3 ∨ f.2 = 0 ∨ f.2 = 2 then BitVec.ofInt 32 (sx (codeWidth f.2) (conv rm f a)) else w (conv rm f a)
    let pair (rm : RMode) (a b : W32) : W32 :=
      if 0x20 ≤ x.imm ∧ x.imm ≤ 0x23 then w (conv rm (pairFmts x.imm) a + conv rm (pairFmts x.imm) b * 2 ^ codeWidth (pairFmts x.imm).2)
      else one rm (pairFmts x.imm) a
    let m := modulus x.imm
    let arg (a : W32) : Nat := a.toNat % 1024 % m
    Computes s 0x60 x p k 2 (fun a b _ => pair .rne a b) (.eCvtRn x)
    ∧ Computes s 0x61 x p k 2 (fun a b _ => pair .rz a b) (.eCvtRz x)
    ∧ Computes s 0x62 x p k 2 (fun a b _ => pair .rd a b) (.eCvtRd x)
    ∧ Computes s 0x63 x p k 2 (fun a b _ => pair .ru a b) (.eCvtRu x)
    ∧ (let P := predOf x c (psrcOf 0x64 x c)
       Issues s 0x64 x p k P → Launches s x p k 2 (w (cvtPair x.imm .sr (genDraw c.el.gen 0) (genDraw c.el.gen 1) c.a.data.toNat c.b.data.toNat)) P
         { getEl s (elKey s) with gen := if P then genStep (getEl s (elKey s)).gen else (getEl s (elKey s)).gen } (exec (.eCvtSr x) s))
    ∧ Computes s 0x69 x p k 2 (fun a _ _ =>
        match f32 a.toNat with
        | .num _ 0 _ => 0
        | .num _ n e => BitVec.ofInt 32 (max (-127) (min 127 ((Nat.log2 n : Int) + e - mxEmax (0x0B + x.imm % 4))) + 127)
        | _ => 0xFF) (.eScle x)
    ∧ Computes s 0x70 x p k 2 (fun a _ _ => BitVec.ofInt 32 (a.toInt % m)) (.eRfwd x)
    ∧ Computes s 0x71 x p k 2 (fun a b _ => w ((arg a + arg b) % m)) (.eRadd x)
    ∧ Computes s 0x72 x p k 2 (fun a b _ => BitVec.ofInt 32 (((arg a : Int) - arg b) % m)) (.eRsub x)
    ∧ Computes s 0x73 x p k 2 (fun a b _ => w (arg a * arg b % m)) (.eRmul x)
    ∧ Computes s 0x74 x p k 2 (fun a b c => w ((arg a * arg b + arg c) % m)) (.eRmac x)

/-- R292, R294: QMAX keeps a block's count, greatest magnitude and flag, and delivers the block's magnitude with its last value; QMX latches a scale and
quantises against it. -/
def Sys2Proof.Safety.QuantisationChainsRule : Prop :=
  ∀ (s : State) (x : Ent) (p k ch n : Nat), x.imm = 64 * ch + n → n < 64 →
    let c := issue s x p k
    let E := getEl s (elKey s)
    let a := c.a.data.toNat
    let nf := E.qmNf.contains ch || (c.a.pred && special32 a)
    let g := if c.a.pred && !special32 a && fvLt (f32 (tget E.qmG 0 ch)) (f32 (a % 2 ^ 31)) then a % 2 ^ 31 else tget E.qmG 0 ch
    let cnt := tget E.qmK 0 ch + 1
    let after (k' g' : Nat) (nf' : Bool) (v : Nat) (P : Bool) : Prop := ∃ E', Launches s x p k 2 (BitVec.ofNat 32 v) P E' (exec (.eQmax x) s)
      ∧ { E' with qmK := E.qmK, qmG := E.qmG, qmNf := E.qmNf } = E ∧ tget E'.qmK 0 ch = k' ∧ tget E'.qmG 0 ch = g' ∧ E'.qmNf.contains ch = nf'
      ∧ ∀ j, j ≠ ch → tget E'.qmK 0 j = tget E.qmK 0 j ∧ tget E'.qmG 0 j = tget E.qmG 0 j ∧ E'.qmNf.contains j = E.qmNf.contains j
    (c.en = true → cnt = n + 1 → Issues s 0x68 x p k true → after 0 0 false (if nf then 0x7FC00000 else g) true)
    ∧ (c.en = true → cnt ≠ n + 1 → Issues s 0x68 x p k (predOf x c false) → after cnt g nf g (predOf x c false))
    ∧ (c.en = false → Issues s 0x68 x p k false →
        Launches s x p k 2 (BitVec.ofNat 32 (tget E.qmG 0 ch)) false E (exec (.eQmax x) s))
    ∧ (let fresh := c.en && c.b.pred
       let es := if fresh then c.b.data.toNat % 256 else tget E.qxEs 0 ch
       let P := predOf x c (c.a.pred && (fresh || E.qxLatched.contains ch))
       Issues s 0x6A x p k P → ∃ E', Launches s x p k 2 (BitVec.ofNat 32 (qmxOf x.imm es a)) P E' (exec (.eQmx x) s)
        ∧ { E' with qxEs := E.qxEs, qxLatched := E.qxLatched } = E ∧ tget E'.qxEs 0 ch = es ∧ E'.qxLatched.contains ch = (fresh || E.qxLatched.contains ch)
        ∧ ∀ j, j ≠ ch → tget E'.qxEs 0 j = tget E.qxEs 0 j ∧ E'.qxLatched.contains j = E.qxLatched.contains j)

/-- Conversions, residues and quantisation: all of ElementConversionsRule, ConvertedValuesRule, QuantisationChainsRule, QuantisedValuesRule. -/
def Obligations.Conversions : Prop :=
  ElementConversionsRule ∧ ConvertedValuesRule ∧ QuantisationChainsRule ∧ QuantisedValuesRule

/-- R273, R278 to R282: the structural opcodes. SEL and PICK take the predicate of the source they keep; VOTE3 the majority, and logs the odd one; DELAY
delivers the token of its depth's enabled issue before; FLAG sets a line of the slot's thread; ETRAP raises 0x147. -/
def Obligations.ElementStructure : Prop :=
  ∀ (s : State) (x : Ent) (p k : Nat),
    let c := issue s x p k
    let E := getEl s (elKey s)
    let P (q : Bool) : Bool := predOf x c q
    (Issues s 0x00 x p k c.en → ∃ s', exec (.eNop x) s = .next s' ∧ OnlyElem s s' ∧ Routes s x p k (getEl s' (elKey s)) ∧ { getEl s' (elKey s) with nxt := E.nxt } = E)
    ∧ Computes s 0x01 x p k 1 (fun a _ _ => a) (.eMov x)
    ∧ (let t := if c.c.pred then c.a else c.b
       Issues s 0x02 x p k (P t.pred) → Launches s x p k 1 t.data (P t.pred) E (exec (.eSel x) s))
    ∧ (let q := c.a.pred || c.b.pred
       Issues s 0x03 x p k (P q) → Launches s x p k 1 (if c.a.pred then c.a else c.b).data (P q) E (exec (.ePick x) s))
    ∧ (c.a = c.b → c.a = c.c → Issues s 0x04 x p k (P c.a.pred) → Launches s x p k 1 c.a.data (P c.a.pred) E (exec (.eVote3 x) s))
    ∧ (let logs (odd : Nat) (t : Token) : Prop := Issues s 0x04 x p k (P t.pred) → ∃ s', exec (.eVote3 x) s = .next s'
          ∧ (let g := voteAppend (getReg s (curKey s)) ⟨ticksOn s s.cur.core, s.cur.row, s.cur.col, k, tr 32 ((p : Int) - c.j), x.imm, odd⟩
             let g' := getReg s' (curKey s)
             g'.votes = g.votes ∧ g'.voteNext = g.voteNext ∧ g'.voteOvf = g.voteOvf)
          ∧ (getEl s' (elKey s)).pipe.getLast?.map (·.tok) = some ⟨t.data, P t.pred⟩ ∧ SameBytes s s' ∧ s'.threads = s.threads
       (c.a = c.b → c.c ≠ c.a → P c.a.pred = true → c.en = true → logs 3 c.a)
       ∧ (c.a = c.c → c.b ≠ c.a → P c.a.pred = true → c.en = true → logs 2 c.a)
       ∧ (c.b = c.c → c.a ≠ c.b → P c.b.pred = true → c.en = true → logs 1 c.b)
       ∧ (c.a ≠ c.b → c.a ≠ c.c → c.b ≠ c.c → c.en = true → logs 4 ⟨c.a.data, false⟩))
    ∧ (let f := (lookup E.fifo k).getD (List.replicate (x.imm % 64 + 1) {})
       (c.en = true → Issues s 0x05 x p k (P (f.headD {}).pred) → ∃ E', Launches s x p k 1 (f.headD {}).data (P (f.headD {}).pred) E' (exec (.eDelay x) s)
          ∧ { E' with fifo := E.fifo } = E ∧ lookup E'.fifo k = some (f.drop 1 ++ [c.a]) ∧ ∀ j, j ≠ k → lookup E'.fifo j = lookup E.fifo j)
       ∧ (c.en = false → Issues s 0x05 x p k false → Launches s x p k 1 0 false E (exec (.eDelay x) s)))
    ∧ (Issues s 0x06 x p k (P c.a.pred) → P c.a.pred = true → 16 ≤ x.imm → x.imm < 32 → ∃ s', exec (.eFlag x) s = .next s' ∧ SameBytes s s' ∧ OtherThreads s s'
        ∧ (∀ l, (getTh s' (curKey s)).flags.testBit l = ((getTh s (curKey s)).flags.testBit l || l == x.imm - 16))
        ∧ { getTh s' (curKey s) with flags := (getTh s (curKey s)).flags } = getTh s (curKey s))
    ∧ (Issues s 0x07 x p k (P c.a.pred) → P c.a.pred = true → ∃ s', exec (.eTrap x) s = .next s' ∧ SameBytes s s' ∧ s'.threads = s.threads
        ∧ ∃ w ∈ (getReg s' (curKey s)).faults, w.cause = 0x147 ∧ w.i0 = x.imm ∧ w.i1 = c.a.data.toNat ∧ w.slot = s.cur.slot)

/-- R265, R272, R274, R275: a disabled or invalid FLAG or ETRAP does nothing; an opcode of a group whose capability bit is 0 collects the class 9
trap of the group, of the lowest missing bit for CVT.SR, and issues nothing (R171, R180). -/
def Sys2Proof.Safety.ElementGuardsRule : Prop :=
  ∀ (s : State) (x : Ent) (p k : Nat),
    let c := issue s x p k
    (x.grd = 0 ∨ x.grd = 1 → c.en = true)
    ∧ (∀ j, j < 6 → x.grd = 2 + j → c.en = ((getReg s (curKey s)).stageMask.testBit j && decide (j ≤ p)) ∧ c.j = j)
    ∧ (x.grd = 8 → c.en = c.c.pred) ∧ (x.grd = 9 → c.en = !c.c.pred)
    ∧ (x.grd ≠ 1 → c.en = false → ∀ i, i = .eFlag x ∧ Issues s 0x06 x p k false ∨ i = .eTrap x ∧ Issues s 0x07 x p k false →
        ∃ s', exec i s = .next s' ∧ OnlyElem s s' ∧ { getEl s' (elKey s) with nxt := (getEl s (elKey s)).nxt } = getEl s (elKey s))
    ∧ (regionPos (getReg s (curKey s)) = some (p, k) →
        let has (b : Nat) : Prop := bit (capMask s s.cur.core) b = true
        let lacks (b cause : Nat) (i : Instr) : Prop := ∃ s', exec i s = .next s' ∧ s'.elems = s.elems ∧ SameBytes s s' ∧ s'.threads = s.threads
          ∧ ∃ w ∈ (getReg s' (curKey s)).faults, w.cause = cause ∧ w.i0 = b
        let fp8 := if x.imm ∈ [0x02, 0x03, 0x0A, 0x0B, 0x0E, 0x22, 0x23] then 21 else 13
        (∀ b l i, (b, l) ∈ [(0, [Instr.eMov x, .eSel x, .ePick x, .eDelay x, .ePset x]), (1, [.eVote3 x]), (2, [.eFlag x, .eTrap x]),
            (3, [.eIadd x, .eIsub x, .eIabs x, .eIneg x, .eImin x, .eImax x, .eIminu x, .eImaxu x, .eIsat x]), (4, [.eImul x, .eImulh x, .eImad x]),
            (5, [.eShl x, .eShr x, .eSar x, .eRol x, .eAnd x, .eOr x, .eXor x, .eAndn x, .eNot x, .ePopc x, .eClz x]), (6, [.eBfx x, .eBfi x]),
            (7, [.eIcmp x, .eFcmp x, .ePand x, .ePor x, .ePnot x]), (8, [.eFadd x, .eFsub x, .eFmin x, .eFmax x, .eFabs x, .eFneg x]),
            (9, [.eFmul x, .eFfma x]), (10, [.eFrcp x, .eFrsq x, .eFexp2 x, .eFlog2 x, .eFtanh x]), (11, [.eFaddB2 x, .eFmulB2 x, .eFfmaB2 x]),
            (12, [.eFaddH2 x, .eFmulH2 x, .eFfmaH2 x]), (fp8, [.eCvtRn x, .eCvtRz x, .eCvtRd x, .eCvtRu x]), (15, [.eQmax x, .eScle x, .eQmx x]),
            (16, [.eRfwd x, .eRadd x, .eRsub x]), (17, [.eRmul x, .eRmac x]), (18, [.eLdp x, .eStp x]), (19, [.eLdpx x, .eStpx x]),
            (20, [.aMode x, .aWpreI x, .aWpreA x, .aWswap x, .aPass x, .aDrain x, .aClr x, .aBind x, .aBindOff x])] →
          i ∈ l → ¬ has b → lacks b (0x120 + b) i)
        ∧ (∀ b, b = fp8 ∨ b = 14 ∨ b = 38 → ¬ has b → (∀ j, j = fp8 ∨ j = 14 ∨ j = 38 → j < b → has j) →
            lacks b (if b = 38 then 0x13F else 0x120 + b) (.eCvtSr x)))

/-- Sources of elements, guards and transfers: all of ElementSourcesRule, ElementGuardsRule. -/
def Obligations.ElementSources : Prop :=
  ElementSourcesRule ∧ ElementGuardsRule

/-! ## Element ports -/

/-- What a port word sends: one request of cur's port, the next in number, and nothing in memory changes yet. -/
def Sys2Proof.Safety.SendsPort (s s' : State) (q : Req) : Prop :=
  s'.reqs = s.reqs ++ [q] ∧ q.id = s.nextId ∧ q.core = s.cur.core ∧ q.asker = .port s.cur.slot s.cur.row s.cur.col ∧ q.done = false
  ∧ s'.nextId = s.nextId + 1 ∧ SameBytes s s' ∧ s'.threads = s.threads

/-- R274, R276, R298 to R300: a port word with P = 1 whose checks pass sends its access, and a load's result is due at latency 6 from SP and 24 from
elsewhere; with P = 0 it accesses nothing and a load delivers 0 with predicate 0; a failing check is a fault of the element with its cause. A store's
block is in no chorus. -/
def Sys2Proof.Safety.PortWordsRule : Prop :=
  ∀ (s : State) (x : Ent) (p k : Nat) (addr b : Nat) (pl : Place),
    let c := issue s x p k
    let E := getEl s (elKey s)
    let g := getReg s (curKey s)
    let w := whoReg s.cur.core g
    let v := tidOf s s.cur.core g.part x.imm
    let n := max 1 (width v.fmt / 8)
    let lat := if v.space = 0 then 6 else 24
    let dst := if x.dst < 32 then (x.dst + 32 - p % 32) % 32 else x.dst
    let i (t : Token) : Int := t.data.toInt
    let bits : Option (Nat × Nat) := if width v.fmt < 8 then some (b, width v.fmt) else none
    let valid (opc : Nat) : Prop := predOf x c (psrcOf opc x c) = true ∧ Issues s opc x p k true
    let loads (o : Out) (m fmt : Nat) (bs : Option (Nat × Nat)) : Prop := ∃ s' q, o = .next s' ∧ SendsPort s s' q ∧ q.store = false ∧ q.place = pl
      ∧ q.len = m ∧ q.fmt = fmt ∧ q.bits = bs
      ∧ (getEl s' (elKey s)).pipe = E.pipe ++ [⟨c.g.count + lat - 1, ⟨0, true⟩, dst, x.lnk, routeOf c, some s.nextId, elemPos c⟩]
    let stores (o : Out) (l : List Byte) (bs : Option (Nat × Nat)) : Prop := ∃ s' q, o = .next s' ∧ SendsPort s s' q ∧ q.store = true ∧ q.place = pl
      ∧ q.bytes = l ∧ q.bits = bs ∧ (getEl s' (elKey s)).pipe = E.pipe
    let fails (o : Out) (cause : Nat) : Prop := ∃ s', o = .next s' ∧ SameBytes s s' ∧ s'.reqs = s.reqs ∧ ∃ f ∈ (getReg s' (curKey s)).faults, f.cause = cause
    (valid 0x80 → accessOf s w v (i c.a + i c.b) 0 n n true false .port = .ok (addr, b, pl) → loads (exec (.eLdp x) s) n v.fmt bits)
    ∧ (valid 0x82 → accessOf s w v (i c.a) (i c.b) 4 4 false false .port = .ok (addr, b, pl) → loads (exec (.eLdpx x) s) 4 0x12 none)
    ∧ (regChorus s s.cur.core g = false →
        (valid 0x81 → accessOf s w v (i c.a) 0 n n true true .port = .ok (addr, b, pl) → stores (exec (.eStp x) s) (leBytes n c.b.data.toNat) bits)
        ∧ (valid 0x83 → accessOf s w v (i c.a) (i c.c) 4 4 false true .port = .ok (addr, b, pl) → stores (exec (.eStpx x) s) (leBytes 4 c.b.data.toNat) none))
    ∧ (∀ cause, (valid 0x80 → accessOf s w v (i c.a + i c.b) 0 n n true false .port = .error cause → fails (exec (.eLdp x) s) cause)
        ∧ (valid 0x82 → accessOf s w v (i c.a) (i c.b) 4 4 false false .port = .error cause → fails (exec (.eLdpx x) s) cause)
        ∧ (valid 0x81 → accessOf s w v (i c.a) 0 n n true true .port = .error cause → fails (exec (.eStp x) s) cause)
        ∧ (valid 0x83 → accessOf s w v (i c.a) (i c.c) 4 4 false true .port = .error cause → fails (exec (.eStpx x) s) cause))
    ∧ (∀ opc, predOf x c (psrcOf opc x c) = false → Issues s opc x p k false →
        (opc = 0x80 → Launches s x p k lat 0 false E (exec (.eLdp x) s)) ∧ (opc = 0x82 → Launches s x p k lat 0 false E (exec (.eLdpx x) s))
        ∧ (opc = 0x81 ∨ opc = 0x83 → ∃ s', exec (if opc = 0x81 then .eStp x else .eStpx x) s = .next s' ∧ OnlyElem s s'
            ∧ { getEl s' (elKey s) with nxt := E.nxt } = E))

/-- R105, R299 to R301, R316, R346: a port's store writes its element's bits, and no other, when it performs, and its load reads its bytes; an access that
lacks the grant of its race tag asks the tag's engine first, and one that the engine has denied is a fault of the region in place of the access; a request of a thread that goes over the mesh performs as any of a thread; a line of an array
row is read. A reply that is back is at its port, and one whose way back is down waits. How the latency of a peer request is split is the choice of log 37. -/
def Sys2Proof.Safety.PortStepsRule : Prop :=
  ∀ (s : State) (q : Req), s.reqs.find? (·.id == s.cur.ix) = some q →
    let clean : Prop := bankFenced s q.place q.len = false ∧ (q.place.store ≠ .dev ∨ eccOf s q.place.addr q.len = 0)
    let turn (i : Instr) : Prop := i = .peerRequest ∨ i = .portPerform ∧ q.space ≠ 1 ∧ (q.space = 0 → s.phase = 3) ∧ wayDown s q.core q.place = false
    let n := q.bytes.length
    let read (s' : State) : Prop := SameBytes s s' ∧ s'.threads = s.threads
      ∧ ∃ q' ∈ s'.reqs, q'.id = q.id ∧ q'.done = true ∧ q'.data = rdMem s q.place q.len
    (∀ sl r c, q.asker = .port sl r c →
      let g := getReg s (thKey q.core sl)
      let v := tidOf s q.core q.part q.tid
      let held := raceHeld s (whoReg q.core g) v q.tid (v.base + q.off) 0x20 q.store
      let free : Prop := q.done = false ∧ behind s q = false ∧ q.race ≠ 1 ∧ (q.race = 0 → held = true) ∧ bankFenced s q.place q.len = false
      (free → q.denied = none → clean → q.voice = false → ∀ i, turn i → ∃ s', exec i s = .next s'
        ∧ (q.store = true → s'.reqs = s.reqs.filter (·.id != q.id) ∧ s'.threads = s.threads
            ∧ (q.bits = none → rdMem s' q.place n = q.bytes ∧ SameBytesBut s s' q.place n)
            ∧ ∀ lo m, q.bits = some (lo, m) → lo + m ≤ 8 → 0 < m → SameBytesBut s s' q.place 1
                ∧ ∀ j, j < 8 → (leNat (rdMem s' q.place 1)).testBit j
                    = if lo ≤ j ∧ j < lo + m then (leNat q.bytes).testBit (j - lo) else (leNat (rdMem s q.place 1)).testBit j)
        ∧ (q.store = false → read s'))
      ∧ (free → clean → g.killed = false → ∀ cause i0 i1 i2, q.denied = some (cause, i0, i1, i2) → ∀ i, turn i → ∃ s', exec i s = .next s' ∧ SameBytes s s'
          ∧ s'.reqs = s.reqs.filter (·.id != q.id) ∧ s'.threads = s.threads ∧ ∃ f ∈ (getReg s' (thKey q.core sl)).faults, f.cause = cause ∧ f.i0 = i0)
      ∧ (q.done = false → behind s q = false → q.race = 0 → held = false → bankFenced s q.place q.len = false → ∀ i, turn i →
          ∃ s' a, exec i s = .next s' ∧ SameBytes s s' ∧ s'.threads = s.threads ∧ s'.syncQ = s.syncQ ++ [a] ∧ a.op = 61 ∧ a.t = q.id
            ∧ a.home = tagHome s g.scene v ∧ s'.reqs = s.reqs.map (fun (p : Req) => if p.id = q.id then { p with race := 1 } else p))
      ∧ (backDown s q.core q.place = false → exec .portReply s
          = .next { s with reqs := s.reqs.map (fun (p : Req) => if p.id = q.id then { p with arrived := true } else p) })
      ∧ (backDown s q.core q.place = true → exec .portReply s
          = .next { s with agenda := s.agenda ++ [⟨.master, s.cycle + 1, .row .portReply { ix := q.id }⟩] }))
    ∧ (∀ t, q.asker = .thread t → q.done = false → behind s q = false → portDown s q.place = false → wayDown s q.core q.place = false →
        exec .peerRequest s = exec .prompterPerform s)
    ∧ (∀ sl ps m, q.asker = .aRow sl ps m → q.done = false → clean → s.cur.flag = false → q.notBefore ≤ s.cycle →
        ∃ s', exec .peerRequest s = .next s' ∧ read s')

/-- Port loads and stores of elements: all of PortWordsRule, PortStepsRule. -/
def Obligations.Ports : Prop :=
  PortWordsRule ∧ PortStepsRule

/-- R74, R241, R266, R301, R408: an II boundary and the end of a run put what is pending into force; the end of a run stops the region, and the tokens that
its guards dropped are recorded where it is idle. A stalled region is marked. Nothing in memory and no thread changes. -/
def Obligations.RegionSteps : Prop :=
  ∀ (s : State),
    let k := curKey s
    let g := getReg s k
    let others (s' : State) : Prop := SameBytes s s' ∧ s'.threads = s.threads ∧ ∀ j, j ≠ k → getReg s' j = getReg s j
    let takes (g' : Region) : Prop := g'.stageMask = g.maskPend.getD g.stageMask ∧ g'.maskPend = none ∧ g'.conPend = [] ∧ g'.seedPend = none
      ∧ (∀ j, (∀ e ∈ g.conPend, e.1 ≠ j) → tget g'.con 0 j = tget g.con 0 j)
      ∧ (∀ j v, (j, v) ∈ g.conPend → (∀ e ∈ g.conPend, e.1 = j → e.2 = v) → tget g'.con 0 j = v)
      ∧ g'.trip = g.trip ∧ g'.opc = g.opc ∧ g'.rte = g.rte ∧ g'.count = g.count ∧ g'.votes = g.votes ∧ g'.weights = g.weights
    let seeded (s' : State) : Prop := (g.seedPend = none → s'.elems = s.elems)
      ∧ ∀ x r c, g.seedPend = some x → r < 4 * hH g.hdr.toNat → c < 4 * hW g.hdr.toNat →
          (getEl s' (256 * k + 16 * r + c)) = { getEl s (256 * k + 16 * r + c) with gen := seedOf x.toNat r c }
    (∃ s', exec .iiBoundary s = .next s' ∧ others s' ∧ takes (getReg s' k) ∧ (getReg s' k).runs = g.runs ∧ seeded s')
    ∧ (∃ s', exec .kernelRunEnd s = .next s' ∧ others s' ∧ takes (getReg s' k) ∧ (getReg s' k).runs = false ∧ (getReg s' k).stopReq = false ∧ seeded s'
        ∧ (g.killed = false → portsBusy s s.cur.core s.cur.slot = false → (getReg s' k).drops = []
            ∧ ∀ e ∈ g.drops, ∃ x ∈ s'.recs, x.2.cause = 0x14A))
    ∧ ∃ s', exec .stallFreeze s = .next s' ∧ others s' ∧ s'.elems = s.elems
        ∧ getReg s' k = (if s.cur.ix ∈ g.stalls then g else { g with stalls := g.stalls ++ [s.cur.ix] })

/-! ## Array words -/

/-- cur's control element issues an array word x, whose LNK is 0, in period p and slot k with P = 1. -/
def Sys2Proof.Safety.Controls (s : State) (opc : Nat) (x : Ent) (p k : Nat) : Prop :=
  regionPos (getReg s (curKey s)) = some (p, k) ∧ x.lnk = 0 ∧ missing s s.cur.core (needBits opc x) = none
  ∧ predOf x (issue s x p k) (psrcOf opc x (issue s x p k)) = true

/-- The word starts an operation: the request or step of each entry of l, in its counted cycle. -/
def Sys2Proof.Safety.Plans (s s' : State) (l : List (Nat × Act)) : Prop :=
  s'.agenda = s.agenda ++ l.map (fun e => ⟨.region (curKey s), e.1, e.2⟩) ∧ s'.nextId = s.nextId + 1 ∧ SameBytes s s' ∧ s'.threads = s.threads
  ∧ ∀ j, j ≠ curKey s → getReg s' j = getReg s j

/-- Slot o is the lowest whose bypass is bound to a slot. -/
def Sys2Proof.Safety.Binds (s : State) (core slot o : Nat) : Prop :=
  let bound (o : Nat) : Prop := (getReg s (thKey core o)).placed = true ∧ (getReg s (thKey core o)).bypTo = some slot
  o < 4 ∧ bound o ∧ ∀ j < o, ¬ bound j

/-- R309 to R321: what the array words do where their checks pass, and when the steps of what they start come. With D = 2 an SP source is fetched for each row,
where R316 names even ones (log 26). An issue with P = 0 does nothing; one out of
sequence raises 0x148. -/
def Sys2Proof.Safety.ArrayWordsRule : Prop :=
  ∀ (s : State) (x : Ent) (p k : Nat),
    let key := curKey s
    let g := getReg s key
    let h := g.hdr.toNat
    let core := s.cur.core
    let slot := s.cur.slot
    let c := issue s x p k
    let a := c.a.data.toNat
    let b := c.b.data.toNat
    let t := g.count
    let cap (n : Nat) : Prop := bit (capMask s core) n = true
    let idle : Prop := g.preload = none ∧ g.passes = []
    let u : Cur := { core := core, slot := slot }
    let post (kind : Nat) (i : Instr) (u : Cur) : Act := .post core kind slot s.cur.row s.cur.col i u
    (Controls s 0xA0 x p k → let f := x.imm % 16
      cap (aFmt f).cap → idle → g.clear = [] → draining s core slot = false →
      (f = 3 ∨ f = 6 ∨ f = 7 → hH h = 2 ∧ hSparse h = 0) → (f ≤ 3 → hChk h = true ∨ bit g.opuse.toNat 30 = false) →
      exec (.aMode x) s = .next (setReg s key { g with fmtNext := some f }))
    ∧ (Controls s 0xA2 x p k → cap 31 → idle →
        (slotLoaded g (1 - g.wActive) = true → exec (.aWswap x) s = .next (setReg s key { g with wActive := 1 - g.wActive }))
        ∧ (slotLoaded g (1 - g.wActive) = false → ∃ s', exec (.aWswap x) s = .next s' ∧ ∃ w ∈ (getReg s' key).faults, w.cause = 0x148))
    ∧ (Controls s 0xA6 x p k → draining s core slot = false →
        exec (.aBindOff x) s = .next (setReg s key { g with bypTo := none })
        ∧ ∀ f, (let o := getReg s (thKey core (x.imm % 4))
            o.placed = true → o.part = g.part → hArray o.hdr.toNat = true → o.fmt = some f →
            exec (.aBind x) s = .next (setReg s key { g with bypTo := some (x.imm % 4), bypFmt := (aFmt f).a, bypKl := kLogical o f })))
    ∧ (∀ f act i, g.fmt = some f → (act = false ∧ i = .aWpreI x ∧ cap 31 ∨ act = true ∧ i = .aWpreA x) → Controls s 0xA1 x p k →
        g.preload = none → (act = true → g.passes = []) → b / 65536 = 0 → preloadOk s c f (a / 65536) (a % 65536) (b / 256 % 256) (b % 256) = true →
        let sl := if act then g.wActive else 1 - g.wActive
        ∃ s', exec i s = .next s' ∧ (∃ q, q.tid = b % 256 ∧ q.n0 = a / 65536 ∧ q.w0 = a % 65536 ∧ q.active = act ∧ q.fmt = f ∧ q.bad = false
            ∧ getReg s' key = { g with preload := some q, wFmt := tput g.wFmt 0 sl 0 })
          ∧ Plans s s' ((List.range (kStored g f / 2)).map (fun j => (t + 2 + 2 * j, post 2 .weightFetch { u with ix := j, val := s.nextId }))
              ++ [(t + kStored g f + 9, .row .preloadComplete { u with val := s.nextId })]))
    ∧ (∀ f, g.fmt = some f → Controls s 0xA3 x p k → slotLoaded g g.wActive = true → aInput g = false → x.imm / 64 % 4 < 3 →
        let src := x.imm / 64 % 4
        let cw := c.c.data.toNat
        let m := b / 65536 + 1
        let ac := tidOf s core g.part (b / 256 % 256)
        let at_ := tidOf s core g.part (b % 256)
        cw / 65536 = 0 → acTidOk s core g.part (b / 256 % 256) = true → ac.fmt = (aFmt f).acFmt → acCols f (nCols g f) ≤ ac.dim 0 →
        cw + m ≤ ac.dim 1 →
        (src < 2 → at_.valid = true ∧ at_.space = src ∧ at_.fmt = (aFmt f).a ∧ a / 65536 + kLogical g f ≤ at_.dim 0 ∧ a % 65536 + m ≤ at_.dim 1) →
        (src = 1 → at_.base / 2 ^ 42 % 64 < nlcOf s g.scene g.gslot
          ∧ clusterOf (coreOf s g.scene g.gslot (at_.base / 2 ^ 42 % 64) g.voice) = clusterOf core) →
        (src = 2 → b % 256 = 0xFF ∧ a / 65536 = 0 ∧ ∃ o, Binds s core slot o ∧ (let o := getReg s (thKey core o)
          a % 65536 + m ≤ o.bypRows ∧ width o.bypFmt = width (aFmt f).a ∧ a % 65536 + m ≤ 131072 / (kLogical g f * width o.bypFmt))) →
        (isMx (aFmt f).a = true → a / 65536 % 32 = 0) →
        let d := rowPeriod g
        let last := 4 * hH h + 4 * hW h + 10
        let e0 := t + if src = 1 then 24 else 4
        let fetch (i : Nat) : Cur := { core := core, slot := slot, ix := s.nextId, val := i }
        ∃ s' q, exec (.aPass x) s = .next s' ∧ getReg s' key = { g with passes := g.passes ++ [q] } ∧ q.src = src
          ∧ q.id = s.nextId ∧ q.rows = m ∧ q.k0 = a / 65536 ∧ q.m0 = a % 65536 ∧ q.h0 = cw ∧ q.acTid = b / 256 % 256 ∧ q.aTid = b % 256
          ∧ q.ovw = x.imm.testBit 3 ∧ q.wsel = g.wActive
          ∧ Plans s s' ((if src = 0 then ((List.range m).filter (fun i => d = 2 ∨ i % 2 = 0)).map (fun i => (t + 1 + d * i, post 1 .aOperandFetch (fetch i)))
                else (List.range m).map fun i => ((if src = 1 then t + 1 else e0) + d * i, .row .aOperandFetch (fetch i)))
              ++ (List.range m).map (fun i => (e0 + d * i + last, post 3 .acAccumulate (fetch i)))
              ++ [(e0 + d * m + last + 1, .row .passComplete { u with ix := s.nextId })]))
    ∧ (Controls s 0xA5 x p k → g.passes = [] → draining s core slot = false →
        let m := a / 65536 + 1
        let ac := tidOf s core g.part (b % 256)
        b / 256 = 0 → acTidOk s core g.part (b % 256) = true → (∀ f, g.fmt = some f → ac.fmt = (aFmt f).acFmt ∧ acCols f (nCols g f) ≤ ac.dim 0) →
        a % 65536 + m ≤ ac.dim 1 →
        ∃ s' q, exec (.aClr x) s = .next s' ∧ getReg s' key = { g with clear := g.clear ++ [q] } ∧ q.rows = m ∧ q.h0 = a % 65536 ∧ q.tid = b % 256
          ∧ Plans s s' ((List.range ((m + 1) / 2)).map fun j => (t + 1 + 2 * j, post 3 .aclrZeroWrite { u with ix := j, val := s.nextId })))
    ∧ (regionPos g = some (p, k) → x.lnk = 0 → ∀ i o, (i = .aWpreA x ∧ o = 0xA1 ∨ i = .aPass x ∧ o = 0xA3 ∨ i = .aClr x ∧ o = 0xA5 ∨ i = .aBind x ∧ o = 0xA6 ∨ i = .aBindOff x ∧ o = 0xA6) →
        missing s core (needBits o x) = none → predOf x c (psrcOf o x c) = false → exec i s = .next s)

/-- R308, R322, R323: the word adds a drain of the rows that it names, and the drain starts if no other holds the processor. With EST the residency bits of the
output tiles that its rows touch are cleared at once; a completion object is told of the command, which adds 1 to its OUT. -/
def Sys2Proof.Safety.DrainWordRule : Prop :=
  ∀ (s : State) (x : Ent) (p k : Nat),
    let key := curKey s
    let g := getReg s key
    let core := s.cur.core
    let c := issue s x p k
    let a := c.a.data.toNat
    let b := c.b.data.toNat
    Controls s 0xA4 x p k → bit (capMask s core) 37 = true → draining s core s.cur.slot = false → g.epSel.isSome = true → progHas g.epProg 0x0F = false →
    let cw := c.c.data.toNat
    let obj := 2 ^ 28 * g.part + cw
    let tid := b / 256 % 256
    let v := tidOf s core g.part tid
    let nd := drainWidth (tidOf s core g.part (b % 256)) (b.testBit 16)
    let stores := progHas g.epProg 0x0E
    let touched (tile : Nat) : Prop := ∃ i j, i < nd ∧ a / 65536 ≤ j ∧ j < a / 65536 + (b / 2 ^ 17 + 1)
      ∧ tile = i / 2 ^ v.tsh 0 + v.tiles 0 * (j / 2 ^ v.tsh 1)
    (cw ≠ 0xFFFFFFF → cw / 2 ^ 28 = 0 ∧ (objAt s obj).isSome = true) →
    drainTidsOk s core g.part g.epProg (b % 256) (b / 256 % 256) (a % 65536) (a / 65536) (b / 2 ^ 17 + 1) (b.testBit 16) = true →
    ∃ s' d, exec (.aDrain x) s = .next s' ∧ d.id = s.nextId ∧ d.rows = b / 2 ^ 17 + 1 ∧ d.h0 = a % 65536 ∧ d.o0 = a / 65536 ∧ d.acTid = b % 256
      ∧ d.outTid = b / 256 % 256 ∧ d.slot = s.cur.slot ∧ d.stored = 0 ∧ d.ctr = cw ∧ SameBytes s s' ∧ s'.threads = s.threads ∧ s'.regions = s.regions
      ∧ (stores = false ∨ v.restrk = false → s'.resid = s.resid)
      ∧ (stores = true → v.restrk = true → 0 < nd → ∀ r, resGet s' r = true ↔ resGet s r = true ∧ ¬ ∃ tile, touched tile ∧ r = resKey core g.part tid tile)
      ∧ (cw = 0xFFFFFFF → s'.syncQ = s.syncQ)
      ∧ (cw ≠ 0xFFFFFFF → ∃ q, s'.syncQ = s.syncQ ++ [q] ∧ q.op = 56 ∧ q.arg = obj ∧ q.t = d.id ∧ q.home = cw / 2 ^ 26 % 4)
      ∧ ((getCore s core).drains.any (·.busy) = true → d.start = none ∧ (getCore s' core).drains = (getCore s core).drains ++ [d] ∧ s'.agenda = s.agenda)
      ∧ ((getCore s core).drains = [] → d.start = some g.count ∧ d.prog = g.epProg ∧ d.table = g.epTab ∧ (getCore s' core).drains = [d]
          ∧ s'.agenda = s.agenda ++ [⟨.region key, g.count, .post core 4 s.cur.slot 0 0 .epilogueBeat { core := core, slot := s.cur.slot, ix := 0, val := d.id }⟩,
              ⟨.region key, g.count + beatsOf s d * beatLen g.epProg, .row .drainStart { core := core, val := d.id }⟩])

/-! ## Steps of array operations -/

/-- cur's region reads and writes its tensors without a race tag or a fenced bank, in no chorus. -/
def Sys2Proof.Safety.Plain (s : State) (tid : Nat) (spans : List (Nat × Nat)) : Prop :=
  (tidOf s s.cur.core (getReg s (curKey s)).part tid).shrc = false ∧ spanFenced s s.cur.core spans = false
  ∧ regChorus s s.cur.core (getReg s (curKey s)) = false

/-- No stored block of the pool that the spans touch has an error. -/
def Sys2Proof.Safety.Sound (s : State) (spans : List (Nat × Nat)) : Prop := ∀ x ∈ spans, eccOf s (poolAddr s.cur.core x.1) x.2 = 0

/-- The scales of a tensor, where it has a scale tensor, have no race tag. -/
def Sys2Proof.Safety.ScalesPlain (s : State) (tid : Nat) : Prop :=
  let t := tidOf s s.cur.core (getReg s (curKey s)).part tid
  t.sclt = true → (tidOf s s.cur.core (getReg s (curKey s)).part t.scale).shrc = false

/-- R312, R316 to R318, R321: a weight fetch stores two rows of codes in the slot; the preload's end marks the slot loaded under the format of its issue, with
each column's scale code in an MX format; an operand fetch brings its rows, sends the requests of a peer's row, or reads the bypass, and a peer's row has arrived
with its last line; an accumulation rewrites exactly its AC row, each entry by R317; the end of a pass removes it; a clear writes zero
bytes to its rows and no others. -/
def Sys2Proof.Safety.ArrayStepsRule : Prop :=
  ∀ (s : State),
    let key := curKey s
    let g := getReg s key
    let core := s.cur.core
    let only (s' : State) (g' : Region) : Prop := getReg s' key = g' ∧ (∀ j, j ≠ key → getReg s' j = getReg s j) ∧ s'.threads = s.threads
    (∀ p, g.preload = some p → p.id = s.cur.val →
      let f := p.fmt
      let n := nCols g f
      let sl := if p.active then g.wActive else 1 - g.wActive
      let w := whoReg core g
      (p.bad = false → p.ix = 0xFF → ∀ l : Nat → List Nat,
        (∀ r, r = 2 * s.cur.ix ∨ r = 2 * s.cur.ix + 1 → Plain s p.tid [rowSpan s core g.part p.tid p.n0 (p.w0 + r) n]
          ∧ Sound s [rowSpan s core g.part p.tid p.n0 (p.w0 + r) n] ∧ rowCodes s w p.tid p.n0 (p.w0 + r) n .fetch = .ok (l r)) →
        ∃ s' g', exec .weightFetch s = .next s' ∧ SameBytes s s' ∧ only s' g' ∧ { g' with weights := g.weights } = g
          ∧ (∀ r i, r = 2 * s.cur.ix ∨ r = 2 * s.cur.ix + 1 → i < n → tget g'.weights 0 (sl * 65536 + r * 256 + i) = (l r).getD i 0)
          ∧ ∀ j, (∀ r i, r = 2 * s.cur.ix ∨ r = 2 * s.cur.ix + 1 → i < n → j ≠ sl * 65536 + r * 256 + i) → tget g'.weights 0 j = tget g.weights 0 j)
      ∧ (p.bad = false → ScalesPlain s p.tid → ∀ e : Nat → Nat, (isMx (aFmt f).w = true → ∀ i, i < n → scaleCode s w p.tid (p.n0 + i) 0 .fetch = .ok (e i)) →
        ∃ s' g', exec .preloadComplete s = .next s' ∧ SameBytes s s' ∧ only s' g' ∧ tget g'.wFmt 0 sl = f + 1 ∧ (g.fmt = some f → slotLoaded g' sl = true)
          ∧ { g' with preload := g.preload, wFmt := g.wFmt, wScale := g.wScale } = g ∧ g'.preload = none
          ∧ (isMx (aFmt f).w = false → g'.wScale = g.wScale)
          ∧ (isMx (aFmt f).w = true → ∀ i, i < n → tget g'.wScale 0 (sl * 256 + i) = e i)))
    ∧ (∀ p, g.passes.find? (·.id == s.cur.ix) = some p →
        let m := s.cur.val
        let n := nCols g p.wFmt
        let sz := (aFmt p.wFmt).ac
        let w := whoReg core g
        let at_ := tidOf s core g.part p.aTid
        let row := (lookup p.arrived m).getD []
        (p.src = 0 → ScalesPlain s p.aTid → (∀ i ∈ rowsOf g p m, Plain s p.aTid [rowSpan s core g.part p.aTid p.k0 (p.m0 + i) (kLogical g p.wFmt)]
            ∧ Sound s [rowSpan s core g.part p.aTid p.k0 (p.m0 + i) (kLogical g p.wFmt)] ∧ ∃ l, aRow s core s.cur.slot p i .fetch = .ok l) →
          ∃ s', exec .aOperandFetch s = .next s' ∧ SameBytes s s' ∧ s'.threads = s.threads
            ∧ ∀ i ∈ rowsOf g p m, ∃ l, aRow s core s.cur.slot p i .fetch = .ok l ∧ ∃ p' ∈ (getReg s' key).passes, p'.id = p.id ∧ lookup p'.arrived i = some l)
        ∧ (p.src = 1 → at_.shrc = false → ScalesPlain s p.aTid → ∀ ad lo pl, accessOf s w at_ (p.k0 + at_.dim 0 * (p.m0 + m)) 0 (rowSpan s core g.part p.aTid p.k0 (p.m0 + m) (kLogical g p.wFmt)).2
              (max 1 (width at_.fmt / 8)) false false .peer = .ok (ad, lo, pl) →
          ∃ s' l, exec .aOperandFetch s = .next s' ∧ SameBytes s s' ∧ s'.threads = s.threads ∧ s'.reqs = s.reqs ++ l
            ∧ (l.map fun (q : Req) => (q.dst, q.len)) = linePieces pl.addr (rowSpan s core g.part p.aTid p.k0 (p.m0 + m) (kLogical g p.wFmt)).2
            ∧ ∀ q ∈ l, q.asker = .aRow s.cur.slot p.id m ∧ q.core = core ∧ q.store = false ∧ q.done = false ∧ q.arrived = false ∧ q.place = ⟨.dev, pl.addr + q.dst⟩)
        ∧ (p.src = 2 → ∀ o, Binds s core s.cur.slot o → ∃ s', exec .aOperandFetch s = .next s' ∧ SameBytes s s' ∧ s'.threads = s.threads
            ∧ ∃ p' ∈ (getReg s' key).passes, p'.id = p.id ∧ lookup p'.arrived m = some (127 :: (List.range (kLogical g p.wFmt)).map fun c =>
                bypGet (getReg s (thKey core o)).byp (kLogical g p.wFmt) (width (getReg s (thKey core o)).bypFmt) (p.m0 + m) c))
        ∧ (∀ a, acSpan s w p.acTid (p.h0 + m) (n * sz) true = .ok a → Plain s p.acTid [(a, n * sz)] → Sound s [(a, n * sz)] → bit (capMask s core) 47 = true →
          let at_ : Place := ⟨.dev, poolAddr core a⟩
          let old := rdMem s at_ (n * sz)
          ∃ s', exec .acAccumulate s = .next s' ∧ SameBytesBut s s' at_ (n * sz) ∧ s'.threads = s.threads
            ∧ rdMem s' at_ (n * sz) = (List.range n).flatMap fun i => acEntry g p (row.drop 1) (row.headD 127) i (s.free + i) ((old.drop (i * sz)).take sz)))
    ∧ exec .passComplete s = .next (setReg s key { g with passes := g.passes.filter (·.id != s.cur.ix) })
    ∧ (∀ q, g.clear.find? (·.id == s.cur.val) = some q → bit (capMask s core) 47 = true →
        let t := tidOf s core g.part q.tid
        let len := (t.dim 0 * width t.fmt + 7) / 8
        let mine (r : Nat) : Prop := (r = 2 * s.cur.ix ∨ r = 2 * s.cur.ix + 1) ∧ r < q.rows
        ∀ at_ : Nat → Nat, (∀ r, mine r → acSpan s (whoReg core g) q.tid (q.h0 + r) len false = .ok (at_ r) ∧ Plain s q.tid [(at_ r, len)] ∧ Sound s [(at_ r, len)]) →
        ∃ s', exec .aclrZeroWrite s = .next s' ∧ s'.threads = s.threads
          ∧ (∀ r, mine r → rdMem s' ⟨.dev, poolAddr core (at_ r)⟩ len = List.replicate len 0)
          ∧ ∀ z : Place, (∀ r, mine r → z.store ≠ .dev ∨ z.addr < poolAddr core (at_ r) ∨ poolAddr core (at_ r) + len ≤ z.addr) → rdMem s' z 1 = rdMem s z 1)
    ∧ ∀ q sl ps m p, s.reqs.find? (·.id == s.cur.ix) = some q → q.asker = .aRow sl ps m → s.cur.flag = true → backDown s q.core q.place = false →
        (∀ x ∈ s.reqs, x.core = q.core → x.asker = q.asker → x.id ≠ q.id → x.arrived = true) →
        (getReg s (thKey q.core sl)).passes.find? (·.id == ps) = some p → isMx (aFmt p.wFmt).a = false →
        let h := getReg s (thKey q.core sl)
        let t := tidOf s q.core h.part p.aTid
        ∃ s', exec .peerRequest s = .next s' ∧ SameBytes s s' ∧ s'.threads = s.threads
          ∧ (∀ x ∈ s'.reqs, ¬ (x.core = q.core ∧ x.asker = q.asker))
          ∧ ∃ p' ∈ (getReg s' (thKey q.core sl)).passes, p'.id = ps ∧ lookup p'.arrived m = some (127 :: codesOf t.fmt
              ((s.reqs.filter fun x => x.core == q.core && x.asker == .aRow sl ps m).flatMap (·.data)) (p.k0 * width t.fmt % 8) (kLogical h p.wFmt))

/-- R313, R317, R139, R153: the products of a column are those of its stored rows in their order, each with the A value at its logical position; in a sparse
pass a stored weight of value zero makes no product (log 66). The entry of a floating-point pass is the FP32 sum that starts from the entry's value (from 0 with
OVW = 1); in an integer format each channel that the region uses gains the residue of the exact integer dot, whatever the other channels hold. An MXFP8 entry
gains the sum from 0 times the power of two of both scales, and is the canonical NaN where a scale is 0xFF; an MXINT8 entry's exponent word follows R317. -/
def Sys2Proof.Safety.AccumulatorEntriesRule : Prop :=
  ∀ (g : Region) (p : Pass) (row : List Nat) (n draw old : Nat),
    let start := if p.ovw then 0 else old
    let f := aFmt p.wFmt
    let sp := hSparse g.hdr.toNat
    let code (r : Nat) : Nat := tget g.weights 0 (p.wsel * 65536 + r * 256 + n)
    let ix (r : Nat) : Nat := tget g.wIndex 0 (p.wsel * 65536 + r * 256 + n) % 8
    let at_ (r : Nat) : Nat := if sp = 0 then r else if sp = 1 then 8 * (r / 4) + ix r else 8 * (r / 2) + ix r
    let ew := tget g.wScale 0 (p.wsel * 256 + n)
    (products g p row n = ((List.range (kStored g p.wFmt)).map fun r => (row.getD (at_ r) 0, code r)).filter fun x =>
        sp = 0 || !(x.2 % 2 ^ (if isFp f.w || f.w == 0x0C || f.w == 0x0D then width f.w - 1 else width f.w) == 0))
    ∧ (∀ ea, p.wFmt = 6 ∨ p.wFmt = 7 → old < 2 ^ 32 →
        let e := if p.wFmt = 6 then 9 else 10
        let sum := (products g p row n).foldl (fun acc x => roundF 6 .rne 0 (fvAdd (fpVal 6 acc) (fvMul (fpVal e x.1) (fpVal e x.2)))) 0
        leNat (acEntry g p row ea n draw (leBytes 4 old)) = if ea = 255 ∨ ew = 255 then 0x7FC00000
          else roundF 6 .rne 0 (fvAdd (fpVal 6 start) (fvScale (fpVal 6 sum) ((ea : Int) - 127 + ((ew : Int) - 127)))) % 2 ^ 32)
    ∧ (∀ ea, p.wFmt = 3 → ea < 256 → ew < 256 →
        let x : Nat := leNat ((acEntry g p row ea n draw (leBytes 16 old)).drop 8)
        let was := (if p.ovw then 0 else old / 2 ^ 64) % 2 ^ 18
        let sc : Int := (ea : Int) - 127 + ((ew : Int) - 127)
        if ea = 255 ∨ ew = 255 then x = was ||| 2 ^ 17
        else x = (if was.testBit 16 = false ∨ (BitVec.ofNat 16 was).toInt > sc then (BitVec.ofInt 16 sc).toNat + 2 ^ 16 + was / 2 ^ 17 * 2 ^ 17 else was))
    ∧ (p.wFmt = 4 ∨ p.wFmt = 5 ∨ p.wFmt = 8 → old < 2 ^ 32 →
      leNat (acEntry g p row 127 n draw (leBytes 4 old)) = (products g p row n).foldl
        (fun acc x => roundF 6 .rne 0 (fvAdd (fpVal 6 acc) (fvMul (fpVal f.a x.1) (fpVal f.w x.2)))) start % 2 ^ 32)
    ∧ (p.wFmt = 0 ∨ p.wFmt = 1 ∨ p.wFmt = 2 → old < 2 ^ 64 →
        let dot := (products g p row n).foldl (fun (z : Int) x => z + intCode f.a x.1 * intCode f.w x.2) 0
        let ch (i slot : Nat) : Nat := (rnsOf (decide (p.wFmt = 2)) slot).getD i 0
        let md (i : Nat) : Nat := (moduli (decide (p.wFmt = 2))).getD i 1
        ∀ i, i ∈ channelsOf g → ch i (leNat (acEntry g p row 127 n draw (leBytes 8 old))) = (((ch i start : Nat) : Int) + dot) % (md i : Nat))

/-- Weights, passes and accumulators of array mode: all of ArrayWordsRule, ArrayStepsRule, AccumulatorEntriesRule. -/
def Obligations.ArrayOperations : Prop :=
  ArrayWordsRule ∧ ArrayStepsRule ∧ AccumulatorEntriesRule

/-! ## Drains and the epilogue -/

/-- R323, R325, R328, R199: the processor of a core is released, and the waiting drain of the lowest slot starts; a beat reads its accumulator entries and the
bias elements of its lanes, and begins its program, with the second one where beats go in pairs; all the elements that its lanes store are written, and no other
byte; the end of a drain sends its completion and removes it. -/
def Sys2Proof.Safety.DrainStepsRule : Prop :=
  ∀ (s : State),
    let core := s.cur.core
    let c := getCore s core
    let i := s.cur.ix
    (∃ s', exec .drainStart s = .next s' ∧ SameBytes s s' ∧ s'.threads = s.threads ∧ s'.regions = s.regions
      ∧ ((∀ d ∈ c.drains, d.start.isSome) → (getCore s' core).drains = c.drains.map fun (d : Drain) => if d.id = s.cur.val then { d with busy := false } else d)
      ∧ ((∀ d ∈ c.drains, d.busy = true → d.id = s.cur.val) → ∀ d ∈ c.drains, d.start = none → d.busy = false → d.core = core →
          (∀ e ∈ c.drains, e.id = d.id → e = d) →
          (∀ e ∈ c.drains, e.start = none → e.id ≠ d.id → d.slot < e.slot) →
          ∃ e ∈ (getCore s' core).drains, e.id = d.id ∧ e.busy = true ∧ e.start = some (getReg s (thKey core d.slot)).count
            ∧ e.prog = (getReg s (thKey core d.slot)).epProg))
    ∧ ∀ d, c.drains.find? (·.id == s.cur.val) = some d → d.core = core →
        let g := getReg s (thKey core d.slot)
        let lb := laneBytes s d
        let ac := tidOf s core g.part d.acTid
        let w := whoReg core g
        let lanes := liveLanes s d i
        let pair := progPairs d.prog
        let base := if pair = true ∧ i % 2 = 1 then 16 else 0
        (∀ ad lo pl (bv : Nat → Nat → Nat), ac.shrc = false → (∀ t ∈ biasTids d.prog, (tidOf s core g.part t).shrc = false) →
          accessOf s w ac ((if d.mxe then 2 else 1) * beatCol s d i + ac.dim 0 * beatRow s d i) 0 (lanes.length * lb) (max 1 (width ac.fmt / 8)) false false .epilogue
            = .ok (ad, lo, pl) →
          (∀ l ∈ lanes, ∀ t ∈ biasTids d.prog, elemCode s w t (beatCol s d i + l) 0 .epilogue = .ok (bv l t)) →
          Sound s (beatSpans s d i) → spanFenced s core (beatSpans s d i) = false →
          ∃ s', exec .epilogueBeat s = .next s' ∧ SameBytes s s' ∧ s'.threads = s.threads
            ∧ (∀ l ∈ lanes, tget (getCore s' core).acRow [] (base + l) = rdMem s ⟨pl.store, pl.addr + l * lb⟩ lb
                ∧ ∀ t ∈ biasTids d.prog, tget (getCore s' core).biases 0 (256 * (base + l) + t) = bv l t)
            ∧ (base = 16 → ∀ l < 16, tget (getCore s' core).acRow [] l = tget c.acRow [] l)
            ∧ (pair = true → i % 2 = 0 → s'.todo = s.todo ∧ (getCore s' core).beat = c.beat)
            ∧ (pair = false ∨ i % 2 = 1 → s'.todo = .epiWord core :: s.todo ∧ (getCore s' core).beat = some (d.id, if pair then i - 1 else i)
                ∧ (getCore s' core).pcEpi = 0 ∧ (getCore s' core).lanes = [] ∧ (getCore s' core).beatOut = []))
        ∧ (∀ o (lo : Nat × Nat × Nat × Nat → Nat) (pl : Nat × Nat × Nat × Nat → Place), outOf s core d.id i = some o →
            regChorus s core g = false → spanFenced s core (storeSpans s core d.slot o) = false →
            let t (z : Nat × Nat × Nat × Nat) : TidV := tidOf s core g.part z.1
            let n (z : Nat × Nat × Nat × Nat) : Nat := max 1 (width (t z).fmt / 8)
            (∀ z ∈ o.stores, (t z).shrc = false ∧ 0 < width (t z).fmt ∧ (∃ a, elemPlace s w z.1 z.2.1 z.2.2.1 true .epilogue = .ok (a, lo z, pl z))
              ∧ (pl z).store = .dev ∧ eccOf s (pl z).addr (n z) = 0 ∧ lo z + width (t z).fmt ≤ 8 * n z ∧ (8 ≤ width (t z).fmt → width (t z).fmt = 8 * n z)) →
            (o.stores.Pairwise fun y z => 8 * (pl z).addr + lo z + width (t z).fmt ≤ 8 * (pl y).addr + lo y
              ∨ 8 * (pl y).addr + lo y + width (t y).fmt ≤ 8 * (pl z).addr + lo z) →
            ∃ s', exec .epilogueStore s = .next s' ∧ s'.threads = s.threads
              ∧ (∀ z ∈ o.stores, leNat (rdMem s' (pl z) (n z)) / 2 ^ lo z % 2 ^ width (t z).fmt = z.2.2.2 % 2 ^ width (t z).fmt)
              ∧ (∀ q : Place, (∀ z ∈ o.stores, q.store ≠ .dev ∨ q.addr < (pl z).addr ∨ (pl z).addr + n z ≤ q.addr) → rdMem s' q 1 = rdMem s q 1)
              ∧ (outOf s' core d.id i).isNone = true
              ∧ (beatsOf s d ≤ d.stored + (if progPairs d.prog then 2 else 1) →
                  s'.todo = .row .drainComplete { core := core, val := d.id } :: s.todo))
        ∧ (g.faults = [] → ∃ s', exec .drainComplete s = .next s' ∧ SameBytes s s' ∧ s'.threads = s.threads
            ∧ (getCore s' core).drains = c.drains.filter (·.id != d.id)
            ∧ (d.ctr ≠ 0xFFFFFFF → ∃ q, s'.syncQ = s.syncQ ++ [q] ∧ q.op = 60 ∧ q.arg = 2 ^ 28 * g.part + d.ctr ∧ q.val = d.flags)
            ∧ (d.ctr = 0xFFFFFFF → s'.syncQ = s.syncQ))

/-- Drains of the array: all of DrainWordRule, DrainStepsRule. -/
def Obligations.Drains : Prop :=
  DrainWordRule ∧ DrainStepsRule

/-- The epilogue processor of cur's core runs beat b. -/
def Sys2Proof.Safety.OnBeat (s : State) (b : Beat) : Prop :=
  (getCore s s.cur.core).beat = some (b.d.id, b.i) ∧ (getCore s s.cur.core).drains.find? (·.id == b.d.id) = some b.d ∧ b.core = s.cur.core
  ∧ b.pair = progPairs b.d.prog

/-- The step goes on to the next word, and changes the core's state f only. -/
def Sys2Proof.Safety.NextWord (s s' : State) (f : Core → Core) : Prop :=
  { s' with cores := s.cores, todo := s.todo } = s ∧ SameBytes s s' ∧ s'.todo = .epiWord s.cur.core :: s.todo
  ∧ (∀ k, k ≠ s.cur.core → getCore s' k = getCore s k)
  ∧ let c := f (getCore s s.cur.core)
    { getCore s' s.cur.core with lanes := c.lanes } = { c with pcEpi := c.pcEpi + 1 }

/-- The word writes register d of every lane of the beat, and no other register. -/
def Sys2Proof.Safety.WritesLanes (s : State) (b : Beat) (d : Nat) (f : Nat → Nat) (o : Out) : Prop :=
  ∃ s', o = .next s' ∧ NextWord s s' id
    ∧ ∀ l y, y < 16 → getY s' b.core l y = if y = d ∧ l ∈ beatLanes s b then f l % 2 ^ 64 else getY s b.core l y

/-- R327: the words that compute a register of each active lane, over I(y) and F(y). -/
def Sys2Proof.Safety.EpilogueWordsRule : Prop :=
  ∀ (s : State) (b : Beat) (d a a2 a3 fmt tid : Nat) (rm : RMode), OnBeat s b → d < 16 → a < 16 → a2 < 16 → a3 < 16 →
    let y (l r : Nat) : Nat := getY s b.core l r
    let I (l r : Nat) : Int := (BitVec.ofNat 32 (y l r)).toInt
    let F (l r : Nat) : Nat := y l r % 2 ^ 32
    let int (z : Int) : Nat := (BitVec.ofInt 64 (BitVec.ofInt 32 z).toInt).toNat
    let part := (getReg s (thKey b.core b.d.slot)).part
    let bias (l : Nat) : Nat := tget (getCore s b.core).biases 0 (256 * l + tid)
    let X (l : Nat) : Nat := (tget (getCore s b.core).exps 0 l).toNat
    WritesLanes s b d (fun l => y l a) (exec (.pEmov d a) s)
    ∧ WritesLanes s b d (fun l => if (y l a3).testBit 0 then y l a else y l a2) (exec (.pEsel d a a2 a3) s)
    ∧ WritesLanes s b d (fun l => int (I l a + I l a2)) (exec (.pEadd d a a2 false) s)
    ∧ WritesLanes s b d (fun l => int (I l a * I l a2)) (exec (.pEmul d a a2 false) s)
    ∧ WritesLanes s b d (fun l => int (max (I l a) (I l a2))) (exec (.pEmax d a a2 false) s)
    ∧ WritesLanes s b d (fun l => int (min (I l a) (I l a2))) (exec (.pEmin d a a2 false) s)
    ∧ WritesLanes s b d (fun l => fAdd 6 (F l a) (F l a2)) (exec (.pEadd d a a2 true) s)
    ∧ WritesLanes s b d (fun l => fMul 6 (F l a) (F l a2)) (exec (.pEmul d a a2 true) s)
    ∧ WritesLanes s b d (fun l => fMinMax true (F l a) (F l a2)) (exec (.pEmax d a a2 true) s)
    ∧ WritesLanes s b d (fun l => fMinMax false (F l a) (F l a2)) (exec (.pEmin d a a2 true) s)
    ∧ WritesLanes s b d (fun l => int (max (I l a) 0)) (exec (.pRelu d a false) s)
    ∧ WritesLanes s b d (fun l => if isNan32 (F l a) then 0x7FC00000 else if fvLt (.num false 0 0) (f32 (F l a)) then F l a else 0)
        (exec (.pRelu d a true) s)
    ∧ (∀ lo hi, intRange fmt = some (lo, hi) → WritesLanes s b d (fun l => int (max lo (min hi (I l a)))) (exec (.pClmp d a fmt) s))
    ∧ WritesLanes s b d (fun l => b.d.table.getD (y l a % 256) 0) (exec (.pElut d a) s)
    ∧ ((tidOf s b.core part tid).fmt = 0x04 → WritesLanes s b d (fun l => int (I l a + (BitVec.ofNat 32 (bias l)).toInt)) (exec (.pBias d a tid) s))
    ∧ ((tidOf s b.core part tid).fmt = 0x06 → WritesLanes s b d (fun l => fAdd 6 (F l a) (bias l)) (exec (.pBias d a tid) s))
    ∧ (let v (l : Nat) : Nat := convert 6 fmt rm 0 (F l a)
       WritesLanes s b d (fun l => if fmt = 0 ∨ fmt = 2 ∨ fmt = 3 ∨ fmt = 4 then (BitVec.ofInt 64 (sx (codeWidth fmt) (v l))).toNat else v l) (exec (.pCvf d a fmt rm) s))
    ∧ (b.d.mxe = false → (∀ l, X l = 0) → WritesLanes s b d (fun l => roundF fmt .rne 0 (fvInt (I l a))) (exec (.pSclx d a fmt) s))
    ∧ (b.d.mxe = true → WritesLanes s b d (fun l => if (X l).testBit 17 then canonNan fmt else if (X l).testBit 16 then
          roundF fmt .rne 0 (fvScale (fvInt (I l a)) (sx 16 (X l) - 12)) else 0) (exec (.pSclx d a fmt) s))

/-- R327, R328, R139 to R142: the read of the accumulator, reverse conversion, quantisation, the sum over the lanes of a beat, and the words that collect
stores, set a line or end the beat. -/
def Sys2Proof.Safety.EpilogueEffectsRule : Prop :=
  ∀ (s : State) (b : Beat) (d a fmt ln : Nat) (rm : RMode) (pol : OvfPolicy), OnBeat s b → d < 16 → a < 16 →
    let c := getCore s b.core
    let y (l r : Nat) : Nat := getY s b.core l r
    let g := getReg s (thKey b.core b.d.slot)
    let lanes := beatLanes s b
    let I (l : Nat) : Int := (BitVec.ofNat 32 (y l a)).toInt
    let ac (l : Nat) : List Byte := tget c.acRow [] l
    (b.d.mxe = false → WritesLanes s b d (fun l => leNat ((ac l).take 8)) (exec (.pErd d) s))
    ∧ (b.d.mxe = true → ∃ s', exec (.pErd d) s = .next s' ∧ SameBytes s s' ∧ s'.threads = s.threads
        ∧ ∀ l ∈ lanes, getY s' b.core l d = leNat ((ac l).take 8) % 2 ^ 64 ∧ (tget (getCore s' b.core).exps 0 l).toNat = leNat ((ac l).drop 8) % 2 ^ 64)
    ∧ (∀ v : Nat → Int, (∀ l ∈ lanes, let r := rrev (rns4Of s b) (hChk g.hdr.toNat) g.fenced (y l a); r.value = some (v l) ∧ r.event = none) →
        WritesLanes s b d (fun l => (BitVec.ofInt 64 (v l)).toNat) (exec (.pRrev d a pol) s))
    ∧ (∀ x, (if isMx fmt then x = (mxBlock fmt rm (lanes.map fun l => f32 (y l a % 2 ^ 32)) []).2.2
          else x = (lanes.any fun l => if isFp fmt then fpClamps fmt rm (f32 (y l a % 2 ^ 32)) else intClamps fmt rm (f32 (y l a % 2 ^ 32)), false)) →
        ∃ s', exec (.pQnt d a fmt rm) s = .next s' ∧ SameBytes s s' ∧ s'.threads = s.threads
        ∧ (isMx fmt = false → ∀ l ∈ lanes, getY s' b.core l d
            = (if fmt = 0 ∨ fmt = 2 ∨ fmt = 3 ∨ fmt = 4 then (BitVec.ofInt 64 (sx (codeWidth fmt) (convTo fmt rm 0 (f32 (y l a % 2 ^ 32))))).toNat
               else convTo fmt rm 0 (f32 (y l a % 2 ^ 32))) % 2 ^ 64)
        ∧ ∀ e ∈ (getCore s' b.core).drains, e.id = b.d.id → ∃ e0 ∈ c.drains, e.flags = e0.flags ||| ((if x.1 then 2 ^ 51 else 0) + (if x.2 then 2 ^ 50 else 0)))
    ∧ (b.pair = false → WritesLanes s b d (fun _ => lanes.foldl (fun z l => (BitVec.ofInt 64 (BitVec.ofInt 32 ((BitVec.ofNat 32 z).toInt + I l)).toInt).toNat) 0)
        (exec (.pEsum d a false) s)
      ∧ WritesLanes s b d (fun _ => lanes.foldl (fun z l => fAdd 6 z (y l a % 2 ^ 32)) 0) (exec (.pEsum d a true) s))
    ∧ (let row := b.d.o0 + (beatRow s b.d b.i - b.d.h0)
       isMx fmt = false → ∃ s', exec (.pEst a fmt) s = .next s'
        ∧ NextWord s s' (fun c => { c with beatOut := c.beatOut ++ lanes.map fun l => (b.d.outTid, laneCol s b l, row, y l a % 2 ^ width fmt) }))
    ∧ (let row := beatRow s b.d b.i - b.d.h0
       ∃ s', exec (.pEbyp a) s = .next s'
        ∧ NextWord s s' (fun c => { c with beatByp := c.beatByp ++ lanes.map fun l => (row, laneCol s b l, y l a % 2 ^ width g.bypFmt) }))
    ∧ (b.pair = false → (∀ l ∈ lanes, l < 16) → ∃ s', exec (.pEflg a ln) s = .next s' ∧ SameBytes s s' ∧ s'.threads = s.threads
        ∧ s'.agenda = s.agenda ++ (if 16 ≤ ln ∧ (∃ l ∈ lanes, (y l a).testBit 0 = true) then
            [⟨.region (thKey b.core b.d.slot), b.d.start.getD 0 + (b.i + 1) * beatLen b.d.prog, .setFlag b.core b.d.slot ln⟩] else []))
    ∧ (c.beatEvents = [] → ∃ s', exec .pEend s = .next s' ∧ { s' with cores := s.cores } = s ∧ (getCore s' b.core).beat = none
        ∧ (getCore s' b.core).outs = c.outs ++ [⟨b.d.id, if b.pair then b.i + 1 else b.i, c.beatOut, c.beatByp⟩])

/-- Epilogue instructions: all of EpilogueWordsRule, EpilogueEffectsRule. -/
def Obligations.Epilogue : Prop :=
  EpilogueWordsRule ∧ EpilogueEffectsRule

/-! ## The copy engine -/

/-- The copy engine of cur's core, whose block is r, considers the entry x of a kind at its present position. -/
def Sys2Proof.Safety.Considers (s : State) (r : Run) (kind : Nat) (x : CopyEnt) : Prop :=
  runOf s s.cur.core 4 = some r
  ∧ (let c := getCopier s s.cur.core
     let w (i : Nat) : Nat := ((c.sched.getD c.pos []).getD i 0).toNat
     copyEntOf (w 0) (w 1) (w 2) (w 3) = x ∧ w 0 / 2 ^ 60 = kind ∧ (∀ e ∈ c.journal, e.no ≠ s.nextId))

/-- The constructor of a kind. -/
def Sys2Proof.Safety.copyOf (kind : Nat) (x : CopyEnt) : Instr :=
  match kind with
  | 0 => .cCopy x
  | 1 => .cGather x
  | 2 => .cFill x
  | 3 => .cCvtcopy x
  | 4 => .cRedcopy x
  | _ => .cDigest x

/-- A unit in DRAM that a command makes eligible for the caravan at its issue passes its checks (R124, R120), holds the grant of its race tag, and meets no soft
error in the walk of its page. -/
def Sys2Proof.Safety.Eligible (s : State) (c : CC) (u : Nat) : Prop :=
  let x := xferOf s c u
  xferFault s x = none ∧ raceNeeds s c x u = none
  ∧ ∃ a lo p, x.es.head?.map (xferPlace s x) = some (.ok (a, lo, p)) ∧ ridOk s c.x.rid c.r.part (channelOf (p.addr - a % 256)) = true
    ∧ WalksClean s c.core c.r.part 3 a

/-- The units of a command that lie in DRAM. -/
def Sys2Proof.Safety.inCaravan (s : State) (c : CC) (us : List Nat) : List Nat := us.filter fun u => (itemTid s c u).2.2.space == 3

/-- Each of them is eligible, whatever pages of the command the TLBs have taken in before. -/
def Sys2Proof.Safety.AllEligible (s : State) (c : CC) (us : List Nat) : Prop :=
  (∀ u ∈ us, outside u = false)
  ∧ ∀ l : List Nat, (∀ a ∈ l, ∃ u ∈ inCaravan s c us, ∃ e ∈ (xferOf s c u).es, a = elemAddr (xferOf s c u).t (unlin (xferOf s c u).t e)) →
    ∀ u ∈ inCaravan s c us, Eligible (l.foldl (fun s a => tlbFill s c.core c.r.part a) s) c u

/-- The command at cur's position fails at its issue with a cause: its object is told, or its block, in no chorus, is killed. -/
def Sys2Proof.Safety.FailsAtIssue (s : State) (r : Run) (kind : Nat) (x : CopyEnt) (cause : Nat) : Prop :=
  let core := s.cur.core
  let c := getCopier s core
  (x.ctr ≠ 0xFFFFFFF → ∃ s' q0 q1, exec (copyOf kind x) s = .next s' ∧ SameBytes s s' ∧ s'.threads = s.threads
    ∧ (getCopier s' core).pos = c.pos + 1 ∧ (getCopier s' core).journal = c.journal
    ∧ s'.syncQ = s.syncQ ++ [q0, q1] ∧ q1.op = 59 ∧ q1.val = cause ∧ q1.arg = 2 ^ 28 * r.part + x.ctr)
  ∧ (x.ctr = 0xFFFFFFF → r.chorus = false → ∃ s', exec (copyOf kind x) s = .next s' ∧ runOf s' core 4 = none ∧ ∃ y ∈ s'.recs, y.2.cause = cause)

/-- R152, R179, R193 to R196, R200, R209: an entry of any kind that passes its checks issues: a journal entry with its transfers, a GATHER's with the reads of
its index list, the residency bits of its destination tiles clear, its bytes pending at its phaser, and a notice to its object; its units in DRAM become
eligible for the caravan in ascending address order. One that fails a check tells
its object the cause, or its block is killed. What a command that fails at issue sends is the choice of log 19; that these checks come before the step of its generator is that of log 78. -/
def Sys2Proof.Safety.CopyIssueRule : Prop :=
  ∀ (s : State) (r : Run) (kind : Nat) (x : CopyEnt), kind ≤ 5 → Considers s r kind x →
    let core := s.cur.core
    let c := getCopier s core
    let dt := tidOf s core r.part x.dtid
    let ph := if kind = 5 then x.ph else if x.ph = 0xFFF then dt.phaser else x.ph
    let phs := getPh s (4096 * r.scene + ph)
    let sr := kind = 3 ∧ x.cvtRm = 2 ∧ ¬ (x.cvtScale = 0 ∧ dt.fmt = 0x0F)
    let dests := if x.rows ≠ 0 then (castLcs x).map fun l => coreOf s r.scene r.gslot l r.voice else [core]
    let ok : Prop := copyOk s core r.part kind x = true
    let drawsOk : Prop := sr → bit (capMask s core) 38 = true
    let castOk : Prop := x.rows ≠ 0 → ∀ l ∈ castLcs x, l < nlcOf s r.scene r.gslot
    (¬ ok → FailsAtIssue s r kind x 0x142)
    ∧ (ok → ¬ drawsOk → FailsAtIssue s r kind x 0x13F)
    ∧ (ok → drawsOk → ¬ castOk → FailsAtIssue s r kind x 0x06C)
    ∧ (ok → drawsOk → castOk →
      ∀ e : JEntry, e.no = s.nextId → e.words = c.sched.getD c.pos [] → e.dests = dests → e.idx = [] → e.gen = c.gen → e.granted = [] →
        let cc := ccOf s core r e
        let n := if kind = 1 then (cc.st.dim 0 * cc.it.dim 0 * width dt.fmt + 7) / 8
          else (((if kind = 4 then extSize (tileExt cc.dt x.w2) else ccCount cc) * width (if kind = 5 then cc.st.fmt else dt.fmt) + 7) / 8)
            * (if kind = 5 then 1 else dests.length)
        e.waiting = (if kind = 1 then ccIndex cc else ccReads cc) → e.left = (if kind = 1 then [] else ccItems s cc) →
        (ph ≠ 0xFFF → phs.live = false → FailsAtIssue s r kind x 0x0E4)
        ∧ (ph ≠ 0xFFF → phs.live = true → 2 ^ 36 ≤ phs.pending + n → FailsAtIssue s r kind x 0x0E7)
        ∧ ((ph ≠ 0xFFF → phs.live = true ∧ phs.pending + n < 2 ^ 36) →
          AllEligible s cc (e.waiting ++ e.left) → (∀ a ∈ s.dram, a.core = core → a.entry ≠ some s.nextId) →
          ∃ s' j, exec (copyOf kind x) s = .next s' ∧ SameBytes s s' ∧ s'.threads = s.threads
            ∧ getCopier s' core = { c with journal := c.journal ++ [j], pos := c.pos + 1, gen := if sr then genStep c.gen else c.gen }
            ∧ j.no = s.nextId ∧ j.words = e.words ∧ j.dests = dests ∧ j.left = e.left ∧ j.waiting = e.waiting ∧ j.bytes = n
            ∧ j.performed = false ∧ j.failAfter = none
            ∧ (∃ l, s'.dram = s.dram ++ l ∧ (∀ u, u ∈ l.map (·.unit) ↔ u ∈ inCaravan s cc (e.waiting ++ e.left))
                ∧ l.Pairwise (fun a b => itemAddr a.unit ≤ itemAddr b.unit) ∧ ∀ a ∈ l, a.entry = some j.no ∧ a.core = core ∧ a.served = false ∧ a.rid = x.rid)
            ∧ (∀ k, k ∈ s'.resid ↔ k ∈ s.resid ∧ ∀ d ∈ dests, (tidOf s d r.part x.dtid).restrk = true → ∀ t ∈ destTiles cc, k ≠ resKey d r.part x.dtid t)
            ∧ (ph ≠ 0xFFF → (getPh s' (4096 * r.scene + ph)).pending = phs.pending + n)
            ∧ (x.ctr ≠ 0xFFFFFFF → ∃ q, s'.syncQ = s.syncQ ++ [q] ∧ q.op = 56 ∧ q.arg = 2 ^ 28 * r.part + x.ctr) ∧ (x.ctr = 0xFFFFFFF → s'.syncQ = s.syncQ)))

/-- R120, R144, R193, R196 to R199, R203: a transfer that reads brings each of its elements, one that writes writes each of its elements, or the computed scale
codes of its blocks, and nothing else, when it is performed; a slot of the caravan serves the oldest access of the reservation that owns it, or the oldest best-effort access that fits its budget; completion
sets residency, subtracts the bytes and tells the object; the acknowledgement frees the journal entry. The latency after the slot is that of log 37. -/
def Sys2Proof.Safety.CopyStepsRule : Prop :=
  ∀ (s : State) (r : Run) (e : JEntry),
    let core := s.cur.core
    (runOf s core 4 = some r → getEntry s core s.cur.ix = some e →
      let cc := ccOf s core r e
      let item := s.cur.val
      let t := (itemTid s cc item).2.2
      let dc := e.dests.getD (item / 2 ^ 50 % 64) core
      let w := width t.fmt
      let n := max 1 (w / 8)
      let ks := itemKs s cc item
      let sound (p : Place) : Prop := p.store = .dev ∧ bankFenced s p n = false ∧ eccOf s (p.addr / 64 * 64) 64 = 0
      let local_ : Prop := lookup e.ready item = none ∧ ((∃ u ∈ e.waiting ++ e.left, u ≠ item) ∨ e.failAfter = none ∧ (cc.kind = 1 → e.idx ≠ []))
      let code (k : Nat) : Nat := if isScale item then (blockOf cc k).2.1 else dstCode cc k
      (∀ (pl : Nat → Place) (lo el : Nat → Nat), s.cur.flag = false → item ∈ e.left → isRead item = false → item ≠ commitItem → outside item = false → local_ →
        t.shrc = false → 0 < w → t.space ≤ 2 → ks ≠ [] →
        (∀ k ∈ ks, itemElem s cc item k = some (el k) ∧ (isScale item = false → el k = ccDst cc k)
          ∧ (∃ a, accessOf s (ccWho cc dc) t (el k) 0 n n false true .copy = .ok (a, lo k, pl k)) ∧ sound (pl k)
          ∧ lo k + w ≤ 8 * n ∧ (8 ≤ w → w = 8 * n)
          ∧ ∀ j ∈ ks, j ≠ k → 8 * (pl k).addr + lo k + w ≤ 8 * (pl j).addr + lo j ∨ 8 * (pl j).addr + lo j + w ≤ 8 * (pl k).addr + lo k) →
        ∃ s', exec .lineTransfer s = .next s' ∧ s'.threads = s.threads
          ∧ (∀ k ∈ ks, leNat (rdMem s' (pl k) n) / 2 ^ lo k % 2 ^ w = code k % 2 ^ w)
          ∧ ∀ z : Place, (∀ k ∈ ks, z.store ≠ .dev ∨ z.addr < (pl k).addr ∨ (pl k).addr + n ≤ z.addr) → rdMem s' z 1 = rdMem s z 1)
      ∧ (let x := xferOf s cc item
         let m := max 1 (width x.t.fmt / 8)
         ∀ (ad lo : Nat → Nat) (pl : Nat → Place), s.cur.flag = false → item ∈ e.waiting → isRead item = true → outside item = false → local_ →
          x.t.shrc = false → x.t.space ≤ 2 → x.es ≠ [] →
          (∀ el ∈ x.es, xferPlace s x el = .ok (ad el, lo el, pl el) ∧ (pl el).store = .dev ∧ bankFenced s (pl el) m = false
            ∧ eccOf s ((pl el).addr / 64 * 64) 64 = 0
            ∧ ∀ f ∈ x.es, ∀ i j, i < m → j < m → ad el + i = ad f + j → (pl el).addr + i = (pl f).addr + j) →
          ∃ s' e', exec .lineTransfer s = .next s' ∧ SameBytes s s' ∧ s'.threads = s.threads ∧ getEntry s' core e.no = some e'
            ∧ e'.waiting = e.waiting.filter (· != item) ∧ e'.left = e.left
            ∧ ∀ el ∈ x.es, rdBytes e'.stage (item / 2 ^ 60 * 2 ^ 60 + ad el) m = rdMem s (pl el) m)
      ∧ (e.performed = false → e.discarded = false → cc.kind ≠ 4 → cc.kind ≠ 5 → ∃ s', exec .copyCompletion s = .next s' ∧ SameBytes s s' ∧ s'.threads = s.threads
          ∧ (∀ d ∈ e.dests, (tidOf s d r.part e.dtid).restrk = true → ∀ i ∈ e.tiles,
              tileBusy s d r.part e.dtid i e.no = false → (resKey d r.part e.dtid i, s.cycle) ∉ s.residAt → resKey d r.part e.dtid i ∈ s'.resid)
          ∧ (e.phaser ≠ 0xFFF → (getPh s (4096 * r.scene + e.phaser)).live = true →
              (getPh s' (4096 * r.scene + e.phaser)).pending = (getPh s (4096 * r.scene + e.phaser)).pending - e.bytes)
          ∧ (e.ctr ≠ 0xFFFFFFF → ∃ q, s'.syncQ = s.syncQ ++ [q] ∧ q.op = 57 ∧ q.arg = 2 ^ 28 * r.part + e.ctr ∧ q.val = if cc.kind = 3 ∧ cc.x.cvtScale = 2 then blockFlags cc else 0)
          ∧ (e.ctr = 0xFFFFFFF → (getCopier s' core).journal = (getCopier s core).journal.filter (·.no != e.no)))
      ∧ (e.performed = false → e.discarded = false → cc.kind = 5 → ∃ s', exec .copyCompletion s = .next s' ∧ SameBytes s s' ∧ s'.threads = s.threads
          ∧ ∃ q, s'.syncQ = s.syncQ ++ [q] ∧ q.op = 58 ∧ q.arg = 2 ^ 28 * r.part + e.ctr ∧ q.val = digestOf cc)
      ∧ ∃ s', exec .journalRelease s = .next s' ∧ (getCopier s' core).journal = (getCopier s core).journal.filter (·.no != s.cur.ix)
          ∧ SameBytes s s' ∧ s'.threads = s.threads)
    ∧ (s.cur.flag = false →
        let j := s.tb.ticks % 256
        let m := (tget s.slots 0 (256 * s.cur.ix + j)).toNat
        let chan : End := .die (s.cur.ix / 4)
        let here (a : Access) : Bool :=
          channelOf a.pa == s.cur.ix && !a.served && !pathDown s (.core a.core) chan && !pathDown s chan (.core a.core)
        let serves (a : Access) (s' : State) : Prop := s'.dram = s.dram.map (fun (x : Access) => if x.id = a.id then { x with served := true } else x)
          ∧ tget s'.served 0 a.cluster = tget s.served 0 a.cluster + 256 ∧ SameBytes s s' ∧ s'.threads = s.threads
          ∧ s'.agenda = s.agenda ++ [⟨.tick, s.tb.ticks + Config.lCtl + lNoc a.core a.pa, .row .caravanSlot { ix := s.cur.ix, val := a.id, flag := true }⟩]
        (j % 32 = 31 → exec .caravanSlot s = .next s)
        ∧ (j % 32 ≠ 31 → m.testBit 15 = true → m % 256 ≠ 0 → ∀ a, s.dram.find? (fun a => here a && a.rid == m % 256) = some a →
            ∃ s', exec .caravanSlot s = .next s' ∧ serves a s')
        ∧ (j % 32 ≠ 31 → (m.testBit 15 = false ∨ m % 256 = 0 ∨ s.dram.find? (fun a => here a && a.rid == m % 256) = none) →
            ∀ a, s.dram.find? (fun a => here a && (a.rid == 0 && fits s a)) = some a → ∃ s', exec .caravanSlot s = .next s' ∧ serves a s')
        ∧ (s.dram = [] → exec .caravanSlot s = .next s))

/-- Copy commands: issue, transfer, completion: all of CopyIssueRule, CopyStepsRule. -/
def Obligations.CopyCommands : Prop :=
  CopyIssueRule ∧ CopyStepsRule

/-! ## Jobs and scenes -/

/-- Job j completes: it is gone, and its completion object, where one is held, counts one more with a zero status, or, with a cause, keeps its
count and holds the cause and the record index. -/
def Sys2Proof.Safety.Signals (s s' : State) (j cause : Nat) : Prop :=
  let b := getJob s j
  let k := 2 ^ 28 * b.fn + jCpl b / 16
  lookup s'.jobs j = none
  ∧ (jCpl b % 16 = 0 → jCpl b < 2 ^ 32 → (objAt s k).isSome = true →
      (cause = 0 → (getObj s' k).count = (getObj s k).count + 1 ∧ (getObj s' k).status = 0)
      ∧ (cause ≠ 0 → (getObj s' k).count = (getObj s k).count ∧ (getObj s' k).status = w64 (cause * 2 ^ 55 + b.index)))

/-- The stream of cur holds a pending job b of a kind, number j, whose function admits jobs. -/
def Sys2Proof.Safety.Admits (s : State) (kind : Nat) (b : Job) (j : Nat) : Prop :=
  (getStream s s.cur.ix).pending = some j ∧ getJob s j = b ∧ jKind b = kind ∧ stopped s b.fn = false

/-- The stream's next record may be read. -/
def Sys2Proof.Safety.Frees (s s' : State) : Prop := (getStream s' s.cur.ix).pending = none

/-- The job is rejected: 0x0C7 in its status and in the event log, and no scene, cue or launch changes. -/
def Sys2Proof.Safety.Rejected (s s' : State) (j : Nat) : Prop :=
  Frees s s' ∧ Signals s s' j 0x0C7 ∧ s'.scenes = s.scenes ∧ s'.cues = s.cues ∧ s'.launches = s.launches ∧ ∃ r ∈ s'.evlog, r.cause = 0x0C7

/-- The cues of scene k that satisfy p begin with origin o: each waits for its start and its deadline. -/
def Sys2Proof.Safety.Begins (s s' : State) (k o : Nat) (p : Cue → Prop) : Prop :=
  ∀ x ∈ s.cues, x.2.scene = k → p x.2 → ∃ q', (x.1, q') ∈ s'.cues ∧ q'.st = .idle ∧ q'.word0 = x.2.word0
    ∧ q'.startTick = o + qStart x.2 + cueSkew s x.2 ∧ q'.deadTick = o + qDead x.2 + cueSkew s x.2

/-- R61, R62: completion adds one to the count and clears the status; with a cause it keeps the count and stores cause and index. -/
def Sys2Proof.Safety.JobCompletionRule : Prop := ∀ (s : State) (j cause : Nat), Signals s (jobEnd s j cause) j cause

/-- R56: a start job of a loaded scene that may start makes it run with origin L, the admission tick, its cues at L + s and L + d. A scene that is not loaded is not
admitted. -/
def Obligations.SceneStarts : Prop :=
  ∀ (s : State) (b : Job) (j : Nat), Admits s 0 b j →
    (sceneById s b.fn (jScene b) = none → ∃ s', exec .startScene s = .next s' ∧ s'.scenes = s.scenes)
    ∧ ∀ k, sceneById s b.fn (jScene b) = some k → (getScene s k).running = false →
    launching s k = false → (sceneRtc (getScene s k) = true → s.tb.locked = true) →
    ∃ s', exec .startScene s = .next s' ∧ Frees s s' ∧ SameBytes s s' ∧ s'.threads = s.threads ∧ s'.runs = s.runs
      ∧ getScene s' k = { getScene s k with
          running := true, origin := ticks s, args := jArgs b, job := some j, stopAt := none, stopJobs := [], change := none }
      ∧ Begins s s' k (ticks s) fun _ => True

/-- R62: the admissions that are refused: scenes and gangs not loaded, running or launched; a real-time start without lock; a partition
without enable; an unload that a change names. -/
def Sys2Proof.Safety.RejectionsRule : Prop :=
  ∀ (s : State) (b : Job) (j : Nat),
    (Admits s 0 b j →
      (sceneById s b.fn (jScene b) = none ∨ ∃ k, sceneById s b.fn (jScene b) = some k ∧ ((getScene s k).running = true ∨ launching s k = true
        ∨ (sceneRtc (getScene s k) = true ∧ s.tb.locked = false))) →
      ∃ s', exec .startScene s = .next s' ∧ Rejected s s' j)
    ∧ (Admits s 1 b j → gangsById s b.fn (jGang b) = [] → ∃ s', exec .launchGang s = .next s' ∧ Rejected s s' j)
    ∧ (Admits s 2 b j → sceneById s b.fn (jScene b) = none → ∃ s', exec .changeScene s = .next s' ∧ Rejected s s' j)
    ∧ (Admits s 3 b j → sceneById s b.fn (jScene b) = none → ∃ s', exec .stopScene s = .next s' ∧ Rejected s s' j)
    ∧ (Admits s 4 b j → (getPart s b.fn).enable = false → ∃ s', exec .loadScene s = .next s' ∧ Rejected s s' j)
    ∧ (Admits s 5 b j →
      (sceneById s b.fn (jScene b) = none ∨ ∃ k, sceneById s b.fn (jScene b) = some k ∧ ((getScene s k).running = true ∨ launching s k = true
        ∨ ∃ y ∈ s.scenes, ∃ c, y.2.change = some c ∧ c.1 = k)) →
      ∃ s', exec .unloadScene s = .next s' ∧ Rejected s s' j)

/-- R93: a launch job of a gang that is free begins its cues with origin L; the last launch of a scene that completes takes its phasers along,
and its job succeeds. Of several gangs with the named ID, that of the first loaded scene is launched (log 75). -/
def Sys2Proof.Safety.GangLaunchesRule : Prop :=
  ∀ (s : State),
    (∀ b j k g l, Admits s 1 b j → gangsById s b.fn (jGang b) = (k, g) :: l → (getScene s k).running = false →
      (∀ x ∈ s.launches, ¬ (x.2.scene = k ∧ x.2.gslot = g)) → (sceneRtc (getScene s k) = true → s.tb.locked = true) →
      ∃ s', exec .launchGang s = .next s' ∧ Frees s s' ∧ SameBytes s s' ∧ s'.threads = s.threads ∧ s'.scenes = s.scenes
        ∧ s'.launches = s.launches ++ [(j, ⟨k, g, ticks s, jArgs b, j⟩)] ∧ Begins s s' k (ticks s) fun q => qGslot q = g)
    ∧ (∀ l, lookup s.launches s.cur.ix = some l → ∃ s', exec .gangLaunchComplete s = .next s' ∧ lookup s'.launches s.cur.ix = none
        ∧ Signals s s' l.job 0
        ∧ ((∀ x ∈ s.launches, x.1 ≠ s.cur.ix → x.2.scene ≠ l.scene) → ∀ p ∈ s'.phasers, p.1 / 4096 ≠ l.scene))

/-- R57, R65: a change job is recorded in the running scene at the admission tick, in place of an earlier one, which fails with 0x0C4; a partition
with no running scene refuses it, with a record for its supervisor. Where it takes effect the running scene stops and the other starts at this tick, or, if that
is not loaded, runs, or is being launched, the change is refused. Which request replaces which is read as log 23 says, and where the record goes as log 31 says; which running scene is asked, and
that a request without one is refused, is the choice of log 71. -/
def Sys2Proof.Safety.SceneChangesRule : Prop :=
  ∀ (s : State),
    (∀ b j k, Admits s 2 b j → sceneById s b.fn (jScene b) = some k →
      (∀ r, runningScene s b.fn k = some r → ∃ s', exec .changeScene s = .next s' ∧ Frees s s'
        ∧ getScene s' r = { getScene s r with change := some (k, ticks s, some j) }
        ∧ ∀ a q j', (getScene s r).change = some (a, q, some j') → Signals s s' j' 0x0C4)
      ∧ (runningScene s b.fn k = none → ∃ s', exec .changeScene s = .next s' ∧ Frees s s' ∧ Signals s s' j 0x0C4 ∧ s'.scenes = s.scenes
          ∧ ∃ x ∈ s'.recs, x.2.cause = 0x0C4))
    ∧ (∀ k' q j, (getScene s s.cur.ix).change = some (k', q, j) → k' ≠ s.cur.ix → (getScene s k').live = true → (getScene s k').loaded = true →
        (getScene s k').running = false → (getScene s k').recover = false → launching s k' = false →
        ∃ s', exec .sceneChange s = .next s' ∧ (getScene s' s.cur.ix).running = false ∧ (getScene s' k').running = true
          ∧ (getScene s' k').origin = ticks s)
    ∧ (∀ k' q j, (getScene s s.cur.ix).change = some (k', q, j) → k' ≠ s.cur.ix → ((getScene s k').live = false ∨ (getScene s k').loaded = false
          ∨ (getScene s k').running = true ∨ launching s k' = true) →
        ∃ s', exec .sceneChange s = .next s' ∧ (getScene s' s.cur.ix).running = false ∧ getScene s' k' = getScene s k'
          ∧ (∀ i, j = some i → lookup s'.jobs i = none) ∧ ∃ x ∈ s'.recs, x.2.cause = 0x0C4)
    ∧ ((getScene s s.cur.ix).change = none → exec .sceneChange s = .next s)

/-- R58: a stop job waits for the scene's next SCENE point, or for the end of its period where it has none; the job of a scene that does not run
succeeds at once (log 72). A stop ends the scene: nothing of it runs, its phasers are gone. What stands at a stop is treated as log 23 says. -/
def Sys2Proof.Safety.SceneStopsRule : Prop :=
  ∀ (s : State),
    (∀ b j k, Admits s 3 b j → sceneById s b.fn (jScene b) = some k →
      let x := getScene s k
      (x.running = false → ∃ s', exec .stopScene s = .next s' ∧ Frees s s' ∧ Signals s s' j 0 ∧ s'.scenes = s.scenes)
      ∧ (x.running = true → ∃ s', exec .stopScene s = .next s' ∧ Frees s s' ∧ SameBytes s s'
          ∧ getScene s' k = { x with
              stopJobs := x.stopJobs ++ [j]
              stopAt := if (∃ q ∈ s.cues, q.2.scene = k ∧ qScene q.2 = true) then x.stopAt
                else some ((x.origin + (ago s x.origin / periodOf x + 1) * periodOf x) % 2 ^ 64) }))
    ∧ ((getScene s s.cur.ix).running = true → ∃ s', exec .sceneStop s = .next s' ∧ (getScene s' s.cur.ix).running = false
        ∧ (getScene s' s.cur.ix).loaded = (getScene s s.cur.ix).loaded ∧ (∀ r ∈ s'.runs, r.2.scene ≠ s.cur.ix)
        ∧ ∀ p ∈ s'.phasers, p.1 / 4096 ≠ s.cur.ix)
    ∧ ((getScene s s.cur.ix).running = false → exec .sceneStop s = .next s)

/-- Launches, changes and stops of scenes: all of GangLaunchesRule, SceneChangesRule, SceneStopsRule. -/
def Obligations.SceneLife : Prop :=
  GangLaunchesRule ∧ SceneChangesRule ∧ SceneStopsRule

/-- R59, R92: a stream's next record becomes its pending job, unless R62 rejects it at once; an unreadable record, or a doorbell beyond the
ring, stops the stream. A device queue gives its oldest record. The tick against which a record is judged is the choice of log 65, the index of a
device queue's job that of log 54. -/
def Sys2Proof.Safety.RecordReadsRule : Prop :=
  ∀ (s : State), let n := s.cur.ix; let t := getStream s n
    (n < 64 → t.en = true → t.pending = none → stopped s (n / 4) = false →
      let left := (t.wridx + 2 ^ 32 - t.rdidx) % 2 ^ 32
      let line := readVa s (n / 4) (t.rbase.toNat + 64 * (t.rdidx % 2 ^ t.log2n)) 1
      left ≠ 0 →
      ((2 ^ t.log2n < left ∨ line.2 = none) → ∃ s', exec .jobRecordRead s = .next s' ∧ (getStream s' n).err = true ∧ (getStream s' n).en = false
        ∧ (getStream s' n).rdidx = t.rdidx ∧ ∃ r ∈ s'.evlog, r.cause = 0x0C7)
      ∧ (left ≤ 2 ^ t.log2n → ∀ l, line.2 = some l →
          let b : Job := { stream := n, index := t.rdidx, fn := n / 4
                           words := (List.range 8).map fun i => w64 (leNat ((l.drop (8 * i)).take 8)) }
          ∃ s', exec .jobRecordRead s = .next s' ∧ (getStream s' n).rdidx = (t.rdidx + 1) % 2 ^ 32
            ∧ (recordBad (ticks s + 1) b false = false → (getStream s' n).pending = some s.nextId ∧ (getJob s' s.nextId).words = b.words)
            ∧ (recordBad (ticks s + 1) b false = true → Frees s s' ∧ s'.scenes = s.scenes ∧ ∃ r ∈ s'.evlog, r.cause = 0x0C7)))
    ∧ (64 ≤ n → t.pending = none → stopped s (n - 64) = false → ∀ w l, (getPart s (n - 64)).devQueue = w :: l →
        ∃ s', exec .jobRecordRead s = .next s' ∧ (getPart s' (n - 64)).devQueue = l
          ∧ (recordBad (ticks s + 1) { stream := n, index := 0, fn := n - 64, words := w } true = false →
              (getStream s' n).pending = some s.nextId ∧ (getJob s' s.nextId).words = w))

/-- Reading, rejecting and completing jobs: all of JobCompletionRule, RejectionsRule, RecordReadsRule. -/
def Obligations.JobRecords : Prop :=
  JobCompletionRule ∧ RejectionsRule ∧ RecordReadsRule

/-- R62, R64: an admitted load job begins the load of a new scene, and its stream goes on to its next record while that lasts; the load ends with every step
done, and its job succeeds, or with nothing changed, and 0x0C4. An admitted unload job of a scene that neither runs nor is launched nor named by a change begins
the unload, whose end releases what the scene holds. How long they take is a free value (log 8); what a load rejects is read as log 20 says. -/
def Sys2Proof.Safety.LoadsAndUnloadsRule : Prop :=
  ∀ (s : State), let k := s.cur.ix; let x := getScene s k
    (∀ b j, Admits s 4 b j → (getPart s b.fn).enable = true → ∃ s', exec .loadScene s = .next s' ∧ Frees s s' ∧ SameBytes s s'
        ∧ getScene s' (newScene s) = { live := true, part := b.fn, base := (b.words.getD 3 0).toNat, job := some j }
        ∧ ∃ n, ⟨.master, s.cycle + 1 + n, .row .sceneLoadComplete { ix := newScene s }⟩ ∈ s'.agenda)
    ∧ (∀ b j i, Admits s 5 b j → sceneById s b.fn (jScene b) = some i → (getScene s i).running = false → launching s i = false →
        (∀ y ∈ s.scenes, ∀ c, y.2.change = some c → c.1 ≠ i) → ∃ s', exec .unloadScene s = .next s' ∧ Frees s s' ∧ SameBytes s s'
        ∧ getScene s' i = { getScene s i with unloading := true, job := some j }
        ∧ ∃ n, ⟨.master, s.cycle + 1 + n, .row .sceneUnloadComplete { ix := i }⟩ ∈ s'.agenda)
    ∧ (∀ j, x.live = true → x.loaded = false → x.job = some j →
        (isOverflow s x.part (jCpl (getJob s j)) && (getPart s x.part).rt) = false → x.base % 64 = 0 →
        (∀ s0 y s1, readScene s x.part x.base = (s0, .ok y) → placeScene s0 k { y with base := x.base } = .ok s1 →
          ∃ s', exec .sceneLoadComplete s = .next s' ∧ s' = jobEnd (powerRecalc s1) j 0 ∧ Signals (powerRecalc s1) s' j 0
            ∧ s'.scenes = s1.scenes ∧ s'.cues = s1.cues ∧ s'.regions = s1.regions ∧ s'.cfg = s1.cfg ∧ s'.cfgImages = s1.cfgImages ∧ s'.tids = s1.tids
            ∧ s'.resid = s1.resid ∧ s'.pinned = s1.pinned ∧ s'.images = s1.images ∧ s'.threads = s.threads ∧ (getScene s' k).loaded = true)
        ∧ ((∀ s0 y s1, readScene s x.part x.base = (s0, .ok y) → placeScene s0 k { y with base := x.base } ≠ .ok s1) →
          ∃ s', exec .sceneLoadComplete s = .next s' ∧ lookup s'.scenes k = none ∧ Signals s s' j 0x0C4 ∧ s'.regions = s.regions
            ∧ s'.cues = s.cues ∧ s'.cfg = s.cfg ∧ s'.tids = s.tids ∧ s'.pinned = s.pinned))
    ∧ (x.live = true → x.unloading = true → ∃ s', exec .sceneUnloadComplete s = .next s' ∧ lookup s'.scenes k = none
        ∧ (∀ q ∈ s'.cues, q.2.scene ≠ k) ∧ (∀ g ∈ s'.regions, ¬ (g.2.placed = true ∧ g.2.scene = k)) ∧ (∀ e ∈ s'.cfgImages, e.2.1 ≠ k)
        ∧ (∀ p ∈ s'.phasers, p.1 / 4096 ≠ k) ∧ (∀ i ∈ s'.images, i.snap.region.scene ≠ k) ∧ s'.threads = s.threads
        ∧ (∀ j, x.job = some j → lookup s'.jobs j = none)
        ∧ ∀ r ∈ x.tids, r.1 < 256 → x.part < 16 → (∀ y ∈ s.scenes, y.1 ≠ k → y.2.live = true → y.2.loaded = true → y.2.part = x.part → ∀ t ∈ y.2.tids, t.1 ≠ r.1) →
            ∀ c < 64, (tidOf s' c x.part r.1).valid = false ∧ ∀ i, resGet s' (resKey c x.part r.1 i) = true → 4096 ≤ i)

/-- R41, R64, R79 to R82, R117, R220: what steps 3 and 4 of a load leave: every word of a gang that has its pages holds its region slot, every cue stands in the
cue store of its core, every TID record in the table of each of the scene's cores, every variant that a cue names in the configuration store of its core, and in a
real-time partition the pages of its DRAM tensors are pinned in the dies of its cores. -/
def Sys2Proof.Safety.LoadWritesRule : Prop :=
  ∀ (s s0 s1 : State) (part base k : Nat) (x : Scene), readScene s part base = (s0, .ok x) → placeScene s0 k { x with base := base } = .ok s1 →
    (∀ e ∈ s.cfgImages, e.2.1 ≠ k) →
    let z := getScene s1 k
    let cues := placedCues z
    { z with gangs := x.gangs, phasers := x.phasers, tagDie := x.tagDie } = { x with base := base, loaded := true } ∧ z.gangs.length = x.gangs.length
    ∧ (∀ (i : Nat) g, z.gangs[i]? = some g → g.resident = true → ∀ w ∈ g.words, let h := getReg s1 (thKey w.core w.slot)
        h.placed = true ∧ h.part = part ∧ h.scene = k ∧ h.gslot = i ∧ h.lc = w.lc ∧ h.voice = w.voice)
    ∧ (∀ q ∈ cues, ∃ i, i < 1024 ∧ (let c := getCue s1 (1024 * q.core + i)
        c.scene = k ∧ c.part = part ∧ c.lc = q.lc ∧ c.voice = q.voice ∧ c.word0 = w64 q.w0 ∧ c.word1 = w64 q.w1))
    ∧ (∀ r ∈ x.tids, (∀ t ∈ x.tids, t.1 = r.1 → t = r) → ∀ g ∈ z.gangs, ∀ w ∈ g.words, ∀ i, i < 4 → tidWord s1 w.core part r.1 i = (r.2.getD i 0).toNat)
    ∧ (∀ q ∈ cues, ∀ id b v, id = q.w0 / 2 ^ 52 % 4096 ∨ id = q.w0 / 2 ^ 40 % 4096 → blockOfId z id = some b → v < b.voffs.length →
        ∃ e ∈ s1.cfgImages, e.1 = q.core ∧ e.2.1 = k ∧ e.2.2.1 = 4 * b.id + v ∧ e.2.2.2.2 = varLen z b v
          ∧ rdBytes s1.cfg (q.core * 2 ^ 20 + e.2.2.2.1) e.2.2.2.2 = (x.image.drop (b.voffs.getD v 0)).take e.2.2.2.2)
    ∧ ((getPart s part).rt = true → ∀ p ∈ dramPages x, ∀ g ∈ z.gangs, ∀ w ∈ g.words, ∃ e ∈ s1.pinned, e.1 = 4 * part + dieOf w.core
        ∧ e.2.1 = 4096 * p / 2 ^ pageBits s0 part (4096 * p) * 2 ^ pageBits s0 part (4096 * p))

/-- Loading and unloading of scenes, and what a load leaves in place: all of LoadsAndUnloadsRule, LoadWritesRule. -/
def Obligations.LoadsAndUnloads : Prop :=
  LoadsAndUnloadsRule ∧ LoadWritesRule

/-- R83: at its SCENE point a running scene re-places the gangs that fencing marked; where all find a place it goes on, with its origin, and
else it stops, with 0x0C4. A scene that does not run is not touched. What moves is the choice of log 42, and that it takes no time that of log 59. -/
def Sys2Proof.Safety.RecoveryRule : Prop :=
  ∀ (s : State), let k := s.cur.ix; let x := getScene s k; let y := recoverScene s k
    (x.running = true → y.2 = true → exec .recovery s = .next y.1
      ∧ let z := getScene y.1 k
        z.recover = false ∧ z.running = true ∧ z.origin = x.origin ∧ z.gangs.length = x.gangs.length ∧ ∀ g ∈ z.gangs, g.recover = false)
    ∧ (x.running = true → y.2 = false → ∃ s', exec .recovery s = .next s' ∧ (getScene s' k).running = false ∧ (∃ r ∈ s'.recs, r.2.cause = 0x0C4)
        ∧ (∀ r ∈ s'.runs, r.2.scene ≠ k) ∧ ∀ p ∈ s'.phasers, p.1 / 4096 ≠ k)
    ∧ (x.running = true → (∀ g ∈ x.gangs, g.recover = false ∧ (g.resident = true → ∀ w ∈ g.words, wordStale s g w = false)) →
        exec .recovery s = .next (setScene s k { x with recover := false }))
    ∧ (x.running = false → exec .recovery s = .next s)

/-- R37, R252, R420 to R422, R426, with no gang that waits for pages or is being pre-empted: a heartbeat samples the temperatures (free values),
ends each FENCE.SC whose drain has ended, and enters T1, T2 for a hot die, or T3, which puts the save at the next tick. The samples are
free values (log 8); when a die leaves T2 is the choice of log 41. -/
def Obligations.Heartbeats : Prop :=
  ∀ (s : State), readyGangs s = [] → (∀ x ∈ s.scenes, ∀ g ∈ x.2.gangs, g.preempt = 0) →
    let temp (d : Nat) : Int := degrees (Config.freeTemp (s.free + d)).toNat
    let hot : Prop := ∃ d, d < 4 ∧ (s.mgmt.t3 : Int) ≤ temp d
    ∃ s', exec .heartbeat s = .next s' ∧ (∀ d, d < 4 → tempOf s' d = temp d)
      ∧ (∀ k t ids r, k < 256 → getTh s k = t → t.wait = .fenceSc ids true → t.running = true → t.frozen = false → t.halted = false →
          runOf s (k / 4) (k % 4) = some r → getTh s' k = advance { t with wait := .none })
      ∧ (∀ k t ids, k < 256 → getTh s k = t → t.wait = .fenceSc ids false → getTh s' k = t)
      ∧ (∀ k, (∀ ids b, (getTh s k).wait ≠ .fenceSc ids b) → getTh s' k = getTh s k)
      ∧ ((∃ d, d < 4 ∧ (s.mgmt.t1 : Int) ≤ temp d) → s'.mgmt.t1In = true) ∧ ((∀ d, d < 4 → temp d < (s.mgmt.t1 : Int) - 5) → s'.mgmt.t1In = false)
      ∧ (s'.mgmt.t3In = true ↔ s.mgmt.t3In = true ∨ hot)
      ∧ (hot → s.mgmt.t3In = false → ⟨.tick, ticks s + 1, .row .saveStart { ix := 0x163 }⟩ ∈ s'.agenda)
      ∧ (¬ hot → ∀ d, d < 4 → (s.mgmt.t2 : Int) ≤ temp d → d ∈ s'.mgmt.t2In ∧
          (d ∉ s.mgmt.t2In → ∀ c ∈ throttleSet s d, levelNext s' c = s.mgmt.t2e))
      ∧ (∀ d, d < 4 → d ∈ s.mgmt.t2In → temp d < (s.mgmt.t2 : Int) - 5 → d ∉ s'.mgmt.t2In)

/-- R91, R376: a ready gang is placed again from its images, which are used up; one that finds no room stays, with its images; one with a damaged image is not
resumed, and 0x14B is queued; one that is resident, or not ready, is not touched. How a gang comes back is the choice of log 27. -/
def Sys2Proof.Safety.ResumesRule : Prop :=
  ∀ (s : State), let k := s.cur.ix; let i := s.cur.val
    let mine (m : Image) : Bool := m.snap.region.scene == k && m.snap.region.gslot == i
    let damaged : Bool := s.images.any fun m => mine m && imageDamaged s m
    (∀ g, (getScene s k).gangs[i]? = some g → g.resident = false → (k, i) ∈ readyGangs s →
      (damaged = true → ∃ s', exec .resume s = .next s' ∧ (getScene s' k).gangs[i]? = some { g with bad := true } ∧ ∃ x ∈ s'.recs, x.2.cause = 0x14B)
      ∧ (∀ e, damaged = false → placeAgain s k i = .error e → ∃ s', exec .resume s = .next s' ∧ s'.scenes = s.scenes ∧ s'.images = s.images
          ∧ s'.threads = s.threads ∧ SameBytes s s')
      ∧ (∀ s1 g1, damaged = false → placeAgain s k i = .ok (s1, g1) →
          let back := moveGang s1 k i { g1 with resident := true, heldSince := ticks s }
          (back = none → ∃ s', exec .resume s = .next s' ∧ s'.scenes = s.scenes ∧ s'.images = s.images ∧ s'.threads = s.threads ∧ SameBytes s s')
          ∧ (back.isSome = true → ∃ s', exec .resume s = .next s' ∧ ((getScene s' k).gangs[i]?).map (·.resident) = some true
              ∧ s'.mgmt.lastGang = g.id ∧ ∀ m ∈ s'.images, mine m = false)))
    ∧ (∀ g, (getScene s k).gangs[i]? = some g → g.resident = true ∨ (k, i) ∉ readyGangs s → exec .resume s = .next s)
    ∧ ((getScene s k).gangs[i]? = none → exec .resume s = .next s)

/-- Re-placement after fencing, and resume: all of RecoveryRule, ResumesRule. -/
def Obligations.Replacement : Prop :=
  RecoveryRule ∧ ResumesRule

/-! ## Registers of the management controller and of the ports -/

/-- The step goes on with a change of one partition's registers. -/
def Sys2Proof.Safety.PartBecomes (s : State) (p : Nat) (f : Part) (o : Out) : Prop := o = .next (setPart s p f)

/-- A refused write: the step goes on and nothing changes. -/
def Sys2Proof.Safety.Refuses (s : State) (o : Out) : Prop := o = .next s

/-- R68, R98, R116, R435: PARTCFG, PTROOT and CTX of a partition are written only while no scene of it is loaded, a partition word only while no
region is placed on its core and if R98 accepts it; a refused write leaves the register. That a word with SPGM1 other than 0 under SPTGT 0 or 3 is
refused too is the choice of log 76. -/
def Sys2Proof.Safety.PartitionRegistersRule : Prop :=
  ∀ (s : State), let p := s.cur.ix; let v := s.cur.val; let b := getPart s p; let c := s.cur.core
    (partLoaded s p = false →
      PartBecomes s p { b with enable := bit v 1, rt := bit v 0, quant := bits v 15 8 } (exec .partcfgWrite s)
      ∧ PartBecomes s p { b with root := bits v 47 12, rootEn := bit v 0 } (exec .ptrootWrite s)
      ∧ PartBecomes s p { b with ctxBase := bits v 47 21, ctxSize := bits v 7 0 } (exec .ctxWrite s))
    ∧ (partLoaded s p = true → Refuses s (exec .partcfgWrite s) ∧ Refuses s (exec .ptrootWrite s) ∧ Refuses s (exec .ctxWrite s))
    ∧ ((∀ sl, sl < 4 → (getReg s (thKey c sl)).placed = false) → partwordOk v = true → (spTgt v = 1 ∨ spTgt v = 2 ∨ bits v 20 19 = 0) →
        ∃ s', exec .partwordWrite s = .next s' ∧ getCore s' c = { getCore s c with partword := BitVec.ofNat 32 v }
          ∧ (∀ d, d ≠ c → getCore s' d = getCore s d) ∧ SameBytes s s' ∧ s'.threads = s.threads)
    ∧ (((∃ sl, sl < 4 ∧ (getReg s (thKey c sl)).placed = true) ∨ partwordOk v = false ∨ (spTgt v ≠ 1 ∧ spTgt v ≠ 2 ∧ bits v 20 19 ≠ 0)) →
      Refuses s (exec .partwordWrite s))

/-- R101, R106, R120, R434: owner entries, caravan slots, reservations and allotments are written by the management controller, unless what
they give or take is in use; a refused write leaves the entry. -/
def Sys2Proof.Safety.OwnerTablesRule : Prop :=
  ∀ (s : State), let c := s.cur.core; let i := s.cur.ix; let v := s.cur.val
    (i < 128 → (∀ sl, sl < 4 → (getReg s (thKey c sl)).placed = false) → ∃ s', exec .poolOwnerWrite s = .next s' ∧ SameBytes s s'
        ∧ tget (getCore s' c).owners 0 i = BitVec.ofNat 8 (v &&& 0x8F) ∧ ∀ j, j ≠ i → tget (getCore s' c).owners 0 j = tget (getCore s c).owners 0 j)
    ∧ (i < 256 → (∀ p, partLoaded s p = false) → ∃ s', exec .dieOwnerWrite s = .next s' ∧ SameBytes s s'
        ∧ ∀ j, tget s'.dieOwners 0 j = if j = 256 * c + i then BitVec.ofNat 8 (v &&& 0x8F) else tget s.dieOwners 0 j)
    ∧ ((∀ p, ownerOf (tget s.dieOwners 0 (256 * c + i)).toNat = some p → partLoaded s p = true) →
        (ownerOf (tget s.dieOwners 0 (256 * c + i)).toNat).isSome = true → Refuses s (exec .dieOwnerWrite s))
    ∧ (slotInUse s (tget s.slots 0 (256 * c + i)).toNat = false → slotInUse s v = false → ∃ s', exec .caravanMapWrite s = .next s' ∧ SameBytes s s'
        ∧ ∀ j, tget s'.slots 0 j = if j = 256 * c + i then BitVec.ofNat 16 (v &&& 0x80FF) else tget s.slots 0 j)
    ∧ (slotInUse s (tget s.slots 0 (256 * c + i)).toNat = true → Refuses s (exec .caravanMapWrite s))
    ∧ (ridNamed s i = false → ∃ s', exec .reservationWrite s = .next s' ∧ SameBytes s s'
        ∧ ∀ j, tget s'.resv 0 j = if j = i then BitVec.ofNat 16 (v &&& 0x800F) else tget s.resv 0 j)
    ∧ (ridNamed s i = true → Refuses s (exec .reservationWrite s))
    ∧ (partLoaded s i = true → Refuses s (exec .syncAllotWrite s))
    ∧ (partLoaded s i = false → s.cur.flag = false → let k := 8 * i + 2 * c
        allotOk s i c (v &&& 0x0000FFFF3FFF7FFF) (tget s.sync 0 (k + 1)).toNat = true →
        ∃ s', exec .syncAllotWrite s = .next s' ∧ SameBytes s s'
          ∧ ∀ j, tget s'.sync 0 j = if j = k then BitVec.ofNat 64 (v &&& 0x0000FFFF3FFF7FFF) else tget s.sync 0 j)

/-- Partition registers, owner tables, caravan, reservations and allotments: all of PartitionRegistersRule, OwnerTablesRule. -/
def Obligations.ManagementTables : Prop :=
  PartitionRegistersRule ∧ OwnerTablesRule

/-- R116: an invalidation drops, at its end, the translations of a page, of a partition, or all, pinned or not; it is shown busy until then. How long one takes is a
free value (log 8); that one which begins while another is busy ends that first is the choice of log 33. -/
def Sys2Proof.Safety.InvalidationsRule : Prop :=
  ∀ (s : State),
    (∀ i mode part vpn,
      (i, mode, part, vpn) ∈ [(Instr.tlbinvPage, 0, s.cur.ix, s.cur.val), (Instr.tlbinvPartition, 1, s.cur.ix, 0), (Instr.tlbinvAll, 2, 0, 0)] →
      ∃ s', exec i s = .next s' ∧ s'.mgmt = { s.mgmt with tlbBusy := true, tlbMode := mode, tlbPart := part, tlbVpn := vpn }
        ∧ s'.pinned = (endTlbinv s).pinned ∧ SameBytes s s' ∧ ∃ n, ⟨.master, s.cycle + 1 + n, .row .tlbinvComplete {}⟩ ∈ s'.agenda)
    ∧ (s.mgmt.tlbBusy = false → exec .tlbinvComplete s = .next s)
    ∧ (s.mgmt.tlbBusy = true → ∃ s', exec .tlbinvComplete s = .next s' ∧ SameBytes s s' ∧ s'.mgmt = { s.mgmt with tlbBusy := false, tlbMode := 3 }
        ∧ (∀ e, e ∈ s'.pinned ↔ e ∈ s.pinned ∧ ¬ (
            (s.mgmt.tlbMode = 0 ∧ e.1 / 4 = s.mgmt.tlbPart ∧ e.2.1 ≤ s.mgmt.tlbVpn * 4096 ∧ s.mgmt.tlbVpn * 4096 < e.2.1 + 2 ^ e.2.2.1)
            ∨ (s.mgmt.tlbMode = 1 ∧ e.1 / 4 = s.mgmt.tlbPart) ∨ 2 ≤ s.mgmt.tlbMode))
        ∧ ∀ e, e ∈ s'.coreTlb ∨ e ∈ s'.dieTlb → ∀ x ∈ e.2, ¬ (
            (s.mgmt.tlbMode = 0 ∧ x.host = false ∧ x.part = s.mgmt.tlbPart ∧ x.va ≤ s.mgmt.tlbVpn * 4096 ∧ s.mgmt.tlbVpn * 4096 < x.va + 2 ^ x.log2)
            ∨ (s.mgmt.tlbMode = 1 ∧ x.part = s.mgmt.tlbPart) ∨ 2 ≤ s.mgmt.tlbMode))

/-- R417 to R420: a write of PWRCAP sets the cap to no less than its floor and gives the budgets of the next period, which its boundary takes;
THRCFG keeps its value unless the thresholds rise. -/
def Obligations.PowerAndThrottle : Prop :=
  ∀ (s : State), let v := s.cur.val
    let f := ((List.range 16).map (floorOf s)).foldl (· + ·) 0
    let cape := max (min (v % 65536) 200) (38 + cdiv f 6400)
    (∃ s', exec .pwrcapWrite s = .next s' ∧ s'.mgmt.capw = v % 65536 ∧ s'.mgmt.cape = cape ∧ s'.budget = s.budget
      ∧ (cape ≠ min (v % 65536) 200 → s'.mgmt.capinf = true ∧ ∃ r ∈ s'.evlog, r.cause = 0x164)
      ∧ (∀ c, c < 16 → tget s'.budgetNext 64800 c = floorOf s c + ((cape - 38) * 6400 - f) / 16 + (if c < ((cape - 38) * 6400 - f) % 16 then 1 else 0)))
    ∧ exec .budgetPeriod s = .next { s with budget := s.budgetNext, served := [] }
    ∧ exec .thrcfgWrite s = .next (if 0 < bits v 7 0 ∧ bits v 7 0 < bits v 15 8 ∧ bits v 15 8 < bits v 23 16 ∧ bits v 23 16 ≤ 130 ∧ 4 ≤ bits v 27 24
        then { s with mgmt := { s.mgmt with t1 := bits v 7 0, t2 := bits v 15 8, t3 := bits v 23 16, t2e := bits v 27 24 } } else s)

/-- R429, R430: a doorbell sets the write index; RCTL sets EN, LOG2N while EN is 0, and as EN rises the read index follows the write index and ERR
clears. Neither is taken during a reset of the function. Where a doorbell leaves more records outstanding than the ring holds, ERR is set, EN clears and 0x0C7 is
logged. -/
def Sys2Proof.Safety.StreamRegistersRule : Prop :=
  ∀ (s : State), let n := s.cur.ix; let v := s.cur.val; let t := getStream s n
    ((getPart s (n / 4)).flrStart = none →
      (¬ (t.en = true ∧ 2 ^ t.log2n < (v % 2 ^ 32 + 2 ^ 32 - t.rdidx) % 2 ^ 32) →
        ∃ s', exec .wridxWrite s = .next s' ∧ getStream s' n = { t with wridx := v % 2 ^ 32 } ∧ SameBytes s s')
      ∧ (t.en = true → 2 ^ t.log2n < (v % 2 ^ 32 + 2 ^ 32 - t.rdidx) % 2 ^ 32 → ∃ s', exec .wridxWrite s = .next s'
          ∧ getStream s' n = { t with wridx := v % 2 ^ 32, err := true, en := false } ∧ s'.mgmt.timef = min 65535 (s.mgmt.timef + 1)
          ∧ ∃ r ∈ s'.evlog, r.cause = 0x0C7)
      ∧ (t.en = false → bit v 30 = true → ∃ s', exec .rctlWrite s = .next s' ∧ SameBytes s s'
          ∧ getStream s' n = { t with en := true, err := false, rdidx := t.wridx, log2n := max 4 (min 12 (v % 32)) })
      ∧ (t.en = false → bit v 30 = false → ∃ s', exec .rctlWrite s = .next s' ∧ SameBytes s s'
          ∧ getStream s' n = { t with log2n := max 4 (min 12 (v % 32)) })
      ∧ (t.en = true → ∃ s', exec .rctlWrite s = .next s' ∧ SameBytes s s' ∧ getStream s' n = { t with en := bit v 30 }))
    ∧ ((getPart s (n / 4)).flrStart ≠ none → Refuses s (exec .wridxWrite s) ∧ Refuses s (exec .rctlWrite s))

/-- R100, R433, R439: the mailbox reads or writes 8 bytes of the memories, or a register by its own rule, at its address; one that is unpopulated, or meets an
uncorrectable error, fails. In a pool the shares hold the resident windows of the threads. How an address is aligned is the choice of log 33, the place of a window
in its share that of log 48, the failure by an error that of log 49, and where an engine's SRAM keeps what that of log 77. -/
def Sys2Proof.Safety.MailboxRule : Prop :=
  ∀ (s : State),
    (∀ a, boxOf s s.mgmt.mbaddr = .mem a → eccOf s a 8 = 0 → let v := ((poolCore a).map (rfView s)).getD s
      (∃ s', exec .mailboxRead s = .next s' ∧ SameBytes s s'
        ∧ s'.mgmt = { s.mgmt with mbbusy := false, mbfail := false, mbdata := w64 (leNat (rdMem v ⟨.dev, a⟩ 8)) })
      ∧ (∃ s', exec .mailboxWrite s = .next s' ∧ rdMem s' ⟨.dev, a⟩ 8 = leBytes 8 s.mgmt.mbdata.toNat ∧ SameBytesBut v s' ⟨.dev, a⟩ 8
        ∧ s'.mgmt = { s.mgmt with mbbusy := false, mbfail := false }))
    ∧ (∀ a, boxOf s s.mgmt.mbaddr = .mem a → 2 ≤ eccOf s a 8 →
        (∃ s', exec .mailboxRead s = .next s' ∧ s'.mgmt.mbfail = true ∧ s'.mgmt.mbdata = s.mgmt.mbdata ∧ s'.mem = s.mem)
        ∧ ∃ s', exec .mailboxWrite s = .next s' ∧ s'.mgmt.mbfail = true ∧ s'.mem = s.mem)
    ∧ (∀ d o, boxOf s s.mgmt.mbaddr = .sram d o → ∃ s', exec .mailboxWrite s = .next s' ∧ sramRead s' d o = s.mgmt.mbdata.toNat
        ∧ ∃ t, exec .mailboxRead s' = .next t ∧ t.mgmt.mbdata = s.mgmt.mbdata)
    ∧ (boxOf s s.mgmt.mbaddr ≠ .nothing → (∀ a, boxOf s s.mgmt.mbaddr = .mem a → eccOf s a 8 = 0) →
        (∃ s', exec .mailboxRead s = .next s' ∧ SameBytes s s' ∧ s'.mgmt.mbbusy = false ∧ s'.mgmt.mbfail = false)
        ∧ ∃ s', exec .mailboxWrite s = .next s' ∧ s'.mgmt.mbbusy = false ∧ s'.mgmt.mbfail = false)
    ∧ (∀ x, boxOf s s.mgmt.mbaddr = .special x → ∃ s', exec .mailboxRead s = .next s' ∧ s'.mgmt.mbdata = w64 (devRead s x) ∧ SameBytes s s')
    ∧ (boxOf s s.mgmt.mbaddr = .nothing →
        exec .mailboxRead s = .next { s with mgmt := { s.mgmt with mbbusy := false, mbfail := true } }
        ∧ exec .mailboxWrite s = .next { s with mgmt := { s.mgmt with mbbusy := false, mbfail := true } })

/-- R6, R36, R428, R433, R442: a register write by the management controller stores the read-write fields of a register, clears the bits that a one
clears, and ignores a read-only register; the safety processor's reach port B's registers. -/
def Sys2Proof.Safety.RegisterWritesRule : Prop :=
  ∀ (s : State), let x := s.cur.ix; let v := s.cur.val
    (x = 0x400 → exec .registerWrite s = .next (setInc s v)) ∧ (x = 0x402 → exec .registerWrite s = .next (requestStep s v))
    ∧ (x = 0x404 → Refuses s (exec .registerWrite s)) ∧ (x = 0x453 → Refuses s (exec .registerWrite s))
    ∧ (x = 0x451 → exec .registerWrite s = .next (if bit v 0 then { s with mgmt := { s.mgmt with capinf := false } } else s))
    ∧ (x = 0x200000 → exec .registerWrite s = .next { s with mgmt := { s.mgmt with
        numVfs := if bit v 0 = true ∧ 5 ≤ s.mgmt.stage then min 15 (bits v 31 16) else 0 } })
    ∧ (x = 0x454 → exec .registerWrite s = .next { s with mgmt := { s.mgmt with saveBase := bits v 47 21, saveEn := bit v 0 } })
    ∧ (x = 0x100008 → s.mgmt.portB.isSome = true →
        exec .registerWrite s = .next { s with mgmt := { s.mgmt with wdTimeout := v % 2 ^ 32, wdStart := ticks s } })
    ∧ (0x100000 ≤ x → x < 0x101000 → s.mgmt.portB = none → Refuses s (exec .registerWrite s))

/-- Translation invalidation, the mailbox and register writes: all of InvalidationsRule, MailboxRule, RegisterWritesRule. -/
def Obligations.ManagementAccesses : Prop :=
  InvalidationsRule ∧ MailboxRule ∧ RegisterWritesRule

/-- R57, R410, R427, R433, R442, R446: the host window reads and writes installed DRAM, and waits while the module to the die of its channel carries nothing;
a port that goes down logs 0x170, and trains to the widths and rates of its kind only; the safety processor's
kicks and change requests are taken, and a period of its watchdog without a kick asserts FAULT_N with 0x171. A window access that is refused reads no bytes (log 33). -/
def Sys2Proof.Safety.PortsAndWindowRule : Prop :=
  ∀ (s : State), let n := s.cur.data.length; let m := s.mgmt
    (5 ≤ m.stage → m.portA.isSome = true → s.cur.ix + n ≤ dramSize s → moduleDown s (8 + channelOf s.cur.ix / 4) = false → eccOf s s.cur.ix n = 0 →
      (s.cur.flag = false → exec .hostWindow s = .next { s with cur := { s.cur with data := rdMem s ⟨.dev, s.cur.ix⟩ n } })
      ∧ (s.cur.flag = true → ∃ s', exec .hostWindow s = .next s' ∧ rdMem s' ⟨.dev, s.cur.ix⟩ n = s.cur.data ∧ SameBytesBut s s' ⟨.dev, s.cur.ix⟩ n))
    ∧ (5 ≤ m.stage → m.portA.isSome = true → s.cur.ix + n ≤ dramSize s → moduleDown s (8 + channelOf s.cur.ix / 4) = true →
      exec .hostWindow s = .next (schedule s .master (s.cycle + 1) (.row .hostWindow s.cur)))
    ∧ ((m.stage < 5 ∨ m.portA = none ∨ dramSize s < s.cur.ix + n) → exec .hostWindow s = .next { s with cur := { s.cur with data := [] } })
    ∧ (s.cur.flag = false → m.portA.isSome = true → ∃ s', exec .cxlLinkDown s = .next s' ∧ s'.mgmt.portA = none ∧ ∃ r ∈ s'.evlog, r.cause = 0x170)
    ∧ (s.cur.flag = true → m.portB.isSome = true → ∃ s', exec .cxlLinkDown s = .next s' ∧ s'.mgmt.portB = none ∧ ∃ r ∈ s'.evlog, r.cause = 0x170)
    ∧ (let w := s.cur.ix; let ok := (if s.cur.flag = true then w = 4 ∨ w = 2 else w = 16 ∨ w = 8) ∧ (s.cur.val = 64 ∨ s.cur.val = 32)
      (ok → ∃ s', exec .cxlTrained s = .next s' ∧ SameBytes s s' ∧ (if s.cur.flag then s'.mgmt.portB else s'.mgmt.portA) = some (w, s.cur.val))
      ∧ (¬ ok → Refuses s (exec .cxlTrained s)))
    ∧ (s.cur.flag = true → ∃ s', exec .cxlSnoop s = .next s' ∧ rdMem s' ⟨.safety, s.cur.ix⟩ n = s.cur.data ∧ SameBytesBut s s' ⟨.safety, s.cur.ix⟩ n)
    ∧ (s.cur.flag = false → exec .cxlSnoop s = .next { s with cur := { s.cur with data := rdMem s ⟨.safety, s.cur.ix⟩ n } })
    ∧ exec .wdkickWrite s = .next { s with mgmt := { m with wdStart := ticks s } }
    ∧ (m.wdTimeout ≠ 0 → (m.wdTimeout : Int) ≤ since s m.wdStart → ∃ s', exec .watchdogExpiry s = .next s' ∧ s'.mgmt.faultN = true ∧ s'.mgmt.wdTimeout = 0
        ∧ ∃ r ∈ s'.evlog, r.cause = 0x171)
    ∧ (∀ k r, sceneById s (bits s.cur.val 51 48) (bits s.cur.val 15 0) = some k → runningScene s (bits s.cur.val 51 48) k = some r →
        (getScene s r).change = none → ∃ s', exec .screqWrite s = .next s' ∧ SameBytes s s'
          ∧ getScene s' r = { getScene s r with change := some (k, ticks s, none) })
    ∧ (sceneById s (bits s.cur.val 51 48) (bits s.cur.val 15 0) = none → ∃ s', exec .screqWrite s = .next s' ∧ s'.scenes = s.scenes ∧ SameBytes s s'
        ∧ ∃ x ∈ s'.recs, x.2.cause = 0x0C4)

/-- Streams, the host window, the ports and the watchdog: all of StreamRegistersRule, PortsAndWindowRule. -/
def Obligations.PortRegisters : Prop :=
  StreamRegistersRule ∧ PortsAndWindowRule

/-! ## Containment -/

/-- R401 to R404, R426: an Initiate starts a function's reset at the next tick, unless one runs, and one of the physical function the reset of every function; a reset logs
0x168 and stops the partition's scenes and launches, then drains its requests, then scrubs what the partition holds, and ends in STATE 3 with 0x169. A step of a
reset that does not run changes nothing, and during a save none completes. What the steps of a reset cover is the choice of log 34. -/
def Sys2Proof.Safety.FunctionResetRule : Prop :=
  ∀ (s : State), let p := s.cur.ix; let b := getPart s p
    (p ≠ 0 → b.flrStart = none → ∃ s', exec .initiateFlr s = .next s' ∧ getPart s' p = { b with flrStart := some (ticks s) }
        ∧ (∀ q, q ≠ p → getPart s' q = getPart s q) ∧ SameBytes s s' ∧ ⟨.tick, ticks s + 1, .row .flrStop { ix := p }⟩ ∈ s'.agenda)
    ∧ (p = 0 → b.flrStart = none → ∃ s', exec .initiateFlr s = .next s' ∧ s'.mgmt.numVfs = 0 ∧ SameBytes s s' ∧ ∀ q, q < 16 →
        ((getPart s q).flrStart = none → (getPart s' q).flrStart = some (ticks s) ∧ ⟨.tick, ticks s + 1, .row .flrStop { ix := q }⟩ ∈ s'.agenda)
        ∧ ((getPart s q).flrStart.isSome = true → getPart s' q = getPart s q))
    ∧ (b.flrStart.isSome = true → exec .initiateFlr s = .next s)
    ∧ (b.flrStart.isSome = true → ∃ s', exec .flrStop s = .next s' ∧ (getPart s' p).flrState = 1 ∧ (getPart s' p).devQueue = []
        ∧ (getPart s' p).flrStart = b.flrStart ∧ (∀ x ∈ s'.scenes, x.2.live = true → x.2.part = p → x.2.loaded = true)
        ∧ (∀ k, (getScene s k).live = true → (getScene s k).part = p → (getScene s k).loaded = true →
            (∀ r ∈ s'.runs, r.2.scene ≠ k) ∧ ∀ l ∈ s'.launches, l.2.scene ≠ k)
        ∧ (∃ r ∈ s'.evlog, r.cause = 0x168) ∧ ⟨.master, s.cycle + 1, .row .flrDrainEnd { ix := p }⟩ ∈ s'.agenda)
    ∧ (b.flrStart = none → exec .flrStop s = .next s)
    ∧ (s.mgmt.saving = none → b.flrStart.isSome = true → b.flrState = 1 →
        (partRequests s p ≠ 0 → ∃ s', exec .flrDrainEnd s = .next s' ∧ (getPart s' p).flrState = 1 ∧ SameBytes s s'
          ∧ ⟨.master, s.cycle + 1, .row .flrDrainEnd { ix := p }⟩ ∈ s'.agenda)
        ∧ (partRequests s p = 0 → ∃ s', exec .flrDrainEnd s = .next s' ∧ (getPart s' p).flrState = 2 ∧ SameBytes s s'))
    ∧ ((b.flrStart = none ∨ b.flrState ≠ 1) → exec .flrDrainEnd s = .next s)
    ∧ (s.mgmt.saving.isSome = true → exec .flrDrainEnd s = .next s ∧ exec .flrComplete s = .next s)
    ∧ (∀ t, s.mgmt.saving = none → b.flrStart = some t → b.flrState = 2 → ∃ s', exec .flrComplete s = .next s' ∧ (getPart s' p).flrState = 3 ∧ (getPart s' p).flrStart = none
        ∧ (getPart s' p).flrTicks = min (2 ^ 32 - 1) (ago s (t + 1)) ∧ (∀ q ∈ s'.cues, q.2.part ≠ p) ∧ (∀ i ∈ s'.images, i.part ≠ p)
        ∧ (∀ e ∈ s'.pinned, e.1 / 4 ≠ p) ∧ ∃ r ∈ s'.evlog, r.cause = 0x169)
    ∧ ((b.flrStart = none ∨ b.flrState ≠ 2) → exec .flrComplete s = .next s)

/-- R83, R378, R379, R180: in service mask bits are cleared and never set, with 0x172; the loaded scenes that use the core are marked, and so are their gangs
there. A unit whose count reaches RESTHR is fenced; where another unit of the core had reached it and is fenced, ACHK goes instead. That the ACHK bit alone goes is
the reading of log 35. -/
def Sys2Proof.Safety.FencingRule : Prop :=
  ∀ (s : State), let c := s.cur.core; let m := capMask s c; let i := s.cur.ix
    (∃ s', exec .capClear s = .next s' ∧ (∀ i, i < 64 → bit (capMask s' c) i = (bit m i && !bit s.cur.val i))
      ∧ (∀ d, d ≠ c → capMask s' d = capMask s d) ∧ s'.threads = s.threads
      ∧ (s.cur.val &&& m ≠ 0 → (∃ r ∈ s'.evlog, r.cause = 0x172)
          ∧ ∀ x ∈ s.scenes, x.2.live = true → x.2.loaded = true → (∃ g ∈ x.2.gangs, ∃ w ∈ g.words, w.core = c) →
              ∃ y, (x.1, y) ∈ s'.scenes ∧ y.recover = true ∧ ∀ g ∈ y.gangs, (∃ w ∈ g.words, w.core = c) → g.recover = true))
    ∧ (s.cur.val &&& m = 0 → exec .capClear s = .next s)
    ∧ (i < 5 → s.mgmt.resthr ≤ tget (getCore s c).resK0 0 i → bit m (32 + i) = true →
        let second : Prop := ∃ j, j < 5 ∧ j ≠ i ∧ bit m (32 + j) = false ∧ s.mgmt.resthr ≤ tget (getCore s c).resK0 0 j
        (¬ second → ∃ s', exec .channelFence s = .next s' ∧ (∀ b, b < 64 → bit (capMask s' c) b = (bit m b && b != 32 + i))
          ∧ ∃ r ∈ s'.evlog, r.cause = 0x172)
        ∧ (second → ∃ s', exec .channelFence s = .next s' ∧ (∀ b, b < 64 → bit (capMask s' c) b = (bit m b && b != 30))))
    ∧ ((5 ≤ i ∨ tget (getCore s c).resK0 0 i < s.mgmt.resthr ∨ bit m (32 + i) = false) → exec .channelFence s = .next s)

/-- R410, R412: a retrain of a module begins, and its end logs 0x166 with its length; past 800 ticks the module is out of service and the length
logged is 0. A module that is out of service, or retrains, begins none, and one that does not retrain ends none. The tick of the timeout is the choice of log 35. -/
def Sys2Proof.Safety.RetrainsRule : Prop :=
  ∀ (s : State), let m := s.cur.ix
    (m < 12 → retrains s m = false → m ∉ s.linksOut → ∃ s', exec .retrainStart s = .next s' ∧ retrains s' m = true ∧ SameBytes s s'
        ∧ (∀ n, n ≠ m → retrains s' n = retrains s n) ∧ ⟨.tick, ticks s + 801, .row .retrainTimeout { ix := m }⟩ ∈ s'.agenda)
    ∧ ((12 ≤ m ∨ retrains s m = true ∨ m ∈ s.linksOut) → exec .retrainStart s = .next s)
    ∧ (retrains s m = true → 0 < ticks s →
        (∃ s', exec .retrainEnd s = .next s' ∧ retrains s' m = false ∧ s'.linksOut = s.linksOut ∧ ∃ r ∈ s'.evlog, r.cause = 0x166)
        ∧ ∃ s', exec .retrainTimeout s = .next s' ∧ retrains s' m = false ∧ m ∈ s'.linksOut ∧ ∃ r ∈ s'.evlog, r.cause = 0x166)
    ∧ (retrains s m = false → exec .retrainEnd s = .next s ∧ exec .retrainTimeout s = .next s)

/-- Function reset, fencing and link retrains: all of FunctionResetRule, FencingRule, RetrainsRule. -/
def Obligations.Containment : Prop :=
  FunctionResetRule ∧ FencingRule ∧ RetrainsRule

/-! ## Save, power and bring-up -/

/-- R423, R424: T3 or the loss of power-good starts a save in the first tick after it, with FAULT_N; without a save area the device halts at
once. The record comes first, each unit sets its bit of DONE, and after the last the device halts. What is kept after a save is the choice of log 36. -/
def Sys2Proof.Safety.EmergencySaveRule : Prop :=
  ∀ (s : State),
    (s.mgmt.pwrgood = true → s.mgmt.saving = none → s.mgmt.halted = false → ∃ s', exec .pwrgoodLoss s = .next s' ∧ s'.mgmt.pwrgood = false
        ∧ SameBytes s s' ∧ ⟨.tick, ticks s + 1, .row .saveStart { ix := 0x165 }⟩ ∈ s'.agenda)
    ∧ (s.mgmt.saving = none → s.mgmt.halted = false → s.cur.ix = 0x163 ∨ s.cur.ix = 0x165 →
        ∃ s', exec .saveStart s = .next s' ∧ s'.mgmt.faultN = true ∧ (∃ r ∈ s'.evlog, r.cause = s.cur.ix)
          ∧ (∀ k, (getScene s' k).live = true → (getScene s' k).running = false)
          ∧ ((s.mgmt.saveEn = false ∨ dramSize s < saveAddr s + saveSpan) → s'.mgmt.halted = true)
          ∧ (s.mgmt.saveEn = true → saveAddr s + saveSpan ≤ dramSize s → s'.mgmt.saving = some (ticks s - 1, s.cur.ix, 0)
              ∧ rdMem s' ⟨.dev, saveAddr s⟩ 64 = ([0x5256, ticks s - 1, 0, s.cur.ix, 0, 0, 0, 0] : List Nat).flatMap (leBytes 8)))
    ∧ (∀ t cause u, s.mgmt.saving = some (t, cause, 2 ^ u - 1) → u < 20 → ∃ s', exec .saveUnit s = .next s'
        ∧ (u < 19 → s'.mgmt.saving = some (t, cause, 2 ^ (u + 1) - 1) ∧ s'.mgmt.halted = s.mgmt.halted)
        ∧ (u = 19 → s'.mgmt.halted = true ∧ s'.mgmt.saving = none)
        ∧ rdMem s' ⟨.dev, saveAddr s⟩ 64 = ([0x5256, t, 2 ^ (u + 1) - 1, cause, 0, 0, 0, 0] : List Nat).flatMap (leBytes 8))
    ∧ (s.mgmt.saving.isSome = true → Refuses s (exec .saveStart s))

/-- R2, R27, R378, R421, R441, R443, R444: a cold reset leaves the reset state but for what is not volatile; T4 removes power; the stages of
bring-up complete in order, and one that fails halts the device with its code; a boundary-scan instruction touches nothing else. What a cold reset keeps is the choice of log 36. -/
def Sys2Proof.Safety.PowerAndBootRule : Prop :=
  ∀ (s : State), let m := s.mgmt
    (∃ s', exec .coldReset s = .next s' ∧ s'.threads = [] ∧ s'.runs = [] ∧ s'.scenes = [] ∧ s'.tb.ticks = 0 ∧ s'.mgmt.stage = 0 ∧ s'.parts = []
      ∧ (∀ a, a < dramSize s → rdMem s' ⟨.dev, a⟩ 1 = rdMem s ⟨.dev, a⟩ 1) ∧ ∀ c, capMask s' c = capMask s c)
    ∧ (∃ s', exec .powerOff s = .next s' ∧ s'.mgmt.powered = false ∧ s'.mgmt.halted = true ∧ s'.threads = [])
    ∧ (m.halted = false → m.stage0 = false → s.cur.ix = 0 →
        exec .bootStage s = .next { s with mgmt := { m with stage0 := true, portA := some (m.portA.getD (16, 64)) } })
    ∧ (m.stage0 = false → s.cur.ix ≠ 0 → exec .bootStage s = .next s)
    ∧ (m.halted = false → m.stage0 = true → s.cur.ix = m.stage + 1 → 1 ≤ s.cur.ix → s.cur.ix ≤ 3 →
        let image := s.cur.data ≠ []
        let signed := s.cur.flag = true ∧ s.cur.int.toNat = m.otpKey
        let good := if s.cur.ix = 1 then image ∧ signed ∧ m.otpRollback ≤ s.cur.val else s.cur.flag = true
        (good → exec .bootStage s = .next { s with mgmt := { m with stage := s.cur.ix } })
        ∧ (¬ good → ∃ s', exec .bootStage s = .next s' ∧ s'.mgmt.halted = true ∧ s'.mgmt.failStg = s.cur.ix ∧ s'.mgmt.faultN = true
            ∧ s'.mgmt.stage = m.stage
            ∧ (s.cur.ix = 1 → (¬ image → s'.mgmt.bootCode = 3) ∧ (image → ¬ signed → s'.mgmt.bootCode = 1) ∧ (image → signed → s'.mgmt.bootCode = 2))
            ∧ (s.cur.ix = 2 → s'.mgmt.bootCode = s.cur.val % 16) ∧ (s.cur.ix = 3 → s'.mgmt.bootCode = s.cur.val % 12)))
    ∧ (m.halted = false → m.stage0 = true → m.stage = 3 → s.cur.ix = 4 → ∃ s', exec .bootStage s = .next s' ∧ s'.mgmt.stage = 4
        ∧ ∀ c, c < 64 → (getCore s' c).capClr = (getCore s c).selfFail &&& w64 capAll)
    ∧ (m.halted = false → m.stage0 = true → m.stage = 4 → s.cur.ix = 5 → ∃ s', exec .bootStage s = .next s' ∧ s'.mgmt.stage = 5
        ∧ (m.portB = none → ∃ r ∈ s'.evlog, r.cause = 0x170))
    ∧ (m.halted = false → m.stage0 = true → m.stage = 5 → s.cur.ix = 6 → s.tb.locked = true → exec .bootStage s = .next { s with mgmt := { m with stage := 6 } })
    ∧ (s.cur.flag = false → exec .boundaryScan s = .next { s with mgmt := { m with scanIr := s.cur.ix } })
    ∧ (s.cur.flag = true → m.otpDebug = false → Refuses s (exec .boundaryScan s))
    ∧ (s.cur.flag = true → m.otpDebug = true → exec .boundaryScan s = .refused .vendorDebug)

/-- Emergency save, power and bring-up: all of EmergencySaveRule, PowerAndBootRule. -/
def Obligations.SaveAndBoot : Prop :=
  EmergencySaveRule ∧ PowerAndBootRule

/-! ## The machine as a whole -/

/-- A word of the block r that thread t of a core may fetch now: running, not held by a wait, a freeze, a checkpoint or a queued record. -/
def Sys2Proof.Safety.Fetches (s : State) (core slot : Nat) (t : Thread) (r : Run) : Prop :=
  runOf s core slot = some r ∧ r.frozenAt = none ∧ getTh s (thKey core slot) = t ∧ t.running = true ∧ t.halted = false ∧ t.frozen = false
  ∧ t.wait = .none ∧ (getVoice s (thKey core slot)).ckDue = false ∧ recordDue s core slot r.part = false
  ∧ fetchable t.pc r.len = true ∧ s.cfgBad.contains (core, (r.base + t.pc) / 4 * 4) = false

/-- R158, R159, R192, R217 to R220, R264, R310: a step whose turn it is runs exec of the instruction that its word decodes to, with cur naming the
agent: a thread's word at its PC, an element's entry of the present slot, the drain's next word, the copy engine's next entry that is not cancelled and may issue, and an event. A thread's word with a cause of R158
takes that cause. Without power no event acts but the reset that ends it (R27, R421). The order of turns is the agenda of log 1. -/
def Obligations.StepRunsDecoded : Prop :=
  ∀ (s : State) (rest : List Act), let s0 : State := { s with todo := rest }
    (∀ core slot t r, s.todo = .thread core slot :: rest → let s1 : State := { s0 with cur := { core := core, slot := slot } }
      Fetches s1 core slot t r → let w := imageWord s1 core r t.pc
      (∀ i, wordCause w t.branch.isSome t.mode = none → decodePrompter w = some i → step s = exec i s1)
      ∧ (wordCause w t.branch.isSome t.mode ≠ none → step s = exec (.illegalWord w) s1))
    ∧ (∀ core slot row col p k i, s.todo = .elem core slot row col :: rest →
        let g := getReg s (thKey core slot); let key := 512 * (4 * (row / 4) + col / 4) + 32 * (4 * (row % 4) + col % 4) + k
        regionPos g = some (p, k) → (∀ r, runOf s core g.starter = some r → r.frozenAt = none) → planeBad s core slot row col key (tget g.opc 0 key) = false → decodeElement (tget g.opc 0 key) = some i →
        step s = exec i { s0 with cur := { core := core, slot := slot, row := row, col := col } })
    ∧ (∀ core id beat d i, s.todo = .epiWord core :: rest → (getCore s core).beat = some (id, beat) →
        (getCore s core).drains.find? (·.id == id) = some d → decodeEpilogue (d.prog.getD (getCore s core).pcEpi 0) = some i →
        step s = exec i { s0 with cur := { core := core } })
    ∧ (∀ core r i, s.todo = .copyIssue core :: rest → let s1 : State := { s0 with cur := { core := core } }
        let c : Copier := { getCopier s core with pos := skipCancelled (getCopier s core) }; let w := c.sched.getD c.pos []
        runOf s core 4 = some r → r.fireN ≤ s.cycle → r.frozenAt = none → c.pos < c.nent →
        mayIssue (setCopier s1 core c) r c ((w.getD 0 0).toNat / 2 ^ 60)
          (copyEntOf (w.getD 0 0).toNat (w.getD 1 0).toNat (w.getD 2 0).toNat (w.getD 3 0).toNat) = true →
        decodeCopy (entryWord w) = some i → step s = exec i (setCopier s1 core c))
    ∧ (∀ i c, s.todo = .row i c :: rest →
        ((s.mgmt.powered = true ∨ i = .coldReset) → step s = exec i { s0 with cur := c })
        ∧ (s.mgmt.powered = false → i ≠ .coldReset → step s = .next s0))

/-- R159 to R178: words written out from the encodings decode to the instructions they stand for. -/
def Obligations.DecodeWords : Prop :=
  decodePrompter 0b00000001000000010100100000000000 = some (.add 8 1 9)
  ∧ decodePrompter 0x056CFFFE = some (.addi 11 12 0xFFFE)
  ∧ decodePrompter 0x5040FFFD = some (.bct 2 0xFFFD)
  ∧ decodePrompter 0b10001001000010010101000000011011 = some (.aadd 8 9 10 false .acqRel .package)
  ∧ decodeElement 0b010000000000010000101011110001010000000000000000 = some (.eFadd ⟨1, 2, 47, 5, 0, 0, 0⟩)
  ∧ decodeEpilogue 0b00100000100100000000000000100011 = some (.pCvf 1 2 3 .rz)
  ∧ decodeCopy 0x000000FFFFFFFFFF000000000000000000000000000000000102000304050007
    = some (.cCopy ⟨1, 2, 3, 4, 5, 0, 7, 0, 0, 0, 0, 0, 0, 0, 0xFFF, 0xFFFFFFF⟩)

/-- R159 to R178: decoding the word of a well-formed instruction gives the instruction back, whatever its operands; an instruction with no word is
an event. -/
def Obligations.EncodeDecode : Prop := ∀ (i : Instr) (w : Nat), i.wf = true → encode i = some w → Decodes i w

/-- R159 to R178: a word that decodes is the word of a well-formed instruction, so that no two words stand for one instruction of a decoder. -/
def Obligations.DecodeEncode : Prop := ∀ (i : Instr) (w : Nat), Decodes i w → i.wf = true ∧ encode i = some w

/-- R4, R36, R68, R417, R420, R424, R429, R444: what a reset leaves: the timebase and its heartbeat, the power and thermal registers, the boot status, a
function's stream and ring registers, and nothing running. Of the fields that the manual gives no reset value, log 4 names the value; the canonical form is log 3. -/
def Sys2Proof.Safety.ResetStateRule : Prop :=
  let s := State.reset
  s.tb.ticks = 0 ∧ s.tb.stepPend = none ∧ s.tb.stepref = false ∧ s.tb.holdover = false ∧ rtRunning s = false
  ∧ s.tb.inc = 0x11111111 ∧ s.tb.hbexp = 6 ∧ s.tb.locked = false ∧ s.mgmt.capw = 200 ∧ s.mgmt.cape = 200 ∧ s.mgmt.capinf = false
  ∧ s.mgmt.t2e = 8 ∧ s.mgmt.t3 = 128 ∧ s.mgmt.t2 = 118 ∧ s.mgmt.t1 = 110 ∧ s.mgmt.saveEn = false ∧ s.mgmt.stage = 0 ∧ s.mgmt.failStg = 0xFF
  ∧ s.runs = [] ∧ s.scenes = [] ∧ (∀ n, (getStream s n).en = false ∧ (getStream s n).err = false ∧ (getStream s n).rbase = 0 ∧ (getStream s n).cmaddr = 0 ∧ (getStream s n).rdidx = 0 ∧ (getStream s n).wridx = 0 ∧ (getStream s n).log2n = 4)
  ∧ (∀ p, (getPart s p).enable = false ∧ (getPart s p).rt = false ∧ (getPart s p).quant = 1 ∧ (getPart s p).flrState = 0) ∧ memoriesWf s = true

/-- R4, R36: the bytes stored in a place are the bytes read there; no other byte changes; and a canonical memory stays canonical (log 3). -/
def Sys2Proof.Safety.MemoryLawsRule : Prop :=
  ∀ (s : State) (p : Place) (l : List Byte), rdMem (wrMem s p l) p l.length = l ∧ SameBytesBut s (wrMem s p l) p l.length
    ∧ (memoriesWf s = true → memoriesWf (wrMem s p l) = true)

/-- The reset state and the laws of memory: all of ResetStateRule, MemoryLawsRule. -/
def Obligations.ResetAndMemory : Prop :=
  ResetStateRule ∧ MemoryLawsRule

/-- R4, R36: every step keeps the canonical form of the three memories: addresses rise strictly, and no entry holds what an unlisted address reads as.
The form and the value of an unlisted address are the model's choice (log 3). -/
def Obligations.MemoriesStayCanonical : Prop := ∀ (s s' : State), memoriesWf s = true → step s = .next s' → memoriesWf s' = true
end

