-- ==== Sys2Proof/Laws/Tables.lean ====
section
/-! SUPPORT. The laws of tables and of memories: read after write, and the canonical form that every operation keeps. -/

namespace Sys2Proof.Machine

variable {α : Type}

/-! ## Read after write -/

@[simp] theorem tget_tins (t : Tab α) (d v : α) (k j : Nat) : tget (tins t k v) d j = if j = k then v else tget t d j := by
  induction t with
  | nil => by_cases h : k = j <;> simp [tins, tget, h, eq_comm]
  | cons p r ih =>
    obtain ⟨a, w⟩ := p
    by_cases h1 : a < k
    · simp only [tins, h1, if_true, tget, ih]
      split_ifs <;> first | rfl | omega
    · by_cases h2 : a = k
      · subst h2
        simp only [tins, lt_irrefl, if_false, if_true, tget]
        split_ifs <;> first | rfl | omega
      · simp only [tins, h1, h2, if_false, tget]
        split_ifs <;> first | rfl | omega

@[simp] theorem tget_tdel (t : Tab α) (d : α) (k j : Nat) : tget (tdel t k) d j = if j = k then d else tget t d j := by
  induction t with
  | nil => simp [tdel, tget]
  | cons p r ih =>
    obtain ⟨a, w⟩ := p
    by_cases h : a = k
    · simp only [tdel, h, if_true, ih, tget]
      split_ifs <;> first | rfl | omega
    · simp only [tdel, h, if_false, tget, ih]
      split_ifs <;> first | rfl | omega

@[simp] theorem tget_tput [DecidableEq α] (t : Tab α) (d v : α) (k j : Nat) :
    tget (tput t d k v) d j = if j = k then v else tget t d j := by
  unfold tput
  split_ifs with h1 h2 <;> simp [*]

/-- A byte read after a store of bytes from address a. -/
theorem tget_wrBytes (l : List Byte) : ∀ (m : Tab Byte) (a j : Nat),
    tget (wrBytes m a l) 0 j = if a ≤ j ∧ j < a + l.length then l.getD (j - a) 0 else tget m 0 j := by
  induction l with
  | nil => intro m a j; simp [wrBytes]
  | cons b r ih =>
    intro m a j
    rw [wrBytes, ih, tget_tput]
    by_cases h : j = a
    · subst h; simp
    · by_cases h2 : a ≤ j ∧ j < a + (b :: r).length
      · have h3 : a + 1 ≤ j ∧ j < a + 1 + r.length := by simp at h2; omega
        have h4 : j - a = (j - (a + 1)) + 1 := by omega
        rw [if_pos h3, if_pos h2, h4, List.getD_cons_succ]
      · have h3 : ¬ (a + 1 ≤ j ∧ j < a + 1 + r.length) := by simp at h2; omega
        rw [if_neg h3, if_neg h2, if_neg h]

@[simp] theorem length_rdBytes (m : Tab Byte) (n : Nat) : ∀ a, (rdBytes m a n).length = n := by
  induction n with
  | zero => intro a; rfl
  | succ n ih => intro a; simp [rdBytes, ih]

theorem rdBytes_getElem? (m : Tab Byte) (n : Nat) : ∀ a i, i < n → (rdBytes m a n)[i]? = some (tget m 0 (a + i)) := by
  induction n with
  | zero => intro a i h; omega
  | succ n ih =>
    intro a i h
    cases i with
    | zero => simp [rdBytes]
    | succ i => simp only [rdBytes, List.getElem?_cons_succ]; rw [ih _ _ (by omega)]; congr 2; omega

/-- The bytes stored are the bytes read. -/
theorem rdBytes_wrBytes_same (m : Tab Byte) (a : Nat) (l : List Byte) : rdBytes (wrBytes m a l) a l.length = l := by
  apply List.ext_getElem?
  intro i
  by_cases h : i < l.length
  · rw [rdBytes_getElem? _ _ _ _ h, tget_wrBytes]
    simp [h]
  · rw [List.getElem?_eq_none (by simp; omega), List.getElem?_eq_none (by omega)]

/-- Bytes outside a store read as before. -/
theorem rdBytes_wrBytes_apart (m : Tab Byte) (a b n : Nat) (l : List Byte) (h : b + n ≤ a ∨ a + l.length ≤ b) :
    rdBytes (wrBytes m a l) b n = rdBytes m b n := by
  apply List.ext_getElem?
  intro i
  by_cases hi : i < n
  · rw [rdBytes_getElem? _ _ _ _ hi, rdBytes_getElem? _ _ _ _ hi, tget_wrBytes, if_neg (by omega)]
  · rw [List.getElem?_eq_none (by simp; omega), List.getElem?_eq_none (by simp; omega)]

/-! ## The canonical form -/

/-- The first key of a table is above k. -/
def above (k : Nat) : Tab α → Prop
  | [] => True
  | p :: _ => k < p.1

theorem tabWf_cons [DecidableEq α] (d v : α) (a : Nat) (r : Tab α) :
    tabWf d ((a, v) :: r) = true ↔ above a r ∧ v ≠ d ∧ tabWf d r = true := by
  cases r with
  | nil => simp [tabWf, above]
  | cons p q => obtain ⟨b, w⟩ := p; simp [tabWf, above, and_assoc]

theorem above_trans {a b : Nat} {t : Tab α} (h : a < b) (ht : above b t) : above a t := by
  cases t with
  | nil => trivial
  | cons p r => exact Nat.lt_trans h ht

theorem above_tdel [DecidableEq α] (d : α) (k a : Nat) : ∀ t : Tab α, tabWf d t = true → above a t → above a (tdel t k) := by
  intro t
  induction t with
  | nil => intro _ _; trivial
  | cons p r ih =>
    obtain ⟨b, w⟩ := p
    intro hw h
    rw [tabWf_cons] at hw
    simp only [tdel]
    split_ifs
    · exact ih hw.2.2 (above_trans h hw.1)
    · exact h

theorem tabWf_tdel [DecidableEq α] (d : α) (k : Nat) : ∀ t : Tab α, tabWf d t = true → tabWf d (tdel t k) = true := by
  intro t
  induction t with
  | nil => intro _; rfl
  | cons p r ih =>
    obtain ⟨b, w⟩ := p
    intro hw
    rw [tabWf_cons] at hw
    simp only [tdel]
    split_ifs
    · exact ih hw.2.2
    · rw [tabWf_cons]; exact ⟨above_tdel d k b r hw.2.2 hw.1, hw.2.1, ih hw.2.2⟩

theorem above_tins (k a : Nat) (v : α) : ∀ t : Tab α, a < k → above a t → above a (tins t k v) := by
  intro t hk h
  cases t with
  | nil => exact hk
  | cons p r =>
    obtain ⟨b, w⟩ := p
    simp only [tins]
    split_ifs
    · exact h
    · exact hk
    · exact hk

theorem tabWf_tins [DecidableEq α] (d v : α) (k : Nat) (hv : v ≠ d) : ∀ t : Tab α, tabWf d t = true → tabWf d (tins t k v) = true := by
  intro t
  induction t with
  | nil => intro _; simp [tins, tabWf, hv]
  | cons p r ih =>
    obtain ⟨b, w⟩ := p
    intro hw
    have hw' := (tabWf_cons d w b r).1 hw
    simp only [tins]
    split_ifs with h1 h2
    · rw [tabWf_cons]; exact ⟨above_tins k b v r h1 hw'.1, hw'.2.1, ih hw'.2.2⟩
    · subst h2; rw [tabWf_cons]; exact ⟨hw'.1, hv, hw'.2.2⟩
    · rw [tabWf_cons]; exact ⟨by simp only [above]; omega, hv, hw⟩

/-- A write keeps the canonical form: the default is removed, anything else is put in its place. -/
theorem tabWf_tput [DecidableEq α] (d v : α) (k : Nat) (t : Tab α) (h : tabWf d t = true) : tabWf d (tput t d k v) = true := by
  unfold tput
  split_ifs with hv
  · exact tabWf_tdel d k t h
  · exact tabWf_tins d v k hv t h

/-- A store of bytes keeps the canonical form of a memory. -/
theorem tabWf_wrBytes (l : List Byte) : ∀ (m : Tab Byte) (a : Nat), tabWf 0 m = true → tabWf 0 (wrBytes m a l) = true := by
  induction l with
  | nil => intro m a h; exact h
  | cons b r ih => intro m a h; exact ih _ _ (tabWf_tput 0 b a m h)

/-! ## Byte order -/

@[simp] theorem length_leBytes (n : Nat) : ∀ v, (leBytes n v).length = n := by
  induction n with
  | zero => intro v; rfl
  | succ n ih => intro v; simp [leBytes, ih]

/-- The little-endian value of the bytes of a number. -/
theorem leNat_leBytes (n : Nat) : ∀ v, leNat (leBytes n v) = v % 256 ^ n := by
  induction n with
  | zero => intro v; simp [leBytes, leNat, Nat.mod_one]
  | succ n ih =>
    intro v
    simp only [leBytes, leNat, ih, BitVec.toNat_ofNat]
    rw [show 256 ^ (n + 1) = 256 * 256 ^ n by rw [Nat.pow_succ, Nat.mul_comm], Nat.mod_mul]

end Sys2Proof.Machine
end

