-- ==== Sys2Proof/Laws/Memory.lean ====
section
/-! SUPPORT. Every operation on a memory keeps its canonical form, and what the shared operations of `Ops` leave alone. -/

namespace Sys2Proof.Machine

variable {α : Type}

/-! ## The canonical form -/

/-- What is left of a canonical table keeps a bound of its keys. -/
theorem above_filter [DecidableEq α] (d : α) (p : Nat × α → Bool) (a : Nat) : ∀ t : Tab α, tabWf d t = true → above a t → above a (t.filter p) := by
  intro t
  induction t with
  | nil => intro _ h; exact h
  | cons q r ih =>
    obtain ⟨b, w⟩ := q
    intro hw h
    rw [tabWf_cons] at hw
    by_cases hp : p (b, w) = true
    · rw [List.filter_cons_of_pos hp]; exact h
    · rw [List.filter_cons_of_neg hp]; exact ih hw.2.2 (above_trans h hw.1)

/-- A part of a canonical table is canonical. -/
theorem tabWf_filter [DecidableEq α] (d : α) (p : Nat × α → Bool) : ∀ t : Tab α, tabWf d t = true → tabWf d (t.filter p) = true := by
  intro t
  induction t with
  | nil => intro h; exact h
  | cons q r ih =>
    obtain ⟨b, w⟩ := q
    intro hw
    rw [tabWf_cons] at hw
    by_cases hp : p (b, w) = true
    · rw [List.filter_cons_of_pos hp, tabWf_cons]; exact ⟨above_filter d p b r hw.2.2 hw.1, hw.2.1, ih hw.2.2⟩
    · rw [List.filter_cons_of_neg hp]; exact ih hw.2.2

/-- Bytes stored leave a memory canonical. -/
theorem Memory.wf_wrBytes (m : List Host.Cell) (a : Nat) (l : List Byte) (h : Memory.wf m = true) : Memory.wf (wrBytes m a l) = true :=
  tabWf_wrBytes l m a h

/-- So do ranges that become zero. -/
theorem Memory.wf_zeroRanges (m : List Host.Cell) (l : List (Nat × Nat)) (h : Memory.wf m = true) : Memory.wf (zeroRanges m l) = true :=
  tabWf_filter 0 _ m h

/-- So does a list of single bytes. -/
theorem Memory.wf_puts (l : List Host.Cell) : ∀ m, Memory.wf m = true → Memory.wf (l.foldl (fun m c => tput m 0 c.1 c.2) m) = true := by
  induction l with
  | nil => intro m h; exact h
  | cons c r ih => intro m h; exact ih _ (tabWf_tput 0 c.2 c.1 m h)

/-- So does a range that is copied. -/
theorem Memory.wf_copyRange (m : List Host.Cell) (a b n : Nat) (h : Memory.wf m = true) : Memory.wf (copyRange m a b n) = true :=
  Memory.wf_puts _ _ (Memory.wf_zeroRanges m _ h)

theorem memoriesWf_reset : memoriesWf State.reset = true := rfl

/-- The three memories are as before. -/
def SameMem (s s' : State) : Prop := s'.mem = s.mem ∧ s'.hostMem = s.hostMem ∧ s'.safetyMem = s.safetyMem

theorem SameMem.refl (s : State) : SameMem s s := ⟨rfl, rfl, rfl⟩
theorem SameMem.trans {s t u : State} (h : SameMem s t) (k : SameMem t u) : SameMem s u :=
  ⟨k.1.trans h.1, k.2.1.trans h.2.1, k.2.2.trans h.2.2⟩
/-- A step that leaves the memories as they are keeps them canonical. -/
theorem SameMem.wf {s s' : State} (h : SameMem s s') (w : memoriesWf s = true) : memoriesWf s' = true := by
  unfold memoriesWf at *
  rwa [h.1, h.2.1, h.2.2]
/-- And every byte reads as before. -/
theorem SameMem.sameBytes {s s' : State} (h : SameMem s s') : Safety.SameBytes s s' := by
  intro p
  obtain ⟨st, a⟩ := p
  cases st <;> simp [rdMem, h.1, h.2.1, h.2.2]
/-- A fold of steps that leave the memories as they are. -/
theorem SameMem.foldl {β : Type} (f : State → β → State) (h : ∀ s b, SameMem s (f s b)) (l : List β) : ∀ s, SameMem s (l.foldl f s) := by
  induction l with
  | nil => intro s; exact .refl s
  | cons b r ih => intro s; exact (h s b).trans (ih _)

/-! ## What the shared operations leave alone -/

theorem sameMem_schedule (s : State) (c : Clk) (n : Nat) (a : Act) : SameMem s (schedule s c n a) := ⟨rfl, rfl, rfl⟩
theorem sameMem_soon (s : State) (a : Act) : SameMem s (soon s a) := ⟨rfl, rfl, rfl⟩
theorem sameMem_next (s : State) (a : Act) : SameMem s (next s a) := ⟨rfl, rfl, rfl⟩
theorem sameMem_drawn (s : State) : SameMem s (drawn s) := ⟨rfl, rfl, rfl⟩
theorem sameMem_setTh (s : State) (k : Nat) (t : Thread) : SameMem s (setTh s k t) := ⟨rfl, rfl, rfl⟩
theorem sameMem_setReg (s : State) (k : Nat) (g : Region) : SameMem s (setReg s k g) := ⟨rfl, rfl, rfl⟩
theorem sameMem_setEl (s : State) (k : Nat) (e : Elem) : SameMem s (setEl s k e) := ⟨rfl, rfl, rfl⟩
theorem sameMem_setCue (s : State) (k : Nat) (q : Cue) : SameMem s (setCue s k q) := ⟨rfl, rfl, rfl⟩
theorem sameMem_setCore (s : State) (k : Nat) (c : Core) : SameMem s (setCore s k c) := ⟨rfl, rfl, rfl⟩
theorem sameMem_setPart (s : State) (k : Nat) (p : Part) : SameMem s (setPart s k p) := ⟨rfl, rfl, rfl⟩
theorem sameMem_setCopier (s : State) (k : Nat) (c : Copier) : SameMem s (setCopier s k c) := ⟨rfl, rfl, rfl⟩
theorem sameMem_setScene (s : State) (k : Nat) (x : Scene) : SameMem s (setScene s k x) := ⟨rfl, rfl, rfl⟩
theorem sameMem_setVoice (s : State) (k : Nat) (v : Voice) : SameMem s (setVoice s k v) := ⟨rfl, rfl, rfl⟩
theorem sameMem_setStream (s : State) (k : Nat) (v : Stream) : SameMem s (setStream s k v) := ⟨rfl, rfl, rfl⟩
theorem sameMem_setRing (s : State) (k : Nat) (v : Ring) : SameMem s (setRing s k v) := ⟨rfl, rfl, rfl⟩
theorem sameMem_setPh (s : State) (k : Nat) (p : Phaser) : SameMem s (setPh s k p) := ⟨rfl, rfl, rfl⟩
/-- A phaser stored may have its boundary come, and touches no memory. -/
theorem sameMem_putPh (s : State) (k : Nat) (p : Phaser) : SameMem s (putPh s k p) := by
  unfold putPh
  split_ifs
  · exact (sameMem_setPh s k p).trans (sameMem_soon _ _)
  · exact sameMem_setPh s k p
/-- A reply reaches its thread and touches no memory. -/
theorem sameMem_reply (s : State) (id die cyc cause : Nat) (v : W64) (d : Option Nat) : SameMem s (reply s id die cyc cause v d) := ⟨rfl, rfl, rfl⟩
/-- A record that is counted touches no memory. -/
theorem sameMem_countTime (s : State) (cause : Nat) : SameMem s (countTime s cause) := by
  unfold countTime
  split_ifs <;> exact ⟨rfl, rfl, rfl⟩
/-- A record that is queued touches no memory before its cycle ends. -/
theorem sameMem_queueWith (s : State) (core part : Nat) (w : Why) (lc block cue gang : Nat) :
    SameMem s (queueWith s core part w lc block cue gang) :=
  (sameMem_countTime s w.cause).trans ⟨rfl, rfl, rfl⟩
theorem sameMem_queueFor (s : State) (core : Nat) (r : Run) (w : Why) : SameMem s (queueFor s core r w) := sameMem_queueWith _ _ _ w _ _ _ _
/-- The waits of an object are evaluated without touching memory. -/
theorem sameMem_objWake (s : State) (k : Nat) : SameMem s (objWake s k) :=
  SameMem.trans (t := { s with objWaiters := _ }) ⟨rfl, rfl, rfl⟩ (SameMem.foldl _ (fun s _ => sameMem_reply s _ _ _ _ _ _) _ _)

/-- A store of bytes keeps the memories canonical. -/
theorem memoriesWf_stored (s : State) (p : Place) (l : List Byte) (h : memoriesWf s = true) :
    Memory.wf (match p.store with
      | .dev => (wrMem s p l).mem
      | .host => (wrMem s p l).hostMem
      | .safety => (wrMem s p l).safetyMem) = true := by
  unfold memoriesWf at h
  simp only [Bool.and_eq_true] at h
  obtain ⟨st, a⟩ := p
  cases st
  · exact Memory.wf_wrBytes _ _ _ h.1.1
  · exact Memory.wf_wrBytes _ _ _ h.1.2
  · exact Memory.wf_wrBytes _ _ _ h.2

/-! ## Taking a trap -/

/-- Taking a trap in user mode whose handler can be fetched changes the thread and nothing else: the trap's registers are saved, and the thread goes on in
supervisor mode at its vector (R258, R366). -/
theorem takeTrap_user {s : State} {core slot cause : Nat} {r : Run} (h : runOf s core slot = some r) (hm : (getTh s (thKey core slot)).mode = false)
    (hf : fetchable (vector (getTh s (thKey core slot)) cause) r.len = true) (hv : 32 ≤ vector (getTh s (thKey core slot)) cause)
    (i0 i1 i2 : Nat) (done : Bool) :
    takeTrap s core slot cause i0 i1 i2 done = setTh s (thKey core slot) { trapRegs s (getTh s (thKey core slot)) r slot cause i0 i1 i2 done with
      mode := true, pc := vector (getTh s (thKey core slot)) cause, wait := .none } := by
  unfold takeTrap
  simp only [h, hm, hf, hv, Bool.false_eq_true, if_false, decide_true, Bool.and_self, if_true]

end Sys2Proof.Machine
end

