-- ==== Sys2Proof/Laws/PerInstr.lean ====
section
/-! SUPPORT. One lemma for each instruction: the decoders give it back from its word, which has the size of its kind. -/

set_option Elab.async false
set_option linter.unusedSimpArgs false
set_option linter.unreachableTactic false
set_option linter.unusedTactic false

namespace Sys2Proof.Laws

open Sys2Proof Sys2Proof.Safety

/-! ## Words and their fields -/

theorem decodePrompter_fields (op d a n : Nat) (hd : d < 32) (ha : a < 32) (hn : n < 65536) :
    decodePrompter (encRI op d a n) = decodeFields op d a n := by
  unfold decodePrompter encRI
  congr 1 <;> omega
theorem encRI_lt (op d a n : Nat) (ho : op < 64) (hd : d < 32) (ha : a < 32) (hn : n < 65536) : encRI op d a n < 2 ^ 32 := by
  unfold encRI; omega

theorem encRI_jump (op off : Nat) :
    encRI op (off / 2 ^ 21) (off / 2 ^ 16 % 32) (off % 65536) = op * 2 ^ 26 + off := by unfold encRI; omega

/-- A prompter word of format F-RI. -/
theorem prompter_word {op d a n w : Nat} {x : Instr} (ho : op < 64) (hd : d < 32) (ha : a < 32) (hn : n < 65536)
    (he : encRI op d a n = w) (hx : decodeFields op d a n = some x) : Decodes x w := by
  subst he
  exact .inl ⟨encRI_lt _ _ _ _ ho hd ha hn, (decodePrompter_fields _ _ _ _ hd ha hn).trans hx⟩
theorem encRR_eq (op d a b fn : Nat) : encRR op d a b fn = encRI op d a (b * 2 ^ 11 + fn) := by simp [encRR, encRI]; omega
theorem encSY_eq (op d a b sub k : Nat) : encSY op d a b sub k = encRI op d a (b * 2 ^ 11 + (sub * 64 + k)) := by simp [encSY, encRI]; omega
/-- A word of major opcode 0. -/
theorem alu_word {d a b fn w : Nat} {x : Instr} (hd : d < 32) (ha : a < 32) (hb : b < 32) (hf : fn < 2048)
    (he : encRR 0 d a b fn = w) (hx : decAlu d a b fn = some x) : Decodes x w := by
  refine prompter_word (by omega) hd ha (by omega) ((encRR_eq ..).symm.trans he) ?_
  have h1 : (b * 2 ^ 11 + fn) / 2 ^ 11 = b := by omega
  have h2 : (b * 2 ^ 11 + fn) % 2048 = fn := by omega
  have h3 : ∀ n, decodeFields 0 d a n = decAlu d a (n / 2 ^ 11) (n % 2048) := fun _ => rfl
  rw [h3, h1, h2, hx]
/-- A word of major opcode 0x15. -/
theorem link_word {d a b fn w : Nat} {x : Instr} (hd : d < 32) (ha : a < 32) (hb : b < 32) (hf : fn < 2048)
    (he : encRR 0x15 d a b fn = w) (hx : decLink d a b fn = some x) : Decodes x w := by
  refine prompter_word (by omega) hd ha (by omega) ((encRR_eq ..).symm.trans he) ?_
  have h1 : (b * 2 ^ 11 + fn) / 2 ^ 11 = b := by omega
  have h2 : (b * 2 ^ 11 + fn) % 2048 = fn := by omega
  have h3 : ∀ n, decodeFields 0x15 d a n = decLink d a (n / 2 ^ 11) (n % 2048) := fun _ => rfl
  rw [h3, h1, h2, hx]
/-- A word of format F-SY whose opcode f decodes. -/
theorem sync_word {op d a b sub k w : Nat} {x : Instr} {f : Nat → Nat → Nat → Nat → Nat → Option Instr} (ho : op < 64) (hd : d < 32) (ha : a < 32)
    (hb : b < 32) (hs : sub < 32) (hk : k < 64) (he : encSY op d a b sub k = w)
    (hf : ∀ n, decodeFields op d a n = f d a (n / 2 ^ 11) (n / 64 % 32) (n % 64)) (hx : f d a b sub k = some x) : Decodes x w := by
  refine prompter_word ho hd ha (by omega) ((encSY_eq ..).symm.trans he) ?_
  have h1 : (b * 2 ^ 11 + (sub * 64 + k)) / 2 ^ 11 = b := by omega
  have h2 : (b * 2 ^ 11 + (sub * 64 + k)) / 64 % 32 = sub := by omega
  have h3 : (b * 2 ^ 11 + (sub * 64 + k)) % 64 = k := by omega
  rw [hf, h1, h2, h3, hx]

theorem scope_lt (s : Scope) : scopeCode s < 5 := by cases s <;> decide
theorem scopeOf_code (s : Scope) : scopeOf (scopeCode s) = some s := by cases s <;> rfl
theorem order_lt (o : Order) : orderCode o < 4 := by cases o <;> decide
theorem orderOf_code (o : Order) : orderOf (orderCode o) = o := by cases o <;> rfl
theorem plane_lt (p : Plane) : planeCode p < 4 := by cases p <;> decide
theorem planeOf_code (p : Plane) : planeOf (planeCode p) = p := by cases p <;> rfl
theorem round_code {r : RMode} (h : ¬ r = .sr) : roundCode r < 4 ∧ roundOf (roundCode r) = r := by
  cases r <;> first | exact ⟨by decide, rfl⟩ | exact absurd rfl h

/-- An atomic word. -/
theorem atomic_word {d a b sub w : Nat} {l : Bool} {o : Order} {s : Scope} {x : Instr} (hd : d < 32) (ha : a < 32) (hb : b < 32) (hs : sub < 32)
    (he : encSY 0x22 d a b sub (atomK l o s) = w)
    (hx : ∀ k, k / 32 = (if l then 1 else 0) → orderOf (k / 8 % 4) = o → scopeOf (k % 8) = some s → decAtomic d a b sub k = some x) :
    Decodes x w := by
  have h1 := scope_lt s
  have h2 := order_lt o
  refine sync_word (f := decAtomic) (by omega) hd ha hb hs (by unfold atomK; split <;> omega) he (fun _ => rfl) (hx _ ?_ ?_ ?_)
  · unfold atomK; split <;> omega
  · have : atomK l o s / 8 % 4 = orderCode o := by unfold atomK; split <;> omega
    rw [this, orderOf_code]
  · have : atomK l o s % 8 = scopeCode s := by unfold atomK; split <;> omega
    rw [this, scopeOf_code]

/-- An epilogue word. -/
theorem epilogue_word {op d a b n w : Nat} {x : Instr} (ho : op < 32) (hd : d < 16) (ha : a < 16) (hb : b < 16) (hn : n < 2 ^ 15)
    (he : encEp op d a b n = w)
    (hx : ∀ v, v / 2 ^ 27 = op → v / 2 ^ 23 % 16 = d → v / 2 ^ 19 % 16 = a → v / 2 ^ 15 % 16 = b → v % 2 ^ 15 = n → decodeEpilogue v = some x) :
    Decodes x w := by
  subst he
  exact .inr (.inl ⟨by unfold encEp; omega, hx _ (by unfold encEp; omega) (by unfold encEp; omega) (by unfold encEp; omega)
    (by unfold encEp; omega) (by unfold encEp; omega)⟩)

theorem immOk_lt (r : ImmRole) (m : Nat) (h : immOk r m = true) : m < 256 := by
  cases r <;> simp [immOk, pairOk] at h <;> omega
/-- The fields of a legal entry fit. -/
theorem entOk_lt {opc : Nat} {x : Ent} (h : entOk opc x = true) :
    x.sa < 64 ∧ x.sb < 64 ∧ x.sc < 64 ∧ x.dst < 64 ∧ x.lnk < 16 ∧ x.grd < 16 ∧ x.imm < 256 := by
  unfold entOk at h
  split at h
  · cases h
  · rename_i f _
    dsimp only at h
    split at h
    · simp only [Bool.and_eq_true, beq_iff_eq, decide_eq_true_eq] at h
      omega
    · simp only [Bool.and_eq_true, srcOk, dstOk, grdOk, decide_eq_true_eq] at h
      obtain ⟨⟨⟨⟨⟨⟨⟨⟨⟨⟨⟨⟨⟨⟨h1, h2⟩, h3⟩, h4⟩, h5⟩, h6⟩, h7⟩, -⟩, -⟩, -⟩, -⟩, -⟩, -⟩, -⟩, -⟩ := h
      have h8 := immOk_lt _ _ h7
      simp only [Bool.or_eq_true, decide_eq_true_eq, beq_iff_eq] at h4
      omega
theorem entOf_enc (opc : Nat) (x : Ent) (h : x.sa < 64 ∧ x.sb < 64 ∧ x.sc < 64 ∧ x.dst < 64 ∧ x.lnk < 16 ∧ x.grd < 16 ∧ x.imm < 256) :
    entOf (encEnt opc x) = x := by
  obtain ⟨a, b, c, d, l, g, m⟩ := x
  simp only [encEnt, entOf, Ent.mk.injEq] at h ⊢
  refine ⟨?_, ?_, ?_, ?_, ?_, ?_, ?_⟩ <;> omega
/-- An element entry. -/
theorem element_word {opc w : Nat} {x : Ent} {y : Instr} (ho : opc < 256) (hw : entOk opc x = true) (he : encEnt opc x = w)
    (hy : elemOf opc x = some y) : Decodes y w := by
  have h := entOk_lt hw
  subst he
  have e0 : encEnt opc x / 2 ^ 40 = opc := by unfold encEnt; omega
  refine .inr (.inr (.inl ⟨by unfold encEnt; omega, ?_⟩))
  rw [decodeElement, e0, entOf_enc _ _ h, if_pos hw, hy]

/-- A word's four parts, and the fields of two of them. -/
theorem copyEntOf_enc (e : CopyEnt) (k : Nat) (h : e.bank < 16 ∧ e.stage < 256 ∧ e.start < 65536 ∧ e.stid < 256 ∧ e.dtid < 256 ∧ e.itid < 256
    ∧ e.rid < 256 ∧ e.rows < 256 ∧ e.cols < 256 ∧ e.cvtFmt < 16 ∧ e.cvtRm < 4 ∧ e.cvtScale < 4 ∧ e.ph < 4096 ∧ e.ctr < 2 ^ 28) :
    copyEntOf (k * 2 ^ 60 + e.bank * 2 ^ 56 + e.stage * 2 ^ 48 + e.start * 2 ^ 32 + e.stid * 2 ^ 24 + e.dtid * 2 ^ 16 + e.itid * 2 ^ 8 + e.rid)
      e.w1 e.w2 (e.rows * 2 ^ 56 + e.cols * 2 ^ 48 + e.cvtFmt * 2 ^ 44 + e.cvtRm * 2 ^ 42 + e.cvtScale * 2 ^ 40 + e.ph * 2 ^ 28 + e.ctr) = e := by
  cases e
  simp only [copyEntOf, CopyEnt.mk.injEq] at h ⊢
  refine ⟨?_, ?_, ?_, ?_, ?_, ?_, ?_, trivial, trivial, ?_, ?_, ?_, ?_, ?_, ?_, ?_⟩ <;> omega
theorem parts (a b c d : Nat) (ha : a < 2 ^ 64) (hb : b < 2 ^ 64) (hc : c < 2 ^ 64) (hd : d < 2 ^ 64) :
    let w := a + b * 2 ^ 64 + c * 2 ^ 128 + d * 2 ^ 192
    w % 2 ^ 64 = a ∧ w / 2 ^ 64 % 2 ^ 64 = b ∧ w / 2 ^ 128 % 2 ^ 64 = c ∧ w / 2 ^ 192 % 2 ^ 64 = d ∧ w < 2 ^ 256 := by
  intro w
  refine ⟨?_, ?_, ?_, ?_, ?_⟩ <;> omega
/-- A copy entry. -/
theorem copy_word {kind w : Nat} {e : CopyEnt} {y : Instr} (hk : kind < 16) (hw : e.fieldsOk = true) (he : encCopy kind e = w)
    (hy : ∀ v, v % 2 ^ 64 / 2 ^ 60 = kind →
      copyEntOf (v % 2 ^ 64) (v / 2 ^ 64 % 2 ^ 64) (v / 2 ^ 128 % 2 ^ 64) (v / 2 ^ 192 % 2 ^ 64) = e → decodeCopy v = some y) : Decodes y w := by
  subst he
  have h := hw
  simp only [CopyEnt.fieldsOk, Bool.and_eq_true, decide_eq_true_eq] at h
  obtain ⟨q0, q1, q2, q3, q4⟩ := parts (kind * 2 ^ 60 + e.bank * 2 ^ 56 + e.stage * 2 ^ 48 + e.start * 2 ^ 32 + e.stid * 2 ^ 24 + e.dtid * 2 ^ 16
      + e.itid * 2 ^ 8 + e.rid) e.w1 e.w2 (e.rows * 2 ^ 56 + e.cols * 2 ^ 48 + e.cvtFmt * 2 ^ 44 + e.cvtRm * 2 ^ 42 + e.cvtScale * 2 ^ 40
      + e.ph * 2 ^ 28 + e.ctr) (by omega) (by omega) (by omega) (by omega)
  refine .inr (.inr (.inr ⟨q4, hy _ ?_ ?_⟩))
  · rw [encCopy, q0]; omega
  · rw [encCopy, q0, q1, q2, q3]
    exact copyEntOf_enc e kind (by omega)

/-- From a well-formedness of two, three and four parts. -/
theorem and2 {p q : Bool} (h : (p && q) = true) : p = true ∧ q = true := by simpa using h
theorem need_of {c : Bool} (x : Instr) (h : c = true) : need c x = some x := by simp [need, h]

namespace RoundTrip

/-- A well-formed instruction's word gives the instruction back. -/
def Statement (x : Instr) : Prop := ∀ w, x.wf = true → encode x = some w → Decodes x w

theorem add (d : Nat) (a : Nat) (b : Nat) : Statement (.add d a b) := by
  intro word hw he
  have hw : (regOk d && regOk a && regOk b) = true := hw
  simp only [Bool.and_eq_true, decide_eq_true_eq] at hw
  exact alu_word (by omega) (by omega) (by omega) (by omega) (Option.some.inj he) rfl
theorem sub (d : Nat) (a : Nat) (b : Nat) : Statement (.sub d a b) := by
  intro word hw he
  have hw : (regOk d && regOk a && regOk b) = true := hw
  simp only [Bool.and_eq_true, decide_eq_true_eq] at hw
  exact alu_word (by omega) (by omega) (by omega) (by omega) (Option.some.inj he) rfl
theorem mul (d : Nat) (a : Nat) (b : Nat) : Statement (.mul d a b) := by
  intro word hw he
  have hw : (regOk d && regOk a && regOk b) = true := hw
  simp only [Bool.and_eq_true, decide_eq_true_eq] at hw
  exact alu_word (by omega) (by omega) (by omega) (by omega) (Option.some.inj he) rfl
theorem mulh (d : Nat) (a : Nat) (b : Nat) : Statement (.mulh d a b) := by
  intro word hw he
  have hw : (regOk d && regOk a && regOk b) = true := hw
  simp only [Bool.and_eq_true, decide_eq_true_eq] at hw
  exact alu_word (by omega) (by omega) (by omega) (by omega) (Option.some.inj he) rfl
theorem mulhu (d : Nat) (a : Nat) (b : Nat) : Statement (.mulhu d a b) := by
  intro word hw he
  have hw : (regOk d && regOk a && regOk b) = true := hw
  simp only [Bool.and_eq_true, decide_eq_true_eq] at hw
  exact alu_word (by omega) (by omega) (by omega) (by omega) (Option.some.inj he) rfl
theorem andR (d : Nat) (a : Nat) (b : Nat) : Statement (.andR d a b) := by
  intro word hw he
  have hw : (regOk d && regOk a && regOk b) = true := hw
  simp only [Bool.and_eq_true, decide_eq_true_eq] at hw
  exact alu_word (by omega) (by omega) (by omega) (by omega) (Option.some.inj he) rfl
theorem orR (d : Nat) (a : Nat) (b : Nat) : Statement (.orR d a b) := by
  intro word hw he
  have hw : (regOk d && regOk a && regOk b) = true := hw
  simp only [Bool.and_eq_true, decide_eq_true_eq] at hw
  exact alu_word (by omega) (by omega) (by omega) (by omega) (Option.some.inj he) rfl
theorem xorR (d : Nat) (a : Nat) (b : Nat) : Statement (.xorR d a b) := by
  intro word hw he
  have hw : (regOk d && regOk a && regOk b) = true := hw
  simp only [Bool.and_eq_true, decide_eq_true_eq] at hw
  exact alu_word (by omega) (by omega) (by omega) (by omega) (Option.some.inj he) rfl
theorem andnR (d : Nat) (a : Nat) (b : Nat) : Statement (.andnR d a b) := by
  intro word hw he
  have hw : (regOk d && regOk a && regOk b) = true := hw
  simp only [Bool.and_eq_true, decide_eq_true_eq] at hw
  exact alu_word (by omega) (by omega) (by omega) (by omega) (Option.some.inj he) rfl
theorem shl (d : Nat) (a : Nat) (b : Nat) : Statement (.shl d a b) := by
  intro word hw he
  have hw : (regOk d && regOk a && regOk b) = true := hw
  simp only [Bool.and_eq_true, decide_eq_true_eq] at hw
  exact alu_word (by omega) (by omega) (by omega) (by omega) (Option.some.inj he) rfl
theorem shr (d : Nat) (a : Nat) (b : Nat) : Statement (.shr d a b) := by
  intro word hw he
  have hw : (regOk d && regOk a && regOk b) = true := hw
  simp only [Bool.and_eq_true, decide_eq_true_eq] at hw
  exact alu_word (by omega) (by omega) (by omega) (by omega) (Option.some.inj he) rfl
theorem sar (d : Nat) (a : Nat) (b : Nat) : Statement (.sar d a b) := by
  intro word hw he
  have hw : (regOk d && regOk a && regOk b) = true := hw
  simp only [Bool.and_eq_true, decide_eq_true_eq] at hw
  exact alu_word (by omega) (by omega) (by omega) (by omega) (Option.some.inj he) rfl
theorem minS (d : Nat) (a : Nat) (b : Nat) : Statement (.minS d a b) := by
  intro word hw he
  have hw : (regOk d && regOk a && regOk b) = true := hw
  simp only [Bool.and_eq_true, decide_eq_true_eq] at hw
  exact alu_word (by omega) (by omega) (by omega) (by omega) (Option.some.inj he) rfl
theorem maxS (d : Nat) (a : Nat) (b : Nat) : Statement (.maxS d a b) := by
  intro word hw he
  have hw : (regOk d && regOk a && regOk b) = true := hw
  simp only [Bool.and_eq_true, decide_eq_true_eq] at hw
  exact alu_word (by omega) (by omega) (by omega) (by omega) (Option.some.inj he) rfl
theorem minU (d : Nat) (a : Nat) (b : Nat) : Statement (.minU d a b) := by
  intro word hw he
  have hw : (regOk d && regOk a && regOk b) = true := hw
  simp only [Bool.and_eq_true, decide_eq_true_eq] at hw
  exact alu_word (by omega) (by omega) (by omega) (by omega) (Option.some.inj he) rfl
theorem maxU (d : Nat) (a : Nat) (b : Nat) : Statement (.maxU d a b) := by
  intro word hw he
  have hw : (regOk d && regOk a && regOk b) = true := hw
  simp only [Bool.and_eq_true, decide_eq_true_eq] at hw
  exact alu_word (by omega) (by omega) (by omega) (by omega) (Option.some.inj he) rfl
theorem slt (d : Nat) (a : Nat) (b : Nat) : Statement (.slt d a b) := by
  intro word hw he
  have hw : (regOk d && regOk a && regOk b) = true := hw
  simp only [Bool.and_eq_true, decide_eq_true_eq] at hw
  exact alu_word (by omega) (by omega) (by omega) (by omega) (Option.some.inj he) rfl
theorem sltu (d : Nat) (a : Nat) (b : Nat) : Statement (.sltu d a b) := by
  intro word hw he
  have hw : (regOk d && regOk a && regOk b) = true := hw
  simp only [Bool.and_eq_true, decide_eq_true_eq] at hw
  exact alu_word (by omega) (by omega) (by omega) (by omega) (Option.some.inj he) rfl
theorem seq (d : Nat) (a : Nat) (b : Nat) : Statement (.seq d a b) := by
  intro word hw he
  have hw : (regOk d && regOk a && regOk b) = true := hw
  simp only [Bool.and_eq_true, decide_eq_true_eq] at hw
  exact alu_word (by omega) (by omega) (by omega) (by omega) (Option.some.inj he) rfl
theorem popc (d : Nat) (a : Nat) : Statement (.popc d a) := by
  intro word hw he
  have hw : (regOk d && regOk a) = true := hw
  simp only [Bool.and_eq_true, decide_eq_true_eq] at hw
  exact alu_word (by omega) (by omega) (by omega) (by omega) (Option.some.inj he) rfl
theorem clz (d : Nat) (a : Nat) : Statement (.clz d a) := by
  intro word hw he
  have hw : (regOk d && regOk a) = true := hw
  simp only [Bool.and_eq_true, decide_eq_true_eq] at hw
  exact alu_word (by omega) (by omega) (by omega) (by omega) (Option.some.inj he) rfl
theorem addi (d : Nat) (a : Nat) (n : Nat) : Statement (.addi d a n) := by
  intro word hw he
  have hw : (regOk d && regOk a && n < 65536) = true := hw
  simp only [Bool.and_eq_true, decide_eq_true_eq] at hw
  exact prompter_word (by omega) (by omega) (by omega) (by omega) (Option.some.inj he) rfl
theorem andi (d : Nat) (a : Nat) (n : Nat) : Statement (.andi d a n) := by
  intro word hw he
  have hw : (regOk d && regOk a && n < 65536) = true := hw
  simp only [Bool.and_eq_true, decide_eq_true_eq] at hw
  exact prompter_word (by omega) (by omega) (by omega) (by omega) (Option.some.inj he) rfl
theorem ori (d : Nat) (a : Nat) (n : Nat) : Statement (.ori d a n) := by
  intro word hw he
  have hw : (regOk d && regOk a && n < 65536) = true := hw
  simp only [Bool.and_eq_true, decide_eq_true_eq] at hw
  exact prompter_word (by omega) (by omega) (by omega) (by omega) (Option.some.inj he) rfl
theorem xori (d : Nat) (a : Nat) (n : Nat) : Statement (.xori d a n) := by
  intro word hw he
  have hw : (regOk d && regOk a && n < 65536) = true := hw
  simp only [Bool.and_eq_true, decide_eq_true_eq] at hw
  exact prompter_word (by omega) (by omega) (by omega) (by omega) (Option.some.inj he) rfl
theorem shli (d : Nat) (a : Nat) (n : Nat) : Statement (.shli d a n) := by
  intro word hw he
  have hw : (regOk d && regOk a && n < 64) = true := hw
  simp only [Bool.and_eq_true, decide_eq_true_eq] at hw
  have h1 : (n) / 64 = 0 := by omega
  have h2 : (n) % 64 = n := by omega
  exact prompter_word (by omega) (by omega) (by omega) (by omega) (Option.some.inj he) (by show decShift d a (n) = _; simp [decShift, h1, h2])
theorem shri (d : Nat) (a : Nat) (n : Nat) : Statement (.shri d a n) := by
  intro word hw he
  have hw : (regOk d && regOk a && n < 64) = true := hw
  simp only [Bool.and_eq_true, decide_eq_true_eq] at hw
  have h1 : (64 + n) / 64 = 1 := by omega
  have h2 : (64 + n) % 64 = n := by omega
  exact prompter_word (by omega) (by omega) (by omega) (by omega) (Option.some.inj he) (by show decShift d a (64 + n) = _; simp [decShift, h1, h2])
theorem sari (d : Nat) (a : Nat) (n : Nat) : Statement (.sari d a n) := by
  intro word hw he
  have hw : (regOk d && regOk a && n < 64) = true := hw
  simp only [Bool.and_eq_true, decide_eq_true_eq] at hw
  have h1 : (128 + n) / 64 = 2 := by omega
  have h2 : (128 + n) % 64 = n := by omega
  exact prompter_word (by omega) (by omega) (by omega) (by omega) (Option.some.inj he) (by show decShift d a (128 + n) = _; simp [decShift, h1, h2])
theorem slti (d : Nat) (a : Nat) (n : Nat) : Statement (.slti d a n) := by
  intro word hw he
  have hw : (regOk d && regOk a && n < 65536) = true := hw
  simp only [Bool.and_eq_true, decide_eq_true_eq] at hw
  exact prompter_word (by omega) (by omega) (by omega) (by omega) (Option.some.inj he) rfl
theorem lis (d : Nat) (s : Nat) (n : Nat) : Statement (.lis d s n) := by
  intro word hw he
  have hw : (regOk d && s < 4 && n < 65536) = true := hw
  simp only [Bool.and_eq_true, decide_eq_true_eq] at hw
  exact prompter_word (by omega) (by omega) (by omega) (by omega) (Option.some.inj he) (need_of _ (by simpa using hw.1.2))
theorem ldd (d : Nat) (a : Nat) (tid : Nat) (off : Nat) : Statement (.ldd d a tid off) := by
  intro word hw he
  have hw : (regOk d && regOk a && tid < 255 && off < 256) = true := hw
  simp only [Bool.and_eq_true, decide_eq_true_eq] at hw
  have h1 : (tid * 256 + off) / 256 = tid := by omega
  have h2 : (tid * 256 + off) % 256 = off := by omega
  exact prompter_word (by omega) (by omega) (by omega) (by omega) (Option.some.inj he) (by
    show need ((tid * 256 + off) / 256 != 255) (.ldd d a ((tid * 256 + off) / 256) ((tid * 256 + off) % 256)) = _
    rw [h1, h2]; exact need_of _ (by simp; omega))
theorem ldw (d : Nat) (a : Nat) (tid : Nat) (off : Nat) : Statement (.ldw d a tid off) := by
  intro word hw he
  have hw : (regOk d && regOk a && tid < 255 && off < 256) = true := hw
  simp only [Bool.and_eq_true, decide_eq_true_eq] at hw
  have h1 : (tid * 256 + off) / 256 = tid := by omega
  have h2 : (tid * 256 + off) % 256 = off := by omega
  exact prompter_word (by omega) (by omega) (by omega) (by omega) (Option.some.inj he) (by
    show need ((tid * 256 + off) / 256 != 255) (.ldw d a ((tid * 256 + off) / 256) ((tid * 256 + off) % 256)) = _
    rw [h1, h2]; exact need_of _ (by simp; omega))
theorem std (d : Nat) (a : Nat) (tid : Nat) (off : Nat) : Statement (.std d a tid off) := by
  intro word hw he
  have hw : (regOk d && regOk a && tid < 255 && off < 256) = true := hw
  simp only [Bool.and_eq_true, decide_eq_true_eq] at hw
  have h1 : (tid * 256 + off) / 256 = tid := by omega
  have h2 : (tid * 256 + off) % 256 = off := by omega
  exact prompter_word (by omega) (by omega) (by omega) (by omega) (Option.some.inj he) (by
    show need ((tid * 256 + off) / 256 != 255) (.std d a ((tid * 256 + off) / 256) ((tid * 256 + off) % 256)) = _
    rw [h1, h2]; exact need_of _ (by simp; omega))
theorem stw (d : Nat) (a : Nat) (tid : Nat) (off : Nat) : Statement (.stw d a tid off) := by
  intro word hw he
  have hw : (regOk d && regOk a && tid < 255 && off < 256) = true := hw
  simp only [Bool.and_eq_true, decide_eq_true_eq] at hw
  have h1 : (tid * 256 + off) / 256 = tid := by omega
  have h2 : (tid * 256 + off) % 256 = off := by omega
  exact prompter_word (by omega) (by omega) (by omega) (by omega) (Option.some.inj he) (by
    show need ((tid * 256 + off) / 256 != 255) (.stw d a ((tid * 256 + off) / 256) ((tid * 256 + off) % 256)) = _
    rw [h1, h2]; exact need_of _ (by simp; omega))
theorem srrd (d : Nat) (sr : Nat) : Statement (.srrd d sr) := by
  intro word hw he
  have hw : (regOk d && sr < 4096 && srAssigned sr) = true := hw
  simp only [Bool.and_eq_true, decide_eq_true_eq] at hw
  exact prompter_word (by omega) (by omega) (by omega) (by omega) (Option.some.inj he) (need_of _ (by simp [hw]))
theorem srwr (a : Nat) (sr : Nat) : Statement (.srwr a sr) := by
  intro word hw he
  have hw : (regOk a && sr < 4096 && srAssigned sr) = true := hw
  simp only [Bool.and_eq_true, decide_eq_true_eq] at hw
  exact prompter_word (by omega) (by omega) (by omega) (by omega) (Option.some.inj he) (need_of _ (by simp [hw]))
theorem br (off : Nat) : Statement (.br off) := by
  intro word hw he
  have hw : (decide (off < 2 ^ 26)) = true := hw
  simp only [Bool.and_eq_true, decide_eq_true_eq] at hw
  have h1 : off / 2 ^ 21 * 2 ^ 21 + off / 2 ^ 16 % 32 * 2 ^ 16 + off % 65536 = off := by omega
  have e : encRI 0x10 (off / 2 ^ 21) (off / 2 ^ 16 % 32) (off % 65536) = 0x10 * 2 ^ 26 + off := encRI_jump _ _
  exact prompter_word (op := 0x10) (d := off / 2 ^ 21) (a := off / 2 ^ 16 % 32) (n := off % 65536) (by omega) (by omega) (by omega) (by omega)
    (e.trans (Option.some.inj he)) (by
      show some (Instr.br (off / 2 ^ 21 * 2 ^ 21 + off / 2 ^ 16 % 32 * 2 ^ 16 + off % 65536)) = _
      rw [h1])
theorem call (off : Nat) : Statement (.call off) := by
  intro word hw he
  have hw : (decide (off < 2 ^ 26)) = true := hw
  simp only [Bool.and_eq_true, decide_eq_true_eq] at hw
  have h1 : off / 2 ^ 21 * 2 ^ 21 + off / 2 ^ 16 % 32 * 2 ^ 16 + off % 65536 = off := by omega
  have e : encRI 0x11 (off / 2 ^ 21) (off / 2 ^ 16 % 32) (off % 65536) = 0x11 * 2 ^ 26 + off := encRI_jump _ _
  exact prompter_word (op := 0x11) (d := off / 2 ^ 21) (a := off / 2 ^ 16 % 32) (n := off % 65536) (by omega) (by omega) (by omega) (by omega)
    (e.trans (Option.some.inj he)) (by
      show some (Instr.call (off / 2 ^ 21 * 2 ^ 21 + off / 2 ^ 16 % 32 * 2 ^ 16 + off % 65536)) = _
      rw [h1])
theorem bc (c : Cond) (a : Nat) (off : Nat) : Statement (.bc c a off) := by
  intro word hw he
  have hw : (regOk a && off < 65536) = true := hw
  simp only [Bool.and_eq_true, decide_eq_true_eq] at hw
  cases c <;> exact prompter_word (by omega) (by decide) (by omega) (by omega) (Option.some.inj he) rfl
theorem bstS (line : Nat) (off : Nat) : Statement (.bstS line off) := by
  intro word hw he
  have hw : (line < 32 && off < 65536) = true := hw
  simp only [Bool.and_eq_true, decide_eq_true_eq] at hw
  exact prompter_word (by omega) (by omega) (by omega) (by omega) (Option.some.inj he) rfl
theorem bstC (line : Nat) (off : Nat) : Statement (.bstC line off) := by
  intro word hw he
  have hw : (line < 32 && off < 65536) = true := hw
  simp only [Bool.and_eq_true, decide_eq_true_eq] at hw
  exact prompter_word (by omega) (by omega) (by omega) (by omega) (Option.some.inj he) rfl
theorem bct (k : Nat) (off : Nat) : Statement (.bct k off) := by
  intro word hw he
  have hw : (k < 8 && off < 65536) = true := hw
  simp only [Bool.and_eq_true, decide_eq_true_eq] at hw
  exact prompter_word (by omega) (by omega) (by omega) (by omega) (Option.some.inj he) (need_of _ (by simp; omega))
theorem jr (a : Nat) : Statement (.jr a) := by
  intro word hw he
  have hw : (regOk a) = true := hw
  simp only [Bool.and_eq_true, decide_eq_true_eq] at hw
  exact link_word (by omega) (by omega) (by omega) (by omega) (Option.some.inj he) rfl
theorem ret : Statement .ret := by
  intro word hw he
  exact link_word (by omega) (by omega) (by omega) (by omega) (Option.some.inj he) rfl
theorem callr (a : Nat) : Statement (.callr a) := by
  intro word hw he
  have hw : (regOk a) = true := hw
  simp only [Bool.and_eq_true, decide_eq_true_eq] at hw
  exact link_word (by omega) (by omega) (by omega) (by omega) (Option.some.inj he) rfl
theorem kset (a : Nat) (k : Nat) : Statement (.kset a k) := by
  intro word hw he
  have hw : (regOk a && k < 8) = true := hw
  simp only [Bool.and_eq_true, decide_eq_true_eq] at hw
  exact sync_word (f := decLoop) (by omega) (by omega) (by omega) (by omega) (by omega) (by omega) (Option.some.inj he) (fun _ => rfl) (by simp [decLoop, need]; omega)
theorem krd (d : Nat) (k : Nat) : Statement (.krd d k) := by
  intro word hw he
  have hw : (regOk d && k < 8) = true := hw
  simp only [Bool.and_eq_true, decide_eq_true_eq] at hw
  exact sync_word (f := decLoop) (by omega) (by omega) (by omega) (by omega) (by omega) (by omega) (Option.some.inj he) (fun _ => rfl) (by simp [decLoop, need]; omega)
theorem kstart (a : Nat) (s : Nat) : Statement (.kstart a s) := by
  intro word hw he
  have hw : (regOk a && s < 4) = true := hw
  simp only [Bool.and_eq_true, decide_eq_true_eq] at hw
  exact sync_word (f := decEngine) (by omega) (by omega) (by omega) (by omega) (by omega) (by omega) (Option.some.inj he) (fun _ => rfl) (by simp [decEngine, need]; omega)
theorem kwait (s : Nat) : Statement (.kwait s) := by
  intro word hw he
  have hw : (decide (s < 4)) = true := hw
  simp only [Bool.and_eq_true, decide_eq_true_eq] at hw
  exact sync_word (f := decEngine) (by omega) (by omega) (by omega) (by omega) (by omega) (by omega) (Option.some.inj he) (fun _ => rfl) (by simp [decEngine, need]; omega)
theorem kstop (s : Nat) : Statement (.kstop s) := by
  intro word hw he
  have hw : (decide (s < 4)) = true := hw
  simp only [Bool.and_eq_true, decide_eq_true_eq] at hw
  exact sync_word (f := decEngine) (by omega) (by omega) (by omega) (by omega) (by omega) (by omega) (Option.some.inj he) (fun _ => rfl) (by simp [decEngine, need]; omega)
theorem cfgld (p : Plane) (a : Nat) (b : Nat) (s : Nat) : Statement (.cfgld p a b s) := by
  intro word hw he
  have hw : (regOk a && regOk b && s < 4) = true := hw
  simp only [Bool.and_eq_true, decide_eq_true_eq] at hw
  have hp := plane_lt p
  have h1 : (planeCode p * 16 + s) / 4 % 4 = 0 := by omega
  have h2 : (planeCode p * 16 + s) / 16 = planeCode p := by omega
  have h3 : (planeCode p * 16 + s) % 4 = s := by omega
  exact sync_word (f := decEngine) (by omega) (by omega) (by omega) (by omega) (by omega) (by omega) (Option.some.inj he) (fun _ => rfl) (by simp [decEngine, need, h1, h2, h3, planeOf_code])
theorem constw (a : Nat) (b : Nat) (j : Nat) (s : Nat) : Statement (.constw a b j s) := by
  intro word hw he
  have hw : (regOk a && regOk b && j < 8 && s < 4) = true := hw
  simp only [Bool.and_eq_true, decide_eq_true_eq] at hw
  have h1 : (j * 4 + s) < 32 := by omega
  have h2 : (j * 4 + s) / 4 = j := by omega
  have h3 : (j * 4 + s) % 4 = s := by omega
  exact sync_word (f := decEngine) (by omega) (by omega) (by omega) (by omega) (by omega) (by omega) (Option.some.inj he) (fun _ => rfl) (by simp [decEngine, need, h1, h2, h3])
theorem vsel (a : Nat) (s : Nat) : Statement (.vsel a s) := by
  intro word hw he
  have hw : (regOk a && s < 4) = true := hw
  simp only [Bool.and_eq_true, decide_eq_true_eq] at hw
  exact sync_word (f := decEngine) (by omega) (by omega) (by omega) (by omega) (by omega) (by omega) (Option.some.inj he) (fun _ => rfl) (by simp [decEngine, need]; omega)
theorem epsel (a : Nat) (s : Nat) : Statement (.epsel a s) := by
  intro word hw he
  have hw : (regOk a && s < 4) = true := hw
  simp only [Bool.and_eq_true, decide_eq_true_eq] at hw
  exact sync_word (f := decEngine) (by omega) (by omega) (by omega) (by omega) (by omega) (by omega) (Option.some.inj he) (fun _ => rfl) (by simp [decEngine, need]; omega)
theorem qarm : Statement .qarm := by
  intro word hw he
  exact sync_word (f := decQueue) (by omega) (by omega) (by omega) (by omega) (by omega) (by omega) (Option.some.inj he) (fun _ => rfl) rfl
theorem qsel (k : Bank) : Statement (.qsel k) := by
  intro word hw he
  cases k <;> exact sync_word (f := decQueue) (by omega) (by omega) (by omega) (by omega) (by omega) (by decide) (Option.some.inj he) (fun _ => rfl) rfl
theorem qcancel (k : Bank) : Statement (.qcancel k) := by
  intro word hw he
  cases k <;> exact sync_word (f := decQueue) (by omega) (by omega) (by omega) (by omega) (by omega) (by decide) (Option.some.inj he) (fun _ => rfl) rfl
theorem stage : Statement .stage := by
  intro word hw he
  exact sync_word (f := decStage) (by omega) (by omega) (by omega) (by omega) (by omega) (by omega) (Option.some.inj he) (fun _ => rfl) rfl
theorem stageset (a : Nat) : Statement (.stageset a) := by
  intro word hw he
  have hw : (regOk a) = true := hw
  simp only [Bool.and_eq_true, decide_eq_true_eq] at hw
  exact sync_word (f := decStage) (by omega) (by omega) (by omega) (by omega) (by omega) (by omega) (Option.some.inj he) (fun _ => rfl) rfl
theorem tidrd (d : Nat) (tid : Nat) (w : Nat) : Statement (.tidrd d tid w) := by
  intro word hw he
  have hw : (regOk d && tid < 255 && w < 4) = true := hw
  simp only [Bool.and_eq_true, decide_eq_true_eq] at hw
  have h1 : (tid * 256 + w) / 256 = tid := by omega
  have h2 : (tid * 256 + w) / 16 % 16 = 0 := by omega
  have h3 : (tid * 256 + w) % 16 = w := by omega
  have h4 : tid ≠ 255 := by omega
  exact prompter_word (by omega) (by omega) (by omega) (by omega) (Option.some.inj he) (by
    show decTid d 0 (tid * 256 + w) = _
    simp [decTid, h1, h2, h3, h4, need]; omega)
theorem tidwr (d : Nat) (a : Nat) (tid : Nat) (w : Nat) : Statement (.tidwr d a tid w) := by
  intro word hw he
  have hw : (regOk d && regOk a && tid < 255 && w < 4) = true := hw
  simp only [Bool.and_eq_true, decide_eq_true_eq] at hw
  have h1 : (tid * 256 + 16 + w) / 256 = tid := by omega
  have h2 : (tid * 256 + 16 + w) / 16 % 16 = 1 := by omega
  have h3 : (tid * 256 + 16 + w) % 16 = w := by omega
  have h4 : tid ≠ 255 := by omega
  exact prompter_word (by omega) (by omega) (by omega) (by omega) (Option.some.inj he) (by
    show decTid d a (tid * 256 + 16 + w) = _
    simp [decTid, h1, h2, h3, h4, need]; omega)
theorem resclr (a : Nat) (tid : Nat) : Statement (.resclr a tid) := by
  intro word hw he
  have hw : (regOk a && tid < 255) = true := hw
  simp only [Bool.and_eq_true, decide_eq_true_eq] at hw
  have h1 : (tid * 256 + 32) / 256 = tid := by omega
  have h2 : (tid * 256 + 32) / 16 % 16 = 2 := by omega
  have h3 : (tid * 256 + 32) % 16 = 0 := by omega
  have h4 : tid ≠ 255 := by omega
  exact prompter_word (by omega) (by omega) (by omega) (by omega) (Option.some.inj he) (by
    show decTid 0 a (tid * 256 + 32) = _
    simp [decTid, h1, h2, h3, h4, need])
theorem restst (d : Nat) (a : Nat) (tid : Nat) : Statement (.restst d a tid) := by
  intro word hw he
  have hw : (regOk d && regOk a && tid < 255) = true := hw
  simp only [Bool.and_eq_true, decide_eq_true_eq] at hw
  have h1 : (tid * 256 + 48) / 256 = tid := by omega
  have h2 : (tid * 256 + 48) / 16 % 16 = 3 := by omega
  have h3 : (tid * 256 + 48) % 16 = 0 := by omega
  have h4 : tid ≠ 255 := by omega
  exact prompter_word (by omega) (by omega) (by omega) (by omega) (Option.some.inj he) (by
    show decTid d a (tid * 256 + 48) = _
    simp [decTid, h1, h2, h3, h4, need])
theorem phreg (m : PhMode) (a : Nat) : Statement (.phreg m a) := by
  intro word hw he
  have hw : (regOk a) = true := hw
  simp only [Bool.and_eq_true, decide_eq_true_eq] at hw
  cases m <;> exact sync_word (f := decPhaser) (by omega) (by omega) (by omega) (by omega) (by omega) (by decide) (Option.some.inj he) (fun _ => rfl) rfl
theorem phdrop (a : Nat) : Statement (.phdrop a) := by
  intro word hw he
  have hw : (regOk a) = true := hw
  simp only [Bool.and_eq_true, decide_eq_true_eq] at hw
  exact sync_word (f := decPhaser) (by omega) (by omega) (by omega) (by omega) (by omega) (by omega) (Option.some.inj he) (fun _ => rfl) rfl
theorem phsig (a : Nat) : Statement (.phsig a) := by
  intro word hw he
  have hw : (regOk a) = true := hw
  simp only [Bool.and_eq_true, decide_eq_true_eq] at hw
  exact sync_word (f := decPhaser) (by omega) (by omega) (by omega) (by omega) (by omega) (by omega) (Option.some.inj he) (fun _ => rfl) rfl
theorem phwait (a : Nat) (b : Nat) : Statement (.phwait a b) := by
  intro word hw he
  have hw : (regOk a && regOk b) = true := hw
  simp only [Bool.and_eq_true, decide_eq_true_eq] at hw
  exact sync_word (f := decPhaser) (by omega) (by omega) (by omega) (by omega) (by omega) (by omega) (Option.some.inj he) (fun _ => rfl) rfl
theorem phsw (a : Nat) (b : Nat) : Statement (.phsw a b) := by
  intro word hw he
  have hw : (regOk a && regOk b) = true := hw
  simp only [Bool.and_eq_true, decide_eq_true_eq] at hw
  exact sync_word (f := decPhaser) (by omega) (by omega) (by omega) (by omega) (by omega) (by omega) (Option.some.inj he) (fun _ => rfl) rfl
theorem phqry (d : Nat) (a : Nat) : Statement (.phqry d a) := by
  intro word hw he
  have hw : (regOk d && regOk a) = true := hw
  simp only [Bool.and_eq_true, decide_eq_true_eq] at hw
  exact sync_word (f := decPhaser) (by omega) (by omega) (by omega) (by omega) (by omega) (by omega) (Option.some.inj he) (fun _ => rfl) rfl
theorem ctrwait (d : Nat) (a : Nat) (b : Nat) : Statement (.ctrwait d a b) := by
  intro word hw he
  have hw : (regOk d && regOk a && regOk b) = true := hw
  simp only [Bool.and_eq_true, decide_eq_true_eq] at hw
  exact sync_word (f := decCounter) (by omega) (by omega) (by omega) (by omega) (by omega) (by omega) (Option.some.inj he) (fun _ => rfl) rfl
theorem ctrinit (a : Nat) (b : Nat) : Statement (.ctrinit a b) := by
  intro word hw he
  have hw : (regOk a && regOk b) = true := hw
  simp only [Bool.and_eq_true, decide_eq_true_eq] at hw
  exact sync_word (f := decCounter) (by omega) (by omega) (by omega) (by omega) (by omega) (by omega) (Option.some.inj he) (fun _ => rfl) rfl
theorem ctrrd (d : Nat) (a : Nat) : Statement (.ctrrd d a) := by
  intro word hw he
  have hw : (regOk d && regOk a) = true := hw
  simp only [Bool.and_eq_true, decide_eq_true_eq] at hw
  exact sync_word (f := decCounter) (by omega) (by omega) (by omega) (by omega) (by omega) (by omega) (Option.some.inj he) (fun _ => rfl) rfl
theorem ctrstat (d : Nat) (a : Nat) : Statement (.ctrstat d a) := by
  intro word hw he
  have hw : (regOk d && regOk a) = true := hw
  simp only [Bool.and_eq_true, decide_eq_true_eq] at hw
  exact sync_word (f := decCounter) (by omega) (by omega) (by omega) (by omega) (by omega) (by omega) (Option.some.inj he) (fun _ => rfl) rfl
theorem aadd (d : Nat) (a : Nat) (b : Nat) (w : Bool) (o : Order) (s : Scope) : Statement (.aadd d a b w o s) := by
  intro word hw he
  have hw : (regOk d && regOk a && regOk b) = true := hw
  simp only [Bool.and_eq_true, decide_eq_true_eq] at hw
  exact atomic_word (by omega) (by omega) (by omega) (by omega) (Option.some.inj he) (fun k h1 h2 h3 => by simp only [decAtomic, h1, h2, h3]; cases w <;> rfl)
theorem amin (d : Nat) (a : Nat) (b : Nat) (w : Bool) (o : Order) (s : Scope) : Statement (.amin d a b w o s) := by
  intro word hw he
  have hw : (regOk d && regOk a && regOk b) = true := hw
  simp only [Bool.and_eq_true, decide_eq_true_eq] at hw
  exact atomic_word (by omega) (by omega) (by omega) (by omega) (Option.some.inj he) (fun k h1 h2 h3 => by simp only [decAtomic, h1, h2, h3]; cases w <;> rfl)
theorem amax (d : Nat) (a : Nat) (b : Nat) (w : Bool) (o : Order) (s : Scope) : Statement (.amax d a b w o s) := by
  intro word hw he
  have hw : (regOk d && regOk a && regOk b) = true := hw
  simp only [Bool.and_eq_true, decide_eq_true_eq] at hw
  exact atomic_word (by omega) (by omega) (by omega) (by omega) (Option.some.inj he) (fun k h1 h2 h3 => by simp only [decAtomic, h1, h2, h3]; cases w <;> rfl)
theorem aminu (d : Nat) (a : Nat) (b : Nat) (w : Bool) (o : Order) (s : Scope) : Statement (.aminu d a b w o s) := by
  intro word hw he
  have hw : (regOk d && regOk a && regOk b) = true := hw
  simp only [Bool.and_eq_true, decide_eq_true_eq] at hw
  exact atomic_word (by omega) (by omega) (by omega) (by omega) (Option.some.inj he) (fun k h1 h2 h3 => by simp only [decAtomic, h1, h2, h3]; cases w <;> rfl)
theorem amaxu (d : Nat) (a : Nat) (b : Nat) (w : Bool) (o : Order) (s : Scope) : Statement (.amaxu d a b w o s) := by
  intro word hw he
  have hw : (regOk d && regOk a && regOk b) = true := hw
  simp only [Bool.and_eq_true, decide_eq_true_eq] at hw
  exact atomic_word (by omega) (by omega) (by omega) (by omega) (Option.some.inj he) (fun k h1 h2 h3 => by simp only [decAtomic, h1, h2, h3]; cases w <;> rfl)
theorem aand (d : Nat) (a : Nat) (b : Nat) (w : Bool) (o : Order) (s : Scope) : Statement (.aand d a b w o s) := by
  intro word hw he
  have hw : (regOk d && regOk a && regOk b) = true := hw
  simp only [Bool.and_eq_true, decide_eq_true_eq] at hw
  exact atomic_word (by omega) (by omega) (by omega) (by omega) (Option.some.inj he) (fun k h1 h2 h3 => by simp only [decAtomic, h1, h2, h3]; cases w <;> rfl)
theorem aor (d : Nat) (a : Nat) (b : Nat) (w : Bool) (o : Order) (s : Scope) : Statement (.aor d a b w o s) := by
  intro word hw he
  have hw : (regOk d && regOk a && regOk b) = true := hw
  simp only [Bool.and_eq_true, decide_eq_true_eq] at hw
  exact atomic_word (by omega) (by omega) (by omega) (by omega) (Option.some.inj he) (fun k h1 h2 h3 => by simp only [decAtomic, h1, h2, h3]; cases w <;> rfl)
theorem axor (d : Nat) (a : Nat) (b : Nat) (w : Bool) (o : Order) (s : Scope) : Statement (.axor d a b w o s) := by
  intro word hw he
  have hw : (regOk d && regOk a && regOk b) = true := hw
  simp only [Bool.and_eq_true, decide_eq_true_eq] at hw
  exact atomic_word (by omega) (by omega) (by omega) (by omega) (Option.some.inj he) (fun k h1 h2 h3 => by simp only [decAtomic, h1, h2, h3]; cases w <;> rfl)
theorem axch (d : Nat) (a : Nat) (b : Nat) (w : Bool) (o : Order) (s : Scope) : Statement (.axch d a b w o s) := by
  intro word hw he
  have hw : (regOk d && regOk a && regOk b) = true := hw
  simp only [Bool.and_eq_true, decide_eq_true_eq] at hw
  exact atomic_word (by omega) (by omega) (by omega) (by omega) (Option.some.inj he) (fun k h1 h2 h3 => by simp only [decAtomic, h1, h2, h3]; cases w <;> rfl)
theorem acas (d : Nat) (a : Nat) (b : Nat) (w : Bool) (o : Order) (s : Scope) : Statement (.acas d a b w o s) := by
  intro word hw he
  have hw : (regOk d && regOk a && regOk b) = true := hw
  simp only [Bool.and_eq_true, decide_eq_true_eq] at hw
  exact atomic_word (by omega) (by omega) (by omega) (by omega) (Option.some.inj he) (fun k h1 h2 h3 => by simp only [decAtomic, h1, h2, h3]; cases w <;> rfl)
theorem afadd (d : Nat) (a : Nat) (b : Nat) (o : Order) (s : Scope) : Statement (.afadd d a b o s) := by
  intro word hw he
  have hw : (regOk d && regOk a && regOk b) = true := hw
  simp only [Bool.and_eq_true, decide_eq_true_eq] at hw
  exact atomic_word (by omega) (by omega) (by omega) (by omega) (Option.some.inj he) (fun k h1 h2 h3 => by simp only [decAtomic, h1, h2, h3]; rfl)
theorem fenceP (src : Nat) (dst : Nat) (s : Scope) : Statement (.fenceP src dst s) := by
  intro word hw he
  have hw : (0 < src && src < 64 && 0 < dst && dst < 64) = true := hw
  simp only [Bool.and_eq_true, decide_eq_true_eq] at hw
  have hs := scope_lt s
  have h1 : (src * 1024 + dst * 16 + scopeCode s * 2) / 1024 = src := by omega
  have h2 : (src * 1024 + dst * 16 + scopeCode s * 2) / 16 % 64 = dst := by omega
  have h3 : (src * 1024 + dst * 16 + scopeCode s * 2) / 2 % 8 = scopeCode s := by omega
  have h4 : (src * 1024 + dst * 16 + scopeCode s * 2) % 2 = 0 := by omega
  exact prompter_word (by omega) (by omega) (by omega) (by omega) (Option.some.inj he) (by
    show decFence 0 0 (src * 1024 + dst * 16 + scopeCode s * 2) = _
    simp only [decFence, h1, h2, h3, h4, scopeOf_code]; simp; omega)
theorem fenceSc : Statement .fenceSc := by
  intro word hw he
  exact prompter_word (by omega) (by omega) (by omega) (by omega) (Option.some.inj he) rfl
theorem fenceD : Statement .fenceD := by
  intro word hw he
  exact prompter_word (by omega) (by omega) (by omega) (by omega) (Option.some.inj he) rfl
theorem rel (s : Scope) : Statement (.rel s) := by
  intro word hw he
  cases s <;> exact prompter_word (by omega) (by omega) (by omega) (by decide) (Option.some.inj he) rfl
theorem acq (s : Scope) : Statement (.acq s) := by
  intro word hw he
  cases s <;> exact prompter_word (by omega) (by omega) (by omega) (by decide) (Option.some.inj he) rfl
theorem jobpost (d : Nat) (a : Nat) : Statement (.jobpost d a) := by
  intro word hw he
  have hw : (regOk d && regOk a) = true := hw
  simp only [Bool.and_eq_true, decide_eq_true_eq] at hw
  exact prompter_word (by omega) (by omega) (by omega) (by omega) (Option.some.inj he) rfl
theorem timerd (d : Nat) : Statement (.timerd d) := by
  intro word hw he
  have hw : (regOk d) = true := hw
  simp only [Bool.and_eq_true, decide_eq_true_eq] at hw
  exact sync_word (f := decTime) (by omega) (by omega) (by omega) (by omega) (by omega) (by omega) (Option.some.inj he) (fun _ => rfl) rfl
theorem timefr (d : Nat) : Statement (.timefr d) := by
  intro word hw he
  have hw : (regOk d) = true := hw
  simp only [Bool.and_eq_true, decide_eq_true_eq] at hw
  exact sync_word (f := decTime) (by omega) (by omega) (by omega) (by omega) (by omega) (by omega) (Option.some.inj he) (fun _ => rfl) rfl
theorem tickrd (d : Nat) : Statement (.tickrd d) := by
  intro word hw he
  have hw : (regOk d) = true := hw
  simp only [Bool.and_eq_true, decide_eq_true_eq] at hw
  exact sync_word (f := decTime) (by omega) (by omega) (by omega) (by omega) (by omega) (by omega) (Option.some.inj he) (fun _ => rfl) rfl
theorem waitt (a : Nat) : Statement (.waitt a) := by
  intro word hw he
  have hw : (regOk a) = true := hw
  simp only [Bool.and_eq_true, decide_eq_true_eq] at hw
  exact sync_word (f := decTime) (by omega) (by omega) (by omega) (by omega) (by omega) (by omega) (Option.some.inj he) (fun _ => rfl) rfl
theorem waittCue (a : Nat) : Statement (.waittCue a) := by
  intro word hw he
  have hw : (regOk a) = true := hw
  simp only [Bool.and_eq_true, decide_eq_true_eq] at hw
  exact sync_word (f := decTime) (by omega) (by omega) (by omega) (by omega) (by omega) (by omega) (Option.some.inj he) (fun _ => rfl) rfl
theorem trap (n : Nat) : Statement (.trap n) := by
  intro word hw he
  have hw : (decide (n < 65536)) = true := hw
  simp only [Bool.and_eq_true, decide_eq_true_eq] at hw
  exact prompter_word (by omega) (by omega) (by omega) (by omega) (Option.some.inj he) rfl
theorem eret : Statement .eret := by
  intro word hw he
  exact prompter_word (op := 0x31) (d := 0) (a := 0) (n := 0) (by omega) (by omega) (by omega) (by omega) (Option.some.inj he) rfl
theorem endBlock : Statement .endBlock := by
  intro word hw he
  exact prompter_word (op := 0x32) (d := 0) (a := 0) (n := 0) (by omega) (by omega) (by omega) (by omega) (Option.some.inj he) rfl
theorem brk (n : Nat) : Statement (.brk n) := by
  intro word hw he
  have hw : (decide (n < 65536)) = true := hw
  simp only [Bool.and_eq_true, decide_eq_true_eq] at hw
  exact prompter_word (by omega) (by omega) (by omega) (by omega) (Option.some.inj he) rfl
theorem staterd (d : Nat) (a : Nat) (space : Nat) : Statement (.staterd d a space) := by
  intro word hw he
  have hw : (regOk d && regOk a && space < 9) = true := hw
  simp only [Bool.and_eq_true, decide_eq_true_eq] at hw
  have h1 : (space * 256) / 256 = space := by omega
  have h2 : (space * 256) % 256 = 0 := by omega
  exact prompter_word (by omega) (by omega) (by omega) (by omega) (Option.some.inj he) (by
    show need ((space * 256) % 256 == 0 && decide ((space * 256) / 256 < 9)) (.staterd d a ((space * 256) / 256)) = _
    rw [h1, h2]; exact need_of _ (by simp; omega))
theorem illegalWord (w : Nat) : Statement (.illegalWord w) := by
  intro word hw he
  exact absurd he (by nofun)
theorem fetchFault : Statement .fetchFault := by
  intro word hw he
  exact absurd he (by nofun)
theorem recordDelivery : Statement .recordDelivery := by
  intro word hw he
  exact absurd he (by nofun)
theorem debugResume : Statement .debugResume := by
  intro word hw he
  exact absurd he (by nofun)
theorem debugAccess : Statement .debugAccess := by
  intro word hw he
  exact absurd he (by nofun)
theorem eNop (x : Ent) : Statement (.eNop x) := by
  intro word hw he
  have hw : (entOk 0x00 x && elemSubOk (.eNop x)) = true := hw
  exact element_word (by omega) (and2 hw).1 (Option.some.inj he) rfl
theorem eMov (x : Ent) : Statement (.eMov x) := by
  intro word hw he
  have hw : (entOk 0x01 x && elemSubOk (.eMov x)) = true := hw
  exact element_word (by omega) (and2 hw).1 (Option.some.inj he) rfl
theorem eSel (x : Ent) : Statement (.eSel x) := by
  intro word hw he
  have hw : (entOk 0x02 x && elemSubOk (.eSel x)) = true := hw
  exact element_word (by omega) (and2 hw).1 (Option.some.inj he) rfl
theorem ePick (x : Ent) : Statement (.ePick x) := by
  intro word hw he
  have hw : (entOk 0x03 x && elemSubOk (.ePick x)) = true := hw
  exact element_word (by omega) (and2 hw).1 (Option.some.inj he) rfl
theorem ePset (x : Ent) : Statement (.ePset x) := by
  intro word hw he
  have hw : (entOk 0x08 x && elemSubOk (.ePset x)) = true := hw
  exact element_word (by omega) (and2 hw).1 (Option.some.inj he) rfl
theorem eVote3 (x : Ent) : Statement (.eVote3 x) := by
  intro word hw he
  have hw : (entOk 0x04 x && elemSubOk (.eVote3 x)) = true := hw
  exact element_word (by omega) (and2 hw).1 (Option.some.inj he) rfl
theorem eDelay (x : Ent) : Statement (.eDelay x) := by
  intro word hw he
  have hw : (entOk 0x05 x && elemSubOk (.eDelay x)) = true := hw
  exact element_word (by omega) (and2 hw).1 (Option.some.inj he) rfl
theorem eFlag (x : Ent) : Statement (.eFlag x) := by
  intro word hw he
  have hw : (entOk 0x06 x && elemSubOk (.eFlag x)) = true := hw
  exact element_word (by omega) (and2 hw).1 (Option.some.inj he) rfl
theorem eTrap (x : Ent) : Statement (.eTrap x) := by
  intro word hw he
  have hw : (entOk 0x07 x && elemSubOk (.eTrap x)) = true := hw
  exact element_word (by omega) (and2 hw).1 (Option.some.inj he) rfl
theorem eIadd (x : Ent) : Statement (.eIadd x) := by
  intro word hw he
  have hw : (entOk 0x10 x && elemSubOk (.eIadd x)) = true := hw
  exact element_word (by omega) (and2 hw).1 (Option.some.inj he) rfl
theorem eIsub (x : Ent) : Statement (.eIsub x) := by
  intro word hw he
  have hw : (entOk 0x11 x && elemSubOk (.eIsub x)) = true := hw
  exact element_word (by omega) (and2 hw).1 (Option.some.inj he) rfl
theorem eImul (x : Ent) : Statement (.eImul x) := by
  intro word hw he
  have hw : (entOk 0x12 x && elemSubOk (.eImul x)) = true := hw
  exact element_word (by omega) (and2 hw).1 (Option.some.inj he) rfl
theorem eImulh (x : Ent) : Statement (.eImulh x) := by
  intro word hw he
  have hw : (entOk 0x13 x && elemSubOk (.eImulh x)) = true := hw
  exact element_word (by omega) (and2 hw).1 (Option.some.inj he) rfl
theorem eImad (x : Ent) : Statement (.eImad x) := by
  intro word hw he
  have hw : (entOk 0x14 x && elemSubOk (.eImad x)) = true := hw
  exact element_word (by omega) (and2 hw).1 (Option.some.inj he) rfl
theorem eIabs (x : Ent) : Statement (.eIabs x) := by
  intro word hw he
  have hw : (entOk 0x15 x && elemSubOk (.eIabs x)) = true := hw
  exact element_word (by omega) (and2 hw).1 (Option.some.inj he) rfl
theorem eIneg (x : Ent) : Statement (.eIneg x) := by
  intro word hw he
  have hw : (entOk 0x16 x && elemSubOk (.eIneg x)) = true := hw
  exact element_word (by omega) (and2 hw).1 (Option.some.inj he) rfl
theorem eImin (x : Ent) : Statement (.eImin x) := by
  intro word hw he
  have hw : (entOk 0x17 x && elemSubOk (.eImin x)) = true := hw
  exact element_word (by omega) (and2 hw).1 (Option.some.inj he) rfl
theorem eImax (x : Ent) : Statement (.eImax x) := by
  intro word hw he
  have hw : (entOk 0x18 x && elemSubOk (.eImax x)) = true := hw
  exact element_word (by omega) (and2 hw).1 (Option.some.inj he) rfl
theorem eIminu (x : Ent) : Statement (.eIminu x) := by
  intro word hw he
  have hw : (entOk 0x19 x && elemSubOk (.eIminu x)) = true := hw
  exact element_word (by omega) (and2 hw).1 (Option.some.inj he) rfl
theorem eImaxu (x : Ent) : Statement (.eImaxu x) := by
  intro word hw he
  have hw : (entOk 0x1A x && elemSubOk (.eImaxu x)) = true := hw
  exact element_word (by omega) (and2 hw).1 (Option.some.inj he) rfl
theorem eIsat (x : Ent) : Statement (.eIsat x) := by
  intro word hw he
  have hw : (entOk 0x1B x && elemSubOk (.eIsat x)) = true := hw
  exact element_word (by omega) (and2 hw).1 (Option.some.inj he) rfl
theorem eShl (x : Ent) : Statement (.eShl x) := by
  intro word hw he
  have hw : (entOk 0x1C x && elemSubOk (.eShl x)) = true := hw
  exact element_word (by omega) (and2 hw).1 (Option.some.inj he) rfl
theorem eShr (x : Ent) : Statement (.eShr x) := by
  intro word hw he
  have hw : (entOk 0x1D x && elemSubOk (.eShr x)) = true := hw
  exact element_word (by omega) (and2 hw).1 (Option.some.inj he) rfl
theorem eSar (x : Ent) : Statement (.eSar x) := by
  intro word hw he
  have hw : (entOk 0x1E x && elemSubOk (.eSar x)) = true := hw
  exact element_word (by omega) (and2 hw).1 (Option.some.inj he) rfl
theorem eRol (x : Ent) : Statement (.eRol x) := by
  intro word hw he
  have hw : (entOk 0x1F x && elemSubOk (.eRol x)) = true := hw
  exact element_word (by omega) (and2 hw).1 (Option.some.inj he) rfl
theorem eAnd (x : Ent) : Statement (.eAnd x) := by
  intro word hw he
  have hw : (entOk 0x20 x && elemSubOk (.eAnd x)) = true := hw
  exact element_word (by omega) (and2 hw).1 (Option.some.inj he) rfl
theorem eOr (x : Ent) : Statement (.eOr x) := by
  intro word hw he
  have hw : (entOk 0x21 x && elemSubOk (.eOr x)) = true := hw
  exact element_word (by omega) (and2 hw).1 (Option.some.inj he) rfl
theorem eXor (x : Ent) : Statement (.eXor x) := by
  intro word hw he
  have hw : (entOk 0x22 x && elemSubOk (.eXor x)) = true := hw
  exact element_word (by omega) (and2 hw).1 (Option.some.inj he) rfl
theorem eAndn (x : Ent) : Statement (.eAndn x) := by
  intro word hw he
  have hw : (entOk 0x23 x && elemSubOk (.eAndn x)) = true := hw
  exact element_word (by omega) (and2 hw).1 (Option.some.inj he) rfl
theorem eNot (x : Ent) : Statement (.eNot x) := by
  intro word hw he
  have hw : (entOk 0x24 x && elemSubOk (.eNot x)) = true := hw
  exact element_word (by omega) (and2 hw).1 (Option.some.inj he) rfl
theorem ePopc (x : Ent) : Statement (.ePopc x) := by
  intro word hw he
  have hw : (entOk 0x25 x && elemSubOk (.ePopc x)) = true := hw
  exact element_word (by omega) (and2 hw).1 (Option.some.inj he) rfl
theorem eClz (x : Ent) : Statement (.eClz x) := by
  intro word hw he
  have hw : (entOk 0x26 x && elemSubOk (.eClz x)) = true := hw
  exact element_word (by omega) (and2 hw).1 (Option.some.inj he) rfl
theorem eBfx (x : Ent) : Statement (.eBfx x) := by
  intro word hw he
  have hw : (entOk 0x27 x && elemSubOk (.eBfx x)) = true := hw
  exact element_word (by omega) (and2 hw).1 (Option.some.inj he) rfl
theorem eBfi (x : Ent) : Statement (.eBfi x) := by
  intro word hw he
  have hw : (entOk 0x28 x && elemSubOk (.eBfi x)) = true := hw
  exact element_word (by omega) (and2 hw).1 (Option.some.inj he) rfl
theorem eIcmp (x : Ent) : Statement (.eIcmp x) := by
  intro word hw he
  have hw : (entOk 0x30 x && elemSubOk (.eIcmp x)) = true := hw
  exact element_word (by omega) (and2 hw).1 (Option.some.inj he) rfl
theorem eFcmp (x : Ent) : Statement (.eFcmp x) := by
  intro word hw he
  have hw : (entOk 0x31 x && elemSubOk (.eFcmp x)) = true := hw
  exact element_word (by omega) (and2 hw).1 (Option.some.inj he) rfl
theorem ePand (x : Ent) : Statement (.ePand x) := by
  intro word hw he
  have hw : (entOk 0x32 x && elemSubOk (.ePand x)) = true := hw
  exact element_word (by omega) (and2 hw).1 (Option.some.inj he) rfl
theorem ePor (x : Ent) : Statement (.ePor x) := by
  intro word hw he
  have hw : (entOk 0x33 x && elemSubOk (.ePor x)) = true := hw
  exact element_word (by omega) (and2 hw).1 (Option.some.inj he) rfl
theorem ePnot (x : Ent) : Statement (.ePnot x) := by
  intro word hw he
  have hw : (entOk 0x34 x && elemSubOk (.ePnot x)) = true := hw
  exact element_word (by omega) (and2 hw).1 (Option.some.inj he) rfl
theorem eFadd (x : Ent) : Statement (.eFadd x) := by
  intro word hw he
  have hw : (entOk 0x40 x && elemSubOk (.eFadd x)) = true := hw
  exact element_word (by omega) (and2 hw).1 (Option.some.inj he) rfl
theorem eFsub (x : Ent) : Statement (.eFsub x) := by
  intro word hw he
  have hw : (entOk 0x41 x && elemSubOk (.eFsub x)) = true := hw
  exact element_word (by omega) (and2 hw).1 (Option.some.inj he) rfl
theorem eFmul (x : Ent) : Statement (.eFmul x) := by
  intro word hw he
  have hw : (entOk 0x42 x && elemSubOk (.eFmul x)) = true := hw
  exact element_word (by omega) (and2 hw).1 (Option.some.inj he) rfl
theorem eFfma (x : Ent) : Statement (.eFfma x) := by
  intro word hw he
  have hw : (entOk 0x43 x && elemSubOk (.eFfma x)) = true := hw
  exact element_word (by omega) (and2 hw).1 (Option.some.inj he) rfl
theorem eFmin (x : Ent) : Statement (.eFmin x) := by
  intro word hw he
  have hw : (entOk 0x44 x && elemSubOk (.eFmin x)) = true := hw
  exact element_word (by omega) (and2 hw).1 (Option.some.inj he) rfl
theorem eFmax (x : Ent) : Statement (.eFmax x) := by
  intro word hw he
  have hw : (entOk 0x45 x && elemSubOk (.eFmax x)) = true := hw
  exact element_word (by omega) (and2 hw).1 (Option.some.inj he) rfl
theorem eFabs (x : Ent) : Statement (.eFabs x) := by
  intro word hw he
  have hw : (entOk 0x46 x && elemSubOk (.eFabs x)) = true := hw
  exact element_word (by omega) (and2 hw).1 (Option.some.inj he) rfl
theorem eFneg (x : Ent) : Statement (.eFneg x) := by
  intro word hw he
  have hw : (entOk 0x47 x && elemSubOk (.eFneg x)) = true := hw
  exact element_word (by omega) (and2 hw).1 (Option.some.inj he) rfl
theorem eFrcp (x : Ent) : Statement (.eFrcp x) := by
  intro word hw he
  have hw : (entOk 0x48 x && elemSubOk (.eFrcp x)) = true := hw
  exact element_word (by omega) (and2 hw).1 (Option.some.inj he) rfl
theorem eFrsq (x : Ent) : Statement (.eFrsq x) := by
  intro word hw he
  have hw : (entOk 0x49 x && elemSubOk (.eFrsq x)) = true := hw
  exact element_word (by omega) (and2 hw).1 (Option.some.inj he) rfl
theorem eFexp2 (x : Ent) : Statement (.eFexp2 x) := by
  intro word hw he
  have hw : (entOk 0x4A x && elemSubOk (.eFexp2 x)) = true := hw
  exact element_word (by omega) (and2 hw).1 (Option.some.inj he) rfl
theorem eFlog2 (x : Ent) : Statement (.eFlog2 x) := by
  intro word hw he
  have hw : (entOk 0x4B x && elemSubOk (.eFlog2 x)) = true := hw
  exact element_word (by omega) (and2 hw).1 (Option.some.inj he) rfl
theorem eFtanh (x : Ent) : Statement (.eFtanh x) := by
  intro word hw he
  have hw : (entOk 0x4C x && elemSubOk (.eFtanh x)) = true := hw
  exact element_word (by omega) (and2 hw).1 (Option.some.inj he) rfl
theorem eFaddB2 (x : Ent) : Statement (.eFaddB2 x) := by
  intro word hw he
  have hw : (entOk 0x50 x && elemSubOk (.eFaddB2 x)) = true := hw
  exact element_word (by omega) (and2 hw).1 (Option.some.inj he) rfl
theorem eFmulB2 (x : Ent) : Statement (.eFmulB2 x) := by
  intro word hw he
  have hw : (entOk 0x51 x && elemSubOk (.eFmulB2 x)) = true := hw
  exact element_word (by omega) (and2 hw).1 (Option.some.inj he) rfl
theorem eFfmaB2 (x : Ent) : Statement (.eFfmaB2 x) := by
  intro word hw he
  have hw : (entOk 0x52 x && elemSubOk (.eFfmaB2 x)) = true := hw
  exact element_word (by omega) (and2 hw).1 (Option.some.inj he) rfl
theorem eFaddH2 (x : Ent) : Statement (.eFaddH2 x) := by
  intro word hw he
  have hw : (entOk 0x53 x && elemSubOk (.eFaddH2 x)) = true := hw
  exact element_word (by omega) (and2 hw).1 (Option.some.inj he) rfl
theorem eFmulH2 (x : Ent) : Statement (.eFmulH2 x) := by
  intro word hw he
  have hw : (entOk 0x54 x && elemSubOk (.eFmulH2 x)) = true := hw
  exact element_word (by omega) (and2 hw).1 (Option.some.inj he) rfl
theorem eFfmaH2 (x : Ent) : Statement (.eFfmaH2 x) := by
  intro word hw he
  have hw : (entOk 0x55 x && elemSubOk (.eFfmaH2 x)) = true := hw
  exact element_word (by omega) (and2 hw).1 (Option.some.inj he) rfl
theorem eCvtRn (x : Ent) : Statement (.eCvtRn x) := by
  intro word hw he
  have hw : (entOk 0x60 x && elemSubOk (.eCvtRn x)) = true := hw
  exact element_word (by omega) (and2 hw).1 (Option.some.inj he) rfl
theorem eCvtRz (x : Ent) : Statement (.eCvtRz x) := by
  intro word hw he
  have hw : (entOk 0x61 x && elemSubOk (.eCvtRz x)) = true := hw
  exact element_word (by omega) (and2 hw).1 (Option.some.inj he) rfl
theorem eCvtRd (x : Ent) : Statement (.eCvtRd x) := by
  intro word hw he
  have hw : (entOk 0x62 x && elemSubOk (.eCvtRd x)) = true := hw
  exact element_word (by omega) (and2 hw).1 (Option.some.inj he) rfl
theorem eCvtRu (x : Ent) : Statement (.eCvtRu x) := by
  intro word hw he
  have hw : (entOk 0x63 x && elemSubOk (.eCvtRu x)) = true := hw
  exact element_word (by omega) (and2 hw).1 (Option.some.inj he) rfl
theorem eCvtSr (x : Ent) : Statement (.eCvtSr x) := by
  intro word hw he
  have hw : (entOk 0x64 x && elemSubOk (.eCvtSr x)) = true := hw
  exact element_word (by omega) (and2 hw).1 (Option.some.inj he) rfl
theorem eQmax (x : Ent) : Statement (.eQmax x) := by
  intro word hw he
  have hw : (entOk 0x68 x && elemSubOk (.eQmax x)) = true := hw
  exact element_word (by omega) (and2 hw).1 (Option.some.inj he) rfl
theorem eScle (x : Ent) : Statement (.eScle x) := by
  intro word hw he
  have hw : (entOk 0x69 x && elemSubOk (.eScle x)) = true := hw
  exact element_word (by omega) (and2 hw).1 (Option.some.inj he) rfl
theorem eQmx (x : Ent) : Statement (.eQmx x) := by
  intro word hw he
  have hw : (entOk 0x6A x && elemSubOk (.eQmx x)) = true := hw
  exact element_word (by omega) (and2 hw).1 (Option.some.inj he) rfl
theorem eRfwd (x : Ent) : Statement (.eRfwd x) := by
  intro word hw he
  have hw : (entOk 0x70 x && elemSubOk (.eRfwd x)) = true := hw
  exact element_word (by omega) (and2 hw).1 (Option.some.inj he) rfl
theorem eRadd (x : Ent) : Statement (.eRadd x) := by
  intro word hw he
  have hw : (entOk 0x71 x && elemSubOk (.eRadd x)) = true := hw
  exact element_word (by omega) (and2 hw).1 (Option.some.inj he) rfl
theorem eRsub (x : Ent) : Statement (.eRsub x) := by
  intro word hw he
  have hw : (entOk 0x72 x && elemSubOk (.eRsub x)) = true := hw
  exact element_word (by omega) (and2 hw).1 (Option.some.inj he) rfl
theorem eRmul (x : Ent) : Statement (.eRmul x) := by
  intro word hw he
  have hw : (entOk 0x73 x && elemSubOk (.eRmul x)) = true := hw
  exact element_word (by omega) (and2 hw).1 (Option.some.inj he) rfl
theorem eRmac (x : Ent) : Statement (.eRmac x) := by
  intro word hw he
  have hw : (entOk 0x74 x && elemSubOk (.eRmac x)) = true := hw
  exact element_word (by omega) (and2 hw).1 (Option.some.inj he) rfl
theorem eLdp (x : Ent) : Statement (.eLdp x) := by
  intro word hw he
  have hw : (entOk 0x80 x && elemSubOk (.eLdp x)) = true := hw
  exact element_word (by omega) (and2 hw).1 (Option.some.inj he) rfl
theorem eStp (x : Ent) : Statement (.eStp x) := by
  intro word hw he
  have hw : (entOk 0x81 x && elemSubOk (.eStp x)) = true := hw
  exact element_word (by omega) (and2 hw).1 (Option.some.inj he) rfl
theorem eLdpx (x : Ent) : Statement (.eLdpx x) := by
  intro word hw he
  have hw : (entOk 0x82 x && elemSubOk (.eLdpx x)) = true := hw
  exact element_word (by omega) (and2 hw).1 (Option.some.inj he) rfl
theorem eStpx (x : Ent) : Statement (.eStpx x) := by
  intro word hw he
  have hw : (entOk 0x83 x && elemSubOk (.eStpx x)) = true := hw
  exact element_word (by omega) (and2 hw).1 (Option.some.inj he) rfl
theorem aMode (x : Ent) : Statement (.aMode x) := by
  intro word hw he
  have hw : (entOk 0xA0 x && elemSubOk (.aMode x)) = true := hw
  exact element_word (by omega) (and2 hw).1 (Option.some.inj he) rfl
theorem aWpreI (x : Ent) : Statement (.aWpreI x) := by
  intro word hw he
  have hw : (entOk 0xA1 x && elemSubOk (.aWpreI x)) = true := hw
  have h : (x.imm == 0) = true := (and2 hw).2
  simp only [beq_iff_eq, decide_eq_true_eq] at h
  exact element_word (by omega) (and2 hw).1 (Option.some.inj he) (by show some (if x.imm == 0 then Instr.aWpreI x else .aWpreA x) = _; simp [h])
theorem aWpreA (x : Ent) : Statement (.aWpreA x) := by
  intro word hw he
  have hw : (entOk 0xA1 x && elemSubOk (.aWpreA x)) = true := hw
  have h : (x.imm == 1) = true := (and2 hw).2
  simp only [beq_iff_eq, decide_eq_true_eq] at h
  exact element_word (by omega) (and2 hw).1 (Option.some.inj he) (by show some (if x.imm == 0 then Instr.aWpreI x else .aWpreA x) = _; simp [h])
theorem aWswap (x : Ent) : Statement (.aWswap x) := by
  intro word hw he
  have hw : (entOk 0xA2 x && elemSubOk (.aWswap x)) = true := hw
  exact element_word (by omega) (and2 hw).1 (Option.some.inj he) rfl
theorem aPass (x : Ent) : Statement (.aPass x) := by
  intro word hw he
  have hw : (entOk 0xA3 x && elemSubOk (.aPass x)) = true := hw
  exact element_word (by omega) (and2 hw).1 (Option.some.inj he) rfl
theorem aDrain (x : Ent) : Statement (.aDrain x) := by
  intro word hw he
  have hw : (entOk 0xA4 x && elemSubOk (.aDrain x)) = true := hw
  exact element_word (by omega) (and2 hw).1 (Option.some.inj he) rfl
theorem aClr (x : Ent) : Statement (.aClr x) := by
  intro word hw he
  have hw : (entOk 0xA5 x && elemSubOk (.aClr x)) = true := hw
  exact element_word (by omega) (and2 hw).1 (Option.some.inj he) rfl
theorem aBind (x : Ent) : Statement (.aBind x) := by
  intro word hw he
  have hw : (entOk 0xA6 x && elemSubOk (.aBind x)) = true := hw
  have h : (decide (x.imm ≤ 3)) = true := (and2 hw).2
  simp only [beq_iff_eq, decide_eq_true_eq] at h
  exact element_word (by omega) (and2 hw).1 (Option.some.inj he) (by show some (if x.imm == 4 then Instr.aBindOff x else .aBind x) = _; rw [if_neg]; simp; omega)
theorem aBindOff (x : Ent) : Statement (.aBindOff x) := by
  intro word hw he
  have hw : (entOk 0xA6 x && elemSubOk (.aBindOff x)) = true := hw
  have h : (x.imm == 4) = true := (and2 hw).2
  simp only [beq_iff_eq, decide_eq_true_eq] at h
  exact element_word (by omega) (and2 hw).1 (Option.some.inj he) (by show some (if x.imm == 4 then Instr.aBindOff x else .aBind x) = _; simp [h])
theorem weightFetch : Statement .weightFetch := by
  intro word hw he
  exact absurd he (by nofun)
theorem preloadComplete : Statement .preloadComplete := by
  intro word hw he
  exact absurd he (by nofun)
theorem aOperandFetch : Statement .aOperandFetch := by
  intro word hw he
  exact absurd he (by nofun)
theorem acAccumulate : Statement .acAccumulate := by
  intro word hw he
  exact absurd he (by nofun)
theorem passComplete : Statement .passComplete := by
  intro word hw he
  exact absurd he (by nofun)
theorem aclrZeroWrite : Statement .aclrZeroWrite := by
  intro word hw he
  exact absurd he (by nofun)
theorem drainStart : Statement .drainStart := by
  intro word hw he
  exact absurd he (by nofun)
theorem epilogueBeat : Statement .epilogueBeat := by
  intro word hw he
  exact absurd he (by nofun)
theorem epilogueStore : Statement .epilogueStore := by
  intro word hw he
  exact absurd he (by nofun)
theorem drainComplete : Statement .drainComplete := by
  intro word hw he
  exact absurd he (by nofun)
theorem pEend : Statement .pEend := by
  intro word hw he
  exact epilogue_word (by omega) (by omega) (by omega) (by omega) (by omega) (Option.some.inj he) (fun v h1 h2 h3 h4 h5 => by
    simp only [decodeEpilogue, h1, h2, h3, h4, h5]; first | rfl | exact need_of _ (by simp; omega))
theorem pErd (d : Nat) : Statement (.pErd d) := by
  intro word hw he
  have hw : (decide (d < 16)) = true := hw
  simp only [Bool.and_eq_true, decide_eq_true_eq, bne_iff_ne, ne_eq] at hw
  exact epilogue_word (by omega) (by omega) (by omega) (by omega) (by omega) (Option.some.inj he) (fun v h1 h2 h3 h4 h5 => by
    simp only [decodeEpilogue, h1, h2, h3, h4, h5]; first | rfl | exact need_of _ (by simp; omega))
theorem pRrev (d : Nat) (a : Nat) (p : OvfPolicy) : Statement (.pRrev d a p) := by
  intro word hw he
  have hw : (d < 16 && a < 16) = true := hw
  simp only [Bool.and_eq_true, decide_eq_true_eq, bne_iff_ne, ne_eq] at hw
  cases p <;> exact epilogue_word (by omega) (by omega) (by omega) (by omega) (by decide) (Option.some.inj he) (fun v h1 h2 h3 h4 h5 => by
    simp only [decodeEpilogue, h1, h2, h3, h4, h5]; first | rfl | exact need_of _ (by simp; omega))
theorem pSclx (d : Nat) (a : Nat) (f : Nat) : Statement (.pSclx d a f) := by
  intro word hw he
  have hw : (d < 16 && a < 16 && 6 ≤ f && f ≤ 0x0A) = true := hw
  simp only [Bool.and_eq_true, decide_eq_true_eq, bne_iff_ne, ne_eq] at hw
  exact epilogue_word (by omega) (by omega) (by omega) (by omega) (by omega) (Option.some.inj he) (fun v h1 h2 h3 h4 h5 => by
    simp only [decodeEpilogue, h1, h2, h3, h4, h5]; first | rfl | exact need_of _ (by simp; omega))
theorem pCvf (d : Nat) (a : Nat) (f : Nat) (rm : RMode) : Statement (.pCvf d a f rm) := by
  intro word hw he
  have hw : (d < 16 && a < 16 && f ≤ 0x0A && rm != .sr) = true := hw
  simp only [Bool.and_eq_true, decide_eq_true_eq, bne_iff_ne, ne_eq] at hw
  obtain ⟨hr1, hr2⟩ := round_code hw.2
  have e1 : (roundCode rm * 32 + f) / 32 = roundCode rm := by omega
  have e2 : (roundCode rm * 32 + f) % 32 = f := by omega
  exact epilogue_word (by omega) (by omega) (by omega) (by omega) (by omega) (Option.some.inj he) (fun v h1 h2 h3 h4 h5 => by
    simp only [decodeEpilogue, h1, h2, h3, h4, h5, e1, e2, hr2]; exact need_of _ (by simp; omega))
theorem pBias (d : Nat) (a : Nat) (tid : Nat) : Statement (.pBias d a tid) := by
  intro word hw he
  have hw : (d < 16 && a < 16 && tid < 256) = true := hw
  simp only [Bool.and_eq_true, decide_eq_true_eq, bne_iff_ne, ne_eq] at hw
  exact epilogue_word (by omega) (by omega) (by omega) (by omega) (by omega) (Option.some.inj he) (fun v h1 h2 h3 h4 h5 => by
    simp only [decodeEpilogue, h1, h2, h3, h4, h5]; first | rfl | exact need_of _ (by simp; omega))
theorem pEadd (d : Nat) (a : Nat) (b : Nat) (t : Bool) : Statement (.pEadd d a b t) := by
  intro word hw he
  have hw : (d < 16 && a < 16 && b < 16) = true := hw
  simp only [Bool.and_eq_true, decide_eq_true_eq, bne_iff_ne, ne_eq] at hw
  cases t <;> exact epilogue_word (by omega) (by omega) (by omega) (by omega) (by decide) (Option.some.inj he) (fun v h1 h2 h3 h4 h5 => by
    simp only [decodeEpilogue, h1, h2, h3, h4, h5]; first | rfl | exact need_of _ (by simp; omega))
theorem pEmul (d : Nat) (a : Nat) (b : Nat) (t : Bool) : Statement (.pEmul d a b t) := by
  intro word hw he
  have hw : (d < 16 && a < 16 && b < 16) = true := hw
  simp only [Bool.and_eq_true, decide_eq_true_eq, bne_iff_ne, ne_eq] at hw
  cases t <;> exact epilogue_word (by omega) (by omega) (by omega) (by omega) (by decide) (Option.some.inj he) (fun v h1 h2 h3 h4 h5 => by
    simp only [decodeEpilogue, h1, h2, h3, h4, h5]; first | rfl | exact need_of _ (by simp; omega))
theorem pEmax (d : Nat) (a : Nat) (b : Nat) (t : Bool) : Statement (.pEmax d a b t) := by
  intro word hw he
  have hw : (d < 16 && a < 16 && b < 16) = true := hw
  simp only [Bool.and_eq_true, decide_eq_true_eq, bne_iff_ne, ne_eq] at hw
  cases t <;> exact epilogue_word (by omega) (by omega) (by omega) (by omega) (by decide) (Option.some.inj he) (fun v h1 h2 h3 h4 h5 => by
    simp only [decodeEpilogue, h1, h2, h3, h4, h5]; first | rfl | exact need_of _ (by simp; omega))
theorem pEmin (d : Nat) (a : Nat) (b : Nat) (t : Bool) : Statement (.pEmin d a b t) := by
  intro word hw he
  have hw : (d < 16 && a < 16 && b < 16) = true := hw
  simp only [Bool.and_eq_true, decide_eq_true_eq, bne_iff_ne, ne_eq] at hw
  cases t <;> exact epilogue_word (by omega) (by omega) (by omega) (by omega) (by decide) (Option.some.inj he) (fun v h1 h2 h3 h4 h5 => by
    simp only [decodeEpilogue, h1, h2, h3, h4, h5]; first | rfl | exact need_of _ (by simp; omega))
theorem pClmp (d : Nat) (a : Nat) (f : Nat) : Statement (.pClmp d a f) := by
  intro word hw he
  have hw : (d < 16 && a < 16 && f ≤ 4) = true := hw
  simp only [Bool.and_eq_true, decide_eq_true_eq, bne_iff_ne, ne_eq] at hw
  exact epilogue_word (by omega) (by omega) (by omega) (by omega) (by omega) (Option.some.inj he) (fun v h1 h2 h3 h4 h5 => by
    simp only [decodeEpilogue, h1, h2, h3, h4, h5]; first | rfl | exact need_of _ (by simp; omega))
theorem pRelu (d : Nat) (a : Nat) (t : Bool) : Statement (.pRelu d a t) := by
  intro word hw he
  have hw : (d < 16 && a < 16) = true := hw
  simp only [Bool.and_eq_true, decide_eq_true_eq, bne_iff_ne, ne_eq] at hw
  cases t <;> exact epilogue_word (by omega) (by omega) (by omega) (by omega) (by decide) (Option.some.inj he) (fun v h1 h2 h3 h4 h5 => by
    simp only [decodeEpilogue, h1, h2, h3, h4, h5]; first | rfl | exact need_of _ (by simp; omega))
theorem pElut (d : Nat) (a : Nat) : Statement (.pElut d a) := by
  intro word hw he
  have hw : (d < 16 && a < 16) = true := hw
  simp only [Bool.and_eq_true, decide_eq_true_eq, bne_iff_ne, ne_eq] at hw
  exact epilogue_word (by omega) (by omega) (by omega) (by omega) (by omega) (Option.some.inj he) (fun v h1 h2 h3 h4 h5 => by
    simp only [decodeEpilogue, h1, h2, h3, h4, h5]; first | rfl | exact need_of _ (by simp; omega))
theorem pQnt (d : Nat) (a : Nat) (f : Nat) (rm : RMode) : Statement (.pQnt d a f rm) := by
  intro word hw he
  have hw : (d < 16 && a < 16 && f ≤ 0x0D && rm != .sr) = true := hw
  simp only [Bool.and_eq_true, decide_eq_true_eq, bne_iff_ne, ne_eq] at hw
  obtain ⟨hr1, hr2⟩ := round_code hw.2
  have e1 : (roundCode rm * 32 + f) / 32 = roundCode rm := by omega
  have e2 : (roundCode rm * 32 + f) % 32 = f := by omega
  exact epilogue_word (by omega) (by omega) (by omega) (by omega) (by omega) (Option.some.inj he) (fun v h1 h2 h3 h4 h5 => by
    simp only [decodeEpilogue, h1, h2, h3, h4, h5, e1, e2, hr2]; exact need_of _ (by simp; omega))
theorem pEst (a : Nat) (f : Nat) : Statement (.pEst a f) := by
  intro word hw he
  have hw : (a < 16 && f ≤ 0x0D) = true := hw
  simp only [Bool.and_eq_true, decide_eq_true_eq, bne_iff_ne, ne_eq] at hw
  exact epilogue_word (by omega) (by omega) (by omega) (by omega) (by omega) (Option.some.inj he) (fun v h1 h2 h3 h4 h5 => by
    simp only [decodeEpilogue, h1, h2, h3, h4, h5]; first | rfl | exact need_of _ (by simp; omega))
theorem pEbyp (a : Nat) : Statement (.pEbyp a) := by
  intro word hw he
  have hw : (decide (a < 16)) = true := hw
  simp only [Bool.and_eq_true, decide_eq_true_eq, bne_iff_ne, ne_eq] at hw
  exact epilogue_word (by omega) (by omega) (by omega) (by omega) (by omega) (Option.some.inj he) (fun v h1 h2 h3 h4 h5 => by
    simp only [decodeEpilogue, h1, h2, h3, h4, h5]; first | rfl | exact need_of _ (by simp; omega))
theorem pEsum (d : Nat) (a : Nat) (t : Bool) : Statement (.pEsum d a t) := by
  intro word hw he
  have hw : (d < 16 && a < 16) = true := hw
  simp only [Bool.and_eq_true, decide_eq_true_eq, bne_iff_ne, ne_eq] at hw
  cases t <;> exact epilogue_word (by omega) (by omega) (by omega) (by omega) (by decide) (Option.some.inj he) (fun v h1 h2 h3 h4 h5 => by
    simp only [decodeEpilogue, h1, h2, h3, h4, h5]; first | rfl | exact need_of _ (by simp; omega))
theorem pEsel (d : Nat) (a : Nat) (b : Nat) (c : Nat) : Statement (.pEsel d a b c) := by
  intro word hw he
  have hw : (d < 16 && a < 16 && b < 16 && c < 16) = true := hw
  simp only [Bool.and_eq_true, decide_eq_true_eq, bne_iff_ne, ne_eq] at hw
  exact epilogue_word (by omega) (by omega) (by omega) (by omega) (by omega) (Option.some.inj he) (fun v h1 h2 h3 h4 h5 => by
    simp only [decodeEpilogue, h1, h2, h3, h4, h5]; first | rfl | exact need_of _ (by simp; omega))
theorem pEmov (d : Nat) (a : Nat) : Statement (.pEmov d a) := by
  intro word hw he
  have hw : (d < 16 && a < 16) = true := hw
  simp only [Bool.and_eq_true, decide_eq_true_eq, bne_iff_ne, ne_eq] at hw
  exact epilogue_word (by omega) (by omega) (by omega) (by omega) (by omega) (Option.some.inj he) (fun v h1 h2 h3 h4 h5 => by
    simp only [decodeEpilogue, h1, h2, h3, h4, h5]; first | rfl | exact need_of _ (by simp; omega))
theorem pEflg (a : Nat) (line : Nat) : Statement (.pEflg a line) := by
  intro word hw he
  have hw : (a < 16 && line < 32) = true := hw
  simp only [Bool.and_eq_true, decide_eq_true_eq, bne_iff_ne, ne_eq] at hw
  exact epilogue_word (by omega) (by omega) (by omega) (by omega) (by omega) (Option.some.inj he) (fun v h1 h2 h3 h4 h5 => by
    simp only [decodeEpilogue, h1, h2, h3, h4, h5]; first | rfl | exact need_of _ (by simp; omega))
theorem cCopy (e : CopyEnt) : Statement (.cCopy e) := by
  intro word hw he
  exact copy_word (by omega) hw (Option.some.inj he) (fun v h1 h2 => by simp only [decodeCopy, h1, h2]; exact if_pos hw)
theorem cGather (e : CopyEnt) : Statement (.cGather e) := by
  intro word hw he
  exact copy_word (by omega) hw (Option.some.inj he) (fun v h1 h2 => by simp only [decodeCopy, h1, h2]; exact if_pos hw)
theorem cFill (e : CopyEnt) : Statement (.cFill e) := by
  intro word hw he
  exact copy_word (by omega) hw (Option.some.inj he) (fun v h1 h2 => by simp only [decodeCopy, h1, h2]; exact if_pos hw)
theorem cCvtcopy (e : CopyEnt) : Statement (.cCvtcopy e) := by
  intro word hw he
  exact copy_word (by omega) hw (Option.some.inj he) (fun v h1 h2 => by simp only [decodeCopy, h1, h2]; exact if_pos hw)
theorem cRedcopy (e : CopyEnt) : Statement (.cRedcopy e) := by
  intro word hw he
  exact copy_word (by omega) hw (Option.some.inj he) (fun v h1 h2 => by simp only [decodeCopy, h1, h2]; exact if_pos hw)
theorem cDigest (e : CopyEnt) : Statement (.cDigest e) := by
  intro word hw he
  exact copy_word (by omega) hw (Option.some.inj he) (fun v h1 h2 => by simp only [decodeCopy, h1, h2]; exact if_pos hw)
theorem lineTransfer : Statement .lineTransfer := by
  intro word hw he
  exact absurd he (by nofun)
theorem caravanSlot : Statement .caravanSlot := by
  intro word hw he
  exact absurd he (by nofun)
theorem copyCompletion : Statement .copyCompletion := by
  intro word hw he
  exact absurd he (by nofun)
theorem journalRelease : Statement .journalRelease := by
  intro word hw he
  exact absurd he (by nofun)
theorem copyBlockRetirement : Statement .copyBlockRetirement := by
  intro word hw he
  exact absurd he (by nofun)
theorem peerRequest : Statement .peerRequest := by
  intro word hw he
  exact absurd he (by nofun)
theorem prompterPerform : Statement .prompterPerform := by
  intro word hw he
  exact absurd he (by nofun)
theorem portPerform : Statement .portPerform := by
  intro word hw he
  exact absurd he (by nofun)
theorem portReply : Statement .portReply := by
  intro word hw he
  exact absurd he (by nofun)
theorem stallFreeze : Statement .stallFreeze := by
  intro word hw he
  exact absurd he (by nofun)
theorem iiBoundary : Statement .iiBoundary := by
  intro word hw he
  exact absurd he (by nofun)
theorem kernelRunEnd : Statement .kernelRunEnd := by
  intro word hw he
  exact absurd he (by nofun)
theorem tickBoundary : Statement .tickBoundary := by
  intro word hw he
  exact absurd he (by nofun)
theorem heartbeat : Statement .heartbeat := by
  intro word hw he
  exact absurd he (by nofun)
theorem cueStart : Statement .cueStart := by
  intro word hw he
  exact absurd he (by nofun)
theorem slackExpiry : Statement .slackExpiry := by
  intro word hw he
  exact absurd he (by nofun)
theorem deadlineExpiry : Statement .deadlineExpiry := by
  intro word hw he
  exact absurd he (by nofun)
theorem understudyFire : Statement .understudyFire := by
  intro word hw he
  exact absurd he (by nofun)
theorem blockRetirement : Statement .blockRetirement := by
  intro word hw he
  exact absurd he (by nofun)
theorem resume : Statement .resume := by
  intro word hw he
  exact absurd he (by nofun)
theorem sceneChange : Statement .sceneChange := by
  intro word hw he
  exact absurd he (by nofun)
theorem sceneStop : Statement .sceneStop := by
  intro word hw he
  exact absurd he (by nofun)
theorem recovery : Statement .recovery := by
  intro word hw he
  exact absurd he (by nofun)
theorem jobRecordRead : Statement .jobRecordRead := by
  intro word hw he
  exact absurd he (by nofun)
theorem startScene : Statement .startScene := by
  intro word hw he
  exact absurd he (by nofun)
theorem launchGang : Statement .launchGang := by
  intro word hw he
  exact absurd he (by nofun)
theorem changeScene : Statement .changeScene := by
  intro word hw he
  exact absurd he (by nofun)
theorem stopScene : Statement .stopScene := by
  intro word hw he
  exact absurd he (by nofun)
theorem loadScene : Statement .loadScene := by
  intro word hw he
  exact absurd he (by nofun)
theorem unloadScene : Statement .unloadScene := by
  intro word hw he
  exact absurd he (by nofun)
theorem sceneLoadComplete : Statement .sceneLoadComplete := by
  intro word hw he
  exact absurd he (by nofun)
theorem sceneUnloadComplete : Statement .sceneUnloadComplete := by
  intro word hw he
  exact absurd he (by nofun)
theorem gangLaunchComplete : Statement .gangLaunchComplete := by
  intro word hw he
  exact absurd he (by nofun)
theorem phaseBoundary : Statement .phaseBoundary := by
  intro word hw he
  exact absurd he (by nofun)
theorem chorusSignature : Statement .chorusSignature := by
  intro word hw he
  exact absurd he (by nofun)
theorem chorusLagExpiry : Statement .chorusLagExpiry := by
  intro word hw he
  exact absurd he (by nofun)
theorem tbincWrite : Statement .tbincWrite := by
  intro word hw he
  exact absurd he (by nofun)
theorem tbctlWrite : Statement .tbctlWrite := by
  intro word hw he
  exact absurd he (by nofun)
theorem tbstepWrite : Statement .tbstepWrite := by
  intro word hw he
  exact absurd he (by nofun)
theorem stepApply : Statement .stepApply := by
  intro word hw he
  exact absurd he (by nofun)
theorem ptpSync : Statement .ptpSync := by
  intro word hw he
  exact absurd he (by nofun)
theorem ptpFollowUp : Statement .ptpFollowUp := by
  intro word hw he
  exact absurd he (by nofun)
theorem ptpPdelay : Statement .ptpPdelay := by
  intro word hw he
  exact absurd he (by nofun)
theorem ptpAnnounce : Statement .ptpAnnounce := by
  intro word hw he
  exact absurd he (by nofun)
theorem nonPtpFrame : Statement .nonPtpFrame := by
  intro word hw he
  exact absurd he (by nofun)
theorem syncTimeout : Statement .syncTimeout := by
  intro word hw he
  exact absurd he (by nofun)
theorem announceTimeout : Statement .announceTimeout := by
  intro word hw he
  exact absurd he (by nofun)
theorem ppsRise : Statement .ppsRise := by
  intro word hw he
  exact absurd he (by nofun)
theorem ppsFall : Statement .ppsFall := by
  intro word hw he
  exact absurd he (by nofun)
theorem ppsIn : Statement .ppsIn := by
  intro word hw he
  exact absurd he (by nofun)
theorem partcfgWrite : Statement .partcfgWrite := by
  intro word hw he
  exact absurd he (by nofun)
theorem partwordWrite : Statement .partwordWrite := by
  intro word hw he
  exact absurd he (by nofun)
theorem ptrootWrite : Statement .ptrootWrite := by
  intro word hw he
  exact absurd he (by nofun)
theorem tlbinvPage : Statement .tlbinvPage := by
  intro word hw he
  exact absurd he (by nofun)
theorem tlbinvPartition : Statement .tlbinvPartition := by
  intro word hw he
  exact absurd he (by nofun)
theorem tlbinvAll : Statement .tlbinvAll := by
  intro word hw he
  exact absurd he (by nofun)
theorem tlbinvComplete : Statement .tlbinvComplete := by
  intro word hw he
  exact absurd he (by nofun)
theorem poolOwnerWrite : Statement .poolOwnerWrite := by
  intro word hw he
  exact absurd he (by nofun)
theorem dieOwnerWrite : Statement .dieOwnerWrite := by
  intro word hw he
  exact absurd he (by nofun)
theorem caravanMapWrite : Statement .caravanMapWrite := by
  intro word hw he
  exact absurd he (by nofun)
theorem reservationWrite : Statement .reservationWrite := by
  intro word hw he
  exact absurd he (by nofun)
theorem syncAllotWrite : Statement .syncAllotWrite := by
  intro word hw he
  exact absurd he (by nofun)
theorem ctxWrite : Statement .ctxWrite := by
  intro word hw he
  exact absurd he (by nofun)
theorem thrcfgWrite : Statement .thrcfgWrite := by
  intro word hw he
  exact absurd he (by nofun)
theorem pwrcapWrite : Statement .pwrcapWrite := by
  intro word hw he
  exact absurd he (by nofun)
theorem registerWrite : Statement .registerWrite := by
  intro word hw he
  exact absurd he (by nofun)
theorem mailboxRead : Statement .mailboxRead := by
  intro word hw he
  exact absurd he (by nofun)
theorem mailboxWrite : Statement .mailboxWrite := by
  intro word hw he
  exact absurd he (by nofun)
theorem wridxWrite : Statement .wridxWrite := by
  intro word hw he
  exact absurd he (by nofun)
theorem rctlWrite : Statement .rctlWrite := by
  intro word hw he
  exact absurd he (by nofun)
theorem hostWindow : Statement .hostWindow := by
  intro word hw he
  exact absurd he (by nofun)
theorem cxlTimeout : Statement .cxlTimeout := by
  intro word hw he
  exact absurd he (by nofun)
theorem cxlLinkDown : Statement .cxlLinkDown := by
  intro word hw he
  exact absurd he (by nofun)
theorem screqWrite : Statement .screqWrite := by
  intro word hw he
  exact absurd he (by nofun)
theorem wdkickWrite : Statement .wdkickWrite := by
  intro word hw he
  exact absurd he (by nofun)
theorem watchdogExpiry : Statement .watchdogExpiry := by
  intro word hw he
  exact absurd he (by nofun)
theorem initiateFlr : Statement .initiateFlr := by
  intro word hw he
  exact absurd he (by nofun)
theorem flrStop : Statement .flrStop := by
  intro word hw he
  exact absurd he (by nofun)
theorem flrDrainEnd : Statement .flrDrainEnd := by
  intro word hw he
  exact absurd he (by nofun)
theorem flrComplete : Statement .flrComplete := by
  intro word hw he
  exact absurd he (by nofun)
theorem channelFence : Statement .channelFence := by
  intro word hw he
  exact absurd he (by nofun)
theorem capClear : Statement .capClear := by
  intro word hw he
  exact absurd he (by nofun)
theorem retrainStart : Statement .retrainStart := by
  intro word hw he
  exact absurd he (by nofun)
theorem retrainEnd : Statement .retrainEnd := by
  intro word hw he
  exact absurd he (by nofun)
theorem retrainTimeout : Statement .retrainTimeout := by
  intro word hw he
  exact absurd he (by nofun)
theorem budgetPeriod : Statement .budgetPeriod := by
  intro word hw he
  exact absurd he (by nofun)
theorem saveStart : Statement .saveStart := by
  intro word hw he
  exact absurd he (by nofun)
theorem saveUnit : Statement .saveUnit := by
  intro word hw he
  exact absurd he (by nofun)
theorem pwrgoodLoss : Statement .pwrgoodLoss := by
  intro word hw he
  exact absurd he (by nofun)
theorem powerOff : Statement .powerOff := by
  intro word hw he
  exact absurd he (by nofun)
theorem coldReset : Statement .coldReset := by
  intro word hw he
  exact absurd he (by nofun)
theorem bootStage : Statement .bootStage := by
  intro word hw he
  exact absurd he (by nofun)
theorem syncService : Statement .syncService := by
  intro word hw he
  exact absurd he (by nofun)
theorem cxlTrained : Statement .cxlTrained := by
  intro word hw he
  exact absurd he (by nofun)
theorem cxlSnoop : Statement .cxlSnoop := by
  intro word hw he
  exact absurd he (by nofun)
theorem boundaryScan : Statement .boundaryScan := by
  intro word hw he
  exact absurd he (by nofun)

end RoundTrip

end Sys2Proof.Laws
end

