-- ==== Sys2Proof/Laws/State.lean ====
section
/-! SUPPORT. What each update of the state leaves as it was, and what it makes of its own table. -/

namespace Sys2Proof.Machine

/-! ## The other fields of an update -/

@[simp] theorem setTh_other (s : State) (k : Nat) (t : Thread) :
    (setTh s k t).cycle = s.cycle ∧ (setTh s k t).phase = s.phase ∧ (setTh s k t).todo = s.todo ∧ (setTh s k t).agenda = s.agenda ∧
    (setTh s k t).cur = s.cur ∧ (setTh s k t).free = s.free ∧ (setTh s k t).nextId = s.nextId ∧ (setTh s k t).tb = s.tb ∧ (setTh s k t).lost = s.lost ∧
    (setTh s k t).level = s.level ∧ (setTh s k t).levelPend = s.levelPend ∧ (setTh s k t).budget = s.budget ∧ (setTh s k t).budgetNext = s.budgetNext ∧
    (setTh s k t).served = s.served ∧ (setTh s k t).parts = s.parts ∧ (setTh s k t).cores = s.cores ∧ (setTh s k t).mgmt = s.mgmt ∧
    (setTh s k t).mem = s.mem ∧ (setTh s k t).hostMem = s.hostMem ∧ (setTh s k t).safetyMem = s.safetyMem ∧ (setTh s k t).cacheLines = s.cacheLines ∧
    (setTh s k t).atsRefused = s.atsRefused ∧ (setTh s k t).cfg = s.cfg ∧ (setTh s k t).cfgImages = s.cfgImages ∧ (setTh s k t).cfgBad = s.cfgBad ∧
    (setTh s k t).dieOwners = s.dieOwners ∧ (setTh s k t).slots = s.slots ∧ (setTh s k t).resv = s.resv ∧ (setTh s k t).pinned = s.pinned ∧ (setTh s k t).coreTlb = s.coreTlb ∧ (setTh s k t).dieTlb = s.dieTlb ∧
    (setTh s k t).ecc = s.ecc ∧ (setTh s k t).regions = s.regions ∧ (setTh s k t).elems = s.elems ∧ (setTh s k t).runs = s.runs ∧
    (setTh s k t).cues = s.cues ∧ (setTh s k t).tids = s.tids ∧ (setTh s k t).tidFrom = s.tidFrom ∧ (setTh s k t).resid = s.resid ∧
    (setTh s k t).residAt = s.residAt ∧ (setTh s k t).copiers = s.copiers ∧ (setTh s k t).reqs = s.reqs ∧ (setTh s k t).dram = s.dram ∧
    (setTh s k t).syncQ = s.syncQ ∧ (setTh s k t).objs = s.objs ∧ (setTh s k t).objWaiters = s.objWaiters ∧ (setTh s k t).sync = s.sync ∧ (setTh s k t).syncRaw = s.syncRaw ∧
    (setTh s k t).phasers = s.phasers ∧ (setTh s k t).tags = s.tags ∧ (setTh s k t).grants = s.grants ∧ (setTh s k t).homes = s.homes ∧ (setTh s k t).voices = s.voices ∧
    (setTh s k t).scenes = s.scenes ∧ (setTh s k t).launches = s.launches ∧ (setTh s k t).images = s.images ∧ (setTh s k t).jobs = s.jobs ∧
    (setTh s k t).streams = s.streams ∧ (setTh s k t).rings = s.rings ∧ (setTh s k t).queues = s.queues ∧ (setTh s k t).queueMore = s.queueMore ∧
    (setTh s k t).recs = s.recs ∧ (setTh s k t).seen = s.seen ∧ (setTh s k t).seqs = s.seqs ∧ (setTh s k t).evlog = s.evlog ∧ (setTh s k t).irqs = s.irqs ∧
    (setTh s k t).links = s.links ∧ (setTh s k t).linksOut = s.linksOut := by
  and_intros <;> rfl
@[simp] theorem setReg_other (s : State) (k : Nat) (g : Region) :
    (setReg s k g).cycle = s.cycle ∧ (setReg s k g).phase = s.phase ∧ (setReg s k g).todo = s.todo ∧ (setReg s k g).agenda = s.agenda ∧
    (setReg s k g).cur = s.cur ∧ (setReg s k g).free = s.free ∧ (setReg s k g).nextId = s.nextId ∧ (setReg s k g).tb = s.tb ∧
    (setReg s k g).lost = s.lost ∧ (setReg s k g).level = s.level ∧ (setReg s k g).levelPend = s.levelPend ∧ (setReg s k g).budget = s.budget ∧
    (setReg s k g).budgetNext = s.budgetNext ∧ (setReg s k g).served = s.served ∧ (setReg s k g).parts = s.parts ∧ (setReg s k g).cores = s.cores ∧
    (setReg s k g).mgmt = s.mgmt ∧ (setReg s k g).mem = s.mem ∧ (setReg s k g).hostMem = s.hostMem ∧ (setReg s k g).safetyMem = s.safetyMem ∧
    (setReg s k g).cacheLines = s.cacheLines ∧ (setReg s k g).atsRefused = s.atsRefused ∧ (setReg s k g).cfg = s.cfg ∧
    (setReg s k g).cfgImages = s.cfgImages ∧ (setReg s k g).cfgBad = s.cfgBad ∧ (setReg s k g).dieOwners = s.dieOwners ∧
    (setReg s k g).slots = s.slots ∧ (setReg s k g).resv = s.resv ∧ (setReg s k g).pinned = s.pinned ∧ (setReg s k g).coreTlb = s.coreTlb ∧ (setReg s k g).dieTlb = s.dieTlb ∧ (setReg s k g).ecc = s.ecc ∧
    (setReg s k g).threads = s.threads ∧ (setReg s k g).elems = s.elems ∧ (setReg s k g).runs = s.runs ∧ (setReg s k g).cues = s.cues ∧
    (setReg s k g).tids = s.tids ∧ (setReg s k g).tidFrom = s.tidFrom ∧ (setReg s k g).resid = s.resid ∧ (setReg s k g).residAt = s.residAt ∧
    (setReg s k g).copiers = s.copiers ∧ (setReg s k g).reqs = s.reqs ∧ (setReg s k g).dram = s.dram ∧ (setReg s k g).syncQ = s.syncQ ∧
    (setReg s k g).objs = s.objs ∧ (setReg s k g).objWaiters = s.objWaiters ∧ (setReg s k g).sync = s.sync ∧ (setReg s k g).syncRaw = s.syncRaw ∧ (setReg s k g).phasers = s.phasers ∧
    (setReg s k g).tags = s.tags ∧ (setReg s k g).grants = s.grants ∧ (setReg s k g).homes = s.homes ∧ (setReg s k g).voices = s.voices ∧ (setReg s k g).scenes = s.scenes ∧
    (setReg s k g).launches = s.launches ∧ (setReg s k g).images = s.images ∧ (setReg s k g).jobs = s.jobs ∧ (setReg s k g).streams = s.streams ∧
    (setReg s k g).rings = s.rings ∧ (setReg s k g).queues = s.queues ∧ (setReg s k g).queueMore = s.queueMore ∧ (setReg s k g).recs = s.recs ∧ (setReg s k g).seen = s.seen ∧
    (setReg s k g).seqs = s.seqs ∧ (setReg s k g).evlog = s.evlog ∧ (setReg s k g).irqs = s.irqs ∧ (setReg s k g).links = s.links ∧
    (setReg s k g).linksOut = s.linksOut := by
  and_intros <;> rfl
@[simp] theorem setEl_other (s : State) (k : Nat) (e : Elem) :
    (setEl s k e).cycle = s.cycle ∧ (setEl s k e).phase = s.phase ∧ (setEl s k e).todo = s.todo ∧ (setEl s k e).agenda = s.agenda ∧
    (setEl s k e).cur = s.cur ∧ (setEl s k e).free = s.free ∧ (setEl s k e).nextId = s.nextId ∧ (setEl s k e).tb = s.tb ∧ (setEl s k e).lost = s.lost ∧
    (setEl s k e).level = s.level ∧ (setEl s k e).levelPend = s.levelPend ∧ (setEl s k e).budget = s.budget ∧ (setEl s k e).budgetNext = s.budgetNext ∧
    (setEl s k e).served = s.served ∧ (setEl s k e).parts = s.parts ∧ (setEl s k e).cores = s.cores ∧ (setEl s k e).mgmt = s.mgmt ∧
    (setEl s k e).mem = s.mem ∧ (setEl s k e).hostMem = s.hostMem ∧ (setEl s k e).safetyMem = s.safetyMem ∧ (setEl s k e).cacheLines = s.cacheLines ∧
    (setEl s k e).atsRefused = s.atsRefused ∧ (setEl s k e).cfg = s.cfg ∧ (setEl s k e).cfgImages = s.cfgImages ∧ (setEl s k e).cfgBad = s.cfgBad ∧
    (setEl s k e).dieOwners = s.dieOwners ∧ (setEl s k e).slots = s.slots ∧ (setEl s k e).resv = s.resv ∧ (setEl s k e).pinned = s.pinned ∧ (setEl s k e).coreTlb = s.coreTlb ∧ (setEl s k e).dieTlb = s.dieTlb ∧
    (setEl s k e).ecc = s.ecc ∧ (setEl s k e).threads = s.threads ∧ (setEl s k e).regions = s.regions ∧ (setEl s k e).runs = s.runs ∧
    (setEl s k e).cues = s.cues ∧ (setEl s k e).tids = s.tids ∧ (setEl s k e).tidFrom = s.tidFrom ∧ (setEl s k e).resid = s.resid ∧
    (setEl s k e).residAt = s.residAt ∧ (setEl s k e).copiers = s.copiers ∧ (setEl s k e).reqs = s.reqs ∧ (setEl s k e).dram = s.dram ∧
    (setEl s k e).syncQ = s.syncQ ∧ (setEl s k e).objs = s.objs ∧ (setEl s k e).objWaiters = s.objWaiters ∧ (setEl s k e).sync = s.sync ∧ (setEl s k e).syncRaw = s.syncRaw ∧
    (setEl s k e).phasers = s.phasers ∧ (setEl s k e).tags = s.tags ∧ (setEl s k e).grants = s.grants ∧ (setEl s k e).homes = s.homes ∧ (setEl s k e).voices = s.voices ∧
    (setEl s k e).scenes = s.scenes ∧ (setEl s k e).launches = s.launches ∧ (setEl s k e).images = s.images ∧ (setEl s k e).jobs = s.jobs ∧
    (setEl s k e).streams = s.streams ∧ (setEl s k e).rings = s.rings ∧ (setEl s k e).queues = s.queues ∧ (setEl s k e).queueMore = s.queueMore ∧
    (setEl s k e).recs = s.recs ∧ (setEl s k e).seen = s.seen ∧ (setEl s k e).seqs = s.seqs ∧ (setEl s k e).evlog = s.evlog ∧ (setEl s k e).irqs = s.irqs ∧
    (setEl s k e).links = s.links ∧ (setEl s k e).linksOut = s.linksOut := by
  and_intros <;> rfl
@[simp] theorem setCore_other (s : State) (c : Nat) (v : Core) :
    (setCore s c v).cycle = s.cycle ∧ (setCore s c v).phase = s.phase ∧ (setCore s c v).todo = s.todo ∧ (setCore s c v).agenda = s.agenda ∧
    (setCore s c v).cur = s.cur ∧ (setCore s c v).free = s.free ∧ (setCore s c v).nextId = s.nextId ∧ (setCore s c v).tb = s.tb ∧
    (setCore s c v).lost = s.lost ∧ (setCore s c v).level = s.level ∧ (setCore s c v).levelPend = s.levelPend ∧ (setCore s c v).budget = s.budget ∧
    (setCore s c v).budgetNext = s.budgetNext ∧ (setCore s c v).served = s.served ∧ (setCore s c v).parts = s.parts ∧ (setCore s c v).mgmt = s.mgmt ∧
    (setCore s c v).mem = s.mem ∧ (setCore s c v).hostMem = s.hostMem ∧ (setCore s c v).safetyMem = s.safetyMem ∧
    (setCore s c v).cacheLines = s.cacheLines ∧ (setCore s c v).atsRefused = s.atsRefused ∧ (setCore s c v).cfg = s.cfg ∧
    (setCore s c v).cfgImages = s.cfgImages ∧ (setCore s c v).cfgBad = s.cfgBad ∧ (setCore s c v).dieOwners = s.dieOwners ∧
    (setCore s c v).slots = s.slots ∧ (setCore s c v).resv = s.resv ∧ (setCore s c v).pinned = s.pinned ∧ (setCore s c v).coreTlb = s.coreTlb ∧ (setCore s c v).dieTlb = s.dieTlb ∧ (setCore s c v).ecc = s.ecc ∧
    (setCore s c v).threads = s.threads ∧ (setCore s c v).regions = s.regions ∧ (setCore s c v).elems = s.elems ∧ (setCore s c v).runs = s.runs ∧
    (setCore s c v).cues = s.cues ∧ (setCore s c v).tids = s.tids ∧ (setCore s c v).tidFrom = s.tidFrom ∧ (setCore s c v).resid = s.resid ∧
    (setCore s c v).residAt = s.residAt ∧ (setCore s c v).copiers = s.copiers ∧ (setCore s c v).reqs = s.reqs ∧ (setCore s c v).dram = s.dram ∧
    (setCore s c v).syncQ = s.syncQ ∧ (setCore s c v).objs = s.objs ∧ (setCore s c v).objWaiters = s.objWaiters ∧ (setCore s c v).sync = s.sync ∧ (setCore s c v).syncRaw = s.syncRaw ∧
    (setCore s c v).phasers = s.phasers ∧ (setCore s c v).tags = s.tags ∧ (setCore s c v).grants = s.grants ∧ (setCore s c v).homes = s.homes ∧ (setCore s c v).voices = s.voices ∧
    (setCore s c v).scenes = s.scenes ∧ (setCore s c v).launches = s.launches ∧ (setCore s c v).images = s.images ∧ (setCore s c v).jobs = s.jobs ∧
    (setCore s c v).streams = s.streams ∧ (setCore s c v).rings = s.rings ∧ (setCore s c v).queues = s.queues ∧
    (setCore s c v).queueMore = s.queueMore ∧ (setCore s c v).recs = s.recs ∧ (setCore s c v).seen = s.seen ∧ (setCore s c v).seqs = s.seqs ∧ (setCore s c v).evlog = s.evlog ∧
    (setCore s c v).irqs = s.irqs ∧ (setCore s c v).links = s.links ∧ (setCore s c v).linksOut = s.linksOut := by
  and_intros <;> rfl
@[simp] theorem setPart_other (s : State) (p : Nat) (v : Part) :
    (setPart s p v).cycle = s.cycle ∧ (setPart s p v).phase = s.phase ∧ (setPart s p v).todo = s.todo ∧ (setPart s p v).agenda = s.agenda ∧
    (setPart s p v).cur = s.cur ∧ (setPart s p v).free = s.free ∧ (setPart s p v).nextId = s.nextId ∧ (setPart s p v).tb = s.tb ∧
    (setPart s p v).lost = s.lost ∧ (setPart s p v).level = s.level ∧ (setPart s p v).levelPend = s.levelPend ∧ (setPart s p v).budget = s.budget ∧
    (setPart s p v).budgetNext = s.budgetNext ∧ (setPart s p v).served = s.served ∧ (setPart s p v).cores = s.cores ∧ (setPart s p v).mgmt = s.mgmt ∧
    (setPart s p v).mem = s.mem ∧ (setPart s p v).hostMem = s.hostMem ∧ (setPart s p v).safetyMem = s.safetyMem ∧
    (setPart s p v).cacheLines = s.cacheLines ∧ (setPart s p v).atsRefused = s.atsRefused ∧ (setPart s p v).cfg = s.cfg ∧
    (setPart s p v).cfgImages = s.cfgImages ∧ (setPart s p v).cfgBad = s.cfgBad ∧ (setPart s p v).dieOwners = s.dieOwners ∧
    (setPart s p v).slots = s.slots ∧ (setPart s p v).resv = s.resv ∧ (setPart s p v).pinned = s.pinned ∧ (setPart s p v).coreTlb = s.coreTlb ∧ (setPart s p v).dieTlb = s.dieTlb ∧ (setPart s p v).ecc = s.ecc ∧
    (setPart s p v).threads = s.threads ∧ (setPart s p v).regions = s.regions ∧ (setPart s p v).elems = s.elems ∧ (setPart s p v).runs = s.runs ∧
    (setPart s p v).cues = s.cues ∧ (setPart s p v).tids = s.tids ∧ (setPart s p v).tidFrom = s.tidFrom ∧ (setPart s p v).resid = s.resid ∧
    (setPart s p v).residAt = s.residAt ∧ (setPart s p v).copiers = s.copiers ∧ (setPart s p v).reqs = s.reqs ∧ (setPart s p v).dram = s.dram ∧
    (setPart s p v).syncQ = s.syncQ ∧ (setPart s p v).objs = s.objs ∧ (setPart s p v).objWaiters = s.objWaiters ∧ (setPart s p v).sync = s.sync ∧ (setPart s p v).syncRaw = s.syncRaw ∧
    (setPart s p v).phasers = s.phasers ∧ (setPart s p v).tags = s.tags ∧ (setPart s p v).grants = s.grants ∧ (setPart s p v).homes = s.homes ∧ (setPart s p v).voices = s.voices ∧
    (setPart s p v).scenes = s.scenes ∧ (setPart s p v).launches = s.launches ∧ (setPart s p v).images = s.images ∧ (setPart s p v).jobs = s.jobs ∧
    (setPart s p v).streams = s.streams ∧ (setPart s p v).rings = s.rings ∧ (setPart s p v).queues = s.queues ∧
    (setPart s p v).queueMore = s.queueMore ∧ (setPart s p v).recs = s.recs ∧ (setPart s p v).seen = s.seen ∧ (setPart s p v).seqs = s.seqs ∧ (setPart s p v).evlog = s.evlog ∧
    (setPart s p v).irqs = s.irqs ∧ (setPart s p v).links = s.links ∧ (setPart s p v).linksOut = s.linksOut := by
  and_intros <;> rfl
@[simp] theorem setCue_other (s : State) (k : Nat) (q : Cue) :
    (setCue s k q).cycle = s.cycle ∧ (setCue s k q).phase = s.phase ∧ (setCue s k q).todo = s.todo ∧ (setCue s k q).agenda = s.agenda ∧
    (setCue s k q).cur = s.cur ∧ (setCue s k q).free = s.free ∧ (setCue s k q).nextId = s.nextId ∧ (setCue s k q).tb = s.tb ∧
    (setCue s k q).lost = s.lost ∧ (setCue s k q).level = s.level ∧ (setCue s k q).levelPend = s.levelPend ∧ (setCue s k q).budget = s.budget ∧
    (setCue s k q).budgetNext = s.budgetNext ∧ (setCue s k q).served = s.served ∧ (setCue s k q).parts = s.parts ∧ (setCue s k q).cores = s.cores ∧
    (setCue s k q).mgmt = s.mgmt ∧ (setCue s k q).mem = s.mem ∧ (setCue s k q).hostMem = s.hostMem ∧ (setCue s k q).safetyMem = s.safetyMem ∧
    (setCue s k q).cacheLines = s.cacheLines ∧ (setCue s k q).atsRefused = s.atsRefused ∧ (setCue s k q).cfg = s.cfg ∧
    (setCue s k q).cfgImages = s.cfgImages ∧ (setCue s k q).cfgBad = s.cfgBad ∧ (setCue s k q).dieOwners = s.dieOwners ∧
    (setCue s k q).slots = s.slots ∧ (setCue s k q).resv = s.resv ∧ (setCue s k q).pinned = s.pinned ∧ (setCue s k q).coreTlb = s.coreTlb ∧ (setCue s k q).dieTlb = s.dieTlb ∧ (setCue s k q).ecc = s.ecc ∧
    (setCue s k q).threads = s.threads ∧ (setCue s k q).regions = s.regions ∧ (setCue s k q).elems = s.elems ∧ (setCue s k q).runs = s.runs ∧
    (setCue s k q).tids = s.tids ∧ (setCue s k q).tidFrom = s.tidFrom ∧ (setCue s k q).resid = s.resid ∧ (setCue s k q).residAt = s.residAt ∧
    (setCue s k q).copiers = s.copiers ∧ (setCue s k q).reqs = s.reqs ∧ (setCue s k q).dram = s.dram ∧ (setCue s k q).syncQ = s.syncQ ∧
    (setCue s k q).objs = s.objs ∧ (setCue s k q).objWaiters = s.objWaiters ∧ (setCue s k q).sync = s.sync ∧ (setCue s k q).syncRaw = s.syncRaw ∧ (setCue s k q).phasers = s.phasers ∧
    (setCue s k q).tags = s.tags ∧ (setCue s k q).grants = s.grants ∧ (setCue s k q).homes = s.homes ∧ (setCue s k q).voices = s.voices ∧ (setCue s k q).scenes = s.scenes ∧
    (setCue s k q).launches = s.launches ∧ (setCue s k q).images = s.images ∧ (setCue s k q).jobs = s.jobs ∧ (setCue s k q).streams = s.streams ∧
    (setCue s k q).rings = s.rings ∧ (setCue s k q).queues = s.queues ∧ (setCue s k q).queueMore = s.queueMore ∧ (setCue s k q).recs = s.recs ∧ (setCue s k q).seen = s.seen ∧
    (setCue s k q).seqs = s.seqs ∧ (setCue s k q).evlog = s.evlog ∧ (setCue s k q).irqs = s.irqs ∧ (setCue s k q).links = s.links ∧
    (setCue s k q).linksOut = s.linksOut := by
  and_intros <;> rfl
@[simp] theorem setCopier_other (s : State) (c : Nat) (v : Copier) :
    (setCopier s c v).cycle = s.cycle ∧ (setCopier s c v).phase = s.phase ∧ (setCopier s c v).todo = s.todo ∧ (setCopier s c v).agenda = s.agenda ∧
    (setCopier s c v).cur = s.cur ∧ (setCopier s c v).free = s.free ∧ (setCopier s c v).nextId = s.nextId ∧ (setCopier s c v).tb = s.tb ∧
    (setCopier s c v).lost = s.lost ∧ (setCopier s c v).level = s.level ∧ (setCopier s c v).levelPend = s.levelPend ∧
    (setCopier s c v).budget = s.budget ∧ (setCopier s c v).budgetNext = s.budgetNext ∧ (setCopier s c v).served = s.served ∧
    (setCopier s c v).parts = s.parts ∧ (setCopier s c v).cores = s.cores ∧ (setCopier s c v).mgmt = s.mgmt ∧ (setCopier s c v).mem = s.mem ∧
    (setCopier s c v).hostMem = s.hostMem ∧ (setCopier s c v).safetyMem = s.safetyMem ∧ (setCopier s c v).cacheLines = s.cacheLines ∧
    (setCopier s c v).atsRefused = s.atsRefused ∧ (setCopier s c v).cfg = s.cfg ∧ (setCopier s c v).cfgImages = s.cfgImages ∧
    (setCopier s c v).cfgBad = s.cfgBad ∧ (setCopier s c v).dieOwners = s.dieOwners ∧ (setCopier s c v).slots = s.slots ∧
    (setCopier s c v).resv = s.resv ∧ (setCopier s c v).pinned = s.pinned ∧ (setCopier s c v).coreTlb = s.coreTlb ∧ (setCopier s c v).dieTlb = s.dieTlb ∧ (setCopier s c v).ecc = s.ecc ∧ (setCopier s c v).threads = s.threads ∧
    (setCopier s c v).regions = s.regions ∧ (setCopier s c v).elems = s.elems ∧ (setCopier s c v).runs = s.runs ∧ (setCopier s c v).cues = s.cues ∧
    (setCopier s c v).tids = s.tids ∧ (setCopier s c v).tidFrom = s.tidFrom ∧ (setCopier s c v).resid = s.resid ∧
    (setCopier s c v).residAt = s.residAt ∧ (setCopier s c v).reqs = s.reqs ∧ (setCopier s c v).dram = s.dram ∧ (setCopier s c v).syncQ = s.syncQ ∧
    (setCopier s c v).objs = s.objs ∧ (setCopier s c v).objWaiters = s.objWaiters ∧ (setCopier s c v).sync = s.sync ∧ (setCopier s c v).syncRaw = s.syncRaw ∧
    (setCopier s c v).phasers = s.phasers ∧ (setCopier s c v).tags = s.tags ∧ (setCopier s c v).grants = s.grants ∧ (setCopier s c v).homes = s.homes ∧ (setCopier s c v).voices = s.voices ∧
    (setCopier s c v).scenes = s.scenes ∧ (setCopier s c v).launches = s.launches ∧ (setCopier s c v).images = s.images ∧
    (setCopier s c v).jobs = s.jobs ∧ (setCopier s c v).streams = s.streams ∧ (setCopier s c v).rings = s.rings ∧ (setCopier s c v).queues = s.queues ∧
    (setCopier s c v).queueMore = s.queueMore ∧ (setCopier s c v).recs = s.recs ∧ (setCopier s c v).seen = s.seen ∧ (setCopier s c v).seqs = s.seqs ∧ (setCopier s c v).evlog = s.evlog ∧
    (setCopier s c v).irqs = s.irqs ∧ (setCopier s c v).links = s.links ∧ (setCopier s c v).linksOut = s.linksOut := by
  and_intros <;> rfl
@[simp] theorem setPh_other (s : State) (k : Nat) (p : Phaser) :
    (setPh s k p).cycle = s.cycle ∧ (setPh s k p).phase = s.phase ∧ (setPh s k p).todo = s.todo ∧ (setPh s k p).agenda = s.agenda ∧
    (setPh s k p).cur = s.cur ∧ (setPh s k p).free = s.free ∧ (setPh s k p).nextId = s.nextId ∧ (setPh s k p).tb = s.tb ∧ (setPh s k p).lost = s.lost ∧
    (setPh s k p).level = s.level ∧ (setPh s k p).levelPend = s.levelPend ∧ (setPh s k p).budget = s.budget ∧ (setPh s k p).budgetNext = s.budgetNext ∧
    (setPh s k p).served = s.served ∧ (setPh s k p).parts = s.parts ∧ (setPh s k p).cores = s.cores ∧ (setPh s k p).mgmt = s.mgmt ∧
    (setPh s k p).mem = s.mem ∧ (setPh s k p).hostMem = s.hostMem ∧ (setPh s k p).safetyMem = s.safetyMem ∧ (setPh s k p).cacheLines = s.cacheLines ∧
    (setPh s k p).atsRefused = s.atsRefused ∧ (setPh s k p).cfg = s.cfg ∧ (setPh s k p).cfgImages = s.cfgImages ∧ (setPh s k p).cfgBad = s.cfgBad ∧
    (setPh s k p).dieOwners = s.dieOwners ∧ (setPh s k p).slots = s.slots ∧ (setPh s k p).resv = s.resv ∧ (setPh s k p).pinned = s.pinned ∧ (setPh s k p).coreTlb = s.coreTlb ∧ (setPh s k p).dieTlb = s.dieTlb ∧
    (setPh s k p).ecc = s.ecc ∧ (setPh s k p).threads = s.threads ∧ (setPh s k p).regions = s.regions ∧ (setPh s k p).elems = s.elems ∧
    (setPh s k p).runs = s.runs ∧ (setPh s k p).cues = s.cues ∧ (setPh s k p).tids = s.tids ∧ (setPh s k p).tidFrom = s.tidFrom ∧
    (setPh s k p).resid = s.resid ∧ (setPh s k p).residAt = s.residAt ∧ (setPh s k p).copiers = s.copiers ∧ (setPh s k p).reqs = s.reqs ∧
    (setPh s k p).dram = s.dram ∧ (setPh s k p).syncQ = s.syncQ ∧ (setPh s k p).objs = s.objs ∧ (setPh s k p).objWaiters = s.objWaiters ∧
    (setPh s k p).sync = s.sync ∧ (setPh s k p).syncRaw = s.syncRaw ∧ (setPh s k p).tags = s.tags ∧ (setPh s k p).grants = s.grants ∧ (setPh s k p).homes = s.homes ∧ (setPh s k p).voices = s.voices ∧
    (setPh s k p).scenes = s.scenes ∧ (setPh s k p).launches = s.launches ∧ (setPh s k p).images = s.images ∧ (setPh s k p).jobs = s.jobs ∧
    (setPh s k p).streams = s.streams ∧ (setPh s k p).rings = s.rings ∧ (setPh s k p).queues = s.queues ∧ (setPh s k p).queueMore = s.queueMore ∧
    (setPh s k p).recs = s.recs ∧ (setPh s k p).seen = s.seen ∧ (setPh s k p).seqs = s.seqs ∧ (setPh s k p).evlog = s.evlog ∧ (setPh s k p).irqs = s.irqs ∧
    (setPh s k p).links = s.links ∧ (setPh s k p).linksOut = s.linksOut := by
  and_intros <;> rfl
@[simp] theorem setScene_other (s : State) (k : Nat) (x : Scene) :
    (setScene s k x).cycle = s.cycle ∧ (setScene s k x).phase = s.phase ∧ (setScene s k x).todo = s.todo ∧ (setScene s k x).agenda = s.agenda ∧
    (setScene s k x).cur = s.cur ∧ (setScene s k x).free = s.free ∧ (setScene s k x).nextId = s.nextId ∧ (setScene s k x).tb = s.tb ∧
    (setScene s k x).lost = s.lost ∧ (setScene s k x).level = s.level ∧ (setScene s k x).levelPend = s.levelPend ∧ (setScene s k x).budget = s.budget ∧
    (setScene s k x).budgetNext = s.budgetNext ∧ (setScene s k x).served = s.served ∧ (setScene s k x).parts = s.parts ∧
    (setScene s k x).cores = s.cores ∧ (setScene s k x).mgmt = s.mgmt ∧ (setScene s k x).mem = s.mem ∧ (setScene s k x).hostMem = s.hostMem ∧
    (setScene s k x).safetyMem = s.safetyMem ∧ (setScene s k x).cacheLines = s.cacheLines ∧ (setScene s k x).atsRefused = s.atsRefused ∧
    (setScene s k x).cfg = s.cfg ∧ (setScene s k x).cfgImages = s.cfgImages ∧ (setScene s k x).cfgBad = s.cfgBad ∧
    (setScene s k x).dieOwners = s.dieOwners ∧ (setScene s k x).slots = s.slots ∧ (setScene s k x).resv = s.resv ∧ (setScene s k x).pinned = s.pinned ∧ (setScene s k x).coreTlb = s.coreTlb ∧ (setScene s k x).dieTlb = s.dieTlb ∧
    (setScene s k x).ecc = s.ecc ∧ (setScene s k x).threads = s.threads ∧ (setScene s k x).regions = s.regions ∧ (setScene s k x).elems = s.elems ∧
    (setScene s k x).runs = s.runs ∧ (setScene s k x).cues = s.cues ∧ (setScene s k x).tids = s.tids ∧ (setScene s k x).tidFrom = s.tidFrom ∧
    (setScene s k x).resid = s.resid ∧ (setScene s k x).residAt = s.residAt ∧ (setScene s k x).copiers = s.copiers ∧ (setScene s k x).reqs = s.reqs ∧
    (setScene s k x).dram = s.dram ∧ (setScene s k x).syncQ = s.syncQ ∧ (setScene s k x).objs = s.objs ∧ (setScene s k x).objWaiters = s.objWaiters ∧
    (setScene s k x).sync = s.sync ∧ (setScene s k x).syncRaw = s.syncRaw ∧ (setScene s k x).phasers = s.phasers ∧ (setScene s k x).tags = s.tags ∧ (setScene s k x).grants = s.grants ∧ (setScene s k x).homes = s.homes ∧
    (setScene s k x).voices = s.voices ∧ (setScene s k x).launches = s.launches ∧ (setScene s k x).images = s.images ∧ (setScene s k x).jobs = s.jobs ∧
    (setScene s k x).streams = s.streams ∧ (setScene s k x).rings = s.rings ∧ (setScene s k x).queues = s.queues ∧
    (setScene s k x).queueMore = s.queueMore ∧ (setScene s k x).recs = s.recs ∧ (setScene s k x).seen = s.seen ∧ (setScene s k x).seqs = s.seqs ∧ (setScene s k x).evlog = s.evlog ∧
    (setScene s k x).irqs = s.irqs ∧ (setScene s k x).links = s.links ∧ (setScene s k x).linksOut = s.linksOut := by
  and_intros <;> rfl
@[simp] theorem setVoice_other (s : State) (k : Nat) (v : Voice) :
    (setVoice s k v).cycle = s.cycle ∧ (setVoice s k v).phase = s.phase ∧ (setVoice s k v).todo = s.todo ∧ (setVoice s k v).agenda = s.agenda ∧
    (setVoice s k v).cur = s.cur ∧ (setVoice s k v).free = s.free ∧ (setVoice s k v).nextId = s.nextId ∧ (setVoice s k v).tb = s.tb ∧
    (setVoice s k v).lost = s.lost ∧ (setVoice s k v).level = s.level ∧ (setVoice s k v).levelPend = s.levelPend ∧ (setVoice s k v).budget = s.budget ∧
    (setVoice s k v).budgetNext = s.budgetNext ∧ (setVoice s k v).served = s.served ∧ (setVoice s k v).parts = s.parts ∧
    (setVoice s k v).cores = s.cores ∧ (setVoice s k v).mgmt = s.mgmt ∧ (setVoice s k v).mem = s.mem ∧ (setVoice s k v).hostMem = s.hostMem ∧
    (setVoice s k v).safetyMem = s.safetyMem ∧ (setVoice s k v).cacheLines = s.cacheLines ∧ (setVoice s k v).atsRefused = s.atsRefused ∧
    (setVoice s k v).cfg = s.cfg ∧ (setVoice s k v).cfgImages = s.cfgImages ∧ (setVoice s k v).cfgBad = s.cfgBad ∧
    (setVoice s k v).dieOwners = s.dieOwners ∧ (setVoice s k v).slots = s.slots ∧ (setVoice s k v).resv = s.resv ∧ (setVoice s k v).pinned = s.pinned ∧ (setVoice s k v).coreTlb = s.coreTlb ∧ (setVoice s k v).dieTlb = s.dieTlb ∧
    (setVoice s k v).ecc = s.ecc ∧ (setVoice s k v).threads = s.threads ∧ (setVoice s k v).regions = s.regions ∧ (setVoice s k v).elems = s.elems ∧
    (setVoice s k v).runs = s.runs ∧ (setVoice s k v).cues = s.cues ∧ (setVoice s k v).tids = s.tids ∧ (setVoice s k v).tidFrom = s.tidFrom ∧
    (setVoice s k v).resid = s.resid ∧ (setVoice s k v).residAt = s.residAt ∧ (setVoice s k v).copiers = s.copiers ∧ (setVoice s k v).reqs = s.reqs ∧
    (setVoice s k v).dram = s.dram ∧ (setVoice s k v).syncQ = s.syncQ ∧ (setVoice s k v).objs = s.objs ∧ (setVoice s k v).objWaiters = s.objWaiters ∧
    (setVoice s k v).sync = s.sync ∧ (setVoice s k v).syncRaw = s.syncRaw ∧ (setVoice s k v).phasers = s.phasers ∧ (setVoice s k v).tags = s.tags ∧ (setVoice s k v).grants = s.grants ∧ (setVoice s k v).homes = s.homes ∧
    (setVoice s k v).scenes = s.scenes ∧ (setVoice s k v).launches = s.launches ∧ (setVoice s k v).images = s.images ∧ (setVoice s k v).jobs = s.jobs ∧
    (setVoice s k v).streams = s.streams ∧ (setVoice s k v).rings = s.rings ∧ (setVoice s k v).queues = s.queues ∧
    (setVoice s k v).queueMore = s.queueMore ∧ (setVoice s k v).recs = s.recs ∧ (setVoice s k v).seen = s.seen ∧ (setVoice s k v).seqs = s.seqs ∧ (setVoice s k v).evlog = s.evlog ∧
    (setVoice s k v).irqs = s.irqs ∧ (setVoice s k v).links = s.links ∧ (setVoice s k v).linksOut = s.linksOut := by
  and_intros <;> rfl
@[simp] theorem setStream_other (s : State) (k : Nat) (v : Stream) :
    (setStream s k v).cycle = s.cycle ∧ (setStream s k v).phase = s.phase ∧ (setStream s k v).todo = s.todo ∧ (setStream s k v).agenda = s.agenda ∧
    (setStream s k v).cur = s.cur ∧ (setStream s k v).free = s.free ∧ (setStream s k v).nextId = s.nextId ∧ (setStream s k v).tb = s.tb ∧
    (setStream s k v).lost = s.lost ∧ (setStream s k v).level = s.level ∧ (setStream s k v).levelPend = s.levelPend ∧
    (setStream s k v).budget = s.budget ∧ (setStream s k v).budgetNext = s.budgetNext ∧ (setStream s k v).served = s.served ∧
    (setStream s k v).parts = s.parts ∧ (setStream s k v).cores = s.cores ∧ (setStream s k v).mgmt = s.mgmt ∧ (setStream s k v).mem = s.mem ∧
    (setStream s k v).hostMem = s.hostMem ∧ (setStream s k v).safetyMem = s.safetyMem ∧ (setStream s k v).cacheLines = s.cacheLines ∧
    (setStream s k v).atsRefused = s.atsRefused ∧ (setStream s k v).cfg = s.cfg ∧ (setStream s k v).cfgImages = s.cfgImages ∧
    (setStream s k v).cfgBad = s.cfgBad ∧ (setStream s k v).dieOwners = s.dieOwners ∧ (setStream s k v).slots = s.slots ∧
    (setStream s k v).resv = s.resv ∧ (setStream s k v).pinned = s.pinned ∧ (setStream s k v).coreTlb = s.coreTlb ∧ (setStream s k v).dieTlb = s.dieTlb ∧ (setStream s k v).ecc = s.ecc ∧ (setStream s k v).threads = s.threads ∧
    (setStream s k v).regions = s.regions ∧ (setStream s k v).elems = s.elems ∧ (setStream s k v).runs = s.runs ∧ (setStream s k v).cues = s.cues ∧
    (setStream s k v).tids = s.tids ∧ (setStream s k v).tidFrom = s.tidFrom ∧ (setStream s k v).resid = s.resid ∧
    (setStream s k v).residAt = s.residAt ∧ (setStream s k v).copiers = s.copiers ∧ (setStream s k v).reqs = s.reqs ∧ (setStream s k v).dram = s.dram ∧
    (setStream s k v).syncQ = s.syncQ ∧ (setStream s k v).objs = s.objs ∧ (setStream s k v).objWaiters = s.objWaiters ∧
    (setStream s k v).sync = s.sync ∧ (setStream s k v).syncRaw = s.syncRaw ∧ (setStream s k v).phasers = s.phasers ∧ (setStream s k v).tags = s.tags ∧ (setStream s k v).grants = s.grants ∧ (setStream s k v).homes = s.homes ∧
    (setStream s k v).voices = s.voices ∧ (setStream s k v).scenes = s.scenes ∧ (setStream s k v).launches = s.launches ∧
    (setStream s k v).images = s.images ∧ (setStream s k v).jobs = s.jobs ∧ (setStream s k v).rings = s.rings ∧ (setStream s k v).queues = s.queues ∧
    (setStream s k v).queueMore = s.queueMore ∧ (setStream s k v).recs = s.recs ∧ (setStream s k v).seen = s.seen ∧ (setStream s k v).seqs = s.seqs ∧ (setStream s k v).evlog = s.evlog ∧
    (setStream s k v).irqs = s.irqs ∧ (setStream s k v).links = s.links ∧ (setStream s k v).linksOut = s.linksOut := by
  and_intros <;> rfl
@[simp] theorem setRing_other (s : State) (k : Nat) (v : Ring) :
    (setRing s k v).cycle = s.cycle ∧ (setRing s k v).phase = s.phase ∧ (setRing s k v).todo = s.todo ∧ (setRing s k v).agenda = s.agenda ∧
    (setRing s k v).cur = s.cur ∧ (setRing s k v).free = s.free ∧ (setRing s k v).nextId = s.nextId ∧ (setRing s k v).tb = s.tb ∧
    (setRing s k v).lost = s.lost ∧ (setRing s k v).level = s.level ∧ (setRing s k v).levelPend = s.levelPend ∧ (setRing s k v).budget = s.budget ∧
    (setRing s k v).budgetNext = s.budgetNext ∧ (setRing s k v).served = s.served ∧ (setRing s k v).parts = s.parts ∧ (setRing s k v).cores = s.cores ∧
    (setRing s k v).mgmt = s.mgmt ∧ (setRing s k v).mem = s.mem ∧ (setRing s k v).hostMem = s.hostMem ∧ (setRing s k v).safetyMem = s.safetyMem ∧
    (setRing s k v).cacheLines = s.cacheLines ∧ (setRing s k v).atsRefused = s.atsRefused ∧ (setRing s k v).cfg = s.cfg ∧
    (setRing s k v).cfgImages = s.cfgImages ∧ (setRing s k v).cfgBad = s.cfgBad ∧ (setRing s k v).dieOwners = s.dieOwners ∧
    (setRing s k v).slots = s.slots ∧ (setRing s k v).resv = s.resv ∧ (setRing s k v).pinned = s.pinned ∧ (setRing s k v).coreTlb = s.coreTlb ∧ (setRing s k v).dieTlb = s.dieTlb ∧ (setRing s k v).ecc = s.ecc ∧
    (setRing s k v).threads = s.threads ∧ (setRing s k v).regions = s.regions ∧ (setRing s k v).elems = s.elems ∧ (setRing s k v).runs = s.runs ∧
    (setRing s k v).cues = s.cues ∧ (setRing s k v).tids = s.tids ∧ (setRing s k v).tidFrom = s.tidFrom ∧ (setRing s k v).resid = s.resid ∧
    (setRing s k v).residAt = s.residAt ∧ (setRing s k v).copiers = s.copiers ∧ (setRing s k v).reqs = s.reqs ∧ (setRing s k v).dram = s.dram ∧
    (setRing s k v).syncQ = s.syncQ ∧ (setRing s k v).objs = s.objs ∧ (setRing s k v).objWaiters = s.objWaiters ∧ (setRing s k v).sync = s.sync ∧ (setRing s k v).syncRaw = s.syncRaw ∧
    (setRing s k v).phasers = s.phasers ∧ (setRing s k v).tags = s.tags ∧ (setRing s k v).grants = s.grants ∧ (setRing s k v).homes = s.homes ∧ (setRing s k v).voices = s.voices ∧
    (setRing s k v).scenes = s.scenes ∧ (setRing s k v).launches = s.launches ∧ (setRing s k v).images = s.images ∧ (setRing s k v).jobs = s.jobs ∧
    (setRing s k v).streams = s.streams ∧ (setRing s k v).queues = s.queues ∧ (setRing s k v).queueMore = s.queueMore ∧ (setRing s k v).recs = s.recs ∧ (setRing s k v).seen = s.seen ∧
    (setRing s k v).seqs = s.seqs ∧ (setRing s k v).evlog = s.evlog ∧ (setRing s k v).irqs = s.irqs ∧ (setRing s k v).links = s.links ∧
    (setRing s k v).linksOut = s.linksOut := by
  and_intros <;> rfl
@[simp] theorem setRun_other (s : State) (c sh : Nat) (r : Run) :
    (setRun s c sh r).cycle = s.cycle ∧ (setRun s c sh r).phase = s.phase ∧ (setRun s c sh r).todo = s.todo ∧ (setRun s c sh r).agenda = s.agenda ∧
    (setRun s c sh r).cur = s.cur ∧ (setRun s c sh r).free = s.free ∧ (setRun s c sh r).nextId = s.nextId ∧ (setRun s c sh r).tb = s.tb ∧
    (setRun s c sh r).lost = s.lost ∧ (setRun s c sh r).level = s.level ∧ (setRun s c sh r).levelPend = s.levelPend ∧
    (setRun s c sh r).budget = s.budget ∧ (setRun s c sh r).budgetNext = s.budgetNext ∧ (setRun s c sh r).served = s.served ∧
    (setRun s c sh r).parts = s.parts ∧ (setRun s c sh r).cores = s.cores ∧ (setRun s c sh r).mgmt = s.mgmt ∧ (setRun s c sh r).mem = s.mem ∧
    (setRun s c sh r).hostMem = s.hostMem ∧ (setRun s c sh r).safetyMem = s.safetyMem ∧ (setRun s c sh r).cacheLines = s.cacheLines ∧
    (setRun s c sh r).atsRefused = s.atsRefused ∧ (setRun s c sh r).cfg = s.cfg ∧ (setRun s c sh r).cfgImages = s.cfgImages ∧
    (setRun s c sh r).cfgBad = s.cfgBad ∧ (setRun s c sh r).dieOwners = s.dieOwners ∧ (setRun s c sh r).slots = s.slots ∧
    (setRun s c sh r).resv = s.resv ∧ (setRun s c sh r).pinned = s.pinned ∧ (setRun s c sh r).coreTlb = s.coreTlb ∧ (setRun s c sh r).dieTlb = s.dieTlb ∧ (setRun s c sh r).ecc = s.ecc ∧ (setRun s c sh r).threads = s.threads ∧
    (setRun s c sh r).regions = s.regions ∧ (setRun s c sh r).elems = s.elems ∧ (setRun s c sh r).cues = s.cues ∧ (setRun s c sh r).tids = s.tids ∧
    (setRun s c sh r).tidFrom = s.tidFrom ∧ (setRun s c sh r).resid = s.resid ∧ (setRun s c sh r).residAt = s.residAt ∧
    (setRun s c sh r).copiers = s.copiers ∧ (setRun s c sh r).reqs = s.reqs ∧ (setRun s c sh r).dram = s.dram ∧ (setRun s c sh r).syncQ = s.syncQ ∧
    (setRun s c sh r).objs = s.objs ∧ (setRun s c sh r).objWaiters = s.objWaiters ∧ (setRun s c sh r).sync = s.sync ∧ (setRun s c sh r).syncRaw = s.syncRaw ∧
    (setRun s c sh r).phasers = s.phasers ∧ (setRun s c sh r).tags = s.tags ∧ (setRun s c sh r).grants = s.grants ∧ (setRun s c sh r).homes = s.homes ∧ (setRun s c sh r).voices = s.voices ∧
    (setRun s c sh r).scenes = s.scenes ∧ (setRun s c sh r).launches = s.launches ∧ (setRun s c sh r).images = s.images ∧
    (setRun s c sh r).jobs = s.jobs ∧ (setRun s c sh r).streams = s.streams ∧ (setRun s c sh r).rings = s.rings ∧ (setRun s c sh r).queues = s.queues ∧
    (setRun s c sh r).queueMore = s.queueMore ∧ (setRun s c sh r).recs = s.recs ∧ (setRun s c sh r).seen = s.seen ∧ (setRun s c sh r).seqs = s.seqs ∧ (setRun s c sh r).evlog = s.evlog ∧
    (setRun s c sh r).irqs = s.irqs ∧ (setRun s c sh r).links = s.links ∧ (setRun s c sh r).linksOut = s.linksOut := by
  and_intros <;> rfl
@[simp] theorem delRun_other (s : State) (c sh : Nat) :
    (delRun s c sh).cycle = s.cycle ∧ (delRun s c sh).phase = s.phase ∧ (delRun s c sh).todo = s.todo ∧ (delRun s c sh).agenda = s.agenda ∧
    (delRun s c sh).cur = s.cur ∧ (delRun s c sh).free = s.free ∧ (delRun s c sh).nextId = s.nextId ∧ (delRun s c sh).tb = s.tb ∧
    (delRun s c sh).lost = s.lost ∧ (delRun s c sh).level = s.level ∧ (delRun s c sh).levelPend = s.levelPend ∧ (delRun s c sh).budget = s.budget ∧
    (delRun s c sh).budgetNext = s.budgetNext ∧ (delRun s c sh).served = s.served ∧ (delRun s c sh).parts = s.parts ∧ (delRun s c sh).cores = s.cores ∧
    (delRun s c sh).mgmt = s.mgmt ∧ (delRun s c sh).mem = s.mem ∧ (delRun s c sh).hostMem = s.hostMem ∧ (delRun s c sh).safetyMem = s.safetyMem ∧
    (delRun s c sh).cacheLines = s.cacheLines ∧ (delRun s c sh).atsRefused = s.atsRefused ∧ (delRun s c sh).cfg = s.cfg ∧
    (delRun s c sh).cfgImages = s.cfgImages ∧ (delRun s c sh).cfgBad = s.cfgBad ∧ (delRun s c sh).dieOwners = s.dieOwners ∧
    (delRun s c sh).slots = s.slots ∧ (delRun s c sh).resv = s.resv ∧ (delRun s c sh).pinned = s.pinned ∧ (delRun s c sh).coreTlb = s.coreTlb ∧ (delRun s c sh).dieTlb = s.dieTlb ∧ (delRun s c sh).ecc = s.ecc ∧
    (delRun s c sh).threads = s.threads ∧ (delRun s c sh).regions = s.regions ∧ (delRun s c sh).elems = s.elems ∧ (delRun s c sh).cues = s.cues ∧
    (delRun s c sh).tids = s.tids ∧ (delRun s c sh).tidFrom = s.tidFrom ∧ (delRun s c sh).resid = s.resid ∧ (delRun s c sh).residAt = s.residAt ∧
    (delRun s c sh).copiers = s.copiers ∧ (delRun s c sh).reqs = s.reqs ∧ (delRun s c sh).dram = s.dram ∧ (delRun s c sh).syncQ = s.syncQ ∧
    (delRun s c sh).objs = s.objs ∧ (delRun s c sh).objWaiters = s.objWaiters ∧ (delRun s c sh).sync = s.sync ∧ (delRun s c sh).syncRaw = s.syncRaw ∧ (delRun s c sh).phasers = s.phasers ∧
    (delRun s c sh).tags = s.tags ∧ (delRun s c sh).grants = s.grants ∧ (delRun s c sh).homes = s.homes ∧ (delRun s c sh).voices = s.voices ∧ (delRun s c sh).scenes = s.scenes ∧
    (delRun s c sh).launches = s.launches ∧ (delRun s c sh).images = s.images ∧ (delRun s c sh).jobs = s.jobs ∧ (delRun s c sh).streams = s.streams ∧
    (delRun s c sh).rings = s.rings ∧ (delRun s c sh).queues = s.queues ∧ (delRun s c sh).queueMore = s.queueMore ∧ (delRun s c sh).recs = s.recs ∧ (delRun s c sh).seen = s.seen ∧
    (delRun s c sh).seqs = s.seqs ∧ (delRun s c sh).evlog = s.evlog ∧ (delRun s c sh).irqs = s.irqs ∧ (delRun s c sh).links = s.links ∧
    (delRun s c sh).linksOut = s.linksOut := by
  and_intros <;> rfl
@[simp] theorem schedule_other (s : State) (c : Clk) (n : Nat) (a : Act) :
    (schedule s c n a).cycle = s.cycle ∧ (schedule s c n a).phase = s.phase ∧ (schedule s c n a).todo = s.todo ∧ (schedule s c n a).cur = s.cur ∧
    (schedule s c n a).free = s.free ∧ (schedule s c n a).nextId = s.nextId ∧ (schedule s c n a).tb = s.tb ∧ (schedule s c n a).lost = s.lost ∧
    (schedule s c n a).level = s.level ∧ (schedule s c n a).levelPend = s.levelPend ∧ (schedule s c n a).budget = s.budget ∧
    (schedule s c n a).budgetNext = s.budgetNext ∧ (schedule s c n a).served = s.served ∧ (schedule s c n a).parts = s.parts ∧
    (schedule s c n a).cores = s.cores ∧ (schedule s c n a).mgmt = s.mgmt ∧ (schedule s c n a).mem = s.mem ∧ (schedule s c n a).hostMem = s.hostMem ∧
    (schedule s c n a).safetyMem = s.safetyMem ∧ (schedule s c n a).cacheLines = s.cacheLines ∧ (schedule s c n a).atsRefused = s.atsRefused ∧
    (schedule s c n a).cfg = s.cfg ∧ (schedule s c n a).cfgImages = s.cfgImages ∧ (schedule s c n a).cfgBad = s.cfgBad ∧
    (schedule s c n a).dieOwners = s.dieOwners ∧ (schedule s c n a).slots = s.slots ∧ (schedule s c n a).resv = s.resv ∧
    (schedule s c n a).pinned = s.pinned ∧ (schedule s c n a).ecc = s.ecc ∧ (schedule s c n a).threads = s.threads ∧
    (schedule s c n a).regions = s.regions ∧ (schedule s c n a).elems = s.elems ∧ (schedule s c n a).runs = s.runs ∧ (schedule s c n a).cues = s.cues ∧
    (schedule s c n a).tids = s.tids ∧ (schedule s c n a).tidFrom = s.tidFrom ∧ (schedule s c n a).resid = s.resid ∧
    (schedule s c n a).residAt = s.residAt ∧ (schedule s c n a).copiers = s.copiers ∧ (schedule s c n a).reqs = s.reqs ∧
    (schedule s c n a).dram = s.dram ∧ (schedule s c n a).syncQ = s.syncQ ∧ (schedule s c n a).objs = s.objs ∧
    (schedule s c n a).objWaiters = s.objWaiters ∧ (schedule s c n a).sync = s.sync ∧ (schedule s c n a).phasers = s.phasers ∧
    (schedule s c n a).tags = s.tags ∧ (schedule s c n a).homes = s.homes ∧ (schedule s c n a).voices = s.voices ∧
    (schedule s c n a).scenes = s.scenes ∧ (schedule s c n a).launches = s.launches ∧ (schedule s c n a).images = s.images ∧
    (schedule s c n a).jobs = s.jobs ∧ (schedule s c n a).streams = s.streams ∧ (schedule s c n a).rings = s.rings ∧
    (schedule s c n a).queues = s.queues ∧ (schedule s c n a).queueMore = s.queueMore ∧ (schedule s c n a).recs = s.recs ∧ (schedule s c n a).seen = s.seen ∧
    (schedule s c n a).seqs = s.seqs ∧ (schedule s c n a).evlog = s.evlog ∧ (schedule s c n a).irqs = s.irqs ∧ (schedule s c n a).links = s.links ∧
    (schedule s c n a).linksOut = s.linksOut := by
  and_intros <;> rfl
@[simp] theorem soon_other (s : State) (a : Act) :
    (soon s a).cycle = s.cycle ∧ (soon s a).phase = s.phase ∧ (soon s a).agenda = s.agenda ∧ (soon s a).cur = s.cur ∧ (soon s a).free = s.free ∧
    (soon s a).nextId = s.nextId ∧ (soon s a).tb = s.tb ∧ (soon s a).lost = s.lost ∧ (soon s a).level = s.level ∧ (soon s a).levelPend = s.levelPend ∧
    (soon s a).budget = s.budget ∧ (soon s a).budgetNext = s.budgetNext ∧ (soon s a).served = s.served ∧ (soon s a).parts = s.parts ∧
    (soon s a).cores = s.cores ∧ (soon s a).mgmt = s.mgmt ∧ (soon s a).mem = s.mem ∧ (soon s a).hostMem = s.hostMem ∧
    (soon s a).safetyMem = s.safetyMem ∧ (soon s a).cacheLines = s.cacheLines ∧ (soon s a).atsRefused = s.atsRefused ∧ (soon s a).cfg = s.cfg ∧
    (soon s a).cfgImages = s.cfgImages ∧ (soon s a).cfgBad = s.cfgBad ∧ (soon s a).dieOwners = s.dieOwners ∧ (soon s a).slots = s.slots ∧
    (soon s a).resv = s.resv ∧ (soon s a).pinned = s.pinned ∧ (soon s a).ecc = s.ecc ∧ (soon s a).threads = s.threads ∧
    (soon s a).regions = s.regions ∧ (soon s a).elems = s.elems ∧ (soon s a).runs = s.runs ∧ (soon s a).cues = s.cues ∧ (soon s a).tids = s.tids ∧
    (soon s a).tidFrom = s.tidFrom ∧ (soon s a).resid = s.resid ∧ (soon s a).residAt = s.residAt ∧ (soon s a).copiers = s.copiers ∧
    (soon s a).reqs = s.reqs ∧ (soon s a).dram = s.dram ∧ (soon s a).syncQ = s.syncQ ∧ (soon s a).objs = s.objs ∧
    (soon s a).objWaiters = s.objWaiters ∧ (soon s a).sync = s.sync ∧ (soon s a).phasers = s.phasers ∧ (soon s a).tags = s.tags ∧
    (soon s a).homes = s.homes ∧ (soon s a).voices = s.voices ∧ (soon s a).scenes = s.scenes ∧ (soon s a).launches = s.launches ∧
    (soon s a).images = s.images ∧ (soon s a).jobs = s.jobs ∧ (soon s a).streams = s.streams ∧ (soon s a).rings = s.rings ∧
    (soon s a).queues = s.queues ∧ (soon s a).queueMore = s.queueMore ∧ (soon s a).recs = s.recs ∧ (soon s a).seen = s.seen ∧ (soon s a).seqs = s.seqs ∧
    (soon s a).evlog = s.evlog ∧ (soon s a).irqs = s.irqs ∧ (soon s a).links = s.links ∧ (soon s a).linksOut = s.linksOut := by
  and_intros <;> rfl
@[simp] theorem next_other (s : State) (a : Act) :
    (next s a).cycle = s.cycle ∧ (next s a).phase = s.phase ∧ (next s a).agenda = s.agenda ∧ (next s a).cur = s.cur ∧ (next s a).free = s.free ∧
    (next s a).nextId = s.nextId ∧ (next s a).tb = s.tb ∧ (next s a).lost = s.lost ∧ (next s a).level = s.level ∧ (next s a).levelPend = s.levelPend ∧
    (next s a).budget = s.budget ∧ (next s a).budgetNext = s.budgetNext ∧ (next s a).served = s.served ∧ (next s a).parts = s.parts ∧
    (next s a).cores = s.cores ∧ (next s a).mgmt = s.mgmt ∧ (next s a).mem = s.mem ∧ (next s a).hostMem = s.hostMem ∧
    (next s a).safetyMem = s.safetyMem ∧ (next s a).cacheLines = s.cacheLines ∧ (next s a).atsRefused = s.atsRefused ∧ (next s a).cfg = s.cfg ∧
    (next s a).cfgImages = s.cfgImages ∧ (next s a).cfgBad = s.cfgBad ∧ (next s a).dieOwners = s.dieOwners ∧ (next s a).slots = s.slots ∧
    (next s a).resv = s.resv ∧ (next s a).pinned = s.pinned ∧ (next s a).ecc = s.ecc ∧ (next s a).threads = s.threads ∧
    (next s a).regions = s.regions ∧ (next s a).elems = s.elems ∧ (next s a).runs = s.runs ∧ (next s a).cues = s.cues ∧ (next s a).tids = s.tids ∧
    (next s a).tidFrom = s.tidFrom ∧ (next s a).resid = s.resid ∧ (next s a).residAt = s.residAt ∧ (next s a).copiers = s.copiers ∧
    (next s a).reqs = s.reqs ∧ (next s a).dram = s.dram ∧ (next s a).syncQ = s.syncQ ∧ (next s a).objs = s.objs ∧
    (next s a).objWaiters = s.objWaiters ∧ (next s a).sync = s.sync ∧ (next s a).phasers = s.phasers ∧ (next s a).tags = s.tags ∧
    (next s a).homes = s.homes ∧ (next s a).voices = s.voices ∧ (next s a).scenes = s.scenes ∧ (next s a).launches = s.launches ∧
    (next s a).images = s.images ∧ (next s a).jobs = s.jobs ∧ (next s a).streams = s.streams ∧ (next s a).rings = s.rings ∧
    (next s a).queues = s.queues ∧ (next s a).queueMore = s.queueMore ∧ (next s a).recs = s.recs ∧ (next s a).seen = s.seen ∧ (next s a).seqs = s.seqs ∧
    (next s a).evlog = s.evlog ∧ (next s a).irqs = s.irqs ∧ (next s a).links = s.links ∧ (next s a).linksOut = s.linksOut := by
  and_intros <;> rfl
@[simp] theorem drawn_other (s : State) :
    (drawn s).cycle = s.cycle ∧ (drawn s).phase = s.phase ∧ (drawn s).todo = s.todo ∧ (drawn s).agenda = s.agenda ∧ (drawn s).cur = s.cur ∧
    (drawn s).nextId = s.nextId ∧ (drawn s).tb = s.tb ∧ (drawn s).lost = s.lost ∧ (drawn s).level = s.level ∧ (drawn s).levelPend = s.levelPend ∧
    (drawn s).budget = s.budget ∧ (drawn s).budgetNext = s.budgetNext ∧ (drawn s).served = s.served ∧ (drawn s).parts = s.parts ∧
    (drawn s).cores = s.cores ∧ (drawn s).mgmt = s.mgmt ∧ (drawn s).mem = s.mem ∧ (drawn s).hostMem = s.hostMem ∧ (drawn s).safetyMem = s.safetyMem ∧
    (drawn s).cacheLines = s.cacheLines ∧ (drawn s).atsRefused = s.atsRefused ∧ (drawn s).cfg = s.cfg ∧ (drawn s).cfgImages = s.cfgImages ∧
    (drawn s).cfgBad = s.cfgBad ∧ (drawn s).dieOwners = s.dieOwners ∧ (drawn s).slots = s.slots ∧ (drawn s).resv = s.resv ∧
    (drawn s).pinned = s.pinned ∧ (drawn s).ecc = s.ecc ∧ (drawn s).threads = s.threads ∧ (drawn s).regions = s.regions ∧ (drawn s).elems = s.elems ∧
    (drawn s).runs = s.runs ∧ (drawn s).cues = s.cues ∧ (drawn s).tids = s.tids ∧ (drawn s).tidFrom = s.tidFrom ∧ (drawn s).resid = s.resid ∧
    (drawn s).residAt = s.residAt ∧ (drawn s).copiers = s.copiers ∧ (drawn s).reqs = s.reqs ∧ (drawn s).dram = s.dram ∧ (drawn s).syncQ = s.syncQ ∧
    (drawn s).objs = s.objs ∧ (drawn s).objWaiters = s.objWaiters ∧ (drawn s).sync = s.sync ∧ (drawn s).phasers = s.phasers ∧ (drawn s).tags = s.tags ∧
    (drawn s).homes = s.homes ∧ (drawn s).voices = s.voices ∧ (drawn s).scenes = s.scenes ∧ (drawn s).launches = s.launches ∧
    (drawn s).images = s.images ∧ (drawn s).jobs = s.jobs ∧ (drawn s).streams = s.streams ∧ (drawn s).rings = s.rings ∧ (drawn s).queues = s.queues ∧
    (drawn s).queueMore = s.queueMore ∧ (drawn s).recs = s.recs ∧ (drawn s).seen = s.seen ∧ (drawn s).seqs = s.seqs ∧ (drawn s).evlog = s.evlog ∧ (drawn s).irqs = s.irqs ∧
    (drawn s).links = s.links ∧ (drawn s).linksOut = s.linksOut := by
  and_intros <;> rfl
@[simp] theorem resClear_other (s : State) (k : Nat) :
    (resClear s k).cycle = s.cycle ∧ (resClear s k).phase = s.phase ∧ (resClear s k).todo = s.todo ∧ (resClear s k).agenda = s.agenda ∧
    (resClear s k).cur = s.cur ∧ (resClear s k).free = s.free ∧ (resClear s k).nextId = s.nextId ∧ (resClear s k).tb = s.tb ∧
    (resClear s k).lost = s.lost ∧ (resClear s k).level = s.level ∧ (resClear s k).levelPend = s.levelPend ∧ (resClear s k).budget = s.budget ∧
    (resClear s k).budgetNext = s.budgetNext ∧ (resClear s k).served = s.served ∧ (resClear s k).parts = s.parts ∧ (resClear s k).cores = s.cores ∧
    (resClear s k).mgmt = s.mgmt ∧ (resClear s k).mem = s.mem ∧ (resClear s k).hostMem = s.hostMem ∧ (resClear s k).safetyMem = s.safetyMem ∧
    (resClear s k).cacheLines = s.cacheLines ∧ (resClear s k).atsRefused = s.atsRefused ∧ (resClear s k).cfg = s.cfg ∧
    (resClear s k).cfgImages = s.cfgImages ∧ (resClear s k).cfgBad = s.cfgBad ∧ (resClear s k).dieOwners = s.dieOwners ∧
    (resClear s k).slots = s.slots ∧ (resClear s k).resv = s.resv ∧ (resClear s k).pinned = s.pinned ∧ (resClear s k).ecc = s.ecc ∧
    (resClear s k).threads = s.threads ∧ (resClear s k).regions = s.regions ∧ (resClear s k).elems = s.elems ∧ (resClear s k).runs = s.runs ∧
    (resClear s k).cues = s.cues ∧ (resClear s k).tids = s.tids ∧ (resClear s k).tidFrom = s.tidFrom ∧ (resClear s k).copiers = s.copiers ∧
    (resClear s k).reqs = s.reqs ∧ (resClear s k).dram = s.dram ∧ (resClear s k).syncQ = s.syncQ ∧ (resClear s k).objs = s.objs ∧
    (resClear s k).objWaiters = s.objWaiters ∧ (resClear s k).sync = s.sync ∧ (resClear s k).phasers = s.phasers ∧ (resClear s k).tags = s.tags ∧
    (resClear s k).homes = s.homes ∧ (resClear s k).voices = s.voices ∧ (resClear s k).scenes = s.scenes ∧ (resClear s k).launches = s.launches ∧
    (resClear s k).images = s.images ∧ (resClear s k).jobs = s.jobs ∧ (resClear s k).streams = s.streams ∧ (resClear s k).rings = s.rings ∧
    (resClear s k).queues = s.queues ∧ (resClear s k).queueMore = s.queueMore ∧ (resClear s k).recs = s.recs ∧ (resClear s k).seen = s.seen ∧ (resClear s k).seqs = s.seqs ∧
    (resClear s k).evlog = s.evlog ∧ (resClear s k).irqs = s.irqs ∧ (resClear s k).links = s.links ∧ (resClear s k).linksOut = s.linksOut := by
  and_intros <;> rfl
@[simp] theorem setTidWord_other (s : State) (c p t i : Nat) (v : W64) :
    (setTidWord s c p t i v).cycle = s.cycle ∧ (setTidWord s c p t i v).phase = s.phase ∧ (setTidWord s c p t i v).todo = s.todo ∧
    (setTidWord s c p t i v).agenda = s.agenda ∧ (setTidWord s c p t i v).cur = s.cur ∧ (setTidWord s c p t i v).free = s.free ∧
    (setTidWord s c p t i v).nextId = s.nextId ∧ (setTidWord s c p t i v).tb = s.tb ∧ (setTidWord s c p t i v).lost = s.lost ∧
    (setTidWord s c p t i v).level = s.level ∧ (setTidWord s c p t i v).levelPend = s.levelPend ∧ (setTidWord s c p t i v).budget = s.budget ∧
    (setTidWord s c p t i v).budgetNext = s.budgetNext ∧ (setTidWord s c p t i v).served = s.served ∧ (setTidWord s c p t i v).parts = s.parts ∧
    (setTidWord s c p t i v).cores = s.cores ∧ (setTidWord s c p t i v).mgmt = s.mgmt ∧ (setTidWord s c p t i v).mem = s.mem ∧
    (setTidWord s c p t i v).hostMem = s.hostMem ∧ (setTidWord s c p t i v).safetyMem = s.safetyMem ∧
    (setTidWord s c p t i v).cacheLines = s.cacheLines ∧ (setTidWord s c p t i v).atsRefused = s.atsRefused ∧ (setTidWord s c p t i v).cfg = s.cfg ∧
    (setTidWord s c p t i v).cfgImages = s.cfgImages ∧ (setTidWord s c p t i v).cfgBad = s.cfgBad ∧ (setTidWord s c p t i v).dieOwners = s.dieOwners ∧
    (setTidWord s c p t i v).slots = s.slots ∧ (setTidWord s c p t i v).resv = s.resv ∧ (setTidWord s c p t i v).pinned = s.pinned ∧ (setTidWord s c p t i v).coreTlb = s.coreTlb ∧ (setTidWord s c p t i v).dieTlb = s.dieTlb ∧
    (setTidWord s c p t i v).ecc = s.ecc ∧ (setTidWord s c p t i v).threads = s.threads ∧ (setTidWord s c p t i v).regions = s.regions ∧
    (setTidWord s c p t i v).elems = s.elems ∧ (setTidWord s c p t i v).runs = s.runs ∧ (setTidWord s c p t i v).cues = s.cues ∧
    (setTidWord s c p t i v).tidFrom = s.tidFrom ∧ (setTidWord s c p t i v).resid = s.resid ∧ (setTidWord s c p t i v).residAt = s.residAt ∧
    (setTidWord s c p t i v).copiers = s.copiers ∧ (setTidWord s c p t i v).reqs = s.reqs ∧ (setTidWord s c p t i v).dram = s.dram ∧
    (setTidWord s c p t i v).syncQ = s.syncQ ∧ (setTidWord s c p t i v).objs = s.objs ∧ (setTidWord s c p t i v).objWaiters = s.objWaiters ∧
    (setTidWord s c p t i v).sync = s.sync ∧ (setTidWord s c p t i v).syncRaw = s.syncRaw ∧ (setTidWord s c p t i v).phasers = s.phasers ∧ (setTidWord s c p t i v).tags = s.tags ∧ (setTidWord s c p t i v).grants = s.grants ∧
    (setTidWord s c p t i v).homes = s.homes ∧ (setTidWord s c p t i v).voices = s.voices ∧ (setTidWord s c p t i v).scenes = s.scenes ∧
    (setTidWord s c p t i v).launches = s.launches ∧ (setTidWord s c p t i v).images = s.images ∧ (setTidWord s c p t i v).jobs = s.jobs ∧
    (setTidWord s c p t i v).streams = s.streams ∧ (setTidWord s c p t i v).rings = s.rings ∧ (setTidWord s c p t i v).queues = s.queues ∧
    (setTidWord s c p t i v).queueMore = s.queueMore ∧ (setTidWord s c p t i v).recs = s.recs ∧ (setTidWord s c p t i v).seen = s.seen ∧ (setTidWord s c p t i v).seqs = s.seqs ∧
    (setTidWord s c p t i v).evlog = s.evlog ∧ (setTidWord s c p t i v).irqs = s.irqs ∧ (setTidWord s c p t i v).links = s.links ∧
    (setTidWord s c p t i v).linksOut = s.linksOut := by
  and_intros <;> rfl

/-! ## What a table reads after its update -/

@[simp] theorem getTh_setTh (s : State) (k j : Nat) (v : Thread) : getTh (setTh s k v) j = if j = k then v else getTh s j := tget_tput _ _ _ _ _
@[simp] theorem getReg_setReg (s : State) (k j : Nat) (v : Region) : getReg (setReg s k v) j = if j = k then v else getReg s j := tget_tput _ _ _ _ _
@[simp] theorem getEl_setEl (s : State) (k j : Nat) (v : Elem) : getEl (setEl s k v) j = if j = k then v else getEl s j := tget_tput _ _ _ _ _
@[simp] theorem getCore_setCore (s : State) (k j : Nat) (v : Core) : getCore (setCore s k v) j = if j = k then v else getCore s j := tget_tput _ _ _ _ _
@[simp] theorem getPart_setPart (s : State) (k j : Nat) (v : Part) : getPart (setPart s k v) j = if j = k then v else getPart s j := tget_tput _ _ _ _ _
@[simp] theorem getCue_setCue (s : State) (k j : Nat) (v : Cue) : getCue (setCue s k v) j = if j = k then v else getCue s j := tget_tput _ _ _ _ _
@[simp] theorem getCopier_setCopier (s : State) (k j : Nat) (v : Copier) : getCopier (setCopier s k v) j = if j = k then v else getCopier s j := tget_tput _ _ _ _ _
@[simp] theorem getPh_setPh (s : State) (k j : Nat) (v : Phaser) : getPh (setPh s k v) j = if j = k then v else getPh s j := tget_tput _ _ _ _ _
@[simp] theorem getScene_setScene (s : State) (k j : Nat) (v : Scene) : getScene (setScene s k v) j = if j = k then v else getScene s j := tget_tput _ _ _ _ _
@[simp] theorem getVoice_setVoice (s : State) (k j : Nat) (v : Voice) : getVoice (setVoice s k v) j = if j = k then v else getVoice s j := tget_tput _ _ _ _ _
@[simp] theorem getStream_setStream (s : State) (k j : Nat) (v : Stream) : getStream (setStream s k v) j = if j = k then v else getStream s j := tget_tput _ _ _ _ _
@[simp] theorem getRing_setRing (s : State) (k j : Nat) (v : Ring) : getRing (setRing s k v) j = if j = k then v else getRing s j := tget_tput _ _ _ _ _

end Sys2Proof.Machine
end

