-- ==== Sys2Proof/Laws/Threads.lean ====
section
/-! SUPPORT. Registers of a thread, and what a word that only writes its thread leaves as it was. -/

namespace Sys2Proof.Machine

open Sys2Proof.Safety

@[simp] theorem wrReg_zero (t : Thread) (v : W64) : wrReg t 0 v = t := rfl

/-- A register reads the value written to it; g0 reads 0; every other register reads as before. -/
theorem rdReg_wrReg (t : Thread) (d c : Nat) (v : W64) :
    rdReg (wrReg t d v) c = if c = d ∧ c ≠ 0 then v else rdReg t c := by
  unfold rdReg wrReg
  by_cases hd : d = 0
  · subst hd; simp only [if_true]; split_ifs <;> first | rfl | omega
  · by_cases hd8 : d < 8
    · simp only [hd, hd8, if_true, if_false, tget_tput]
      split_ifs <;> first | rfl | omega
    · simp only [hd, hd8, if_false, tget_tput]
      split_ifs <;> first | rfl | omega

/-- Writing a register changes nothing else of the thread. -/
theorem wrote_wrReg (t : Thread) (d : Nat) (v : W64) : Wrote t (wrReg t d v) d v := by
  refine ⟨?_, ?_, ?_, ?_⟩
  · rw [rdReg_wrReg]; by_cases h : d = 0 <;> simp [h, rdReg]
  · intro c hc; rw [rdReg_wrReg]; simp [hc]
  · intro i hi
    unfold wrReg
    split_ifs
    · rfl
    · rfl
    · simp [hi]
  · unfold wrReg
    split_ifs <;> rfl

@[simp] theorem rdMem_setTh (s : State) (k : Nat) (t : Thread) (p : Place) (n : Nat) : rdMem (setTh s k t) p n = rdMem s p n := rfl

/-- Giving cur's thread new contents changes nothing else. -/
theorem onlyThread_putTh (s : State) (t : Thread) : OnlyThread s (putTh s t) :=
  ⟨rfl, fun k hk => by simp only [putTh, getTh_setTh, curKey] at *; simp [hk], fun _ => rfl⟩

theorem becomes_putTh (s : State) (t : Thread) : Becomes s t (.next (putTh s t)) :=
  ⟨_, rfl, onlyThread_putTh s t, by simp [putTh, curKey]⟩

/-- A meaning of a running thread acts on it. -/
theorem onThread_runs {s : State} {t : Thread} {r : Run} (h : Runs s t r) (f : Thread → Run → State) : onThread s f = .next (f t r) := by
  obtain ⟨h1, h2, h3⟩ := h
  unfold curKey at h2
  unfold onThread
  simp only [h1, h2, h3, if_true]

theorem result_writeBack {s : State} {t : Thread} (d : Nat) (v : W64) : Result s t d v (.next (writeBack s t d v)) :=
  ⟨_, wrote_wrReg t d v, becomes_putTh s _⟩

theorem result_aluOp {s : State} {t : Thread} {r : Run} (h : Runs s t r) (d a b : Nat) (f : W64 → W64 → W64) :
    Result s t d (f (rdReg t a) (rdReg t b)) (aluOp s d a b f) := by
  unfold aluOp; rw [onThread_runs h]; exact result_writeBack d _

theorem result_immOp {s : State} {t : Thread} {r : Run} (h : Runs s t r) (d a : Nat) (f : W64 → W64) :
    Result s t d (f (rdReg t a)) (immOp s d a f) := by
  unfold immOp; rw [onThread_runs h]; exact result_writeBack d _

/-! ## Windows (R236) -/

theorem rdReg_clearWin (n : Nat) : ∀ (t : Thread) (a c : Nat),
    rdReg (clearWin t a n) c = if 8 + a ≤ c ∧ c < 8 + a + n then 0 else rdReg t c := by
  induction n with
  | zero => intro t a c; rw [if_neg (by omega)]; rfl
  | succ n ih =>
    intro t a c
    rw [clearWin, ih, rdReg_wrReg]
    by_cases h : c = 8 + a
    · rw [if_neg (by omega), if_pos (by omega), if_pos (by omega)]
    · have h' : ¬ (c = 8 + a ∧ c ≠ 0) := by omega
      rw [if_neg h']
      split_ifs <;> first | rfl | omega

@[simp] theorem wrReg_depth (t : Thread) (d : Nat) (v : W64) : (wrReg t d v).depth = t.depth := by unfold wrReg; split_ifs <;> rfl
@[simp] theorem clearWin_depth (n : Nat) : ∀ (t : Thread) (a : Nat), (clearWin t a n).depth = t.depth := by
  induction n with
  | zero => intro t a; rfl
  | succ n ih => intro t a; rw [clearWin, ih, wrReg_depth]

/-- Clearing window registers leaves the registers below them and above them. -/
theorem win_clearWin (n : Nat) : ∀ (t : Thread) (a i : Nat), i < 16 * t.depth + a ∨ 16 * t.depth + a + n ≤ i →
    tget (clearWin t a n).win 0 i = tget t.win 0 i := by
  induction n with
  | zero => intro t a i _; rfl
  | succ n ih =>
    intro t a i hi
    rw [clearWin, ih _ _ _ (by rw [wrReg_depth]; omega)]
    unfold wrReg
    rw [if_neg (by omega), if_neg (by omega)]
    simp only [tget_tput]
    rw [if_neg (by omega)]

/-- A call entry (R236): w8 holds the link, w9 to w23 are zero, and w0 to w7 are the caller's w16 to w23. -/
theorem rdReg_callEntry (t : Thread) (link c : Nat) (hc : c < 32) : rdReg (callEntry t link) c =
    if c < 8 then rdReg t c else if c < 16 then rdReg t (c + 16) else if c = 16 then w64 link else 0 := by
  unfold callEntry
  rw [rdReg_clearWin, rdReg_wrReg]
  unfold rdReg
  by_cases h8 : c < 8
  · rw [if_neg (by omega), if_neg (by omega), if_pos h8]; simp only [h8, if_true]
  · by_cases h16 : c < 16
    · rw [if_neg (by omega), if_neg (by omega), if_neg h8, if_pos h16, if_neg (by omega), if_neg h8, if_neg (by omega), if_neg (by omega)]
      congr 1
      dsimp only
      omega
    · by_cases e : c = 16
      · rw [if_neg (by omega), if_pos (by omega), if_neg h8, if_neg h16, if_pos e]
      · rw [if_pos (by omega), if_neg h8, if_neg h16, if_neg e]

@[simp] theorem callEntry_depth (t : Thread) (link : Nat) : (callEntry t link).depth = t.depth + 1 := by
  unfold callEntry; rw [clearWin_depth, wrReg_depth]

/-- A call entry leaves the registers of the windows below it. -/
theorem win_callEntry (t : Thread) (link i : Nat) (h : i < 16 * t.depth + 24) : tget (callEntry t link).win 0 i = tget t.win 0 i := by
  unfold callEntry
  rw [win_clearWin _ _ _ _ (by rw [wrReg_depth]; dsimp only; omega)]
  unfold wrReg
  rw [if_neg (by omega), if_neg (by omega)]
  simp only [tget_tput]
  rw [if_neg (by omega)]

end Sys2Proof.Machine
end

