-- ==== Sys2Proof/Tests/Slice0.lean ====
section
/-! SUPPORT. Tests: words decoded by hand from the encodings, an ill-formed term for each check of WellFormed, steps with results computed from the
manual, and, for each statement, a state that meets its hypotheses. -/

set_option Elab.async false

open Sys2Proof Sys2Proof.Machine Sys2Proof.Safety

namespace Sys2Proof.Tests

/-! ## Small states -/

/-- Core 0 with thread t of slot 0, its block r and its region g. -/
def one (t : Thread) (r : Run := placedRun) (g : Region := { placed := true }) : State :=
  { State.reset with runs := [(0, r)], threads := [(0, t)], regions := [(0, g)] }
/-- A running thread. -/
def thr : Thread := { running := true }
/-- A running thread in supervisor mode. -/
def sup : Thread := { running := true, mode := true }
/-- A running thread whose g1 and w0 hold values. -/
def thr2 (x y : W64) : Thread := { running := true, g := [(1, x)], win := [(0, y)] }
/-- The words of a TID entry, without its zero words. -/
def tidEntry (tid : Nat) (ws : List Nat) : Tab W64 :=
  (List.range 4).filterMap fun i => if ws.getD i 0 = 0 then none else some (4 * tid + i, BitVec.ofNat 64 (ws.getD i 0))
/-- The state with an entry of core 0 and partition 0, and with the scratchpad granule 16 of core 0 owned by partition 0. -/
def withTid (s : State) (tid : Nat) (ws : List Nat) : State :=
  setCore { s with tids := s.tids ++ tidEntry tid ws } 0 { getCore s 0 with owners := [(16, 0x80)] }
/-- A valid entry of 64-bit elements in granule 16 of core 0: 64 elements of one row, every sharing right, no strides beyond the first; x joins word 3. -/
def spTid (x : Nat := 0) : List Nat := [5 * 2 ^ 59 + 0x100000, 0x0001000100010040, 0, 0xFFF * 2 ^ 20 + 2 ^ 3 + x]
/-- The place of the first byte of that entry. -/
def spPlace : Place := ⟨.dev, 2199024304128⟩

/-! ## Witnesses: prompter words -/

/-- AluTwoSource, AluOneSource, AluImmediate, LoopCounters: a running thread, the largest immediate and shift. -/
theorem test_witness_alu : Runs (one thr) thr placedRun ∧ (65535 : Nat) < 2 ^ 16 ∧ (63 : Nat) < 64 := by unfold Runs; decide
/-- GoingOn: a slot of each kind of branch, and the leaving of a window. -/
theorem test_witness_going_on : ({ thr with branch := some ⟨0, 1, true, 64, false⟩ } : Thread).branch = some ⟨0, 1, true, 64, false⟩
    ∧ ({ thr with depth := 1, branch := some ⟨0, 2, true, 64, false⟩ } : Thread).depth = 1 ∧ thr.branch = none := by decide
/-- BranchDecisions, CallsAndReturns: outside a delay slot, at depths 0, 4094 and 4095, with the slice resident, and to return from depth 1. -/
theorem test_witness_calls : Runs (one thr) thr placedRun ∧ thr.branch = none ∧ thr.depth + 3 - thr.winLo ≤ 128 * rfEnd (pw (one thr) 0)
    ∧ (let t : Thread := { thr with depth := 4094, winLo := 4093 }
       Runs (one t) t placedRun ∧ t.branch = none ∧ t.depth ≠ 4095 ∧ t.depth + 3 - t.winLo ≤ 128 * rfEnd (pw (one t) 0))
    ∧ (let t : Thread := { thr with depth := 1 }; Runs (one t) t placedRun ∧ t.branch = none ∧ t.depth ≠ 0 ∧ t.winLo < t.depth)
    ∧ (let t : Thread := { thr with depth := 4095 }; Runs (one t) t placedRun ∧ t.branch = none ∧ t.depth = 4095)
    ∧ (31 : Nat) < 32 ∧ (2 ^ 26 - 1 : Nat) < 2 ^ 26 := by unfold Runs; decide
/-- StatusLines: the last line, of a cycle whose beginning was noted and of one whose was not; the copy engine's line is set. -/
theorem test_witness_lines : (31 : Nat) < 32 ∧ lookup (one thr).seen (thKey 0 0) = none ∧ runOf (one thr) 0 0 = some placedRun
    ∧ LineSet (one thr) 0 0 0 8 ∧ lookup ({ one thr with seen := [(0, 5, true)] } : State).seen (thKey 0 0) = some (5, true) :=
  ⟨by decide, by decide, by decide, .inr (.inr (.inl ⟨rfl, .inr (by decide)⟩)), by decide⟩
/-- The state with granule 4 of core 0's scratchpad, where spills go, owned by partition 0. -/
def spillOwned (s : State) : State := setCore s 0 { getCore s 0 with owners := [(4, 0x80)] }
/-- CallSpills: the share of 512 slices full at depth 510, with a spill target that takes slice 0, owned and not, and one that takes none; a return to a
slice that is not resident. -/
theorem test_witness_spill : let t : Thread := { thr with depth := 510 }
    Runs (one t) t placedRun ∧ t.branch = none ∧ t.depth ≠ 4095 ∧ 128 * rfEnd (pw (one t) 0) < t.depth + 3 - t.winLo
    ∧ spillTakes (one t) 0 0 t.winLo = true ∧ sliceOwned (one t) 0 0 0 t.winLo = false ∧ sliceOwned (spillOwned (one t)) 0 0 0 t.winLo = true
    ∧ spillTakes (setCore (one t) 0 { partword := 0x00013004 }) 0 0 t.winLo = false
    ∧ (let u : Thread := { t with winLo := 510 }
       Runs (one u) u placedRun ∧ u.depth ≤ u.winLo ∧ sliceOwned (spillOwned (one u)) 0 0 0 (u.depth - 1) = true
       ∧ sliceOwned (setCore (one u) 0 { partword := 0x0041B004 }) 0 0 0 100 = false) := by unfold Runs; decide
/-- SlicesMove: a slice in its last copy phase, on its way out and on its way in. -/
theorem test_witness_slices : let q (out : Bool) : Req :=
      { id := 0, core := 0, part := 0, asker := .spill 0 0, store := true, place := spillPlace (one thr) 0 0 0 0, bytes := [], sext := out, off := 1 }
    LastPhase { one thr with reqs := [q true] } (q true) 0 true ∧ LastPhase { one thr with reqs := [q false] } (q false) 0 false
    ∧ eccOf { one thr with reqs := [q false] } (q false).place.addr 128 = 0 := by
  unfold LastPhase; decide
/-- TransferInSlot: a thread in a delay slot. -/
theorem test_witness_slot : let t : Thread := { thr with branch := some ⟨0, 0, true, 64, false⟩ }
    Runs (one t) t placedRun ∧ t.branch.isSome = true := by unfold Runs; decide

/-! ## Witnesses: loads, stores, special registers and tables -/

/-- LoadIssue, StoreIssue: a thread that names the entry of its scratchpad. AccessAsks: an entry with race tags, of which the thread holds none. -/
theorem test_witness_access : let s := withTid (one thr) 5 spTid
    let u := withTid (one thr) 5 (spTid 32)
    Runs s thr placedRun ∧ placedRun.chorus = false ∧ (∀ e c b, thr.wait ≠ .raced e c b)
    ∧ Accesses s thr placedRun 0 5 0 8 false spPlace true ∧ Accesses s thr placedRun 0 5 0 4 true spPlace true
    ∧ Accesses u thr placedRun 0 5 0 8 false spPlace false ∧ Accesses u thr placedRun 0 5 0 4 true spPlace false := by
  refine ⟨by unfold Runs; decide, by decide, fun e c b h => (by cases h), ⟨0x100000, 0, by decide, ?_, by unfold WalksClean; decide⟩,
    ⟨0x100000, 0, by decide, ?_, by unfold WalksClean; decide⟩, ⟨0x100000, 0, by decide, ?_, by unfold WalksClean; decide⟩,
    ⟨0x100000, 0, by decide, ?_, by unfold WalksClean; decide⟩⟩
  · exact iff_of_true rfl (.inl (by decide))
  · exact iff_of_true rfl (.inl (by decide))
  · exact iff_of_false (by decide) (fun h => h.elim (by decide) fun ⟨e, c, h⟩ => (by cases h))
  · exact iff_of_false (by decide) (fun h => h.elim (by decide) fun ⟨e, c, h⟩ => (by cases h))
/-- AccessFaults: an entry that is not valid, and one of DRAM of a real-time partition that no page maps. -/
theorem test_witness_access_fault : let s := one thr
    let u : State := { withTid s 7 [7 * 2 ^ 59 + 3 * 2 ^ 56 + 0x100000, 0x0001000100010040, 0, 0xFFF * 2 ^ 20 + 2 ^ 3] with parts := [(0, { rt := true })] }
    Runs s thr placedRun ∧ accessOf s (whoOf 0 placedRun) (tidOf s 0 0 6) ((rdReg thr 0).toInt + sx 8 0) 0 8 8 false false .prompter = .error 0x060
    ∧ (getPart s 0).rt = false ∧ (getPart u 0).rt = true
    ∧ accessOf u (whoOf 0 placedRun) (tidOf u 0 0 7) ((rdReg thr 0).toInt + sx 8 0) 0 8 8 false false .prompter = .error 0x066 := by
  unfold Runs; decide
/-- The request of a thread for 8 bytes of that entry. -/
def anAsk (store : Bool) (p : Place) : Req :=
  { id := 0, core := 0, part := 0, asker := .thread 0, store := store, place := p, bytes := List.replicate 8 (1 : Byte), len := 8 }
/-- StorePerforms, LoadPerforms: a request that performs now, and the thread that waits for a load. -/
theorem test_witness_performs : let t : Thread := { thr with wait := .load 0 }
    Performs { one thr with reqs := [anAsk true spPlace] } (anAsk true spPlace) 0
    ∧ (let s : State := { one t with reqs := [anAsk false spPlace] }
       Performs s (anAsk false spPlace) 0 ∧ getTh s (thKey 0 0) = t ∧ t.wait = .load (anAsk false spPlace).id
       ∧ ((runOf s 0 0).map (·.chorus)).getD false = false ∧ backDown s 0 spPlace = false ∧ (anAsk true spPlace).voice = false
       ∧ ∀ p ∈ s.reqs, p.store = true → p.core = 0 → p.asker = .thread 0 → 0 ≤ p.id) := by
  unfold Performs; decide
/-- LoadReturns, HostTimeouts: data that is back; a load and a store of host memory that time out. -/
theorem test_witness_timeout : let h : Place := ⟨.host, 4096⟩
    ({ thr with wait := .loaded 3 0 7 1 } : Thread).wait = .loaded 3 0 7 1
    ∧ ({ one thr with reqs := [anAsk false h] } : State).reqs.find? (·.id == 0) = some (anAsk false h)
    ∧ ({ one thr with reqs := [anAsk true h] } : State).reqs.find? (·.id == 0) = some (anAsk true h)
    ∧ (one thr).cur.flag = false ∧ h.store ≠ .dev ∧ runOf (one thr) 0 0 = some placedRun := by decide
/-- SpecialReads, SpecialRefusals, SpecialWrites: registers of each kind, in each mode. -/
theorem test_witness_special : Runs (one thr) thr placedRun ∧ Runs (one sup) sup placedRun ∧ thr.mode = false ∧ sup.mode = true
    ∧ srAssigned 0x001 = true ∧ srUser 0x001 = true ∧ srAssigned 0x111 = true ∧ srUser 0x111 = false ∧ srAssigned 0x007 = false
    ∧ srAssigned 0x400 = true ∧ placedRun.chorus = false ∧ placedRun.fire < 2 ^ 64
    ∧ (let t : Thread := { sup with g := [(1, 0x300000000)] }; Runs (one t) t placedRun ∧ (rdReg t 1).toNat / 2 ^ 32 % 4 = 3) := by
  unfold Runs; decide
/-- TidWords: a commit of the entry of a copy engine's own size, one that the check refuses, and the two modes. -/
theorem test_witness_tid : Runs (one sup) sup placedRun ∧ Runs (one thr) thr placedRun
    ∧ (one sup).todo.contains (.copyIssue 0) = false ∧ ({ one sup with todo := [.copyIssue 0] } : State).todo.contains (.copyIssue 0) = true ∧ (tidParse 0 0 0 0).valid = false
    ∧ copyRuns (one sup) 0 0 = false ∧ (tidParse 0 0 0 8).valid = true ∧ tidWf (tidParse 0 0 0 8) 0 true = false := by
  unfold Runs; decide
/-- ResidencyWords: entries with and without RESTRK, a tile beyond the count, and an entry that is not valid. -/
theorem test_witness_residency : let s := withTid (withTid (one thr) 5 (spTid 64)) 6 spTid
    Runs s thr placedRun ∧ (tidOf s 0 0 5).valid = true ∧ (tidOf s 0 0 5).restrk = true ∧ 0 < (tidOf s 0 0 5).tileCount
    ∧ (tidOf s 0 0 6).restrk = false ∧ (tidOf s 0 0 6).valid = true ∧ (tidOf s 0 0 7).valid = false ∧ (tidOf s 0 0 5).tileCount ≤ 64 := by
  unfold Runs; decide

/-! ## Witnesses: engine control, steering and synchronisation -/

/-- KernelWords, ControlRefused: a thread that controls its own slot and an empty one, idle and running, with and without its planes, and one that
another thread holds. -/
theorem test_witness_kernel : let full : Region := { placed := true, opLoaded := [0], rtLoaded := [0] }
    let t : Thread := { thr with g := [(1, 1)] }
    Runs (one t placedRun full) t placedRun ∧ MayControl (one t placedRun full) placedRun 0 ∧ ridle (one t placedRun full) 0 0 = true
    ∧ didle (one t placedRun full) 0 0 = true ∧ hPages 0 = [0] ∧ (rdReg t 1).toNat % 2 ^ 32 ≠ 0 ∧ (rdReg t 0).toNat % 2 ^ 32 = 0
    ∧ (getReg (one thr placedRun { full with runs := true }) 0).runs = true
    ∧ ridle (one thr placedRun { full with runs := true }) 0 0 = false
    ∧ (∃ p ∈ hPages (getReg (one thr) 0).hdr.toNat, p ∉ (getReg (one thr) 0).opLoaded)
    ∧ (let s : State := { one thr with regions := [(0, {}), (1, full)], runs := [(0, placedRun), (1, placedRun)] }
       Runs s thr placedRun ∧ (getReg s 1).placed = true ∧ (runOf s 0 1).isSome = true)
    ∧ (let s : State := { one thr with regions := [(0, {}), (1, full)] }; MayControl s placedRun 1) := by
  unfold Runs MayControl; decide
/-- The image of a region of slot 0 with live pages p, on pages of the context area. -/
def anImage (pages : List Nat) : Image :=
  { gang := 3, part := 0, lc := 0, slot := 0, voice := 0, core := 0, freezeTick := 0, snap := ⟨0, { placed := true }, []⟩, thread := thr
    run := some placedRun, copyRun := none, copier := none, chorus := none, records := [], more := false, pages := pages, words := 0 }
/-- ConstantsAndMask: elements inside and outside the rectangle, of a region that is placed and of a saved one. -/
theorem test_witness_constants : let t : Thread := { thr with g := [(1, 64)] }
    MayControl (one t) placedRun 0 ∧ (7 : Nat) < 8 ∧ (rdReg t 0).toNat / 16 < 4 * hH 0 ∧ 4 * hH 0 ≤ (rdReg t 1).toNat / 16
    ∧ (let s : State := { one t placedRun {} with images := [anImage []] }
       (getReg s 0).placed = false ∧ s.images.find? (fun i => i.part == placedRun.part && i.core == s.cur.core && i.slot == 0) = some (anImage [])
       ∧ (anImage []).snap.region.hdr.toNat = 0) := by
  unfold MayControl; decide
/-- The entries of a configuration store that holds nothing are zero. -/
theorem entries_zero (a m n b : Nat) : ∀ v ∈ entries (rdBytes [] a m) n b, v = 0 := by
  have h1 : ∀ m a, rdBytes [] a m = List.replicate m 0 := by
    intro m
    induction m with
    | zero => intro a; rfl
    | succ m ih => intro a; rw [rdBytes, ih, List.replicate_succ]; rfl
  have h2 : ∀ m, leNat (List.replicate m 0#8) = 0 := by
    intro m
    induction m with
    | zero => rfl
    | succ m ih => simp [List.replicate_succ, leNat, ih]
  simp [entries, h1, h2]
/-- A route or constant plane of such bytes has nothing to refuse. -/
theorem planes_zero (g : Region) (p : Plane) (hp : p = .rt ∨ p = .cn) (page a m : Nat) :
    (loadPlanes g p page (rdBytes [] a m)).isOk = true := by
  have hr : (entries (rdBytes [] a m) 512 2).findIdx (fun x => !routeOk x) = (entries (rdBytes [] a m) 512 2).length :=
    List.findIdx_eq_length.mpr fun v hv => by rw [entries_zero a m 512 2 v hv]; decide
  obtain rfl | rfl := hp
  · unfold loadPlanes
    simp [hr]; rfl
  · unfold loadPlanes
    simp; rfl
/-- ConfigurationLoad: a constant plane, and a route plane, of zero bytes. -/
theorem test_witness_plane : let s := one thr
    Runs s thr placedRun ∧ MayControl s placedRun 0 ∧ ridle s 0 0 = true ∧ (0 : Nat) ∈ hPages 0 ∧ imageBad s 0 placedRun 0 512 = false
    ∧ 0 + 4608 ≤ placedRun.len ∧ (loadPlanes { placed := true } .cn 0 (imageBytes s 0 placedRun 0 512)).isOk = true
    ∧ (loadPlanes { placed := true } .rt 0 (imageBytes s 0 placedRun 0 1024)).isOk = true :=
  ⟨by unfold Runs; decide, by unfold MayControl; decide, by decide, by decide, by decide, by decide,
    planes_zero _ .cn (.inr rfl) _ _ _, planes_zero _ .rt (.inl rfl) _ _ _⟩
/-- CopySteering: banks idle, kept and cancelled, with a copy-engine block of the partition and without one. -/
theorem test_witness_steering : let s : State := { one thr with runs := [(0, placedRun), (4, placedRun)] }
    Runs s thr placedRun ∧ copyRuns s 0 0 = true ∧ copyRuns (one thr) 0 0 = false ∧ (getCopier s 0).journal = [] ∧ bankSt (getCopier s 0) .b = .idle
    ∧ bankSt { getCopier s 0 with bankA := .cancelled } .a = .cancelled := by
  unfold Runs; decide
/-- An entry of a copy engine's journal, of bank A, with a counter object and a phaser. -/
def anEntry : JEntry :=
  { no := 1, index := 0, words := [], bank := 1, dests := [0], gen := 1, ctr := 0, phaser := 0, bytes := 64, left := [], waiting := [] }
/-- CopyCancels: QCANCEL of the bank of an entry that has an object in SRAM, whose completion is not yet sent; QSEL of the other one. -/
theorem test_witness_cancels : let s : State := { one thr with
      runs := [(0, placedRun), (4, placedRun)], copiers := [(0, { journal := [anEntry] })], sync := [(0, 1)], phasers := [(0, { live := true, pending := 64 })] }
    Runs s thr placedRun ∧ runOf s 0 4 = some placedRun ∧ ((getCopier s 0).journal.map (·.no)).Nodup ∧ bankSt (getCopier s 0) .a ≠ .cancelled
    ∧ bankSt (getCopier s 0) (otherBank .a) ≠ .cancelled ∧ (getCopier s 0).journal.filter (·.bank == 1) = [anEntry] ∧ (getPh s 0).live = true
    ∧ anEntry.ctr ≠ 0xFFFFFFF ∧ objAt s 0 = some (.sram 0) ∧ anEntry.sent = false ∧ s.syncQ = []
    ∧ objAt (one thr) 0 = none := by
  unfold Runs; decide
/-- PhaserService: requests of each operation, on a phaser without members, with one of each mode, and on none. -/
theorem test_witness_phaser : let q (op v : Nat) : SyncReq := ⟨1, 0, 0, 0, false, op, 0, v, 0, 1, 0, [0, 0, 0]⟩
    let m (t : Nat) (x : PhMode) : Member := { gang := 0, lc := 0, t := t, mode := x }
    let s (op v : Nat) (l : List Member) : State := { State.reset with syncQ := [q op v], phasers := [(0, { live := true, members := l })] }
    (∀ op, op < 6 → nextRequest (s op 0 []) 0 = some (q op 0)) ∧ (getPh State.reset 0).live = false
    ∧ memberRoom (s 0 0 []) 0 0 = some false
    ∧ (∀ x ∈ (getPh (s 0 0 [m 1 .wait]) 0).members, x.mode = .wait) ∧ (∃ x ∈ (getPh (s 0 0 [m 1 .sig]) 0).members, x.mode ≠ .wait)
    ∧ (∀ x ∈ (getPh (s 0 0 [m 1 .sig]) 0).members, ¬ (x.gang = 0 ∧ x.lc = 0 ∧ x.t = 0)) ∧ m 0 .sigwait ∈ (getPh (s 4 0 [m 0 .sigwait]) 0).members
    ∧ (getPh (s 3 1 [m 0 .wait]) 0).phase < (q 3 1).val ∧ (q 4 0).val ≤ (getPh (s 4 0 [m 0 .sigwait]) 0).phase := by decide
/-- PhaserService: a phaser with 256 members. -/
theorem test_witness_full_phaser (p : Phaser) (m : Member) : 256 ≤ ({ p with members := List.replicate 256 m } : Phaser).members.length := by
  rw [List.length_replicate]
/-- PhaserService: an engine whose members are 65,536 or more, which leaves no room for one more of a real-time partition. -/
theorem test_witness_engine_full (n : Nat) (hn : 65536 ≤ n) : let m : Member := { gang := 0, lc := 0, t := 1, mode := .sig }
    memberRoom { State.reset with parts := [(0, { rt := true })], phasers := [(1, { live := true, members := List.replicate n m })] } 0 0 = none := by
  intro m
  have h : (List.replicate n m).filter (fun x => !x.ext) = List.replicate n m := by simp [m]
  have hp : getPart { State.reset with parts := [(0, { rt := true })], phasers := [(1, { live := true, members := List.replicate n m })] } 0 = { rt := true } := rfl
  have hc : memberCount { State.reset with parts := [(0, { rt := true })], phasers := [(1, { live := true, members := List.replicate n m })] } 0
      (fun _ m => !m.ext) = n := by simp [memberCount, h]
  rw [memberRoom, hc, hp]
  simp [hn]
/-- AtomicService: requests for the two halves of an object, and for the whole of it. -/
theorem test_witness_atomic : let q (op a : Nat) : SyncReq := ⟨1, 0, 0, 0, false, op, a, 7, 0, 1, 0, [0]⟩
    let s (op a : Nat) : State := { State.reset with sync := [(0, 1)], syncQ := [q op a] }
    nextRequest (s 32 0) 0 = some (q 32 0) ∧ nextRequest (s 52 4) 0 = some (q 52 4) ∧ nextRequest (s 51 0) 0 = some (q 51 0)
    ∧ (52 : Nat) = 32 + 2 * 10 + 0 ∧ (51 : Nat) = 32 + 2 * 9 + 1 ∧ (q 52 4).arg % 16 = 4 ∧ objAt (s 52 4) (2 ^ 28 * 0 + 4 / 16) = some (.sram 0)
    ∧ (s 52 4).objWaiters = [] := by decide
/-- PhaserWords, CounterWords, AtomicWords: a phaser that is live and one that is not; objects of an engine, in one of its counts and not aligned. -/
theorem test_witness_sync : let s : State := { one thr with phasers := [(4094, { live := true })], sync := [(0, 1)] }
    let t : Thread := { thr with g := [(1, 4094), (2, 4095), (3, 8), (4, 2 ^ 32), (5, 4)] }
    Runs { s with threads := [(0, t)] } t placedRun ∧ (getPh s 4094).live = true ∧ (getPh s 7).live = false ∧ (rdReg t 1).toNat = 4094
    ∧ 4094 < (rdReg t 2).toNat ∧ settled s 0 (relIds s 0 0 0) = true ∧ thr.wait = .none ∧ placedRun.chorus = false
    ∧ objFault s 0 0 16 = none ∧ (rdReg t 3).toNat % 16 ≠ 0 ∧ 2 ^ 32 ≤ (rdReg t 4).toNat ∧ (rdReg t 5).toNat % 16 = 4
    ∧ (rdReg t 3).toNat % 16 ≠ 4 := by
  unfold Runs; decide
/-- AtomicValues, CounterService, PhaseBoundaries: values of 32 and 64 bits; requests for an object, with commands out and without; a phaser that is ready. -/
theorem test_witness_service : let q (op v : Nat) : SyncReq := ⟨1, 0, 0, 0, false, op, 0, v, 0, 1, 0, []⟩
    let s (op v : Nat) : State := { State.reset with sync := [(0, 1)], syncQ := [q op v] }
    let m : Member := { gang := 0, lc := 0, t := 0, mode := .sig, signalled := true }
    (0 : Nat) < 32 ∧ (2 ^ 32 - 1 : Nat) < 2 ^ 32 ∧ nextRequest (s 10 0) 0 = some (q 10 0) ∧ objAt (s 10 0) 0 = some (.sram 0)
    ∧ ctrDone (getObj (s 8 0) 0) 0 = true ∧ ctrDone (getObj (s 8 1) 0) 1 = false ∧ (getObj (s 9 0) 0).out = 0
    ∧ phReady { live := true, members := [m] } = true ∧ ({ live := true, members := [m] } : Phaser).lastB ≠ State.reset.cycle + 1
    ∧ phReady {} = false ∧ ({ live := true, members := [m], lastB := 1 } : Phaser).lastB = State.reset.cycle + 1 := by decide

/-! ## Witnesses: fences, time, traps, blocks and chorus -/

/-- FencesAndReleases: nothing outstanding and no race tag, a store outstanding, and a tagged entry whose engine is remote. -/
theorem test_witness_fences : let s := one thr
    let u : State := { s with reqs := [anAsk true spPlace] }
    Runs s thr placedRun ∧ settled s 0 (fenceIds s 0 0 0 63) = true ∧ tagTrip s 0 0 = 0 ∧ settled s 0 (fenceDIds s 0 0 0) = true
    ∧ settled s 0 (relIds s 0 0 0) = true ∧ settled u 0 (fenceIds u 0 0 0 63) = false ∧ settled u 0 (fenceDIds u 0 0 0) = false
    ∧ settled u 0 (relIds u 0 0 0) = false
    ∧ (let v := withTid { s with scenes := [(0, { live := true, tids := [(5, [])] })] } 5 (spTid 32)
       tagTrip v 0 0 ≠ 0 ∧ settled v 0 (fenceIds v 0 0 0 63) = true ∧ settled v 0 (fenceDIds v 0 0 0) = true) := by
  unfold Runs; decide
/-- JobPost: a record of the scratchpad, one that is misaligned, one outside it, one of another owner, a store that is out, and a queue that is full. -/
theorem test_witness_jobpost : let s := withTid (one { thr with g := [(1, 0x100000), (2, 0x100001)] }) 5 spTid
    areaOk s 0 0x100000 64 .peer = true ∧ ownedOk s 0 0 0x100000 64 = true ∧ settled s 0 (jobIds s 0 0) = true ∧ areaOk s 0 0 64 .peer = false
    ∧ areaOk s 0 0x200000 64 .peer = true ∧ ownedOk s 0 0 0x200000 64 = false
    ∧ (let u : State := { s with reqs := [anAsk true spPlace] }; settled u 0 (jobIds u 0 0) = false)
    ∧ (0x100001 : Nat) % 64 ≠ 0 ∧ (getPart s 0).devQueue.length < 16
    ∧ 16 ≤ ({ getPart s 0 with devQueue := List.replicate 16 [] } : Part).devQueue.length := by decide
/-- TimeWords: ticks that have come, and that have not. -/
theorem test_witness_time : Runs (one thr) thr placedRun ∧ (rdReg thr 1).toNat ≤ (one thr).tb.ticks ∧ (0 : Int) ≤ since (one thr) placedRun.fire
    ∧ since (one thr) placedRun.fire < 1
    ∧ (one thr).tb.ticks < (rdReg (thr2 1 0) 1).toNat := by
  unfold Runs; decide
/-- TrapEntry, TrapWords, RecordDelivery: a thread with a vector base inside its image, alone and in a delay slot. -/
theorem test_witness_traps : let t : Thread := { thr with vecbase := 4096, branch := some ⟨60, 1, true, 256, false⟩ }
    let x : Record := ⟨0x069, 0, []⟩
    Runs (one t) t placedRun ∧ t.mode = false ∧ ((4096 + 64 * (0x6B / 32)) % 2 ^ 32 : Nat) % 4 = 0 ∧ 4096 + 64 * 31 + 4 ≤ placedRun.len ∧ 32 ≤ 4096
    ∧ wordCause 0xFC000000 false false = some 0 ∧ thr.dbg = false ∧ ({ thr with dbg := true } : Thread).dbg = true
    ∧ recordDue { one thr with queues := [(0, [x])] } 0 0 0 = true ∧ lookup ({ one t with queues := [(0, [x])] } : State).queues 0 = some [x] := by
  unfold Runs; decide
/-- DoubleFault, TrapReturn, EndWord: supervisor and user mode, in a delay slot, with one interrupted, and idle and running regions. -/
theorem test_witness_returns : Runs (one sup) sup placedRun ∧ (0 : Nat) < 4 ∧ placedRun.chorus = false ∧ sup.branch = none ∧ sup.ds = false
    ∧ Runs (one thr) thr placedRun ∧ thr.mode = false ∧ ({ sup with ds := true, skip := true } : Thread).ds = true
    ∧ (let t : Thread := { sup with ds := true, dsk := 2, depth := 1, winLo := 1 }
       Runs (one t) t placedRun ∧ t.ds = true ∧ t.dsk = 2 ∧ t.depth ≠ 0 ∧ t.depth ≤ t.winLo ∧ ({ t with winLo := 0 } : Thread).winLo < t.depth)
    ∧ endReady (one thr) 0 0 = true ∧ endReady (one thr placedRun { placed := true, runs := true }) 0 0 = false := by
  unfold Runs; decide
/-- DebugResumes, DebugPort, StateReads: halted threads, with a slot interrupted, completed, and none, and a running one; register numbers at the bounds of each
kind; indices inside and past the state spaces. -/
theorem test_witness_debug : let t : Thread := { thr with halted := true }
    (∀ u ∈ [t, { t with ds := true }, { t with ds := true, dsk := 2, depth := 1, winLo := 1 }, { t with ds := true, skip := true }, thr, { sup with g := [(1, 12)] }], Runs (one u) u placedRun)
    ∧ t.halted = true ∧ t.ds = false ∧ t.skip = false ∧ thr.halted = false ∧ (∀ ix ∈ [31, 32, 39, 40, 0xFF, 0x100, 0x111, 0x112],
      let s : State := { one t with cur := { ix := ix, flag := true } }; Runs s t placedRun ∧ s.cur.ix = ix)
    ∧ (rdReg sup 1).toNat < 10 ∧ (rdReg sup 1).toNat < 1024 ∧ 12 ≤ (rdReg (thr2 12 0) 1).toNat ∧ 2048 ≤ (rdReg (thr2 2048 0) 1).toNat := by
  unfold Runs; decide
/-- A voice of a chorus of two, on cores 0 and 1. -/
def voiceRun (v : Nat) : Run := { placedRun with chorus := true, voice := v }
/-- CompareOpens, CompareMatches, CompareLag: the first and the second signature of a point of two voices, and a point that one voice has not reached. -/
theorem test_witness_chorus : let r := voiceRun 1
    let p : Point := { no := 0, arrived := [(0, 0)], first := 0 }
    let k := homeKey r 0
    let s : State := { State.reset with runs := [(0, voiceRun 0), (8, r)], threads := [(0, thr), (4, { thr with wait := .compare true })]
                                        homes := [(k, { voices := [0, 1], points := [p] })], cur := { core := 1 } }
    runOf s 1 0 = some r ∧ (getTh s (curKey s)).wait = .compare true ∧ voiceCore s 0 r 1 = some 1 ∧ voiceCore s 0 r 0 = some 0
    ∧ runOf s 0 0 = some (voiceRun 0) ∧ (getVoice s 0).recs = [] ∧ (getHome s k).voices.length = 2
    ∧ (getHome s k).points.find? (·.no == 0) = some p ∧ p.decided = none ∧ p.arrived = [(0, BitVec.ofNat 64 s.cur.val)]
    ∧ (getHome { s with homes := [(k, { voices := [0, 1] })] } k).points.find? (·.no == 0) = none
    ∧ (getHome { s with tb := { ticks := 2 ^ 40 } } k).points.find? (lagged { s with tb := { ticks := 2 ^ 40 } } k) = some p
    ∧ s.runs.find? (fun x => x.2.chorus && homeKey x.2 (x.1 % 8) == k) = some (0, voiceRun 0)
    ∧ ({ s with runs := [] } : State).runs.find? (fun x => x.2.chorus && homeKey x.2 (x.1 % 8) == k) = none := by decide
/-- A chorus of nv voices on the cores from 0 on, whose voices but the last have sent signature v + 1, and whose last sends x. -/
def chorusState (nv x m : Nat) : State :=
  { State.reset with
    runs := (List.range nv).map fun v => (8 * v, voiceRun v)
    threads := (List.range nv).map fun v => (4 * v, { thr with wait := .compare true })
    voices := (List.range nv).map fun v => (4 * v, { ckThread := some thr })
    homes := [(homeKey (voiceRun 0) 0, { voices := List.range nv, mismatches := m
                                         points := [{ no := 0, arrived := (List.range (nv - 1)).map fun v => (v, BitVec.ofNat 64 (v + 1)), first := 0 }] })]
    cur := { core := nv - 1, val := x } }
/-- CompareMismatch: the second signature of two differs from the first, as the first mismatch and as the second. -/
theorem test_witness_mismatch : ∀ m ∈ [0, 1], let s := chorusState 2 7 m
    Arrives s (voiceRun 1) { no := 0, arrived := [(0, 1)], first := 0 } 2 id [(0, 1)] ∧ (voiceRun 1).voice = 1 ∧ (1 : W64) ≠ BitVec.ofNat 64 s.cur.val
    ∧ (getHome s (homeKey (voiceRun 1) 0)).mismatches = m ∧ (getVoice s (thKey 0 0)).ckThread = some thr ∧ (getVoice s (curKey s)).ckThread = some thr
    ∧ (getVoice s (curKey s)).ckRegions = [] := by
  intro m hm
  obtain rfl | rfl : m = 0 ∨ m = 1 := by simpa using hm
  all_goals
    refine ⟨⟨rfl, by decide, by decide, by decide, rfl, rfl, by decide, by decide, rfl, rfl, fun v w _ _ h => h, fun v h => ?_⟩, rfl, by decide, by decide, by decide,
      by decide, by decide⟩
    obtain rfl | rfl : v = 0 ∨ v = 1 := by omega
    · exact ⟨by decide, voiceRun 0, by decide⟩
    · exact ⟨by decide, voiceRun 1, by decide⟩
/-- CompareMinority: the third signature of three equals the first, and differs from both. -/
theorem test_witness_minority : ∀ x ∈ [1, 7], let s := chorusState 3 x 0
    Arrives s (voiceRun 2) { no := 0, arrived := [(0, 1), (1, 2)], first := 0 } 3 id [(0, 1), (1, 2)] ∧ (voiceRun 2).voice = 2 ∧ (1 : W64) ≠ 2
    ∧ (BitVec.ofNat 64 s.cur.val = 1 ↔ x = 1) ∧ BitVec.ofNat 64 s.cur.val ≠ 2 ∧ (getVoice s (thKey 0 0)).recs = [] := by
  intro x hx
  obtain rfl | rfl : x = 1 ∨ x = 7 := by simpa using hx
  all_goals
    refine ⟨⟨rfl, by decide, by decide, by decide, rfl, rfl, by decide, by decide, rfl, rfl, fun v w _ _ h => h, fun v h => ?_⟩, rfl, by decide, by decide, by decide,
      by decide⟩
    obtain rfl | rfl | rfl : v = 0 ∨ v = 1 ∨ v = 2 := by omega
    · exact ⟨by decide, voiceRun 0, by decide⟩
    · exact ⟨by decide, voiceRun 1, by decide⟩
    · exact ⟨by decide, voiceRun 2, by decide⟩

/-! ## Witnesses: the cue unit and the timebase -/

/-- A block of id 1 with one variant. -/
def aBlock : Block := { id := 1, ekind := 0, sztid := 0, szsrc := 0, szidx := 0, ub := 100, szaddr := 0, caps := [0], voffs := [0] }
/-- A cue of block 1 on sheet 0 with understudy u, slack sl and a state, in scene 0. -/
def aCue (st : CuePhase) (u sl : Nat) : Cue :=
  { word0 := BitVec.ofNat 64 (2 ^ 52 + u * 2 ^ 40 + sl * 2 ^ 8), st := st, period := 1, deadTick := 50 }
/-- Core 0 with that cue, its scene of a real-time partition and its image. -/
def cueState (q : Cue) (runs : List (Nat × Run) := []) : State :=
  { State.reset with
    cues := [(0, q)], scenes := [(0, { live := true, loaded := true, running := true, blocks := [aBlock] })], cfgImages := [(0, 0, 4, 0, 64)]
    parts := [(0, { rt := true, enable := true })], runs := runs, threads := if runs.isEmpty then [] else [(0, thr)] }
/-- CueFires, CueLate: a cue whose block is held, waiting and gated, with slack and without. -/
theorem test_witness_cues : let s := cueState (aCue .wait 0xFFF 0)
    Fireable s (aCue .wait 0xFFF 0) aBlock 0 ∧ Fireable (cueState (aCue .gated 5 3)) (aCue .gated 5 3) aBlock 0
    ∧ isBe s 0 = false ∧ (runOf s 0 0).isNone = true ∧ (aCue .wait 5 3).drained = false ∧ ((gangOf s 0 0).map (·.bad)).getD false = false
    ∧ qSlack (aCue .wait 5 3) = 3 ∧ qSlack (aCue .wait 5 0) = 0 ∧ qUnder (aCue .wait 5 3) = 5 ∧ qUnder (aCue .wait 0xFFF 3) = 0xFFF
    ∧ (aCue .gated 5 3).st = .gated ∧ qChorus (aCue .gated 5 3) = false := by
  unfold Fireable; decide
/-- Overruns, Understudies: blocks at their deadline, of a cue and of its understudy, and an understudy that is due. -/
theorem test_witness_overrun : let r : Run := { placedRun with deadline := 0 }
    let q : Cue := { aCue .under 1 0 with understudyDue := some 0 }
    runOf (cueState (aCue .run 0xFFF 0) [(0, r)]) 0 0 = some r ∧ qSheet (aCue .run 0xFFF 0) < 4 ∧ r.chorus = false ∧ r.under = false
    ∧ reached (cueState q) r.deadline = true ∧ r.frozenAt = none ∧ q.st = .under ∧ q.understudyDue.isSome = true ∧ gangResident (cueState q) 0 0 = true
    ∧ blockOfId (getScene (cueState q) 0) (qUnder q) = some aBlock
    ∧ (let u : Run := { r with under := true }; runOf (cueState q [(0, u)]) 0 0 = some u ∧ u.under = true) := by decide
/-- Retirement: a block that waits to end, with its conditions met, and a copy-engine block that has issued its entries. -/
theorem test_witness_retirement : let t : Thread := { thr with wait := .ending }
    runOf (one t) 0 0 = some placedRun ∧ placedRun.under = false ∧ (getTh (one t) 0).wait = .ending ∧ endReady (one t) 0 0 = true
    ∧ (let s : State := { one t with runs := [(4, placedRun)] }
       runOf s 0 4 = some placedRun ∧ (getCopier s 0).nent ≤ (getCopier s 0).pos ∧ (getCopier s 0).journal = []) := by decide
/-- TimebaseWrites, StepApplied: periods of a heartbeat in the range and outside it, with a scene loaded and none; a step that is pending. -/
theorem test_witness_timebase : (4 : Nat) ≤ 0x1A00 / 256 % 16 ∧ (0x1A00 / 256 % 16 : Nat) ≤ 10 ∧ (0x300 / 256 % 16 : Nat) < 4
    ∧ (∀ x ∈ State.reset.scenes, x.2.live = true → x.2.loaded = false) ∧ (∃ x ∈ (cueState (aCue .idle 0 0)).scenes, x.2.live = true ∧ x.2.loaded = true)
    ∧ rtRunning State.reset = false ∧ (∀ d < 4, moduleDown State.reset (8 + d) = false) ∧ moduleDown { State.reset with links := [(9, (3, 0))] } (8 + 1) = true
    ∧ rtRunning { cueState (aCue .idle 0 0) with scenes := [(0, { live := true, running := true, sheets := [⟨0, 0, 0, [(BitVec.ofNat 64 (2 ^ 32), 0)]⟩] })] } = true
    ∧ ({ State.reset with tb := { stepPend := some (-5) } } : State).tb.stepPend = some (-5) := by decide
/-- ServoLock, PulsePins: offsets at the bounds, and the stages of bring-up. -/
theorem test_witness_servo : State.reset.mgmt.stage ≠ 5 ∧ (-100 : Int) ≤ -100 ∧ (100 : Int) < 101 ∧ ({ pendSync := true } : TimeBase).pendSync = true
    ∧ ({ locked := true } : TimeBase).locked = true ∧ (6 : Nat) ≤ ({ stage := 6 } : Mgmt).stage ∧ State.reset.mgmt.stage < 6
    ∧ ({ goodSyncs := 15 } : TimeBase).goodSyncs = 15 := by decide

/-! ## Witnesses: elements -/

/-- A region in instance 5 of its run, in its only slot. -/
def runReg : Region := { placed := true, runs := true, trip := 64, count := 9 }
/-- An element entry that reads its immediate, the zero token and the registers named, in stage guard g. -/
def ent (grd imm : Nat) (sa : Nat := 46) (sb : Nat := 47) (sc : Nat := 47) (lnk : Nat := 0) : Ent :=
  { sa := sa, sb := sb, sc := sc, dst := 0, lnk := lnk, grd := grd, imm := imm }
/-- Core 0 with that region and its element (0, 0). -/
def elems (e : Elem := {}) : State := { one thr placedRun runReg with elems := [(0, e)] }
/-- The source, integer, truth, float and conversion statements: entries that issue, with predicate 1 and with 0, at the bounds of their immediates. -/
theorem test_witness_elements : Issues (elems) 0x10 (ent 0 3) 5 0 true ∧ Issues (elems) 0x1B (ent 0 160) 5 0 true ∧ Issues (elems) 0x1B (ent 0 1) 5 0 true
    ∧ Issues (elems) 0x30 (ent 0 9) 5 0 true ∧ Issues (elems) 0x31 (ent 0 7) 5 0 true ∧ Issues (elems) 0x48 (ent 0 0) 5 0 true
    ∧ Issues (elems) 0x60 (ent 0 0x23 46 46) 5 0 true ∧ Issues (elems) 0x64 (ent 0 1) 5 0 true ∧ Issues (elems) 0x70 (ent 0 0) 5 0 true
    ∧ (issue (elems) (ent 0 3) 5 0).en = true ∧ predOf (ent 0 3) (issue (elems) (ent 0 3) 5 0) (psrcOf 0x10 (ent 0 3) (issue (elems) (ent 0 3) 5 0)) = true := by
  unfold Issues; decide
/-- ExactArithmetic: a NaN. QuantisationChains: the last value of a block and an earlier one, a fresh scale and a latched one, and no enable. -/
theorem test_witness_chains : isNan32 0x7FC00001 = true ∧ (ent 0 (64 * 3)).imm = 64 * 3 + 0 ∧ (ent 0 (64 * 3 + 63)).imm = 64 * 3 + 63
    ∧ (issue (elems) (ent 0 192) 5 0).en = true ∧ tget (getEl (elems) (elKey (elems))).qmK 0 3 + 1 = 0 + 1
    ∧ Issues (elems) 0x68 (ent 0 192) 5 0 true ∧ Issues (elems) 0x68 (ent 0 255) 5 0 false ∧ Issues (elems) 0x6A (ent 0 192) 5 0 true
    ∧ (issue (elems) (ent 9 192 46 47 46) 5 0).en = false ∧ Issues (elems) 0x68 (ent 9 192 46 47 46) 5 0 false := by
  unfold Issues; decide
/-- A value that is a number with a sign and a mantissa other than 0. -/
def numberOf (v : FV) (neg : Bool) : Bool := match v with | .num n m _ => n == neg && m != 0 | _ => false
/-- Rounding, RoundedFunctions, ConvertedValues, QuantisedValues: codes of each class at their bounds, in FP32 and in E4M3, zeros, NaNs, the modes. -/
theorem test_witness_values : fpInfo 6 = some (8, 23, 127) ∧ fpInfo 9 = some (4, 3, 7) ∧ (2 ^ 32 - 1 : Nat) < 2 ^ (8 + 23 + 1) ∧ (0x7FFFFF / 2 ^ 23 % 2 ^ 8 : Nat) = 0
    ∧ (0x800000 / 2 ^ 23 % 2 ^ 8 : Nat) = 1 ∧ (0x7F7FFFFF / 2 ^ 23 % 2 ^ 8 : Nat) = 254 ∧ (0x7F800000 / 2 ^ 23 % 2 ^ 8 : Nat) = 255
    ∧ (0x7E / 2 ^ 3 % 2 ^ 4 : Nat) = 15 ∧ (0x7E % 2 ^ 3 : Nat) < 7 ∧ (0x7F % 2 ^ 3 : Nat) = 7 ∧ isFp 6 = true ∧ isFp 9 = true
    ∧ isNan32 0x7F800001 = true ∧ isNan32 0x7F800000 = false ∧ numberOf (f32 0x3F800000) false = true ∧ numberOf (f32 0xBF800000) true = true
    ∧ numberOf (f32 1) false = true ∧ f32 0x7FC00000 = .nan ∧ f32 0xFF800000 = .inf true ∧ fmtVal 0x0E 255 = .nan ∧ numberOf (fmtVal 4 0) false = false
    ∧ intRange 0 = some (-128, 127) ∧ (65535 : Nat) < 65536 ∧ (∀ imm ∈ [0, 1, 2, 12], imm % 4 < 3) ∧ (255 : Nat) < 256 := by decide
/-- ElementStructure: registers that agree and that differ in each place, a FIFO that delivers, and flags 0 and 15. -/
theorem test_witness_structure : let e : Elem := { q := [(27, ⟨1, true⟩), (28, ⟨2, true⟩), (29, ⟨3, true⟩)] }
    let c (a b d : Nat) : EC := issue (elems e) (ent 0 16 a b d) 5 0
    (c 0 0 0).a = (c 0 0 0).b ∧ (c 0 0 1).a = (c 0 0 1).b ∧ (c 0 0 1).c ≠ (c 0 0 1).a ∧ (c 0 1 0).b ≠ (c 0 1 0).a ∧ (c 1 0 0).a ≠ (c 1 0 0).b
    ∧ (c 0 1 2).a ≠ (c 0 1 2).b ∧ (c 0 1 2).b ≠ (c 0 1 2).c ∧ (c 0 1 2).en = true ∧ predOf (ent 0 16 0 0 0) (c 0 0 0) (c 0 0 0).a.pred = true
    ∧ Issues (elems e) 0x00 (ent 0 0) 5 0 true ∧ Issues (elems e) 0x04 (ent 0 16 0 0 1) 5 0 true ∧ Issues (elems e) 0x05 (ent 0 16 0) 5 0 true
    ∧ Issues (elems e) 0x06 (ent 0 16 0) 5 0 true ∧ Issues (elems e) 0x07 (ent 0 31 0) 5 0 true ∧ (31 : Nat) < 32 := by
  unfold Issues; decide
/-- ElementGuards: stage guards 0 and 5, a predicate and its complement, and a core that lacks a capability. -/
theorem test_witness_guards : (ent 7 0).grd = 2 + 5 ∧ (5 : Nat) < 6 ∧ (ent 0 0).grd = 0 ∧ (ent 9 0 46 47 46).grd ≠ 1
    ∧ (issue (elems) (ent 9 16 46 47 46) 5 0).en = false ∧ Issues (elems) 0x06 (ent 9 16 46 47 46) 5 0 false ∧ Issues (elems) 0x07 (ent 9 0 46 47 46) 5 0 false
    ∧ (missing (setCore (elems) 0 { capClr := BitVec.ofNat 64 (2 ^ 48 - 1) }) 0 (needBits 0x40 (ent 0 0))).isSome = true := by
  unfold Issues; decide

/-! ## Witnesses: ports and array mode -/

/-- PortWords: a load and a store of 32 bits that pass, with P = 1 and P = 0, an access that fails, and PortSteps' requests of a port, a thread and a row. -/
theorem test_witness_ports : let s := withTid (elems) 5 (spTid 0)
    let v := tidOf s 0 0 5
    let c := issue s (ent 0 5 47 47 47) 5 0
    Issues s 0x82 (ent 0 5 47 47 47) 5 0 true ∧ predOf (ent 0 5 47 47 47) c (psrcOf 0x82 (ent 0 5 47 47 47) c) = true
    ∧ accessOf s (whoReg 0 runReg) v (c.a.data.toInt) (c.b.data.toInt) 4 4 false false .port = .ok (0x100000, 0, spPlace)
    ∧ accessOf s (whoReg 0 runReg) v (c.a.data.toInt) (c.c.data.toInt) 4 4 false true .port = .ok (0x100000, 0, spPlace)
    ∧ accessOf s (whoReg 0 runReg) v (c.a.data.toInt + c.b.data.toInt) 0 8 8 true false .port = .error 0x06B
    ∧ regChorus s 0 runReg = false ∧ Issues s 0x80 (ent 0 5 47 47 47) 5 0 true ∧ Issues s 0x81 (ent 0 5 47 47 47) 5 0 true
    ∧ predOf (ent 9 5 47 47 46) (issue s (ent 9 5 47 47 46) 5 0) (psrcOf 0x80 (ent 9 5 47 47 46) (issue s (ent 9 5 47 47 46) 5 0)) = false
    ∧ (let w := withTid (elems) 5 [6 * 2 ^ 59 + 0x100000, 0x0001000100010040, 0, 0xFFF * 2 ^ 20 + 2 ^ 3]
       accessOf w (whoReg 0 runReg) (tidOf w 0 0 5) (c.a.data.toInt + c.b.data.toInt) 0 4 4 true false .port = .ok (0x100000, 0, spPlace)
       ∧ accessOf w (whoReg 0 runReg) (tidOf w 0 0 5) (c.a.data.toInt) 0 4 4 true true .port = .ok (0x100000, 0, spPlace)) := by
  unfold Issues; decide
/-- PortSteps: a store of 8 bits of a port, a request of a thread and a line of an array row, that perform now; a port's access that lacks its grant; a reply. -/
theorem test_witness_port_steps : let q (a : Asker) (st : Bool) : Req := { anAsk st spPlace with asker := a, space := 2, len := 8 }
    (∀ a ∈ [Asker.port 0 0 0, Asker.thread 0, Asker.aRow 0 1 0], ∀ st ∈ [true, false],
      let s : State := { one thr with reqs := [q a st] }
      let x := q a st
      s.reqs.find? (·.id == s.cur.ix) = some x ∧ x.done = false ∧ behind s x = false ∧ wayDown s 0 spPlace = false ∧ backDown s 0 spPlace = false
      ∧ bankFenced s spPlace 8 = false ∧ eccOf s spPlace.addr 8 = 0 ∧ portDown s spPlace = false ∧ x.notBefore ≤ s.cycle ∧ x.race ≠ 1 ∧ x.race = 0
      ∧ raceHeld s (whoReg 0 (getReg s 0)) (tidOf s 0 0 x.tid) x.tid 0 0x20 st = true ∧ x.voice = false ∧ s.cur.flag = false)
    ∧ (getReg (one thr) 0).killed = false ∧ ({ q (.port 0 0 0) true with denied := some (0x0A0, 1, 0, 0) } : Req).denied.isSome = true
    ∧ ({ q (.port 0 0 0) true with bits := some (4, 4) } : Req).bits = some (4, 4)
    ∧ (let s : State := { withTid (one thr) 5 (spTid 32) with reqs := [{ q (.port 0 0 0) true with tid := 5 }] }
       raceHeld s (whoReg 0 (getReg s 0)) (tidOf s 0 0 5) 5 ((tidOf s 0 0 5).base + 0) 0x20 true = false) := by decide
/-- RegionSteps: constants, a seed and drops that wait for the end of a run. -/
theorem test_witness_region_steps : let g : Region := { runReg with conPend := [(3, 7)], seedPend := some 9, drops := [(1, 2)] }
    (3, 7) ∈ g.conPend ∧ (∀ e ∈ g.conPend, e.1 = 3 → e.2 = 7) ∧ g.seedPend = some 9 ∧ (3 : Nat) < 4 * hH g.hdr.toNat ∧ g.killed = false
    ∧ portsBusy (one thr placedRun g) 0 0 = false := by decide

/-- A BF16 array region of one page whose constants 0 to 2 are operand words. -/
def arrReg (a b c : Nat) : Region :=
  { runReg with hdr := BitVec.ofNat 64 (2 ^ 51), fmt := some 8, wFmt := [(0, 9), (1, 9)]
                con := [(conKey 0 0 0, BitVec.ofNat 32 a), (conKey 0 0 1, BitVec.ofNat 32 b), (conKey 0 0 2, BitVec.ofNat 32 c)] }
/-- Core 0 with it, BF16 rows of 8 in TID 1 and FP32 accumulators in TID 2. -/
def arrState (g : Region) : State :=
  let s := withTid (one thr placedRun g) 1 [7 * 2 ^ 59 + 2 * 2 ^ 52 + 0x100000, 0x0001000100080008, 16 * 2 ^ 16, 0xFFF * 2 ^ 20 + 2 ^ 3]
  let s := withTid s 2 [6 * 2 ^ 59 + 2 * 2 ^ 52 + 0x600000, 0x0001000100080008, 32 * 2 ^ 16, 0xFFF * 2 ^ 20 + 2 ^ 3]
  setCore s 0 { getCore s 0 with owners := [(16, 0x80), (96, 0x80)] }
/-- An array entry whose sources are the constants. -/
def arrEnt (imm : Nat) : Ent := ent 0 imm 36 37 38
/-- ArrayWords: every word issues with its checks passed, and with P = 0. -/
theorem test_witness_array_words : let s (a b c : Nat) := arrState (arrReg a b c)
    Controls (s 0 0 0) 0xA0 (arrEnt 8) 5 0 ∧ bit (capMask (s 0 0 0) 0) (aFmt 8).cap = true ∧ bit (capMask (s 0 0 0) 0) 31 = true
    ∧ bit (arrReg 0 0 0).opuse.toNat 30 = false ∧ draining (s 0 0 0) 0 0 = false ∧ Controls (s 0 0 0) 0xA2 (arrEnt 0) 5 0
    ∧ slotLoaded (arrReg 0 0 0) 1 = true ∧ slotLoaded { arrReg 0 0 0 with wFmt := [] } 1 = false ∧ Controls (s 0 0 0) 0xA6 (arrEnt 0) 5 0
    ∧ hArray (arrReg 0 0 0).hdr.toNat = true ∧ Controls (s 0 0xFF01 0) 0xA1 (arrEnt 0) 5 0
    ∧ preloadOk (s 0 0xFF01 0) (issue (s 0 0xFF01 0) (arrEnt 0) 5 0) 8 0 0 0xFF 1 = true
    ∧ Controls (s 0 2 0) 0xA5 (arrEnt 0) 5 0 ∧ acTidOk (s 0 2 0) 0 0 2 = true ∧ (tidOf (s 0 2 0) 0 0 2).fmt = (aFmt 8).acFmt
    ∧ acCols 8 (nCols (arrReg 0 2 0) 8) ≤ (tidOf (s 0 2 0) 0 0 2).dim 0 ∧ 0 + 1 ≤ (tidOf (s 0 2 0) 0 0 2).dim 1
    ∧ predOf (ent 9 0 36 37 36) (issue (s 0 0 0) (ent 9 0 36 37 36) 5 0) (psrcOf 0xA5 (ent 9 0 36 37 36) (issue (s 0 0 0) (ent 9 0 36 37 36) 5 0)) = false := by
  unfold Controls; decide +kernel
/-- The pass of ArrayWords, and DrainWord. -/
theorem test_witness_array_pass : let s := arrState (arrReg 0 0x0201 0)
    Controls s 0xA3 (arrEnt 0) 5 0 ∧ slotLoaded (arrReg 0 0x0201 0) 0 = true ∧ aInput (arrReg 0 0x0201 0) = false ∧ acTidOk s 0 0 2 = true
    ∧ (tidOf s 0 0 1).valid = true ∧ (tidOf s 0 0 1).space = 0 ∧ (tidOf s 0 0 1).fmt = (aFmt 8).a ∧ 0 + kLogical (arrReg 0 0 0) 8 ≤ (tidOf s 0 0 1).dim 0
    ∧ (issue s (arrEnt 0) 5 0).b.data.toNat = 0x0201 ∧ isMx (aFmt 8).a = false
    ∧ (let d := arrState { arrReg 0 0x0102 0xFFFFFFF with epSel := some 0, epProg := [0] }
       Controls d 0xA4 (arrEnt 0) 5 0 ∧ bit (capMask d 0) 37 = true ∧ draining d 0 0 = false ∧ progHas [0] 0x0F = false
       ∧ (issue d (arrEnt 0) 5 0).c.data.toNat = 0xFFFFFFF ∧ drainTidsOk d 0 0 [0] 2 1 0 0 1 false = true) := by
  unfold Controls; decide +kernel
/-- ArrayWords, ArraySteps: a pass whose rows come from a peer's scratchpad, the reply of a row's only line, and a pass whose rows come from a bypass. -/
theorem test_witness_array_sources : let gang : Gang := { id := 0, nlc := 1, phase := 0, chor := 0, skew := 0, words := [] }
    let a (src : Nat) : Pass := { id := 3, start := 0, src := src, ovw := false, k0 := 0, m0 := 0, h0 := 0, rows := 2, acTid := 2, aTid := 1, wsel := 0, wFmt := 8 }
    let g (src : Nat) : Region := { arrReg 0 (if src = 1 then 0x0201 else 0x02FF) 0 with passes := [a src] }
    let q : Req := { id := 0, core := 0, part := 0, asker := .aRow 0 3 0, store := false, place := spPlace, bytes := [], len := 16, done := true, data := [1] }
    let p : State := { withTid (arrState (g 1)) 1 [] with
      scenes := [(0, { live := true, gangs := [gang] })], reqs := [q], cur := { ix := 0, flag := true }
      tids := tidEntry 1 [7 * 2 ^ 59 + 2 ^ 56 + 2 * 2 ^ 52 + 0x100000, 0x0001000100080008, 16 * 2 ^ 16, 0xFFF * 2 ^ 20 + 2 ^ 3]
        ++ tidEntry 2 [6 * 2 ^ 59 + 2 * 2 ^ 52 + 0x600000, 0x0001000100080008, 32 * 2 ^ 16, 0xFFF * 2 ^ 20 + 2 ^ 3] }
    let b : State := { arrState (g 2) with regions := [(0, g 2), (1, { arrReg 0 0 0 with bypTo := some 0, bypRows := 1, bypFmt := 7 })] }
    Controls (setReg p 0 (arrReg 0 0x0201 0)) 0xA3 (arrEnt 64) 5 0 ∧ (tidOf p 0 0 1).valid = true ∧ (tidOf p 0 0 1).space = 1 ∧ (tidOf p 0 0 1).fmt = (aFmt 8).a
    ∧ (tidOf p 0 0 1).base / 2 ^ 42 % 64 < nlcOf p 0 0 ∧ clusterOf (coreOf p 0 0 0 0) = clusterOf 0 ∧ aInput (arrReg 0 0x0201 0) = false ∧ slotLoaded (g 1) 0 = true
    ∧ (rowSpan p 0 0 1 0 0 8).2 = 16 ∧ accessOf p (whoReg 0 (g 1)) (tidOf p 0 0 1) 0 0 16 2 false false .peer = .ok (0x100000, 0, spPlace)
    ∧ p.reqs.find? (·.id == 0) = some q ∧ backDown p 0 q.place = false ∧ (∀ x ∈ p.reqs, x.core = 0 → x.asker = q.asker → x.id ≠ q.id → x.arrived = true)
    ∧ (getReg p 0).passes.find? (·.id == 3) = some (a 1) ∧ isMx (aFmt 8).a = false
    ∧ Controls (setReg b 0 (arrReg 0 0x02FF 0)) 0xA3 (arrEnt 128) 5 0
    ∧ (issue (setReg b 0 (arrReg 0 0x02FF 0)) (arrEnt 128) 5 0).b.data.toNat = 0x02FF ∧ (issue b (arrEnt 128) 5 0).a.data.toNat = 0
    ∧ width 7 = width (aFmt 8).a ∧ 0 + 1 ≤ (getReg b 1).bypRows ∧ 0 + 1 ≤ 131072 / (kLogical (g 2) 8 * width 7)
    ∧ Binds b 0 0 1 := by
  unfold Controls Binds; decide +kernel
/-- ArraySteps: a preload, a pass and a clear in flight, over rows that read and write. AccumulatorEntries: formats of each kind, and a channel. -/
theorem test_witness_array_steps : let p : Preload := { id := 3, active := false, start := 0, tid := 1, ix := 0xFF, n0 := 0, w0 := 0 }
    let a : Pass := { id := 3, start := 0, src := 0, ovw := false, k0 := 0, m0 := 0, h0 := 0, rows := 2, acTid := 2, aTid := 1, wsel := 0, wFmt := 8 }
    let q : Clear := { id := 3, start := 0, tid := 2, h0 := 0, rows := 1 }
    let g : Region := { arrReg 0 0 0 with preload := some p, passes := [a], clear := [q] }
    let s : State := { arrState g with cur := { ix := 0, val := 3 } }
    g.preload = some p ∧ p.id = s.cur.val ∧ p.bad = false ∧ Plain s 1 [rowSpan s 0 0 1 0 (0 + 1) 8] ∧ Sound s [rowSpan s 0 0 1 0 (0 + 1) 8] ∧ ScalesPlain s 1 ∧ isMx (aFmt 8).w = false
    ∧ (rowCodes s (whoReg 0 g) 1 0 (0 + 1) 8 .fetch).isOk = true ∧ g.passes.find? (·.id == 3) = some a ∧ rowsOf g a 0 = [0, 1]
    ∧ (aRow s 0 0 a 1 .fetch).isOk = true ∧ Plain s 2 [((rowSpan s 0 0 2 0 0 1).1, 8 * 4)]
    ∧ Sound s [((rowSpan s 0 0 2 0 0 1).1, 8 * 4)] ∧ bit (capMask s 0) 47 = true
    ∧ ownedOk s 0 0 (rowSpan s 0 0 2 0 0 1).1 32 = true ∧ g.clear.find? (·.id == s.cur.val) = some q ∧ (0 : Nat) ∈ channelsOf g ∧ (2 ^ 64 - 1 : Nat) < 2 ^ 64 := by
  unfold Plain Sound ScalesPlain; decide +kernel
/-- EpilogueSelect: a program of one store and its end, in the image of an array region. -/
theorem test_witness_program : let s : State := { arrState (arrReg 0 0 0) with cfg := [(0, 7), (3, 0x70)] }
    let ws := progWords ((List.range 64).map fun i => imageWord s 0 placedRun (4 * i))
    MayControl s placedRun 0 ∧ placedRun.len < 4 * 2 ^ 20 + 4 ∧ 4 * 0 + 4 ≤ placedRun.len ∧ min 64 ((placedRun.len - 4 * 0) / 4) = 64 ∧ ws = [0x70000007, 0] ∧ (∀ w ∈ ws, w / 2 ^ 27 ≠ 0x0C) ∧ imageBad s 0 placedRun 0 8 = false
    ∧ progFault s 0 0 (hArray (getReg s 0).hdr.toNat) ws true = none := by
  unfold MayControl; decide +kernel

/-! ## Witnesses: drains, the epilogue and the copy engine -/

/-- A drain of two rows of the accumulators of `arrState`, with a program that stores, in progress; its core. -/
def aDrain : Drain := { id := 3, core := 0, slot := 0, acTid := 2, outTid := 1, mxe := false, rows := 2, h0 := 0, o0 := 0, ctr := 0xFFFFFFF, start := some 4, prog := [0] }
def drainState (d : Drain := aDrain) (outs : List BeatOut := []) (beat : Option (Nat × Nat) := none) : State :=
  let s := arrState (arrReg 0 0 0)
  let s := setCore s 0 { getCore s 0 with drains := [d], outs := outs, beat := beat }
  { s with cur := { ix := 1, val := 3 } }
/-- DrainSteps: a drain that waits, a beat that reads, a store of one element, and an end with and without an object. -/
theorem test_witness_drain : let d := { aDrain with start := none }
    let o : BeatOut := { drain := 3, beat := 1, stores := [(1, 0, 0, 5)] }
    let s := drainState aDrain [o]
    (∀ x ∈ (getCore (drainState d) 0).drains, x.busy = true → x.id = 3) ∧ d.start = none ∧ d.busy = false ∧ d.core = 0
    ∧ (getCore s 0).drains.find? (·.id == 3) = some aDrain ∧ progPairs aDrain.prog = false ∧ biasTids aDrain.prog = []
    ∧ (tidOf s 0 0 2).shrc = false ∧ spanFenced s 0 (beatSpans s aDrain 1) = false ∧ Sound s (beatSpans s aDrain 1)
    ∧ ownedOk s 0 0 ((rowSpan s 0 0 2 0 (beatRow s aDrain 1) 1).1 + beatCol s aDrain 1 * laneBytes s aDrain) ((liveLanes s aDrain 1).length * laneBytes s aDrain) = true
    ∧ outOf s 0 3 1 = some o ∧ o.byps = [] ∧ o.stores = [(1, 0, 0, 5)]
    ∧ regChorus s 0 (getReg s 0) = false ∧ spanFenced s 0 (storeSpans s 0 0 o) = false ∧ (elemPlace s (whoReg 0 (getReg s 0)) 1 0 0 true .epilogue).isOk = true
    ∧ eccOf s spPlace.addr 8 = 0 ∧ 8 ≤ width (tidOf s 0 0 1).fmt ∧ (getReg s 0).faults = [] ∧ ({ aDrain with ctr := 1 } : Drain).ctr ≠ 0xFFFFFFF ∧ beatsOf s { aDrain with stored := 2 } ≤ 3 := by
  unfold Sound; decide +kernel
/-- DrainSteps: a beat whose program adds a bias in each of its eight lanes, a beat of a pair, and a store of two lanes. -/
theorem test_witness_lanes : let d : Drain := { aDrain with prog := [0x28000001, 0] }
    let p : Drain := { aDrain with prog := [0x6800000B, 0] }
    let o : BeatOut := { drain := 3, beat := 1, stores := [(1, 0, 0, 5), (1, 1, 0, 6)] }
    let s := drainState d [o]
    let pl (z : Nat × Nat × Nat × Nat) : Place := ⟨.dev, spPlace.addr + 2 * z.2.1⟩
    let w := whoReg 0 (getReg s 0)
    biasTids d.prog = [1] ∧ liveLanes s d 1 = [0, 1, 2, 3, 4, 5, 6, 7] ∧ (∀ l ∈ liveLanes s d 1, elemCode s w 1 (beatCol s d 1 + l) 0 .epilogue = .ok 0)
    ∧ (accessOf s w (tidOf s 0 0 2) (beatCol s d 1 + (tidOf s 0 0 2).dim 0 * beatRow s d 1 : Nat) 0 ((liveLanes s d 1).length * laneBytes s d) 4 false false .epilogue).isOk = true
    ∧ max 1 (width (tidOf s 0 0 2).fmt / 8) = 4 ∧ Sound s (beatSpans s d 1) ∧ spanFenced s 0 (beatSpans s d 1) = false ∧ progPairs d.prog = false
    ∧ progPairs p.prog = true ∧ biasTids p.prog = [] ∧ outOf s 0 3 1 = some o ∧ spanFenced s 0 (storeSpans s 0 0 o) = false
    ∧ (∀ z ∈ o.stores, elemPlace s w z.1 z.2.1 z.2.2.1 true .epilogue = .ok (0x100000 + 2 * z.2.1, 0, pl z) ∧ eccOf s (pl z).addr 2 = 0)
    ∧ width (tidOf s 0 0 1).fmt = 8 * 2 ∧ 8 * (pl (1, 0, 0, 5)).addr + 0 + 16 ≤ 8 * (pl (1, 1, 0, 6)).addr + 0 := by
  unfold Sound; decide +kernel
/-- EpilogueWords, EpilogueEffects: a beat of the drain and one of MX pairs; formats of each kind. -/
theorem test_witness_epilogue : let b : Beat := ⟨0, aDrain, 1, false⟩
    let s := drainState aDrain [] (some (3, 1))
    OnBeat s b ∧ (15 : Nat) < 16 ∧ intRange 0 = some (-128, 127) ∧ aDrain.mxe = false ∧ (∀ l, (tget (getCore s 0).exps 0 l).toNat = 0)
    ∧ (tidOf s 0 0 2).fmt = 0x06 ∧ (∀ l ∈ beatLanes s b, l < 16) ∧ (getCore s 0).beatEvents = [] ∧ isMx 0 = false ∧ isMx 0x0B = true
    ∧ (tidOf { s with tids := s.tids ++ [(28, BitVec.ofNat 64 (4 * 2 ^ 59))] } 0 0 7).fmt = 0x04
    ∧ (rrev false false 0 0).value = some 0 ∧ (rrev false false 0 0).event = none
    ∧ (let m := { aDrain with mxe := true }; OnBeat (drainState m [] (some (3, 1))) ⟨0, m, 1, false⟩) := by
  refine ⟨by unfold OnBeat; decide +kernel, by decide, by decide, by decide, fun l => by rfl, by decide +kernel, by decide +kernel, by decide +kernel, by decide,
    by decide, by decide +kernel, by decide +kernel, by decide +kernel, by unfold OnBeat; decide +kernel⟩
/-- The words of a copy entry. -/
def copyRow (w0 w1 w2 w3 : Nat) : List W64 := [w0, w1, w2, w3].map (BitVec.ofNat 64)
/-- The words of a FILL of a tile of TID 5 by 7, without phaser or object, and its entry. -/
def aFill : List W64 := copyRow 0x20000000FF05FF00 7 0 0x000000FFFFFFFFFF
def aFillEnt : CopyEnt := copyEntOf 0x20000000FF05FF00 7 0 0x000000FFFFFFFFFF
/-- Core 0 with a copy-engine block whose schedule is l, and a journal. -/
def copyState (l : List W64) (j : List JEntry := []) : State :=
  { withTid { State.reset with runs := [(4, placedRun)], nextId := 9 } 5 spTid with copiers := [(0, { nent := 1, sched := [l], journal := j })] }
/-- An entry of words l in its journal, with what it still writes and reads. -/
def aEntry (l : List W64) (left waiting : List Nat := []) : JEntry :=
  { no := 9, index := 0, words := l, bank := 0, dests := [0], gen := 1, ctr := 0xFFFFFFF, phaser := 0xFFF, bytes := 8, left := left, waiting := waiting }
/-- CopyIssue: a fill that issues, with a phaser that is live, that is not, and that is full; and entries that fail each check, with an object and without. -/
theorem test_witness_copy : let s := copyState aFill
    let e := aEntry aFill [0x100000] []
    let ph : CopyEnt := copyEntOf 0x20000000FF05FF00 7 0 0x000000005FFFFFFF
    let p := copyState (copyRow 0x20000000FF05FF00 7 0 0x000000005FFFFFFF)
    Considers s placedRun 2 aFillEnt ∧ copyOk s 0 0 2 aFillEnt = true ∧ aFillEnt.rows = 0 ∧ aFillEnt.ph = 0xFFF ∧ (tidOf s 0 0 5).phaser = 0xFFF
    ∧ e.no = s.nextId ∧ e.words = (getCopier s 0).sched.getD 0 [] ∧ e.gen = (getCopier s 0).gen ∧ e.idx = [] ∧ ccReads (ccOf s 0 placedRun e) = e.waiting
    ∧ ccItems s (ccOf s 0 placedRun e) = e.left ∧ (tidOf s 0 0 5).space ≠ 3 ∧ aFillEnt.ctr = 0xFFFFFFF ∧ copyOk s 0 0 2 { aFillEnt with stid := 0 } = false
    ∧ ({ aFillEnt with stid := 0, ctr := 7 } : CopyEnt).ctr ≠ 0xFFFFFFF ∧ Considers p placedRun 2 ph ∧ copyOk p 0 0 2 ph = true ∧ ph.ph = 5
    ∧ (getPh p 5).live = false ∧ (getPh { p with phasers := [(5, { live := true, pending := 8 })] } 5).pending + 8 < 2 ^ 36
    ∧ 2 ^ 36 ≤ (getPh { p with phasers := [(5, { live := true, pending := 2 ^ 36 - 8 })] } 5).pending + 8 ∧ placedRun.chorus = false := by
  unfold Considers; decide +kernel
/-- CopyIssue: a conversion with stochastic rounding on a core without generators, and a cast to a logical core that the gang does not have. -/
theorem test_witness_copy_fails : let row (f : Nat) : List Nat := [f * 2 ^ 59 + 0x100000, 0x0001000100010040, 0, 0xFFF * 2 ^ 20 + 2 ^ 3]
    let w3 := 0x000078FFFFFFFFFF
    let c := copyEntOf 0x300000000607FF00 0 0 w3
    let s := copyState (copyRow 0x300000000607FF00 0 0 w3)
    let s : State := { setCore s 0 { getCore s 0 with capClr := BitVec.ofNat 64 (2 ^ 38) } with tids := tidEntry 6 (row 6) ++ tidEntry 7 (row 7) }
    let m := copyEntOf 0x000000000505FF00 0 0 0x010100FFFFFFFFFF
    let u := copyState (copyRow 0x000000000505FF00 0 0 0x010100FFFFFFFFFF)
    Considers s placedRun 3 c ∧ copyOk s 0 0 3 c = true ∧ c.cvtRm = 2 ∧ c.cvtScale = 0 ∧ (tidOf s 0 0 7).fmt ≠ 0x0F ∧ bit (capMask s 0) 38 = false
    ∧ Considers u placedRun 0 m ∧ copyOk u 0 0 0 m = true ∧ m.rows ≠ 0 ∧ 0 ∈ castLcs m ∧ nlcOf u placedRun.scene placedRun.gslot = 0 := by
  unfold Considers; decide +kernel
/-- Pages that a core's TLB holds are not brought in anew. -/
theorem foldl_tlbFill (s : State) (core part : Nat) (l : List Nat) (h : ∀ a ∈ l, tlbFill s core part a = s) :
    l.foldl (fun s a => tlbFill s core part a) s = s := by
  induction l with
  | nil => rfl
  | cons a l ih => rw [List.foldl_cons, h a (.head l)]; exact ih fun b hb => h b (.tail a hb)
/-- CopyIssue: a fill of a tile in DRAM, whose page a TLB holds, is eligible for the caravan. -/
theorem test_witness_eligible : let l := copyRow 0x20000000FF05FF00 7 0 0x000000FFFFFFFFFF
    let s : State := { copyState l with
      tids := tidEntry 5 [5 * 2 ^ 59 + 3 * 2 ^ 56 + 0x100000, 0x0001000100010040, 0, 0xFFF * 2 ^ 20 + 2 ^ 3]
      coreTlb := [(0, [⟨0, 0x100000, 12, 0x200000, true, true, false, false⟩])] }
    let e := aEntry l [0x100000] []
    let c := ccOf s 0 placedRun e
    Considers s placedRun 2 aFillEnt ∧ copyOk s 0 0 2 aFillEnt = true ∧ ccItems s c = e.left ∧ inCaravan s c (e.waiting ++ e.left) = e.left
    ∧ AllEligible s c (e.waiting ++ e.left) := by
  intro l s e c
  refine ⟨by unfold Considers; decide +kernel, by decide +kernel, by decide +kernel, by decide +kernel, by decide +kernel, fun l h u hu => ?_⟩
  rw [foldl_tlbFill s _ _ l fun a ha => ?_]
  · obtain rfl : u = 0x100000 := by simpa [inCaravan, e, aEntry] using (List.mem_filter.mp hu).1
    exact ⟨by decide +kernel, by decide +kernel, 0x100000, 0, ⟨.dev, 0x200000⟩, by decide +kernel, by decide +kernel, fun _ => .inl (by decide +kernel)⟩
  · obtain ⟨u, hu, x, hx, rfl⟩ := h a ha
    obtain rfl : u = 0x100000 := by simpa [inCaravan, e, aEntry] using (List.mem_filter.mp hu).1
    clear ha
    revert x
    decide +kernel
/-- CopySteps: a write of a fill and a read of a copy that are ready, and the completion. -/
theorem test_witness_transfer : let e := aEntry aFill [0x100000] []
    let s : State := { copyState aFill [e] with cur := { ix := 9, val := 0x100000 } }
    let c := ccOf s 0 placedRun e
    let l := copyRow 0x000000000505FF00 0 0 0x000000FFFFFFFFFF
    let d := aEntry l [0x100000] [2 ^ 60 + 0x100000]
    let u : State := { copyState l [d] with cur := { ix := 9, val := 2 ^ 60 + 0x100000 } }
    let x := xferOf u (ccOf u 0 placedRun d) (2 ^ 60 + 0x100000)
    runOf s 0 4 = some placedRun ∧ getEntry s 0 9 = some e ∧ (0x100000 : Nat) ∈ e.left ∧ (0x100000 : Nat) ∉ e.waiting ∧ isRead 0x100000 = false ∧ c.kind = 2
    ∧ c.dt.space ≠ 3 ∧ (tidOf s 0 0 5).shrc = false ∧ 0 < width (tidOf s 0 0 5).fmt ∧ (tidOf s 0 0 5).space ≤ 2 ∧ e.failAfter = none ∧ itemKs s c 0x100000 = [0] ∧ lookup e.ready 0x100000 = none ∧ itemElem s c 0x100000 0 = some (ccDst c 0)
    ∧ outside 0x100000 = false ∧ 0x100000 ≠ commitItem ∧ (ccOf s 0 placedRun { e with words := copyRow 0x5000000005FFFF00 0 0 0 }).kind = 5 ∧ isScale 0x100000 = false
    ∧ accessOf s (ccWho c 0) (tidOf s 0 0 5) (ccDst c 0) 0 8 8 false true .copy = .ok (0x100000, 0, spPlace) ∧ bankFenced s spPlace 8 = false
    ∧ eccOf s (spPlace.addr / 64 * 64) 64 = 0 ∧ dstCode c 0 = 7 ∧ e.performed = false ∧ e.discarded = false
    ∧ getEntry u 0 9 = some d ∧ 2 ^ 60 + 0x100000 ∈ d.waiting ∧ isRead (2 ^ 60 + 0x100000) = true ∧ 2 ^ 60 + 0x100000 ≠ scaleOut ∧ x.t.shrc = false ∧ x.t.space ≤ 2
    ∧ x.es = [0] ∧ xferPlace u x 0 = .ok (0x100000, 0, spPlace) ∧ d.left ≠ [] := by decide +kernel
/-- CopySteps: slots of a reservation, of best effort and of maintenance, with accesses of each. -/
theorem test_witness_caravan : let a (r : Nat) : Access := { id := 1, store := false, core := 0, entry := none, req := none, unit := 0, pa := 0, rid := r, part := 0, cluster := 0 }
    let s (r w : Nat) : State := { State.reset with dram := [a r], slots := [(0, BitVec.ofNat 16 w)] }
    let here (s : State) (x : Access) : Bool := channelOf x.pa == s.cur.ix && !x.served && !pathDown s (.core x.core) (.die (s.cur.ix / 4)) && !pathDown s (.die (s.cur.ix / 4)) (.core x.core)
    (s 5 0x8005).dram.find? (fun x => here (s 5 0x8005) x && x.rid == 5) = some (a 5) ∧ (0x8005 : Nat).testBit 15 = true ∧ (0x8005 % 256 : Nat) ≠ 0
    ∧ (s 0 0).dram.find? (fun x => here (s 0 0) x && (x.rid == 0 && fits (s 0 0) x)) = some (a 0) ∧ (0 : Nat) % 32 ≠ 31 ∧ (31 % 256 : Nat) % 32 = 31
    ∧ State.reset.dram = [] ∧ State.reset.cur.flag = false := by decide +kernel

/-! ## Witnesses: jobs, scenes, heartbeats and resume -/

/-- Stream 0 with a pending job 4 of a kind, of partition 0, for scene 7 and gang 3, beside scenes and the memory of `pageMem`. -/
def aJob (kind : Nat) : Job := { words := [0, BitVec.ofNat 64 (kind * 2 ^ 60 + 3 * 2 ^ 40 + 7 * 2 ^ 24), 0, 0x20000] }
/-- The tables of an identity map of 2 MiB under root page 16, and, at 0x20000, the header of a scene of id 7 that holds nothing. -/
def pageMem : List Host.Cell :=
  [(0x10000, 1), (0x10001, 0x10), (0x10002, 1), (0x11000, 1), (0x11001, 0x20), (0x11002, 1), (0x12000, 0x23), (0x20004, 7), (0x20006, 1), (0x20008, 0x40)]
def jobState (kind : Nat) (xs : Tab Scene := []) (enable : Bool := true) : State :=
  { State.reset with
    mgmt := { stage := 6 }, parts := [(0, { enable := enable, root := 16, rootEn := true })], mem := pageMem, scenes := xs, nextId := 5
    streams := [(0, { en := true, pending := some 4 })], jobs := [(4, aJob kind)] }
/-- A loaded scene of id 7 with a gang of id 3, running or not. -/
def aScene (running : Bool := false) : Scene :=
  { live := true, loaded := true, id := 7, running := running, gangs := [{ id := 3, nlc := 1, phase := 0, chor := 0, skew := 0, words := [] }] }
/-- SceneStarts, GangLaunches, SceneChanges, SceneStops: a job of each kind for a scene that is loaded, idle and running. -/
theorem test_witness_jobs : (∀ k ∈ [0, 1, 2, 3, 4, 5], Admits (jobState k [(0, aScene)]) k (aJob k) 4)
    ∧ sceneById (jobState 0 [(0, aScene)]) 0 (jScene (aJob 0)) = some 0 ∧ (aScene).running = false ∧ launching (jobState 0 [(0, aScene)]) 0 = false
    ∧ sceneRtc (getScene (jobState 0 [(0, aScene)]) 0) = false ∧ gangsById (jobState 1 [(0, aScene)]) 0 (jGang (aJob 1)) = [(0, 0)]
    ∧ lookup ({ jobState 1 [(0, aScene)] with launches := [(0, ⟨0, 0, 0, [], 4⟩)] } : State).launches 0 = some ⟨0, 0, 0, [], 4⟩
    ∧ runningScene (jobState 2 [(0, aScene), (1, aScene true)]) 0 0 = some 1 ∧ runningScene (jobState 2 [(0, aScene)]) 0 0 = none
    ∧ (getScene (jobState 2 [(0, { aScene true with change := some (1, 0, some 4) }), (1, aScene)]) 0).change = some (1, 0, some 4)
    ∧ (aScene).recover = false ∧ (aScene true).running = true := by
  unfold Admits; decide +kernel
/-- Rejections: a job of each kind for a scene that is not loaded, one that runs, and a partition without enable; an unload that a change names. -/
theorem test_witness_rejections : (∀ k ∈ [0, 1, 2, 3, 5], Admits (jobState k) k (aJob k) 4) ∧ Admits (jobState 4 [] false) 4 (aJob 4) 4
    ∧ sceneById (jobState 0) 0 7 = none ∧ gangsById (jobState 1) 0 3 = [] ∧ (getPart (jobState 4 [] false) 0).enable = false
    ∧ sceneById (jobState 0 [(0, aScene true)]) 0 7 = some 0
    ∧ ∃ y ∈ [(0, aScene), (1, { aScene true with change := some (0, 0, none) })], ∃ c, y.2.change = some c ∧ c.1 = 0 := by
  refine ⟨by unfold Admits; decide +kernel, by unfold Admits; decide +kernel, by decide, by decide, by decide, by decide, ?_⟩
  exact ⟨(1, { aScene true with change := some (0, 0, none) }), by decide, (0, 0, none), by decide⟩
/-- JobCompletion: a job whose object is held. RecordReads: a record that is read, one that is rejected, one that is unreadable, a doorbell past the ring, a
device record. -/
theorem test_witness_records : let s (b : Nat) (w : Nat) : State := { jobState 0 with streams := [(0, { en := true, rbase := BitVec.ofNat 64 b, wridx := w })] }
    let rec_ (b : Nat) : Job := { words := (List.range 8).map fun i => w64 (leNat (((readVa (s b 1) 0 b 1).2.getD [] |>.drop (8 * i)).take 8)) }
    jCpl (aJob 0) % 16 = 0 ∧ jCpl (aJob 0) < 2 ^ 32 ∧ (objAt { jobState 0 with sync := [(0, 1)] } 0).isSome = true
    ∧ stopped (s 0x30000 1) 0 = false ∧ (readVa (s 0x30000 1) 0 0x30000 1).2.isSome = true ∧ (readVa (s 0x300000 1) 0 0x300000 1).2 = none
    ∧ recordBad 1 (rec_ 0x30000) false = false ∧ recordBad 1 (rec_ 0x20000) false = true ∧ (2 ^ 4 < (17 + 2 ^ 32 - 0) % 2 ^ 32)
    ∧ recordBad 1 { words := [0, BitVec.ofNat 64 (2 ^ 60)] } true = false := by decide +kernel
/-- LoadsAndUnloads: a load whose image is read and placed, one whose image is rejected, an unload. -/
theorem test_witness_loads : let s (b : Nat) : State := jobState 4 [(0, { live := true, base := b, job := some 4 })]
    (s 0x20000).cur.ix = 0 ∧ isOverflow (s 0x20000) 0 (jCpl (aJob 4)) = false ∧ (0x20000 : Nat) % 64 = 0
    ∧ (match readScene (s 0x20000) 0 0x20000 with
      | (s0, .ok y) => (placeScene s0 0 { y with base := 0x20000 }).isOk
      | (_, .error _) => false) = true
    ∧ (readScene (s 0x30000) 0 0x30000).2.isOk = false ∧ (aScene).loaded = true ∧ ({ aScene with unloading := true } : Scene).unloading = true := by decide +kernel
/-- The words of a scene image of id 7: a gang of one core, a region cue of one block, whose variant is the last 64 bytes, and TID 7 in DRAM (R40, R63, R75, R76, R79). -/
def sceneWords : List Nat :=
  [2 ^ 48 + 7 * 2 ^ 32, 1000 * 2 ^ 32 + 448, 2 ^ 32 + 2 ^ 16, 3 * 2 ^ 32, 3 * 2 ^ 32 + 2 ^ 16, 4 * 2 ^ 32 + 2 ^ 24, 5 * 2 ^ 32 + 2 ^ 16, 6 * 2 ^ 32]
  ++ [2 ^ 35, 2 ^ 52 + 0xFFF * 2 ^ 40 + 0xFFFF * 2 ^ 16, 100, 0, 0, 0, 0, 0] ++ [0, 0, 0, 0, 0, 0, 0, 0]
  ++ [2 ^ 52, 0, 9 * 2 ^ 32 + 6, 0, 0, 0, 0, 0] ++ [3 * 2 ^ 56 + 2 ^ 48 + 2 ^ 20, 0, 0, 0, 0, 0, 0, 0]
  ++ [7, 5 * 2 ^ 59 + 3 * 2 ^ 56 + 2 ^ 52 + 0x100000, 0x0001000100010040, 0, 0xFFF * 2 ^ 20 + 2 ^ 3, 0, 0, 0] ++ [0, 0, 8 * 2 ^ 32, 0, 0xC8000000, 0, 0, 0]
/-- LoadWrites: that image read for a real-time partition and placed, with its gang, cue, TID record, variant and pinned page. -/
theorem test_witness_load_writes : let l : List Byte := sceneWords.flatMap (leBytes 8)
    let s : State := { jobState 4 with
      parts := [(0, { rt := true, enable := true, root := 16, rootEn := true })]
      mem := (pageMem.take 6) ++ (0x12000, 0xA3) :: ((l.zipIdx 0x20000).filter (·.1 != 0)).map fun x => (x.2, x.1) }
    (match readScene s 0 0x20000 with
      | (s0, .ok x) => (match placeScene s0 0 { x with base := 0x20000 } with
        | .ok s1 => x.gangs.length == 1 && (placedCues (getScene s1 0)).length == 1 && x.tids.length == 1 && dramPages x == [256]
            && (getScene s1 0).gangs.all (·.resident) && (blockOfId (getScene s1 0) 1).isSome && s.cfgImages.isEmpty && s1.pinned.length == 1
        | .error _ => false)
      | (_, .error _) => false) = true := by decide +kernel
/-- Recovery: a scene whose gangs are re-placed, one with a gang that finds no core, and one with nothing marked. -/
theorem test_witness_recovery : let g : Gang := { id := 3, nlc := 1, phase := 0, chor := 0, skew := 0, words := [⟨0, 0, 0, false, 0, 0, 0⟩], recover := true }
    let x (gs : List Gang) : Scene := { aScene true with gangs := gs }
    (recoverScene (jobState 0 [(0, x [])]) 0).2 = true
    ∧ (recoverScene { jobState 0 [(0, x [g])] with regions := (List.range 64).map fun c => (4 * c + 1, { placed := true, part := 1, pw := 4, ph := 4 }) } 0).2 = false
    ∧ (∀ h ∈ (aScene true).gangs, h.recover = false ∧ (h.resident = true → ∀ w ∈ h.words, wordStale (jobState 0) h w = false)) := by decide +kernel
/-- Heartbeats: no gang waits, and threads at a FENCE.SC whose drain had ended and had not. Resumes: a gang with an image, whole and damaged, that is ready. -/
theorem test_witness_heartbeats : let t : Thread := { thr with wait := .fenceSc [] true }
    let g : Gang := { id := 3, nlc := 1, phase := 0, chor := 0, skew := 0, words := [], resident := false }
    let m (ps : List Nat) : Image := anImage ps
    let s (ps : List Nat) : State := { jobState 0 [(0, { aScene with gangs := [g] })] with images := [m ps] }
    readyGangs (one t) = [] ∧ (∀ x ∈ (one t).scenes, ∀ g ∈ x.2.gangs, g.preempt = 0) ∧ getTh (one t) 0 = t ∧ runOf (one t) 0 0 = some placedRun
    ∧ (let u : Thread := { thr with wait := .fenceSc [4] false }; getTh (one u) 0 = u ∧ u.wait = .fenceSc [4] false)
    ∧ (0, 0) ∈ readyGangs (s []) ∧ g.resident = false ∧ (getScene (s []) 0).gangs[0]? = some g
    ∧ imageDamaged (s [1]) (m [1]) = true ∧ imageDamaged (s []) (m []) = false
    ∧ (match placeAgain (s []) 0 0 with
      | .ok (s1, g1) => (moveGang s1 0 0 { g1 with resident := true, heldSince := 0 }).isSome
      | .error _ => false) = true := by decide +kernel
/-- Resumes: a ready gang that finds no core, and one whose pages cannot be pinned where it would come back. -/
theorem test_witness_no_room : let g : Gang := { id := 3, nlc := 1, phase := 0, chor := 0, skew := 0, words := [⟨0, 0, 0, true, 0, 0, 0⟩], resident := false }
    let s (cores : Nat) : State := { jobState 0 [(0, { aScene with gangs := [g], tids := [(7, [7 * 2 ^ 59 + 3 * 2 ^ 56, 0x0001000100010040, 0, 0xFFF * 2 ^ 20 + 2 ^ 3])] })] with
        images := [anImage []], regions := (List.range cores).map (fun c => (4 * c + 1, { placed := true, part := 1, pw := 4, ph := 4 })), parts := [(0, { rt := true })] }
    (0, 0) ∈ readyGangs (s 1) ∧ (0, 0) ∈ readyGangs (s 64) ∧ imageDamaged (s 1) (anImage []) = false
    ∧ (placeAgain (s 64) 0 0).isOk = false
    ∧ (match placeAgain (s 1) 0 0 with
      | .ok (s1, g1) => (moveGang s1 0 0 { g1 with resident := true, heldSince := 0 }).isNone
      | .error _ => false) = true := by decide +kernel

/-! ## Witnesses: management, containment and power -/

/-- PartitionRegisters, OwnerTables: a partition with a scene loaded and without one, a core with a region and without one, partition words that R98 accepts
and refuses, owned and free entries, and a reservation that a loaded schedule names. -/
theorem test_witness_tables : partLoaded (jobState 0) 0 = false ∧ partLoaded (jobState 0 [(0, aScene)]) 0 = true
    ∧ (∀ sl, sl < 4 → (getReg State.reset (thKey 0 sl)).placed = false) ∧ (getReg (one thr) 0).placed = true ∧ partwordOk 0x00413004 = true
    ∧ spTgt 0x00413004 = 2 ∧ partwordOk 0 = false ∧ (∀ p, partLoaded State.reset p = false)
    ∧ ownerOf (tget ({ jobState 0 [(0, aScene)] with dieOwners := [(0, 0x80)] } : State).dieOwners 0 0).toNat = some 0
    ∧ slotInUse State.reset 0 = false ∧ ridNamed State.reset 5 = false
    ∧ (let b : Block := { aBlock with ekind := 1 }
       let l : List Byte := [0, 2 ^ 48, 2 ^ 32, 0, 0x20000000FF05FF05, 7, 0, 0xFFFFFFFFFF].flatMap (leBytes 8)
       let s : State := { State.reset with
         scenes := [(0, { aScene with blocks := [b] })], cfgImages := [(0, 0, 4, 0, 64)], slots := [(0, 0x8005)]
         cfg := (l.zipIdx.filter (·.1 != 0)).map fun x => (x.2, x.1) }
       ridNamed s 5 = true ∧ slotInUse s 0x8005 = true)
    ∧ allotOk State.reset 3 0 (64 + 100 * 65536) 0 = true ∧ State.reset.cur.flag = false := by
  refine ⟨by decide, by decide, by decide, by decide, by decide, by decide, by decide, fun p => by rfl, by decide, by decide, by decide, by decide +kernel, by decide, by decide⟩
/-- Invalidations, StreamRegisters: an invalidation in progress and none; a stream with EN and without it, in a reset and out of one. -/
theorem test_witness_registers : State.reset.mgmt.tlbBusy = false ∧ ({ tlbBusy := true } : Mgmt).tlbBusy = true
    ∧ (getPart State.reset 0).flrStart = none ∧ (getStream State.reset 0).en = false ∧ bit (2 ^ 30) 30 = true ∧ (getStream (jobState 0) 0).en = true
    ∧ ({ flrStart := some 1 } : Part).flrStart ≠ none := by decide
/-- Mailbox, RegisterWrites: addresses of memory, of a register and of nothing; a port that is up and one that is down. -/
theorem test_witness_mailbox : boxOf State.reset 0x1000 = .mem 0x1000 ∧ poolCore 0x1000 = none
    ∧ boxOf State.reset Config.poolBase = .mem Config.poolBase ∧ poolCore Config.poolBase = some 0 ∧ boxOf State.reset (Config.regBase + 8 * 0x400) = .special 0x400
    ∧ boxOf State.reset (dramSize State.reset) = .nothing ∧ State.reset.mgmt.portB = none ∧ ({ portB := some (1, 1) } : Mgmt).portB.isSome = true := by decide +kernel
/-- PortsAndWindow: a window access, a port that is up, a watchdog that has run out, and change requests that are taken and refused. -/
theorem test_witness_window : let s : State := { jobState 0 [(0, aScene), (1, { aScene true with id := 8 })] with
        mgmt := { stage := 5, portA := some (4, 64), portB := some (1, 64), wdTimeout := 9 }, tb := { ticks := 9 }, cur := { data := [1, 2], val := 7 } }
    5 ≤ s.mgmt.stage ∧ s.mgmt.portA.isSome = true ∧ s.mgmt.portB.isSome = true ∧ s.cur.ix + s.cur.data.length ≤ dramSize s ∧ eccOf s 0 2 = 0
    ∧ s.mgmt.wdTimeout ≠ 0 ∧ (s.mgmt.wdTimeout : Int) ≤ since s s.mgmt.wdStart ∧ sceneById s 0 7 = some 0 ∧ runningScene s 0 0 = some 1
    ∧ (getScene s 1).change = none ∧ sceneById s 0 9 = none := by decide +kernel
/-- FunctionReset, Fencing: each state of a reset with requests and without; a unit whose count has reached the threshold, fenced and not. -/
theorem test_witness_containment : let p (st : Nat) : Part := { flrStart := some 1, flrState := st }
    (getPart State.reset 1).flrStart = none ∧ (getPart State.reset 0).flrStart = none ∧ (p 1).flrStart.isSome = true ∧ (p 1).flrState = 1 ∧ (p 2).flrState = 2 ∧ partRequests State.reset 1 = 0
    ∧ partRequests { State.reset with reqs := [{ anAsk true spPlace with part := 1 }] } 1 ≠ 0 ∧ capMask State.reset 0 ≠ 0
    ∧ (let s := setCore State.reset 0 { resK0 := [(4, 16)] }
       s.mgmt.resthr ≤ tget (getCore s 0).resK0 0 4 ∧ bit (capMask s 0) 36 = true ∧ (∀ j, j < 5 → j ≠ 4 → bit (capMask s 0) (32 + j) = true)
       ∧ tget (getCore s 0).resK0 0 3 < s.mgmt.resthr)
    ∧ (let s := setCore State.reset 0 { resK0 := [(0, 16), (4, 16)], capClr := BitVec.ofNat 64 (2 ^ 32) }
       s.mgmt.resthr ≤ tget (getCore s 0).resK0 0 4 ∧ bit (capMask s 0) 36 = true ∧ bit (capMask s 0) 32 = false ∧ s.mgmt.resthr ≤ tget (getCore s 0).resK0 0 0)
    ∧ (∃ x ∈ [(0, { aScene with gangs := [{ id := 3, nlc := 1, phase := 0, chor := 0, skew := 0, words := [⟨0, 0, 0, true, 0, 0, 0⟩] }] })],
        x.2.live = true ∧ x.2.loaded = true ∧ ∃ g ∈ x.2.gangs, ∃ w ∈ g.words, w.core = 0) := by decide +kernel
/-- Retrains, EmergencySave, PowerAndBoot: a module that retrains and one that does not; a save that may start, with an area and without, at its first and last
unit; each stage of bring-up. -/
theorem test_witness_power : retrains State.reset 11 = false ∧ 11 ∉ State.reset.linksOut
    ∧ retrains { State.reset with links := [(11, (3, 0))] } 11 = true ∧ 0 < ticks { State.reset with tb := { ticks := 5 } }
    ∧ State.reset.mgmt.pwrgood = true ∧ State.reset.mgmt.saving = none ∧ State.reset.mgmt.halted = false ∧ State.reset.mgmt.saveEn = false
    ∧ ({ saveEn := true } : Mgmt).saveEn = true ∧ saveAddr State.reset + saveSpan ≤ dramSize State.reset
    ∧ ({ saving := some (4, 0x163, 2 ^ 0 - 1) } : Mgmt).saving = some (4, 0x163, 2 ^ 0 - 1)
    ∧ ({ saving := some (4, 0x163, 2 ^ 19 - 1) } : Mgmt).saving = some (4, 0x163, 2 ^ 19 - 1) ∧ State.reset.mgmt.stage + 1 = 1
    ∧ ({ stage := 3 } : Mgmt).stage = 3 ∧ ({ stage := 4 } : Mgmt).portB = none ∧ ({ locked := true } : TimeBase).locked = true
    ∧ State.reset.mgmt.otpDebug = false := by decide +kernel

/-- Mailbox, PortsAndWindow, FunctionReset, PowerAndBoot: a word of an engine's SRAM, an address with an error, a module to a die that is up and one that retrains, a
reset during a save, widths that a port trains to, and stages that complete and that fail, each with stage 0 before it. -/
theorem test_witness_boot : let s (b : Bool) (ix : Nat) (fl : Bool) (data : List Byte) : State :=
      { State.reset with mgmt := { stage0 := b, stage := ix - 1 }, cur := { ix := ix, flag := fl, data := data } }
    boxOf State.reset (Config.syncBase + 0x1FFFF8) = .sram 0 0x1FFFF8 ∧ boxOf State.reset (Config.syncBase + 3 * 0x200000) = .sram 3 0
    ∧ 2 ≤ eccOf { State.reset with ecc := [(0x1000 / 32, 2)] } 0x1000 8
    ∧ moduleDown State.reset (8 + channelOf 0 / 4) = false ∧ moduleDown { State.reset with links := [(8, (3, 0))] } (8 + channelOf 0 / 4) = true
    ∧ ({ saving := some (4, 0x163, 0) } : Mgmt).saving.isSome = true ∧ State.reset.mgmt.saving = none
    ∧ State.reset.mgmt.stage0 = false ∧ (s false 0 false []).cur.ix = 0 ∧ (s true 1 true [1]).cur.data ≠ []
    ∧ (s true 1 true [1]).cur.int.toNat = (s true 1 true [1]).mgmt.otpKey ∧ (s true 1 true [1]).mgmt.otpRollback ≤ (s true 1 true [1]).cur.val
    ∧ (s true 1 true []).cur.data = [] ∧ (s true 3 false []).cur.ix = (s true 3 false []).mgmt.stage + 1 ∧ (s true 3 false []).cur.flag = false
    ∧ (∀ w ∈ [16, 8], w = 16 ∨ w = 8) ∧ ¬ ((4 : Nat) = 16 ∨ 4 = 8) := by decide +kernel

/-! ## Witnesses: the machine as a whole -/

/-- StepRunsDecoded: the states of `withFetchWord`, whose next step is the turn of each kind of agent. -/
theorem test_witness_step : let s := State.reset.withFetchWord 32 0x00000000
    ∃ core slot rest, s.todo = .thread core slot :: rest ∧ Fetches { s with todo := rest, cur := { core := core, slot := slot } } core slot (getTh s 0) placedRun := by
  refine ⟨0, 0, _, rfl, ?_⟩
  unfold Fetches; decide +kernel
/-- StepRunsDecoded: an element, a beat and a copy entry whose turn it is. EncodeDecode, DecodeEncode: a well-formed instruction of each decoder. -/
theorem test_witness_turns : State.reset.mgmt.powered = true ∧ ({ powered := false } : Mgmt).powered = false ∧ Instr.heartbeat ≠ .coldReset
    ∧ (runOf (elems) 0 (getReg (elems) 0).starter).map (·.frozenAt) = some none ∧ regionPos (getReg (elems) 0) = some (5, 0) ∧ (decodeElement 0).isSome = true ∧ (decodeEpilogue 0).isSome = true
    ∧ skipCancelled (getCopier (copyState aFill) 0) = 0 ∧ placedRun.fireN ≤ (copyState aFill).cycle
    ∧ mayIssue (copyState aFill) placedRun (getCopier (copyState aFill) 0) 2 aFillEnt = true ∧ (decodeCopy (entryWord aFill)).isSome = true
    ∧ (Instr.add 31 31 31).wf = true ∧ encode (.add 31 31 31) = some 0x03FFF800 ∧ memoriesWf State.reset = true
    ∧ (decodePrompter 0x056CFFFE).isSome = true := by decide +kernel

/-! ## Words written out from the encodings -/

/-- ALU, immediate and memory words (R162, R163, R165). -/
theorem test_decode_alu : ([
    (0x0171F000, .add 11 17 30), (0x0171F001, .sub 11 17 30), (0x0171F002, .mul 11 17 30), (0x0171F003, .mulh 11 17 30),
    (0x0171F004, .mulhu 11 17 30), (0x0171F005, .andR 11 17 30), (0x0171F006, .orR 11 17 30), (0x0171F007, .xorR 11 17 30),
    (0x0171F008, .andnR 11 17 30), (0x0171F009, .shl 11 17 30), (0x0171F00A, .shr 11 17 30), (0x0171F00B, .sar 11 17 30),
    (0x0171F00C, .minS 11 17 30), (0x0171F00D, .maxS 11 17 30), (0x0171F00E, .minU 11 17 30), (0x0171F00F, .maxU 11 17 30),
    (0x0171F010, .slt 11 17 30), (0x0171F011, .sltu 11 17 30), (0x0171F012, .seq 11 17 30), (0x01710013, .popc 11 17), (0x01710014, .clz 11 17),
    (0x0571ABCD, .addi 11 17 0xabcd), (0x0971ABCD, .andi 11 17 0xabcd), (0x0D71ABCD, .ori 11 17 0xabcd), (0x1171ABCD, .xori 11 17 0xabcd),
    (0x1571002D, .shli 11 17 45), (0x1571006D, .shri 11 17 45), (0x157100AD, .sari 11 17 45), (0x1971ABCD, .slti 11 17 0xabcd),
    (0x1D62ABCD, .lis 11 2 0xabcd), (0x217193C5, .ldd 11 17 147 197), (0x257193C5, .ldw 11 17 147 197), (0x297193C5, .std 11 17 147 197),
    (0x2D7193C5, .stw 11 17 147 197), (0x31600111, .srrd 11 273), (0x34110111, .srwr 17 273), (0x41234567, .br 0x1234567)] : List (Nat × Instr)).all (fun x => decodePrompter x.1 == some x.2 && encode x.2 == some x.1) = true := by decide +kernel
/-- Branches, loop counters and engine control (R161, R164, R165). -/
theorem test_decode_control : ([
    (0x45234567, .call 0x1234567), (0x48918765, .bc .lez 17 0x8765), (0x4EA18765, .bstS 21 0x8765), (0x4EA08765, .bstC 21 0x8765),
    (0x50C08765, .bct 6 0x8765), (0x54110000, .jr 17), (0x54000001, .ret), (0x54110002, .callr 17), (0x58110006, .kset 17 6),
    (0x59600046, .krd 11 6), (0x60110002, .kstart 17 2), (0x60000042, .kwait 2), (0x60000082, .kstop 2), (0x6011F0E2, .cfgld .cn 17 30 2),
    (0x6011F116, .constw 17 30 5 2), (0x60110142, .vsel 17 2), (0x60110182, .epsel 17 2), (0x64000000, .qarm), (0x64000042, .qsel .b),
    (0x64000082, .qcancel .b), (0x68000000, .stage), (0x68110040, .stageset 17), (0x6D609303, .tidrd 11 147 3)] : List (Nat × Instr)).all (fun x => decodePrompter x.1 == some x.2 && encode x.2 == some x.1) = true := by decide +kernel
/-- TID words, phasers, counters, atomics, fences, time and traps (R165 to R167). -/
theorem test_decode_sync : ([
    (0x6D719313, .tidwr 11 17 147 3), (0x6C119320, .resclr 17 147), (0x6D719330, .restst 11 17 147), (0x80110002, .phreg .sigwait 17),
    (0x80110040, .phdrop 17), (0x80110080, .phsig 17), (0x8011F0C0, .phwait 17 30), (0x8011F100, .phsw 17 30), (0x81710140, .phqry 11 17),
    (0x8571F000, .ctrwait 11 17 30), (0x8411F040, .ctrinit 17 30), (0x85710080, .ctrrd 11 17), (0x857100C0, .ctrstat 11 17),
    (0x8971F033, .aadd 11 17 30 true .release .package), (0x8971F073, .amin 11 17 30 true .release .package),
    (0x8971F0B3, .amax 11 17 30 true .release .package), (0x8971F0F3, .aminu 11 17 30 true .release .package),
    (0x8971F133, .amaxu 11 17 30 true .release .package), (0x8971F173, .aand 11 17 30 true .release .package),
    (0x8971F1B3, .aor 11 17 30 true .release .package), (0x8971F1F3, .axor 11 17 30 true .release .package),
    (0x8971F233, .axch 11 17 30 true .release .package), (0x8971F273, .acas 11 17 30 true .release .package),
    (0x8971F293, .afadd 11 17 30 .release .package), (0x8C00A956, .fenceP 42 21 .package), (0x8C200000, .fenceSc), (0x8C400000, .fenceD),
    (0x90000003, .rel .package), (0x94000003, .acq .package), (0x99710000, .jobpost 11 17), (0xA1600000, .timerd 11), (0xA1600040, .timefr 11),
    (0xA1600080, .tickrd 11), (0xA01100C0, .waitt 17), (0xA01100C1, .waittCue 17), (0xC000ABCD, .trap 0xabcd), (0xC4000000, .eret),
    (0xC8000000, .endBlock), (0xCC00ABCD, .brk 0xabcd), (0xD5710700, .staterd 11 17 7)] : List (Nat × Instr)).all (fun x => decodePrompter x.1 == some x.2 && encode x.2 == some x.1) = true := by decide +kernel
/-- Epilogue words (R176). -/
theorem test_decode_epilogue : ([
    (0x00000000, .pEend), (0x0D800000, .pErd 11), (0x15B00001, .pRrev 11 6 .trap), (0x1DB00008, .pSclx 11 6 8), (0x25B00068, .pCvf 11 6 8 .ru),
    (0x2DB00093, .pBias 11 6 147), (0x35B68001, .pEadd 11 6 13 true), (0x3DB68001, .pEmul 11 6 13 true), (0x45B68001, .pEmax 11 6 13 true),
    (0x4DB68001, .pEmin 11 6 13 true), (0x55B00003, .pClmp 11 6 3), (0x5DB00001, .pRelu 11 6 true), (0x65B00000, .pElut 11 6),
    (0x6DB00068, .pQnt 11 6 8 .ru), (0x70300008, .pEst 6 8), (0x78300000, .pEbyp 6), (0x85B00001, .pEsum 11 6 true),
    (0x8DB68009, .pEsel 11 6 13 9), (0x95B00000, .pEmov 11 6), (0x98300015, .pEflg 6 21)] : List (Nat × Instr)).all (fun x => decodeEpilogue x.1 == some x.2 && encode x.2 == some x.1) = true := by decide +kernel
/-- Element entries (R168 to R171, R308). -/
theorem test_decode_elements : ([
    (0x000000009000, .eNop ⟨0, 0, 0, 0, 9, 0, 0⟩), (0x0106FBCD95A7, .eMov ⟨1, 47, 47, 13, 9, 5, 167⟩),
    (0x0206254D95A7, .eSel ⟨1, 34, 21, 13, 9, 5, 167⟩), (0x03062BCD95A7, .ePick ⟨1, 34, 47, 13, 9, 5, 167⟩),
    (0x0806FBCD95A7, .ePset ⟨1, 47, 47, 13, 9, 5, 167⟩), (0x0406254D95A7, .eVote3 ⟨1, 34, 21, 13, 9, 5, 167⟩),
    (0x0506FBCD95A7, .eDelay ⟨1, 47, 47, 13, 9, 5, 167⟩), (0x0606FBFE9515, .eFlag ⟨1, 47, 47, 62, 9, 5, 21⟩),
    (0x0706FBFE95A7, .eTrap ⟨1, 47, 47, 62, 9, 5, 167⟩), (0x10062BCD95A7, .eIadd ⟨1, 34, 47, 13, 9, 5, 167⟩),
    (0x11062BCD95A7, .eIsub ⟨1, 34, 47, 13, 9, 5, 167⟩), (0x12062BCD95A7, .eImul ⟨1, 34, 47, 13, 9, 5, 167⟩),
    (0x13062BCD95A7, .eImulh ⟨1, 34, 47, 13, 9, 5, 167⟩), (0x1406254D95A7, .eImad ⟨1, 34, 21, 13, 9, 5, 167⟩),
    (0x1506FBCD95A7, .eIabs ⟨1, 47, 47, 13, 9, 5, 167⟩), (0x1606FBCD95A7, .eIneg ⟨1, 47, 47, 13, 9, 5, 167⟩),
    (0x17062BCD95A7, .eImin ⟨1, 34, 47, 13, 9, 5, 167⟩), (0x18062BCD95A7, .eImax ⟨1, 34, 47, 13, 9, 5, 167⟩),
    (0x19062BCD95A7, .eIminu ⟨1, 34, 47, 13, 9, 5, 167⟩), (0x1A062BCD95A7, .eImaxu ⟨1, 34, 47, 13, 9, 5, 167⟩),
    (0x1B06FBCD9594, .eIsat ⟨1, 47, 47, 13, 9, 5, 148⟩), (0x1C062BCD95A7, .eShl ⟨1, 34, 47, 13, 9, 5, 167⟩),
    (0x1D062BCD95A7, .eShr ⟨1, 34, 47, 13, 9, 5, 167⟩), (0x1E062BCD95A7, .eSar ⟨1, 34, 47, 13, 9, 5, 167⟩),
    (0x1F062BCD95A7, .eRol ⟨1, 34, 47, 13, 9, 5, 167⟩), (0x20062BCD95A7, .eAnd ⟨1, 34, 47, 13, 9, 5, 167⟩),
    (0x21062BCD95A7, .eOr ⟨1, 34, 47, 13, 9, 5, 167⟩), (0x22062BCD95A7, .eXor ⟨1, 34, 47, 13, 9, 5, 167⟩),
    (0x23062BCD95A7, .eAndn ⟨1, 34, 47, 13, 9, 5, 167⟩), (0x2406FBCD95A7, .eNot ⟨1, 47, 47, 13, 9, 5, 167⟩),
    (0x2506FBCD95A7, .ePopc ⟨1, 47, 47, 13, 9, 5, 167⟩), (0x2606FBCD95A7, .eClz ⟨1, 47, 47, 13, 9, 5, 167⟩),
    (0x27062BCD95A7, .eBfx ⟨1, 34, 47, 13, 9, 5, 167⟩), (0x2806254D95A7, .eBfi ⟨1, 34, 21, 13, 9, 5, 167⟩),
    (0x30062BCD9507, .eIcmp ⟨1, 34, 47, 13, 9, 5, 7⟩), (0x31062BCD9505, .eFcmp ⟨1, 34, 47, 13, 9, 5, 5⟩),
    (0x32062BCD95A7, .ePand ⟨1, 34, 47, 13, 9, 5, 167⟩), (0x33062BCD95A7, .ePor ⟨1, 34, 47, 13, 9, 5, 167⟩),
    (0x3406FBCD95A7, .ePnot ⟨1, 47, 47, 13, 9, 5, 167⟩), (0x40062BCD95A7, .eFadd ⟨1, 34, 47, 13, 9, 5, 167⟩),
    (0x41062BCD95A7, .eFsub ⟨1, 34, 47, 13, 9, 5, 167⟩), (0x42062BCD95A7, .eFmul ⟨1, 34, 47, 13, 9, 5, 167⟩)] : List (Nat × Instr)).all (fun x => decodeElement x.1 == some x.2 && encode x.2 == some x.1) = true := by decide +kernel
/-- Element entries (R168 to R171, R308). -/
theorem test_decode_elements_more : ([
    (0x4306254D95A7, .eFfma ⟨1, 34, 21, 13, 9, 5, 167⟩), (0x44062BCD95A7, .eFmin ⟨1, 34, 47, 13, 9, 5, 167⟩),
    (0x45062BCD95A7, .eFmax ⟨1, 34, 47, 13, 9, 5, 167⟩), (0x4606FBCD95A7, .eFabs ⟨1, 47, 47, 13, 9, 5, 167⟩),
    (0x4706FBCD95A7, .eFneg ⟨1, 47, 47, 13, 9, 5, 167⟩), (0x4806FBCD95A7, .eFrcp ⟨1, 47, 47, 13, 9, 5, 167⟩),
    (0x4906FBCD95A7, .eFrsq ⟨1, 47, 47, 13, 9, 5, 167⟩), (0x4A06FBCD95A7, .eFexp2 ⟨1, 47, 47, 13, 9, 5, 167⟩),
    (0x4B06FBCD95A7, .eFlog2 ⟨1, 47, 47, 13, 9, 5, 167⟩), (0x4C06FBCD95A7, .eFtanh ⟨1, 47, 47, 13, 9, 5, 167⟩),
    (0x50062BCD95A7, .eFaddB2 ⟨1, 34, 47, 13, 9, 5, 167⟩), (0x51062BCD95A7, .eFmulB2 ⟨1, 34, 47, 13, 9, 5, 167⟩),
    (0x5206254D95A7, .eFfmaB2 ⟨1, 34, 21, 13, 9, 5, 167⟩), (0x53062BCD95A7, .eFaddH2 ⟨1, 34, 47, 13, 9, 5, 167⟩),
    (0x54062BCD95A7, .eFmulH2 ⟨1, 34, 47, 13, 9, 5, 167⟩), (0x5506254D95A7, .eFfmaH2 ⟨1, 34, 21, 13, 9, 5, 167⟩),
    (0x60062BCD9521, .eCvtRn ⟨1, 34, 47, 13, 9, 5, 33⟩), (0x61062BCD9521, .eCvtRz ⟨1, 34, 47, 13, 9, 5, 33⟩),
    (0x62062BCD9521, .eCvtRd ⟨1, 34, 47, 13, 9, 5, 33⟩), (0x63062BCD9521, .eCvtRu ⟨1, 34, 47, 13, 9, 5, 33⟩),
    (0x64062BCD9521, .eCvtSr ⟨1, 34, 47, 13, 9, 5, 33⟩), (0x6806FBCD959E, .eQmax ⟨1, 47, 47, 13, 9, 5, 158⟩),
    (0x6906FBCD9582, .eScle ⟨1, 47, 47, 13, 9, 5, 130⟩), (0x6A062BCD95C9, .eQmx ⟨1, 34, 47, 13, 9, 5, 201⟩),
    (0x7006FBCD9509, .eRfwd ⟨1, 47, 47, 13, 9, 5, 9⟩), (0x71062BCD9508, .eRadd ⟨1, 34, 47, 13, 9, 5, 8⟩),
    (0x72062BCD9507, .eRsub ⟨1, 34, 47, 13, 9, 5, 7⟩), (0x73062BCD9506, .eRmul ⟨1, 34, 47, 13, 9, 5, 6⟩),
    (0x7406254D9505, .eRmac ⟨1, 34, 21, 13, 9, 5, 5⟩), (0x80062BCD95A7, .eLdp ⟨1, 34, 47, 13, 9, 5, 167⟩),
    (0x81062BFE95A7, .eStp ⟨1, 34, 47, 62, 9, 5, 167⟩), (0x82062BCD95A7, .eLdpx ⟨1, 34, 47, 13, 9, 5, 167⟩),
    (0x8306257E95A7, .eStpx ⟨1, 34, 21, 62, 9, 5, 167⟩), (0xA0BEFBFE0506, .aMode ⟨47, 47, 47, 62, 0, 5, 6⟩),
    (0xA1062BFE0500, .aWpreI ⟨1, 34, 47, 62, 0, 5, 0⟩), (0xA1062BFE0501, .aWpreA ⟨1, 34, 47, 62, 0, 5, 1⟩),
    (0xA2BEFBFE0500, .aWswap ⟨47, 47, 47, 62, 0, 5, 0⟩), (0xA306257E0588, .aPass ⟨1, 34, 21, 62, 0, 5, 136⟩),
    (0xA4062AFE0500, .aDrain ⟨1, 34, 43, 62, 0, 5, 0⟩), (0xA5062BFE0500, .aClr ⟨1, 34, 47, 62, 0, 5, 0⟩),
    (0xA6BEFBFE0503, .aBind ⟨47, 47, 47, 62, 0, 5, 3⟩), (0xA6BEFBFE0504, .aBindOff ⟨47, 47, 47, 62, 0, 5, 4⟩)] : List (Nat × Instr)).all (fun x => decodeElement x.1 == some x.2 && encode x.2 == some x.1) = true := by decide +kernel
/-- A copy entry with every field set (R178). -/
def copyEnt : CopyEnt := ⟨0x2, 0x81, 0x1234, 0x11, 0x22, 0x33, 0x44, 0xa5a5000100020003, 0x8001000200030004, 0x81, 0x42, 0xb, 0x2, 0x1, 0x5a5, 0x8765432⟩
/-- Copy entries of each kind. -/
theorem test_decode_copies : ([
    (0x8142B95A587654328001000200030004A5A50001000200030281123411223344, .cCopy copyEnt),
    (0x8142B95A587654328001000200030004A5A50001000200031281123411223344, .cGather copyEnt),
    (0x8142B95A587654328001000200030004A5A50001000200032281123411223344, .cFill copyEnt),
    (0x8142B95A587654328001000200030004A5A50001000200033281123411223344, .cCvtcopy copyEnt),
    (0x8142B95A587654328001000200030004A5A50001000200034281123411223344, .cRedcopy copyEnt),
    (0x8142B95A587654328001000200030004A5A50001000200035281123411223344, .cDigest copyEnt)] : List (Nat × Instr)).all (fun x => decodeCopy x.1 == some x.2 && encode x.2 == some x.1) = true := by decide +kernel

/-! ## Well-formedness: an ill-formed term for each check -/

/-- Register codes, immediates, shifts, lanes, TIDs and special registers out of range (R160 to R163, R167, R182). -/
theorem test_wf_prompter : ([.add 32 0 0, .popc 0 32, .addi 0 0 65536, .shli 0 0 64, .lis 0 4 0, .ldd 0 0 255 0, .ldd 0 0 0 256, .srrd 0 7, .srwr 0 4096,
    .br (2 ^ 26), .bc .eqz 0 65536, .bstS 32 0, .bct 8 0, .kset 0 8, .kstart 0 4, .constw 0 0 8 0, .tidrd 0 255 0, .tidwr 0 0 0 4, .fenceP 0 1 .core,
    .fenceP 1 64 .core, .trap 65536, .staterd 0 0 9, .illegalWord (2 ^ 32)] : List Instr).all (fun i => !i.wf) = true := by decide
/-- Epilogue registers, formats, rounding modes and lines out of range (R176). -/
theorem test_wf_epilogue : ([.pErd 16, .pSclx 0 0 5, .pCvf 0 0 0xB .rne, .pCvf 0 0 0 .sr, .pBias 0 0 256, .pClmp 0 0 5, .pQnt 0 0 0xE .rne, .pEst 0 0xE,
    .pEsel 0 0 0 16, .pEflg 0 32] : List Instr).all (fun i => !i.wf) = true := by decide
/-- Element sources, destinations, links, guards, the rules of NOP and of array words (R169, R170, R174, R307). -/
theorem test_wf_element : ([.eIadd (ent 0 0 51 0), .eIadd { ent 0 0 1 2 with dst := 32 }, .eIadd { ent 0 0 1 2 with lnk := 16 }, .eIadd (ent 10 0 1 2),
    .eMov (ent 0 0 1 2), .eIadd (ent 0 0 1 2 3), .eFlag (ent 0 0 1), .eIadd (ent 8 0 1 2), .eNop (ent 1 0 0 0 0), .aMode { ent 0 0 47 with dst := 62, lnk := 1 },
    .aDrain { ent 0 0 1 2 3 with dst := 62 }, .eIcmp (ent 0 3 46 1)] : List Instr).all (fun i => !i.wf) = true := by decide
/-- IMM roles (R171 to R173, R308), and the sub-operations that tell two array words apart. -/
theorem test_wf_immediates : ([(.flag, 32), (.isat, 33), (.isat, 0), (.isat, 0x41), (.icond, 10), (.fcond, 8), (.pair, 0x12), (.qmax, 5), (.qmax, 0x60), (.scle, 0x43),
    (.qmx, 0x50), (.modulus, 10), (.tid, 255), (.amode, 9), (.wpre, 2), (.apass, 0x10), (.abind, 4), (.abindOff, 3), (.zero, 1), (.free, 256), (.delay, 256)]
      : List (ImmRole × Nat)).all (fun x => !immOk x.1 x.2) = true
    ∧ (Instr.aWpreA { ent 0 0 36 37 with dst := 62 }).wf = false ∧ (Instr.aBind { ent 0 4 47 with dst := 62 }).wf = false := by decide
/-- Fields of a copy entry (R178). -/
theorem test_wf_copy : ([{ copyEnt with bank := 3 }, { copyEnt with stage := 256 }, { copyEnt with start := 65536 }, { copyEnt with stid := 256 },
    { copyEnt with w1 := 2 ^ 64 }, { copyEnt with rows := 256 }, { copyEnt with cvtFmt := 16 }, { copyEnt with cvtRm := 3 }, { copyEnt with cvtScale := 3 },
    { copyEnt with ph := 4096 }, { copyEnt with ctr := 2 ^ 28 }] : List CopyEnt).all (fun e => !(Instr.cCopy e).wf) = true
    ∧ (Instr.cCopy copyEnt).wf = true := by decide
/-- Reserved and illegal encodings decode to nothing (R158, R161 to R167). -/
theorem test_decode_reserved : ([21, 0x38000000, 0x140000C0, 0x48C00000, 0x4C020000, 0x50010000, 0x54000003, 0x58000080, 0x6C000040, 0x88000005,
    0x880002C0, 0x8C600000, 0x8C000010, 0x90000005, 0xFC000000, 0x20000000 + 0xFF00] : List Nat).all (fun w => (decodePrompter w).isNone) = true := by decide +kernel

/-! ## Steps, with results worked out from the manual -/

/-- What a word leaves in register 8 (w0) of the thread of core 0. -/
def w0After (i : Instr) (t : Thread) : Option Nat :=
  match exec i (one t) with
  | .next s => some (rdReg (getTh s 0) 8).toNat
  | _ => none
/-- R225: ADD wraps, MULH takes the signed high half, SAR keeps the sign, SLT is signed. -/
theorem test_step_alu : w0After (.add 8 1 1) (thr2 0x8000000000000001 0) = some 2 ∧ w0After (.mulh 8 1 8) (thr2 (-1) 2) = some (2 ^ 64 - 1)
    ∧ w0After (.sar 8 8 1) (thr2 68 0x8000000000000000) = some 0xF800000000000000 ∧ w0After (.slt 8 1 8) (thr2 (-1) 0) = some 1
    ∧ w0After (.lis 8 2 0xABCD) (thr2 0 0x1111222233334444) = some 0x1111ABCD33334444 ∧ w0After (.clz 8 1) (thr2 1 0) = some 63 := by decide +kernel
/-- R164, R232: BC.EQZ with offset -3 at 64 is taken to 52 after its delay slot. -/
theorem test_step_branch : (match exec (.bc .eqz 0 0xFFFD) (one { thr with pc := 64 }) with
    | .next s => (getTh s 0).branch.map (fun b => (b.taken, b.target))
    | _ => none) = some (true, 52) := by decide +kernel
/-- R258: TRAP 7 in user mode enters the handler of class 0 in supervisor mode, with the code in TRAPINFO1 and the next word in TRAPPC. -/
theorem test_step_trap : (match exec (.trap 7) (one { thr with pc := 64, vecbase := 4096 }) with
    | .next s => let t := getTh s 0; some (t.pc, t.mode, t.cause, t.info1.toNat, t.trappc.toNat)
    | _ => none) = some (4096, true, 8, 7, 68) := by decide +kernel
/-- R224, R259: ERET restores user mode at TRAPPC; in user mode it is refused by the trap of cause 0x004. -/
theorem test_step_eret : (match exec .eret (one { sup with trappc := 128 }) with
    | .next s => some ((getTh s 0).pc, (getTh s 0).mode)
    | _ => none) = some (128, false)
    ∧ (match exec .eret (one { thr with vecbase := 4096 }) with
    | .next s => some (getTh s 0).cause
    | _ => none) = some 4 := by decide +kernel
/-- R287, R130: 1.0 + 2^-24 rounds to even in FP32, and FFMA rounds once. R139: 255 · 255 saturates to 127 as signed 8 bits (R284). -/
theorem test_step_numbers : fAdd 6 0x3F800000 0x33800000 = 0x3F800000 ∧ fAdd 6 0x3F800001 0x33800000 = 0x3F800002
    ∧ fFma 6 0x3F800001 0x3F800001 0xBF800002 = 0x28800000
    ∧ (match exec (.eIsat (ent 0 8 0)) (elems { q := [(27, ⟨65025, true⟩)] }) with
      | .next s => ((getEl s 0).pipe.head?).map (fun f => f.tok.data.toNat)
      | _ => none) = some 127 := by decide +kernel
/-- R230: a store performs with its bytes in little-endian order, and the word after it reads as before. -/
theorem test_step_store : (match exec .prompterPerform { one thr with reqs := [{ anAsk true spPlace with bytes := leBytes 8 0x0102030405060708 }] } with
    | .next s => some (rdMem s spPlace 9)
    | _ => none) = some ([8, 7, 6, 5, 4, 3, 2, 1, 0] : List Byte) := by decide +kernel
/-- From reset a placed word runs as the first instruction: LIS g1, 0, 5. -/
theorem test_step_first : (match step (State.reset.withFetchWord 32 0x1C200005) with
    | .next s => some (rdReg (getTh s 0) 1).toNat
    | _ => none) = some 5 := by decide +kernel
/-- MemoriesStayCanonical: reset goes on. -/
theorem test_witness_canonical : memoriesWf State.reset = true ∧ goesNext (step State.reset) = true := by decide +kernel

end Sys2Proof.Tests
end

section
/-! SUPPORT. Which answers of the model carry canonical memories, and how that composes. -/

set_option Elab.async false

namespace Sys2Proof.Machine

/-- The memories of a state are canonical. -/
def MemWf (s : State) : Prop := memoriesWf s = true

/-- The state that a pair carries has canonical memories. -/
def FstWf {β : Type} (p : State × β) : Prop := MemWf p.1
/-- So has the state of an operation that may have none. -/
def SomeWf (o : Option State) : Prop := ∀ s, o = some s → MemWf s
/-- So has the state of an operation that may fail. -/
def OkWf {ε : Type} (r : Except ε State) : Prop := ∀ s, r = .ok s → MemWf s
/-- So has the pair of an operation that may fail. -/
def OkFstWf {ε β : Type} (r : Except ε (State × β)) : Prop := ∀ p, r = .ok p → FstWf p
/-- So has the next state of an answer. -/
def OutWf (o : Out) : Prop := ∀ s, o = .next s → MemWf s

variable {s s' t : State} {β γ ε : Type}

/-! ## States -/

theorem memWf_iff : MemWf s ↔ Memory.wf s.mem = true ∧ Memory.wf s.hostMem = true ∧ Memory.wf s.safetyMem = true := by
  simp [MemWf, memoriesWf, and_assoc]

/-- A choice of two states. -/
theorem MemWf.ite {c : Prop} [Decidable c] (hs : MemWf s) (ht : MemWf t) : MemWf (if c then s else t) := by
  split <;> assumption
/-- A step that is skipped under a condition. -/
theorem MemWf.unless {c : Prop} [Decidable c] (h : MemWf s) (ht : MemWf s → MemWf t) : MemWf (if c then s else t) := .ite h (ht h)
/-- A step that is taken under a condition only. -/
theorem MemWf.when {c : Prop} [Decidable c] (h : MemWf s) (ht : MemWf s → MemWf t) : MemWf (if c then t else s) := .ite (ht h) h
/-- A step for each entry of a list. -/
theorem MemWf.foldl {l : List β} {f : State → β → State} (h : MemWf s) (hf : ∀ s b, MemWf s → MemWf (f s b)) : MemWf (l.foldl f s) := by
  induction l generalizing s with
  | nil => exact h
  | cons b l ih => exact ih (hf s b h)

/-! The state inside an answer, from the equation that a case of a `match` on it gives. -/

theorem MemWf.fst {p : State × β} (h : FstWf p) : MemWf p.1 := h
theorem MemWf.of_fst {p : State × β} {b : β} (e : p = (s, b)) (h : FstWf p) : MemWf s := by subst e; exact h
theorem MemWf.of_next {o : Out} (e : o = .next s) (h : OutWf o) : MemWf s := h s e
theorem MemWf.of_some {o : Option State} (e : o = some s) (h : SomeWf o) : MemWf s := h s e
theorem MemWf.of_ok {r : Except ε State} (e : r = .ok s) (h : OkWf r) : MemWf s := h s e
theorem MemWf.of_okFst {r : Except ε (State × β)} {p : State × β} (e : r = .ok p) (h : OkFstWf r) : MemWf p.1 := h _ e

/-! ## What changes a state -/

/-- An update of any fields but the three memories. The statement lists all fields, so that it applies to every structure update and finds the
state before it by unification. -/
theorem MemWf.update {cycle phase todo agenda cur free nextId tb lost level levelPend budget budgetNext served parts cores mgmt cacheLines
    atsRefused cfg cfgImages cfgBad dieOwners slots resv pinned coreTlb dieTlb ecc threads regions elems runs cues tids tidFrom resid
    residAt copiers reqs dram syncQ objs objWaiters sync syncRaw phasers tags grants homes voices scenes launches images jobs streams rings
    queues queueMore recs seen seqs evlog irqs links linksOut} (h : MemWf s) :
    MemWf ⟨cycle, phase, todo, agenda, cur, free, nextId, tb, lost, level, levelPend, budget, budgetNext, served, parts, cores, mgmt, s.mem, s.hostMem,
    s.safetyMem, cacheLines, atsRefused, cfg, cfgImages, cfgBad, dieOwners, slots, resv, pinned, coreTlb, dieTlb, ecc, threads, regions, elems,
    runs, cues, tids, tidFrom, resid, residAt, copiers, reqs, dram, syncQ, objs, objWaiters, sync, syncRaw, phasers, tags, grants, homes, voices,
    scenes, launches, images, jobs, streams, rings, queues, queueMore, recs, seen, seqs, evlog, irqs, links, linksOut⟩ := h
/-- Bytes stored in the device memory, by an update that may change other fields too. -/
theorem MemWf.wrDev {a l} (h : MemWf s) (e : (s'.mem, s'.hostMem, s'.safetyMem) = (wrBytes s.mem a l, s.hostMem, s.safetyMem) := by rfl) :
    MemWf s' := by
  simp only [Prod.mk.injEq] at e
  obtain ⟨hd, hh, hs⟩ := e
  obtain ⟨h1, h2, h3⟩ := memWf_iff.1 h
  rw [memWf_iff, hd, hh, hs]
  exact ⟨Memory.wf_wrBytes _ _ _ h1, h2, h3⟩
/-- So in the host memory. -/
theorem MemWf.wrHost {a l} (h : MemWf s) (e : (s'.mem, s'.hostMem, s'.safetyMem) = (s.mem, wrBytes s.hostMem a l, s.safetyMem) := by rfl) :
    MemWf s' := by
  simp only [Prod.mk.injEq] at e
  obtain ⟨hd, hh, hs⟩ := e
  obtain ⟨h1, h2, h3⟩ := memWf_iff.1 h
  rw [memWf_iff, hd, hh, hs]
  exact ⟨h1, Memory.wf_wrBytes _ _ _ h2, h3⟩
/-- Ranges of the device memory that become zero. -/
theorem MemWf.zeroMem {l} (h : MemWf s) : MemWf { s with mem := zeroRanges s.mem l } := by
  obtain ⟨hd, hh, hs⟩ := memWf_iff.1 h
  exact memWf_iff.2 ⟨Memory.wf_zeroRanges _ _ hd, hh, hs⟩
/-- Ranges that are copied inside a memory, one after the other. -/
theorem Memory.wf_copies {a b : β → Nat} {n : Nat} {l : List β} {m : List Host.Cell} (h : Memory.wf m = true) :
    Memory.wf (l.foldl (fun m c => copyRange m (a c) (b c) n) m) = true := by
  induction l generalizing m with
  | nil => exact h
  | cons c l ih => exact ih (Memory.wf_copyRange _ _ _ _ h)

/-! ## Answers -/

theorem FstWf.mk {b : β} (h : MemWf s) : FstWf (s, b) := h
theorem FstWf.ite {c : Prop} [Decidable c] {p q : State × β} (hp : FstWf p) (hq : FstWf q) : FstWf (if c then p else q) := by
  split <;> assumption
theorem FstWf.foldl {l : List γ} {p : State × β} {f : State × β → γ → State × β} (h : FstWf p) (hf : ∀ p b, FstWf p → FstWf (f p b)) :
    FstWf (l.foldl f p) := by
  induction l generalizing p with
  | nil => exact h
  | cons b l ih => exact ih (hf p b h)

theorem SomeWf.none : SomeWf none := fun _ e => by cases e
theorem SomeWf.some (h : MemWf s) : SomeWf (some s) := fun _ e => by cases e; exact h
theorem SomeWf.ite {c : Prop} [Decidable c] {p q : Option State} (hp : SomeWf p) (hq : SomeWf q) : SomeWf (if c then p else q) := by
  split <;> assumption

theorem OkWf.ok (h : MemWf s) : OkWf (.ok s : Except ε State) := fun _ e => by cases e; exact h
theorem OkWf.error {x : ε} : OkWf (.error x) := fun _ e => by cases e
theorem OkWf.ite {c : Prop} [Decidable c] {p q : Except ε State} (hp : OkWf p) (hq : OkWf q) : OkWf (if c then p else q) := by
  split <;> assumption
theorem OkFstWf.ok {p : State × β} (h : FstWf p) : OkFstWf (.ok p : Except ε (State × β)) := fun _ e => by cases e; exact h
theorem OkFstWf.error {x : ε} : OkFstWf (.error x : Except ε (State × β)) := fun _ e => by cases e
theorem OkFstWf.ite {c : Prop} [Decidable c] {p q : Except ε (State × β)} (hp : OkFstWf p) (hq : OkFstWf q) : OkFstWf (if c then p else q) := by
  split <;> assumption

theorem OutWf.next (h : MemWf s) : OutWf (.next s) := fun _ e => by cases e; exact h
theorem OutWf.fault {x : Fault} : OutWf (.fault x) := fun _ e => by cases e
theorem OutWf.refused {x : Refusal} : OutWf (.refused x) := fun _ e => by cases e
theorem OutWf.ite {c : Prop} [Decidable c] {p q : Out} (hp : OutWf p) (hq : OutWf q) : OutWf (if c then p else q) := by
  split <;> assumption

/-! ## Answers in sequence -/

theorem SomeWf.map {o : Option β} {f : β → State} (hf : ∀ b, MemWf (f b)) : SomeWf (o.map f) := by
  cases o with
  | none => exact .none
  | some b => exact .some (hf b)
theorem SomeWf.mapState {o : Option State} {f : State → State} (h : SomeWf o) (hf : ∀ s, MemWf s → MemWf (f s)) : SomeWf (o.map f) := by
  cases o with
  | none => exact .none
  | some b => exact .some (hf b (h b rfl))
theorem SomeWf.bind {o : Option State} {f : State → Option State} (h : SomeWf o) (hf : ∀ s, MemWf s → SomeWf (f s)) : SomeWf (o >>= f) := by
  cases o with
  | none => exact .none
  | some b => exact hf b (h b rfl)
theorem SomeWf.foldlM {l : List β} {f : State → β → Option State} (h : MemWf s) (hf : ∀ s b, MemWf s → SomeWf (f s b)) :
    SomeWf (l.foldlM f s) := by
  induction l generalizing s with
  | nil => exact .some h
  | cons b l ih => exact .bind (hf s b h) fun s h => ih h
theorem OkWf.bind {r : Except ε State} {f : State → Except ε State} (h : OkWf r) (hf : ∀ s, MemWf s → OkWf (f s)) : OkWf (r >>= f) := by
  cases r with
  | error x => exact .error
  | ok s => exact hf s (h s rfl)
theorem OkWf.foldlM {l : List β} {f : State → β → Except ε State} (h : MemWf s) (hf : ∀ s b, MemWf s → OkWf (f s b)) :
    OkWf (l.foldlM f s) := by
  induction l generalizing s with
  | nil => exact .ok h
  | cons b l ih => exact .bind (hf s b h) fun s h => ih h
theorem OkFstWf.map {r : Except ε (State × β)} {f : State × β → State × γ} (h : OkFstWf r) (hf : ∀ p, FstWf p → FstWf (f p)) :
    OkFstWf (r.map f) := by
  cases r with
  | error x => exact .error
  | ok p => exact .ok (hf p (h p rfl))

end Sys2Proof.Machine
end

section
/-! SUPPORT. The prompter and what all share: every operation keeps the memories canonical. A lemma has the name of its operation. -/

set_option Elab.async false

namespace Sys2Proof.Machine

variable {s : State}

/-! ## The shared operations of `Ops` -/

theorem MemWf.setTh {k t} (h : MemWf s) : MemWf (setTh s k t) := .update h
theorem MemWf.setReg {k r} (h : MemWf s) : MemWf (setReg s k r) := .update h
theorem MemWf.setEl {k e} (h : MemWf s) : MemWf (setEl s k e) := .update h
theorem MemWf.setCore {c v} (h : MemWf s) : MemWf (setCore s c v) := .update h
theorem MemWf.setPart {p v} (h : MemWf s) : MemWf (setPart s p v) := .update h
theorem MemWf.setCue {k v} (h : MemWf s) : MemWf (setCue s k v) := .update h
theorem MemWf.setCopier {c v} (h : MemWf s) : MemWf (setCopier s c v) := .update h
theorem MemWf.setPh {k v} (h : MemWf s) : MemWf (setPh s k v) := .update h
theorem MemWf.setScene {k v} (h : MemWf s) : MemWf (setScene s k v) := .update h
theorem MemWf.setVoice {k v} (h : MemWf s) : MemWf (setVoice s k v) := .update h
theorem MemWf.setStream {k v} (h : MemWf s) : MemWf (setStream s k v) := .update h
theorem MemWf.setRing {k v} (h : MemWf s) : MemWf (setRing s k v) := .update h
theorem MemWf.setRun {core sheet r} (h : MemWf s) : MemWf (setRun s core sheet r) := .update h
theorem MemWf.delRun {core sheet} (h : MemWf s) : MemWf (delRun s core sheet) := .update h
theorem MemWf.schedule {clk tm a} (h : MemWf s) : MemWf (schedule s clk tm a) := .update h
theorem MemWf.soon {a} (h : MemWf s) : MemWf (soon s a) := .update h
theorem MemWf.next {a} (h : MemWf s) : MemWf (next s a) := .update h
theorem MemWf.drawn (h : MemWf s) : MemWf (drawn s) := .update h
theorem MemWf.wrMem {p l} (h : MemWf s) : MemWf (wrMem s p l) := by
  obtain ⟨hd, hh, hs⟩ := memWf_iff.1 h
  unfold Machine.wrMem
  split
  · exact memWf_iff.2 ⟨Memory.wf_wrBytes _ _ _ hd, hh, hs⟩
  · exact memWf_iff.2 ⟨hd, Memory.wf_wrBytes _ _ _ hh, hs⟩
  · exact memWf_iff.2 ⟨hd, hh, Memory.wf_wrBytes _ _ _ hs⟩
theorem MemWf.setTidWord {core part tid i v} (h : MemWf s) : MemWf (setTidWord s core part tid i v) := .update h
theorem MemWf.resClear {k} (h : MemWf s) : MemWf (resClear s k) := .update h
theorem MemWf.resSet {k} (h : MemWf s) : MemWf (resSet s k) := .ite h (.update h)
theorem MemWf.resDone {core part tid tile except} (h : MemWf s) : MemWf (resDone s core part tid tile except) := .ite h (.resSet h)
theorem MemWf.resHold {k} (h : MemWf s) : MemWf (resHold s k) := .update h
theorem MemWf.ringWrite {fn r} (h : MemWf s) : MemWf (ringWrite s fn r) := by
  unfold Machine.ringWrite
  exact .ite (.when (.setRing (.wrHost h)) fun h' => .update h') (.setRing h)
theorem MemWf.countTime {cause} (h : MemWf s) : MemWf (countTime s cause) := .ite (.update h) h
theorem MemWf.queueWith {core part w lc block cue gang} (h : MemWf s) : MemWf (queueWith s core part w lc block cue gang) :=
  .update (.countTime h)
theorem MemWf.queueRecord {p} (h : MemWf s) : MemWf (queueRecord s p) := .ringWrite (.ite (.update (.update h)) (.update (.update h)))
theorem MemWf.flushRecords (h : MemWf s) : MemWf (flushRecords s) := .foldl (.update h) fun _ _ h => .queueRecord h
theorem MemWf.flushFor {core part} (h : MemWf s) : MemWf (flushFor s core part) := .foldl (.update h) fun _ _ h => .queueRecord h
theorem MemWf.queueFor {core r w} (h : MemWf s) : MemWf (queueFor s core r w) := .queueWith h
theorem MemWf.devLogWhy {core w lc part block cue gang} (h : MemWf s) : MemWf (devLogWhy s core w lc part block cue gang) :=
  .when (.ringWrite (.update (.countTime h))) fun h1 => .update h1
theorem MemWf.devLogOn {core cause i0 i1} (h : MemWf s) : MemWf (devLogOn s core cause i0 i1) := .devLogWhy h
theorem MemWf.devLog {cause i0 i1} (h : MemWf s) : MemWf (devLog s cause i0 i1) := .devLogOn h
theorem MemWf.devLogP {cause i0 i1 part core} (h : MemWf s) : MemWf (devLogP s cause i0 i1 part core) := .queueWith (.devLogOn h)
theorem MemWf.setObj {k v} (h : MemWf s) : MemWf (setObj s k v) := by
  unfold Machine.setObj
  split
  · exact h
  · exact h
  · exact .wrDev h
theorem MemWf.reply {id die cyc cause v d} (h : MemWf s) : MemWf (reply s id die cyc cause v d) := .update h
theorem MemWf.objWake {key} (h : MemWf s) : MemWf (objWake s key) := .foldl (.update h) fun _ _ h => .reply h
theorem MemWf.putObj {key o} (h : MemWf s) : MemWf (putObj s key o) := .objWake (.setObj h)
theorem MemWf.putPh {key p} (h : MemWf s) : MemWf (putPh s key p) := .when (.setPh h) fun h1 => .soon h1
theorem MemWf.postNotice {core part op k val no} (h : MemWf s) : MemWf (postNotice s core part op k val no) := .update h
theorem MemWf.phSub {key n} (h : MemWf s) : MemWf (phSub s key n) := .ite (.putPh h) h
theorem MemWf.dropNotice {core no k} (h : MemWf s) : MemWf (dropNotice s core no k) := .ite (.update h) (.putObj h)
theorem MemWf.dropDone {core no k} (h : MemWf s) : MemWf (dropDone s core no k) := .ite (.putObj (.update h)) h
theorem MemWf.cancelEntry {core e scene part} (h : MemWf s) : MemWf (cancelEntry s core e scene part) :=
  .unless (.unless (.update (.setCopier h)) fun h1 => .phSub h1) fun h1 => .ite (.dropDone h1) (.dropNotice h1)
theorem MemWf.cancelWhere {core p} (h : MemWf s) : MemWf (cancelWhere s core p) := by
  unfold Machine.cancelWhere
  split
  · exact h
  · exact .foldl h fun _ _ h => .cancelEntry h
theorem MemWf.guardDrop {core slot row col side pos t} (h : MemWf s) : MemWf (guardDrop s core slot row col side pos t) :=
  .ite h (.setCore (.setReg h))
theorem MemWf.dropDue {core slot} (h : MemWf s) : MemWf (dropDue s core slot) :=
  .ite h (.foldl h fun _ _ h => .foldl h fun _ _ h => .foldl h fun _ _ h => .ite (.guardDrop h) h)
theorem MemWf.guardRecords {core slot} (h : MemWf s) : MemWf (guardRecords s core slot) := .setReg (.foldl h fun _ _ h => .queueWith h)
theorem MemWf.discardRegion {core slot} (h : MemWf s) : MemWf (discardRegion s core slot) := .setReg (.update h)
theorem MemWf.dropRequests {core slot} (h : MemWf s) : MemWf (dropRequests s core slot) := .setCore (.update h)
theorem MemWf.dropDrains {core slot part} (h : MemWf s) : MemWf (dropDrains s core slot part) :=
  .foldl (.unless (.setCore h) fun h1 => .soon h1) fun _ _ h => .ite h (.dropNotice h)
theorem MemWf.discardBlock {core sheet} (h : MemWf s) : MemWf (Machine.discardBlock s core sheet) := by
  unfold Machine.discardBlock
  split
  · exact h
  extract_lets t0 s1
  have h1 : MemWf s1 := .ite (.queueFor h) h
  exact .delRun (.foldl (.ite (.cancelWhere h1) (.setVoice (.setTh (.update (.update (.discardRegion (.dropDrains (.dropRequests (.guardRecords
    (.dropDue h1)))))))))) fun _ _ h => .resClear h)
theorem MemWf.occWrite {core ix outcome variant fireN} (h : MemWf s) : MemWf (occWrite s core ix outcome variant fireN) := .setCue h
theorem MemWf.enterHeld {core ix fireN variant} (h : MemWf s) : MemWf (enterHeld s core ix fireN variant) :=
  .soon (.occWrite (.foldl (.setCue h) fun _ _ h => .resHold h))
theorem MemWf.cueFail {core ix t fireN cause variant} (h : MemWf s) : MemWf (cueFail s core ix t fireN cause variant) :=
  .ite (.enterHeld (.queueWith h)) <| .ite (.enterHeld (.setCue h)) <| .ite (.next (.setCue h)) (.schedule (.setCue h))
theorem MemWf.setHome {k y} (h : MemWf s) : MemWf (setHome s k y) := .update h
theorem MemWf.cueDone {core ix fireN cause} (h : MemWf s) : MemWf (cueDone s core ix fireN cause) := .soon (.setCue (.occWrite h))
theorem MemWf.endVoice {t cause k} (h : MemWf s) : MemWf (endVoice t cause s k) :=
  .unless (.ite (.discardBlock h) h) fun h1 => .ite (.cueFail h1) <| .ite (.setCue h1) (.cueDone h1)
theorem MemWf.endBlocks {core sheet t cause} (h : MemWf s) : MemWf (endBlocks s core sheet t cause) := by
  unfold Machine.endBlocks
  split
  · exact h
  · exact .when (.ite (.cueDone (.discardBlock h)) (.cueFail (.discardBlock h))) fun h1 => .setHome (.foldl h1 fun _ _ h1 => .endVoice h1)
theorem MemWf.killFatal {core sheet w} (h : MemWf s) : MemWf (killFatal s core sheet w) := by
  unfold Machine.killFatal
  split
  · exact h
  · exact .endBlocks (.queueFor h)
theorem MemWf.doubleFault {core t cause done} (h : MemWf s) : MemWf (doubleFault s core t cause done) := by
  unfold Machine.doubleFault
  split
  · exact h
  · exact .devLogWhy (.killFatal h)
theorem MemWf.takeTrap {core slot cause i0 i1 i2 done} (h : MemWf s) : MemWf (takeTrap s core slot cause i0 i1 i2 done) := by
  unfold Machine.takeTrap
  dsimp only
  split
  · exact h
  · exact .ite (.doubleFault h) <| .ite (.setTh h) (.doubleFault h)

/-! ## Operands and race tags -/

theorem MemWf.dieTlbIn {die x} (h : MemWf s) : MemWf (dieTlbIn s die x) := .update h
theorem MemWf.tlbFill {core part va} (h : MemWf s) : MemWf (tlbFill s core part va) := by
  unfold Machine.tlbFill
  refine .ite h ?_
  split
  · exact .update h
  · split
    · exact .update (.dieTlbIn h)
    · exact h
theorem MemWf.hostFill {core part iova} (h : MemWf s) : MemWf (hostFill s core part iova) := .ite h (.dieTlbIn h)
theorem OkWf.raceCheck {w t tid a path store} (h : MemWf s) : OkWf (raceCheck s w t tid a path store) := by
  unfold Machine.raceCheck
  refine .ite (.ok h) ?_
  dsimp only
  split
  · exact .ok (.update h)
  · exact .error
theorem MemWf.addGrant {w t tid a path store} (h : MemWf s) : MemWf (addGrant s w t tid a path store) := .ite (.update h) h
theorem MemWf.askRace {w t tid a path store kind no item} (h : MemWf s) : MemWf (askRace s w t tid a path store kind no item) := .update h
theorem OutWf.onThread {f} (hf : ∀ t r, MemWf (f t r)) : OutWf (onThread s f) := by
  unfold Machine.onThread
  split
  · exact .fault
  · exact .ite (.next (hf _ _)) .fault
theorem MemWf.putTh {t} (h : MemWf s) : MemWf (putTh s t) := .setTh h
theorem MemWf.writeBack {t d v} (h : MemWf s) : MemWf (writeBack s t d v) := .putTh h
theorem MemWf.goOn {t} (h : MemWf s) : MemWf (goOn s t) := .putTh h
theorem MemWf.trapNow {cause i0 i1 i2} (h : MemWf s) : MemWf (trapNow s cause i0 i1 i2) := .takeTrap h
theorem MemWf.branchTo {t kind taken target word} (h : MemWf s) : MemWf (branchTo s t kind taken target word) := .ite (.trapNow h) (.putTh h)
theorem OutWf.aluOp {d a b f} (h : MemWf s) : OutWf (aluOp s d a b f) := .onThread fun _ _ => .writeBack h
theorem OutWf.immOp {d a f} (h : MemWf s) : OutWf (immOp s d a f) := .onThread fun _ _ => .writeBack h

/-! ## Integer arithmetic -/

theorem OutWf.execLis {d lane i} (h : MemWf s) : OutWf (execLis d lane i s) := .onThread fun _ _ => .writeBack h

/-! ## Control transfer -/

theorem MemWf.rfView {core} (h : MemWf s) : MemWf (rfView s core) := .ite h (.foldl h fun _ _ h => .foldl h fun _ _ h => .wrMem h)
theorem MemWf.rfBack {core} (h : MemWf s) : MemWf (rfBack s core) := .ite h (.foldl h fun _ _ h => .setTh h)
theorem MemWf.spillOut {core slot part} (h : MemWf s) : MemWf (spillOut s core slot part) := .setTh (.wrMem h)
theorem MemWf.fillIn {core slot part slice} (h : MemWf s) : MemWf (fillIn s core slot part slice) := .setTh h
theorem MemWf.sliceDram {q} (h : MemWf s) : MemWf (sliceDram s q) := .ite (.update h) h
theorem MemWf.askSlice {core slot part slice out} (h : MemWf s) : MemWf (askSlice s core slot part slice out) :=
  .unless (.update h) fun h1 => .sliceDram h1
theorem MemWf.callAt {t r target word} (h : MemWf s) : MemWf (callAt s t r target word) :=
  .ite (.trapNow h) <| .ite (.trapNow h) <| .ite (.branchTo h) <| .ite (.trapNow h) <| .ite (.trapNow h) (.branchTo (.askSlice h))
theorem OutWf.execBr {off} (h : MemWf s) : OutWf (execBr off s) := .onThread fun _ _ => .branchTo h
theorem OutWf.execCall {off} (h : MemWf s) : OutWf (execCall off s) := .onThread fun _ _ => .callAt h
theorem OutWf.execBc {c a off} (h : MemWf s) : OutWf (execBc c a off s) := .onThread fun _ _ => .branchTo h
theorem OutWf.execBstS {line off} (h : MemWf s) : OutWf (execBstS line off s) := .onThread fun _ _ => .branchTo h
theorem OutWf.execBstC {line off} (h : MemWf s) : OutWf (execBstC line off s) := .onThread fun _ _ => .branchTo h
theorem OutWf.execBct {k off} (h : MemWf s) : OutWf (execBct k off s) := .onThread fun _ _ => .ite (.trapNow h) (.branchTo h)
theorem OutWf.execJr {a} (h : MemWf s) : OutWf (execJr a s) := .onThread fun _ _ => .branchTo h
theorem OutWf.execCallr {a} (h : MemWf s) : OutWf (execCallr a s) := .onThread fun _ _ => .callAt h
theorem OutWf.execRet (h : MemWf s) : OutWf (execRet s) :=
  .onThread fun _ _ => .ite (.trapNow h) <| .ite (.trapNow h) <| .ite (.branchTo h) <| .ite (.trapNow h) (.branchTo (.askSlice (.drawn h)))
theorem OutWf.execKset {a k} (h : MemWf s) : OutWf (execKset a k s) := .onThread fun _ _ => .goOn h
theorem OutWf.execKrd {d k} (h : MemWf s) : OutWf (execKrd d k s) := .onThread fun _ _ => .writeBack h

/-! ## Prompter loads and stores -/

theorem OkWf.relAdd {core slot part x} (h : MemWf s) : OkWf (relAdd s core slot part x) := by
  unfold Machine.relAdd
  dsimp only
  split
  · exact .error
  · exact .ok (.setVoice (.wrMem h))
theorem MemWf.signStore {core slot src tid base off l} (h : MemWf s) : MemWf (signStore s core slot src tid base off l) := .setVoice h
theorem OkWf.holdStore {core slot part tid base off p l} (h : MemWf s) : OkWf (holdStore s core slot part tid base off p l) :=
  .foldlM h fun _ _ h => .relAdd h
theorem OkWf.undoLine {core slot part addr} (h : MemWf s) : OkWf (undoLine s core slot part addr) := .ite (.ok h) (.relAdd h)
theorem MemWf.transferred {l} (h : MemWf s) : MemWf (transferred s l) := .update h
theorem FstWf.eccBlocks {p l core} (h : MemWf s) : FstWf (eccBlocks s p l core) := by
  unfold Machine.eccBlocks
  split
  · exact .mk h
  · exact .mk (.devLogOn (.transferred h))
  · exact .mk (.devLogOn (.transferred h))
theorem FstWf.eccLog {p n core} (h : MemWf s) : FstWf (eccLog s p n core) := .ite (.mk h) (.eccBlocks h)
theorem FstWf.eccStore {p n core} (h : MemWf s) : FstWf (eccStore s p n core) := .ite (.mk h) (.eccBlocks h)
theorem FstWf.eccRead {p n part core} (h : MemWf s) : FstWf (eccRead s p n part core) := .ite (.eccLog h) (.mk (.queueWith (.fst (.eccLog h))))
theorem MemWf.eccFresh {p n} (h : MemWf s) : MemWf (eccFresh s p n) := .ite (.update h) h
theorem MemWf.walkEcc {core part va} (h : MemWf s) : MemWf (walkEcc s core part va) := .ite (.foldl h fun _ _ h => .fst (.eccBlocks h)) h
theorem MemWf.walkCount {core part va} (h : MemWf s) : MemWf (walkCount s core part va) := .update h
theorem MemWf.translated {core part space va} (h : MemWf s) : MemWf (translated s core part space va) :=
  .ite (.unless (.tlbFill h) fun h1 => .walkEcc (.walkCount h1)) <| .ite (.hostFill h) h
theorem MemWf.launchReq {q space va} (h : MemWf s) : MemWf (launchReq s q space va) := by
  unfold Machine.launchReq
  dsimp only
  split
  · exact .update (.update h)
  · exact .update (.update h)
  · exact .schedule (.update (.update h))
  · exact .update (.update h)
  · exact .schedule (.schedule (.drawn (.update (.update h))))
theorem OutWf.memAccess {d a tid off n store sext} (h : MemWf s) : OutWf (memAccess s d a tid off n store sext) := by
  unfold Machine.memAccess
  refine .onThread fun _ _ => ?_
  dsimp only
  split
  · exact .ite (.killFatal (.translated h)) <| .ite (.killFatal h) (.trapNow h)
  · refine .ite (.putTh (.askRace h)) ?_
    refine .ite ?_ (.putTh (.launchReq (.translated h)))
    refine .ite ?_ (.goOn (.launchReq (.when (.translated h) fun h1 => .signStore h1)))
    split
    · next e => exact .goOn (.of_ok e (.holdStore (.when (.translated h) fun h2 => .signStore h2)))
    · exact .killFatal (.when (.translated h) fun h1 => .signStore h1)
theorem MemWf.holdLines {p n} (h : MemWf s) : MemWf (holdLines s p n) := .ite (.update h) h
theorem MemWf.dropReq {id} (h : MemWf s) : MemWf (dropReq s id) := .update h
theorem MemWf.storeReq {q} (h : MemWf s) : MemWf (storeReq s q) := by
  unfold Machine.storeReq
  split
  · exact .eccFresh (.wrMem h)
  · exact .wrMem h
theorem MemWf.loadReturns {q cause l} (h : MemWf s) : MemWf (loadReturns s q cause l) := .update h
/-- The check of an access, by whether it writes. -/
theorem FstWf.eccAccess {c : Prop} [Decidable c] {p n core} (h : MemWf s) : FstWf ((if c then Machine.eccStore else Machine.eccLog) s p n core) := by
  split
  · exact .eccStore h
  · exact .eccLog h
theorem MemWf.performThread {q t} (h : MemWf s) : MemWf (Machine.performThread s q t) := by
  unfold Machine.performThread
  have h1 : FstWf ((if q.store then Machine.eccStore else Machine.eccLog) (Machine.holdLines s q.place (if q.store then q.bytes.length else q.len))
    q.place (if q.store then q.bytes.length else q.len) q.core) := .eccAccess (.holdLines h)
  refine .ite (.killFatal (.dropReq h)) (.ite (.killFatal (.dropReq h1)) (.ite ?_ (.ite (.schedule (.update h1)) (.loadReturns (.dropReq h1)))))
  split
  · exact .killFatal (.dropReq h1)
  · next e => exact .dropReq (.storeReq (.of_ok e (.ite (.undoLine h1) (.ok h1))))
theorem MemWf.moveSlice {q t slice} (h : MemWf s) : MemWf (moveSlice s q t slice) := by
  unfold Machine.moveSlice
  refine .ite (.when (.update h) fun h1 => .sliceDram h1) ?_
  refine .ite (.eccFresh (.spillOut (.dropReq h))) ?_
  split
  · next e => exact .fillIn (.dropReq (.of_fst e (.eccLog h)))
  · next e => exact .killFatal (.dropReq (.of_fst e (.eccLog h)))
theorem MemWf.performById {id again} (h : MemWf s) : MemWf (performById s id again) := by
  unfold Machine.performById
  split
  · exact h
  · refine .ite (.ite (.schedule h) (.loadReturns (.dropReq h))) ?_
    refine .ite h ?_
    refine .ite (.ite h (.schedule h)) ?_
    split
    · exact .performThread h
    · exact .moveSlice h
    · exact h
theorem OutWf.execPrompterPerform (h : MemWf s) : OutWf (execPrompterPerform s) := .next (.performById h)

end Sys2Proof.Machine
end

section
/-! SUPPORT. The pool: every operation of an element, of the array and of the epilogue keeps the memories canonical. -/

set_option Elab.async false

namespace Sys2Proof.Machine

variable {s : State}

/-! ## Engine control -/

theorem MemWf.deliverBy {k n} (h : MemWf s) : MemWf (deliverBy s k n) := .update h
theorem OutWf.execKstart {a sl} (h : MemWf s) : OutWf (execKstart a sl s) :=
  .onThread fun _ _ => .ite (.trapNow h) <| .ite (.trapNow h) <| .ite (.goOn h) (.goOn (.deliverBy (.setTh (.setReg h))))
theorem OutWf.execKwait {sl} (h : MemWf s) : OutWf (execKwait sl s) := .onThread fun _ _ => .ite (.goOn h) (.putTh h)
theorem OutWf.execKstop {sl} (h : MemWf s) : OutWf (execKstop sl s) :=
  .onThread fun _ _ => .ite (.trapNow h) <| .ite (.goOn (.setReg h)) (.goOn h)
theorem MemWf.clearPage {k page} (h : MemWf s) : MemWf (clearPage s k page) := .foldl h fun _ _ h => .setEl h
theorem MemWf.freshPage {core slot page p} (h : MemWf s) : MemWf (freshPage s core slot page p) := .update h
theorem OutWf.execCfgld {p a b sl} (h : MemWf s) : OutWf (execCfgld p a b sl s) := by
  unfold Machine.execCfgld
  refine .onThread fun _ _ => ?_
  refine .ite (.trapNow h) ?_
  refine .ite (.trapNow h) ?_
  refine .ite (.trapNow h) ?_
  refine .ite (.killFatal h) ?_
  split
  · exact .killFatal h
  · dsimp only
    split
    · exact .killFatal h
    · exact .goOn (.setReg (.freshPage (.ite (.clearPage h) h)))
theorem OutWf.execConstw {a b j sl} (h : MemWf s) : OutWf (execConstw a b j sl s) := by
  unfold Machine.execConstw
  refine .onThread fun _ _ => ?_
  refine .ite ?_ (.ite (.trapNow h) <| .ite (.trapNow h) (.goOn (.update (.setReg h))))
  split
  · exact .trapNow h
  · exact .ite (.trapNow h) (.goOn (.update h))
theorem OutWf.execVsel {a sl} (h : MemWf s) : OutWf (execVsel a sl s) :=
  .onThread fun _ _ => .ite (.trapNow h) <| .ite (.trapNow h) (.goOn (.setReg h))
theorem OutWf.execEpsel {a sl} (h : MemWf s) : OutWf (execEpsel a sl s) := by
  unfold Machine.execEpsel
  refine .onThread fun _ _ => ?_
  refine .ite (.trapNow h) ?_
  refine .ite (.trapNow h) ?_
  refine .ite (.trapNow h) ?_
  refine .ite (.killFatal h) ?_
  split
  · exact .killFatal h
  · exact .goOn (.schedule h)

/-! ## The issue of an element -/

theorem MemWf.elemFault {c eng cause i0 i1 i2} (h : MemWf s) : MemWf (elemFault s c eng cause i0 i1 i2) := .setReg h
theorem MemWf.passThrough {x c rt} (h : MemWf s) : MemWf (passThrough s x c rt) :=
  .foldl h fun _ _ h => .ite (.setEl (.ite h (.guardDrop h))) h
theorem MemWf.launchResult {x c lat rt t req} (h : MemWf s) : MemWf (launchResult s x c lat rt t req) := .setEl h
theorem OutWf.onElem {opc x pred f} (h : MemWf s) (hf : ∀ c s, MemWf s → MemWf (f c s)) : OutWf (Machine.onElem s opc x pred f) := by
  unfold Machine.onElem
  dsimp only
  split
  · exact .fault
  split
  · exact .next (.elemFault h)
  · exact .ite (.next (.elemFault h)) (.next (hf _ _ (.passThrough h)))
theorem OutWf.dataOp {opc x f} (h : MemWf s) : OutWf (dataOp s opc x f) := .onElem h fun _ _ h => .launchResult h
theorem OutWf.truthOp {opc x psrc f} (h : MemWf s) : OutWf (truthOp s opc x psrc f) := .onElem h fun _ _ h => .launchResult h
theorem MemWf.putElem {c f} (h : MemWf s) : MemWf (putElem s c f) := .setEl h

/-! ## Element opcodes -/

theorem OutWf.execENop {x} (h : MemWf s) : OutWf (execENop x s) := .onElem h fun _ _ h => h
theorem OutWf.chooseOp {opc x pick psrc} (h : MemWf s) : OutWf (chooseOp s opc x pick psrc) := .onElem h fun _ _ h => .launchResult h
theorem OutWf.execEVote3 {x} (h : MemWf s) : OutWf (execEVote3 x s) := .onElem h fun _ _ h => .launchResult (.ite (.setReg h) h)
theorem OutWf.execEDelay {x} (h : MemWf s) : OutWf (Machine.execEDelay x s) := by
  unfold Machine.execEDelay
  exact .onElem h fun _ _ h => .launchResult (.when h fun h => .putElem h)
theorem OutWf.execEFlag {x} (h : MemWf s) : OutWf (execEFlag x s) := .onElem h fun _ _ h => .ite (.setTh h) h
theorem OutWf.execETrap {x} (h : MemWf s) : OutWf (execETrap x s) := .onElem h fun _ _ h => .ite (.elemFault h) h
theorem OutWf.execECvtSr {x} (h : MemWf s) : OutWf (execECvtSr x s) := .onElem h fun _ _ h => .launchResult (.ite (.putElem h) h)
theorem OutWf.execEQmax {x} (h : MemWf s) : OutWf (Machine.execEQmax x s) := by
  unfold Machine.execEQmax
  exact .onElem h fun _ _ h => .launchResult (.unless h fun h => .putElem h)
theorem OutWf.execEQmx {x} (h : MemWf s) : OutWf (Machine.execEQmx x s) := by
  unfold Machine.execEQmx
  exact .onElem h fun _ _ h => .launchResult (.when h fun h => .putElem h)

/-! ## Element ports -/

theorem MemWf.postPort {q due} (h : MemWf s) : MemWf (postPort s q due) := by
  unfold Machine.postPort
  split
  · exact .setCore h
  · exact h
theorem MemWf.launchPort {q} (h : MemWf s) : MemWf (launchPort s q) := by
  unfold Machine.launchPort
  dsimp only
  split
  · exact .postPort (.update h)
  · exact .update h
  · exact .schedule (.update h)
theorem MemWf.portIssue {opc x c} (h : MemWf s) : MemWf (portIssue s opc x c) := by
  unfold Machine.portIssue
  dsimp only
  split
  · exact .elemFault h
  · refine .ite (.launchResult (.launchPort h)) ?_
    refine .ite (.launchPort h) ?_
    refine .ite (.launchPort (.signStore h)) ?_
    split
    · next e => exact .of_ok e (.holdStore (.signStore h))
    · exact .elemFault (.signStore h)
theorem OutWf.portOp {opc x} (h : MemWf s) : OutWf (portOp s opc x) := .onElem h fun _ _ h => .ite (.portIssue h) <| .ite (.launchResult h) h
theorem MemWf.reqFault {q slot eng cause i0 i1 i2} (h : MemWf s) : MemWf (reqFault s q slot eng cause i0 i1 i2) :=
  .ite (.dropReq h) (.setReg (.dropReq h))
theorem MemWf.asking {q} (h : MemWf s) : MemWf (asking s q) := .update h
theorem MemWf.performPort {q slot} (h : MemWf s) : MemWf (Machine.performPort s q slot) := by
  unfold Machine.performPort
  refine .ite (.reqFault h) (.ite (.askRace (.asking h)) ?_)
  split
  · next e => exact .reqFault (.of_fst e (.eccAccess h))
  · next e => exact .reqFault (.of_fst e (.eccAccess h))
  next e =>
  have h1 := MemWf.of_fst e (.eccAccess h)
  refine .ite ?_ (.unless (.update h1) fun h => .schedule h)
  split
  · exact .reqFault h1
  · next e => exact .dropReq (.storeReq (.of_ok e (.ite (.undoLine h1) (.ok h1))))
theorem OutWf.execPortPerform (h : MemWf s) : OutWf (execPortPerform s) := by
  unfold Machine.execPortPerform
  refine .next ?_
  split
  · exact h
  · split
    · exact .ite h <| .ite (.postPort h) <| .ite (.schedule h) (.performPort h)
    · exact h
theorem OutWf.execPortReply (h : MemWf s) : OutWf (execPortReply s) := by
  unfold Machine.execPortReply
  refine .next ?_
  split
  · exact h
  · split
    · exact .ite (.schedule h) (.update h)
    · exact h
theorem OutWf.execStallFreeze (h : MemWf s) : OutWf (execStallFreeze s) := .next (.ite h (.setReg h))

/-! ## Array opcodes -/

theorem OkWf.raceSpan {w tid path store a n} (h : MemWf s) : OkWf (raceSpan s w tid path store a n) := .foldlM h fun _ _ h => .raceCheck h
theorem OkWf.raceRow {w tid path store i0 i1 n} (h : MemWf s) : OkWf (raceRow s w tid path store i0 i1 n) := .raceSpan h
theorem OkWf.raceScale {w tid path b i1 n} (h : MemWf s) : OkWf (raceScale s w tid path b i1 n) := .ite (.raceRow h) (.ok h)
theorem FstWf.eccSpans {core l} (h : MemWf s) : FstWf (eccSpans s core l) := by
  refine .foldl (.mk h) fun _ _ h => ?_
  split
  · next e => exact .mk (.fst (.eccLog h))
  · exact h
theorem OutWf.onArray {opc x caps f} (h : MemWf s) (hf : ∀ c s, MemWf s → MemWf (f c s)) : OutWf (onArray s opc x caps f) := by
  refine .onElem h fun c s h => ?_
  split
  · exact .elemFault h
  · exact .ite (hf _ _ h) h
theorem MemWf.seqFault {c word} (h : MemWf s) : MemWf (seqFault s c word) := .elemFault h
theorem MemWf.opFault {c word} (h : MemWf s) : MemWf (opFault s c word) := .elemFault h
theorem MemWf.postAt {c when_ kind i u} (h : MemWf s) : MemWf (postAt s c when_ kind i u) := .schedule h
theorem MemWf.postAll {c kind i l} (h : MemWf s) : MemWf (postAll s c kind i l) := .foldl h fun _ _ h => .postAt h
theorem OutWf.execAMode {x} (h : MemWf s) : OutWf (execAMode x s) :=
  .onArray h fun _ _ h => .ite (.seqFault h) <| .ite (.opFault h) <| .ite (.opFault h) (.setReg h)
theorem OutWf.wpre {x active caps} (h : MemWf s) : OutWf (wpre s x active caps) := by
  unfold Machine.wpre
  refine .onArray h fun _ _ h => ?_
  dsimp only
  split
  · exact .seqFault h
  · exact .ite (.seqFault h) <| .ite (.opFault h) (.schedule (.postAll (.setReg (.update h))))
theorem OutWf.execAWswap {x} (h : MemWf s) : OutWf (execAWswap x s) := .onArray h fun _ _ h => .ite (.seqFault h) (.setReg h)
theorem OutWf.execAPass {x} (h : MemWf s) : OutWf (execAPass x s) := by
  unfold Machine.execAPass
  refine .onArray h fun _ _ h => ?_
  dsimp only
  split
  · exact .seqFault h
  · exact .ite (.seqFault h) <| .ite (.opFault h) <| .ite (.opFault h) <| .ite (.opFault h) <| .ite (.opFault h) <| .ite (.opFault h) <|
      .ite (.opFault h) (.schedule (.postAll (.when (.postAll (.setReg (.update h))) fun h1 => .foldl h1 fun _ _ h1 => .schedule h1)))
theorem OutWf.execAClr {x} (h : MemWf s) : OutWf (execAClr x s) :=
  .onArray h fun _ _ h => .ite (.seqFault h) <| .ite (.opFault h) <| .ite (.opFault h) <| .ite (.opFault h) (.postAll (.setReg (.update h)))
theorem OutWf.execABind {x} (h : MemWf s) : OutWf (execABind x s) := by
  unfold Machine.execABind
  refine .onArray h fun _ _ h => ?_
  refine .ite (.seqFault h) ?_
  refine .ite (.opFault h) ?_
  split
  · exact .opFault h
  · exact .setReg h
theorem OutWf.execABindOff {x} (h : MemWf s) : OutWf (execABindOff x s) := .onArray h fun _ _ h => .ite (.seqFault h) (.setReg h)
theorem MemWf.arrFault {core slot pos cause i0 i1 i2} (h : MemWf s) : MemWf (arrFault s core slot pos cause i0 i1 i2) := .setReg h
theorem MemWf.arrEcc {core slot pos p} (h : MemWf s) : MemWf (arrEcc s core slot pos p) := .arrFault h
theorem MemWf.arrAddr {core slot pos cause tid e} (h : MemWf s) : MemWf (arrAddr s core slot pos cause tid e) := .arrFault h
theorem MemWf.arrStop {core slot pos cause tid e} (h : MemWf s) : MemWf (arrStop s core slot pos cause tid e) := .ite (.arrFault h) (.arrAddr h)
theorem OutWf.execWeightFetch (h : MemWf s) : OutWf (Machine.execWeightFetch s) := by
  unfold Machine.execWeightFetch
  refine .next ?_
  split
  · refine .ite h ?_
    dsimp only
    split
    · exact .arrStop h
    · exact .arrFault h
    next e =>
    have h1 := MemWf.of_ok e (.foldlM h fun _ _ h => .raceRow h)
    split
    · next e => exact .arrEcc (.of_fst e (.eccSpans h1))
    next e =>
    have h2 := MemWf.of_fst e (.eccSpans h1)
    exact .ite (.arrFault (.setReg h2)) (.setReg h2)
  · exact h
theorem OutWf.execPreloadComplete (h : MemWf s) : OutWf (execPreloadComplete s) := by
  unfold Machine.execPreloadComplete
  refine .next ?_
  split
  · refine .ite h ?_
    refine .ite (.setReg h) ?_
    dsimp only
    split
    · exact .arrAddr (.setReg h)
    · exact .arrFault (.setReg h)
    · next e => exact .setReg (.of_ok e (.ite (.ok h) (.raceScale h)))
  · exact h
theorem MemWf.rowArrives {core slot id m l} (h : MemWf s) : MemWf (rowArrives s core slot id m l) := .setReg h
theorem OkWf.raceRows {w g p rows} (h : MemWf s) : OkWf (raceRows s w g p rows) :=
  .ite (.ok h) (.foldlM h fun _ _ h => .bind (.raceRow h) fun _ h => .ite (.raceScale h) (.ok h))
theorem OutWf.execAOperandFetch (h : MemWf s) : OutWf (Machine.execAOperandFetch s) := by
  unfold Machine.execAOperandFetch
  refine .next ?_
  split
  · exact h
  refine .ite ?_ (.ite ?_ ?_)
  · split
    · exact h
    · exact .rowArrives h
  · dsimp only
    split
    · exact .arrAddr h
    · exact .arrFault h
    · next e => exact .foldl (.of_ok e (.raceRows h)) fun _ _ h => .update h
  · dsimp only
    split
    · exact .arrStop h
    · exact .arrFault h
    next e =>
    have h1 := MemWf.of_ok e (.raceRows h)
    split
    · next e => exact .arrEcc (.of_fst e (.eccSpans h1))
    next e =>
    refine .foldl (.of_fst e (.eccSpans h1)) fun _ _ h => ?_
    split
    · exact .rowArrives h
    · exact h
theorem MemWf.performARow {q slot} (h : MemWf s) : MemWf (performARow s q slot) := by
  unfold Machine.performARow
  dsimp only
  split
  · next e => exact .reqFault (.of_fst e (.eccLog h))
  · next e => exact .foldl (.update (.of_fst e (.eccLog h))) fun _ _ h => .schedule h
theorem MemWf.aRowBack {q slot pass m} (h : MemWf s) : MemWf (aRowBack s q slot pass m) := by
  unfold Machine.aRowBack
  refine .ite (.update h) ?_
  split
  · exact .update h
  · dsimp only
    split
    · exact .arrAddr (.update (.update h))
    · exact .rowArrives (.update (.update h))
theorem OutWf.execPeerRequest (h : MemWf s) : OutWf (execPeerRequest s) := by
  unfold Machine.execPeerRequest
  refine .next ?_
  split
  · exact h
  · split
    · exact .ite h (.performThread h)
    · exact .ite h (.performPort h)
    · exact .ite (.ite (.schedule h) (.aRowBack h)) <| .ite h <| .ite (.reqFault h) (.performARow h)
    · exact h
theorem OkWf.undoSpan {core g a n} (h : MemWf s) : OkWf (undoSpan s core g a n) := .ite (.ok h) (.foldlM h fun _ _ h => .undoLine h)
theorem MemWf.relStop {core slot g pos cause} (h : MemWf s) : MemWf (relStop s core slot g pos cause) := .arrFault h
/-- The functions that the cases look at are held as variables: left as they are, the kernel compares two stuck cases by computing their subjects,
down to comparisons with 64-bit addresses. -/
theorem OutWf.execAcAccumulate (h : MemWf s) : OutWf (Machine.execAcAccumulate s) := by
  unfold Machine.execAcAccumulate
  obtain ⟨span, hs⟩ : ∃ f, f = acSpan := exists_eq
  obtain ⟨race, hr⟩ : ∃ f, f = Machine.raceSpan := exists_eq
  obtain ⟨ecc, he⟩ : ∃ f, f = Machine.eccSpans := exists_eq
  obtain ⟨undo, hu⟩ : ∃ f, f = Machine.undoSpan := exists_eq
  rw [← hs, ← hr, ← he, ← hu]
  refine .next ?_
  split
  · exact h
  extract_lets
  split
  · exact .arrAddr h
  refine .ite (.arrFault h) ?_
  split
  · exact .arrFault h
  next e =>
  have h1 := MemWf.of_ok e (hr ▸ .raceSpan h)
  split
  · next e => exact .arrEcc (.of_fst e (he ▸ .eccSpans h1))
  next e =>
  have h2 := MemWf.of_fst e (he ▸ .eccSpans h1)
  split
  · exact .relStop h2
  · next e => exact .setReg (.wrDev (.of_ok e (hu ▸ .undoSpan h2)))
theorem OutWf.execPassComplete (h : MemWf s) : OutWf (execPassComplete s) := .next (.setReg h)
/-- The functions that the cases look at are variables, as in `execAcAccumulate`. -/
theorem OutWf.execAclrZeroWrite (h : MemWf s) : OutWf (Machine.execAclrZeroWrite s) := by
  unfold Machine.execAclrZeroWrite
  obtain ⟨span, hs⟩ : ∃ f, f = acSpan := exists_eq
  obtain ⟨race, hr⟩ : ∃ f, f = Machine.raceSpan := exists_eq
  obtain ⟨ecc, he⟩ : ∃ f, f = Machine.eccStore := exists_eq
  obtain ⟨undo, hu⟩ : ∃ f, f = Machine.undoSpan := exists_eq
  rw [← hs, ← hr, ← he, ← hu]
  refine .next ?_
  split
  · exact h
  extract_lets
  refine .foldl h fun _ _ h => ?_
  split
  · exact .arrAddr h
  refine .ite (.arrFault h) ?_
  split
  · exact .arrFault h
  next e =>
  have h1 := MemWf.of_ok e (hr ▸ .raceSpan h)
  split
  · next e => exact .arrEcc (.of_fst e (he ▸ .eccStore h1))
  next e =>
  have h2 := MemWf.of_fst e (he ▸ .eccStore h1)
  split
  · exact .relStop h2
  · next e => exact .eccFresh (.wrDev (.of_ok e (hu ▸ .undoSpan h2)))

/-! ## Drains and epilogue words -/

theorem MemWf.outTiles {core part tid nd o0 m set_ id} (h : MemWf s) : MemWf (outTiles s core part tid nd o0 m set_ id) :=
  .ite h (.foldl h fun _ _ h => .ite (.resDone h) (.resClear h))
theorem MemWf.startDrain {d} (h : MemWf s) : MemWf (startDrain s d) := .schedule (.schedule (.setCore h))
theorem OutWf.execADrain {x} (h : MemWf s) : OutWf (execADrain x s) :=
  .onArray h fun _ _ h => .ite (.seqFault h) <| .ite (.opFault h) <| .ite (.opFault h) <| .ite (.opFault h) <|
    .unless (.setCore (.unless (.when (.update h) fun h1 => .outTiles h1) fun h1 => .postNotice h1)) fun h1 => .startDrain h1
theorem OutWf.execDrainStart (h : MemWf s) : OutWf (execDrainStart s) := by
  unfold Machine.execDrainStart
  refine .next ?_
  refine .ite (.setCore h) ?_
  split
  · exact .setCore h
  · exact .startDrain (.setCore h)
theorem MemWf.postFab {core kind slot row col i u} (h : MemWf s) : MemWf (postFab s core kind slot row col i u) := by
  unfold Machine.postFab
  dsimp only
  split
  · exact .unless (.when (.setCore h) fun h1 => .schedule h1) fun h1 => .schedule h1
  · exact .setCore h
theorem MemWf.epiFault {d i col cause i0 i1 i2} (h : MemWf s) : MemWf (epiFault s d i col cause i0 i1 i2) := .setReg h
theorem OutWf.execEpilogueBeat (h : MemWf s) : OutWf (Machine.execEpilogueBeat s) := by
  unfold Machine.execEpilogueBeat
  refine .next ?_
  split
  · exact h
  dsimp only
  split
  · exact .epiFault h
  · exact .ite (.epiFault h) (.epiFault h)
  refine .ite (.epiFault h) ?_
  split
  · exact .epiFault h
  next e =>
  have h1 := MemWf.of_ok e (.bind (.raceSpan h) fun _ h => .foldlM h fun _ _ h => .raceRow h)
  split
  · next e => exact .epiFault (.of_fst e (.eccSpans h1))
  next e =>
  have h2 := MemWf.of_fst e (.eccSpans h1)
  exact .ite (.setCore h2) (.next (.setCore (.setCore h2)))
theorem MemWf.setY {core l y v} (h : MemWf s) : MemWf (setY s core l y v) := .setCore h
theorem OutWf.onBeat {f} (h : MemWf s) (hf : ∀ b s, MemWf s → MemWf (f b s)) : OutWf (Machine.onBeat s f) := by
  unfold Machine.onBeat
  dsimp only
  split
  · exact .fault
  split
  · exact .fault
  · exact .next (.next (.setCore (hf _ _ h)))
theorem OutWf.laneWord {y f} (h : MemWf s) : OutWf (laneWord s y f) := .onBeat h fun _ _ h => .foldl h fun _ _ h => .setY h
theorem OutWf.execPErd {d} (h : MemWf s) : OutWf (execPErd d s) :=
  .onBeat h fun _ _ h => .foldl h fun _ _ h => .when (.setY h) fun h1 => .setCore h1
theorem OutWf.execPRrev {d a p} (h : MemWf s) : OutWf (execPRrev d a p s) := by
  unfold Machine.execPRrev
  refine .onBeat h fun _ _ h => ?_
  refine .foldl h fun _ _ h => ?_
  dsimp only
  split
  · split
    · exact .setY h
    · exact h
  · refine .setCore ?_
    split
    · exact .setY h
    · exact h
theorem OutWf.execPSclx {d a f} (h : MemWf s) : OutWf (execPSclx d a f s) := .laneWord h
theorem OutWf.execPCvf {d a f rm} (h : MemWf s) : OutWf (execPCvf d a f rm s) := .laneWord h
theorem OutWf.execPBias {d a tid} (h : MemWf s) : OutWf (execPBias d a tid s) := .laneWord h
theorem OutWf.pairWord {d a b fp fi ff} (h : MemWf s) : OutWf (pairWord s d a b fp fi ff) := .laneWord h
theorem OutWf.execPClmp {d a f} (h : MemWf s) : OutWf (execPClmp d a f s) := .laneWord h
theorem OutWf.execPRelu {d a fp} (h : MemWf s) : OutWf (execPRelu d a fp s) := .laneWord h
theorem OutWf.execPElut {d a} (h : MemWf s) : OutWf (execPElut d a s) := .laneWord h
theorem MemWf.addFlags {b fl} (h : MemWf s) : MemWf (addFlags s b fl) := .setCore h
theorem OutWf.execPQnt {d a f rm} (h : MemWf s) : OutWf (execPQnt d a f rm s) :=
  .onBeat h fun _ _ h => .ite (.addFlags (.foldl h fun _ _ h => .setY h)) (.addFlags (.foldl h fun _ _ h => .setY h))
theorem OutWf.execPEst {a f} (h : MemWf s) : OutWf (execPEst a f s) := .onBeat h fun _ _ h => .setCore h
theorem OutWf.execPEbyp {a} (h : MemWf s) : OutWf (execPEbyp a s) := .onBeat h fun _ _ h => .setCore h
theorem OutWf.execPEsum {d a fp} (h : MemWf s) : OutWf (execPEsum d a fp s) :=
  .onBeat h fun _ _ h => .foldl (.foldl h fun _ _ h => .setY h) fun _ _ h => .setY h
theorem OutWf.execPEsel {d a b c} (h : MemWf s) : OutWf (execPEsel d a b c s) := .laneWord h
theorem OutWf.execPEmov {d a} (h : MemWf s) : OutWf (execPEmov d a s) := .laneWord h
theorem OutWf.execPEflg {a line} (h : MemWf s) : OutWf (execPEflg a line s) :=
  .onBeat h fun _ _ h => .when (.ite (.schedule h) h) fun h1 => .schedule h1
theorem MemWf.regRecord {core slot w} (h : MemWf s) : MemWf (regRecord s core slot w) := by
  unfold Machine.regRecord
  dsimp only
  split <;> exact .queueWith h
theorem MemWf.beatEvent {b e} (h : MemWf s) : MemWf (beatEvent b s e) :=
  .ite (.setReg (.when (.setCore h) fun h1 => .soon h1)) (.regRecord (.when (.setCore h) fun h1 => .soon h1))
theorem OutWf.execPEend (h : MemWf s) : OutWf (execPEend s) := by
  unfold Machine.execPEend
  dsimp only
  split
  · exact .fault
  · split
    · exact .fault
    · exact .next (.setCore (.foldl h fun _ _ h => .beatEvent h))
theorem MemWf.storeElem {d i x} (h : MemWf s) : MemWf (Machine.storeElem s d i x) := by
  unfold Machine.storeElem
  dsimp only
  split
  · exact .epiFault h
  split
  · exact .epiFault h
  next e =>
  have h1 := MemWf.of_ok e (.raceCheck h)
  split
  · next e => exact .epiFault (.of_fst e (.eccStore h1))
  next e =>
  have h2 := MemWf.of_fst e (.eccStore h1)
  split
  · exact .epiFault (.when h2 fun h => .signStore h)
  · next e => exact .wrMem (.of_ok e (.undoSpan (.when h2 fun h => .signStore h)))
theorem OutWf.execEpilogueStore (h : MemWf s) : OutWf (execEpilogueStore s) := by
  unfold Machine.execEpilogueStore
  refine .next ?_
  split
  · exact .ite (.epiFault h) <| .unless (.setCore (.setReg (.foldl h fun _ _ h => .storeElem h))) fun h1 => .next h1
  · exact h
theorem OutWf.execDrainComplete (h : MemWf s) : OutWf (execDrainComplete s) := by
  unfold Machine.execDrainComplete
  refine .next ?_
  split
  · exact h
  · exact .ite h (.setCore (.unless (.when (.ite (.setReg h) h) fun h1 => .outTiles h1) fun h1 => .postNotice h1))

end Sys2Proof.Machine
end

section
/-! SUPPORT. Synchronisation and copies keep the memories canonical. -/

set_option Elab.async false

namespace Sys2Proof.Machine

variable {s : State}

/-! ## Special registers -/

theorem MemWf.seedRegion {core slot x} (h : MemWf s) : MemWf (seedRegion s core slot x) :=
  .foldl h fun _ _ h => .foldl h fun _ _ h => .setEl h
theorem MemWf.seedElements {core slot x} (h : MemWf s) : MemWf (seedElements s core slot x) := .ite h <| .ite (.setReg h) (.seedRegion h)
theorem OutWf.asSupervisor {i f} (h : MemWf s) (hf : ∀ t r, MemWf (f t r)) : OutWf (asSupervisor s i f) :=
  .onThread fun _ _ => .ite (hf _ _) (.trapNow h)

/-! ## Releases, fences and race tags -/

theorem MemWf.widenAt {w src dst die} (h : MemWf s) : MemWf (widenAt s w src dst die) := .update h
theorem MemWf.widen {w src dst} (h : MemWf s) : MemWf (widen s w src dst) := .widenAt h
theorem MemWf.askWiden {w slot src dst} (h : MemWf s) : MemWf (askWiden s w slot src dst) := .foldl h fun _ _ h => .update h
theorem MemWf.fenceArrives {t r src dst} (h : MemWf s) : MemWf (fenceArrives s t r src dst) := .ite (.goOn (.widen h)) (.putTh (.askWiden h))
theorem MemWf.echoBy {t r d v lead} (h : MemWf s) : MemWf (echoBy s t r d v lead) := .ite (.writeBack h) (.putTh (.update h))
theorem MemWf.echoGive {hk die y j v} (h : MemWf s) : MemWf (echoGive s hk die y j v) := .foldl (.setHome h) fun _ _ h => .reply h
theorem MemWf.echoLead {hk die} (h : MemWf s) : MemWf (echoLead s hk die) := by
  unfold Machine.echoLead
  dsimp only
  split
  · exact .echoGive h
  · exact h
theorem MemWf.echoServe {q} (h : MemWf s) : MemWf (echoServe s q) := by
  unfold Machine.echoServe
  dsimp only
  split
  · exact .reply (.setHome h)
  · exact .ite (.setHome h) (.echoGive h)
theorem MemWf.echoRead {t r d v} (h : MemWf s) : MemWf (echoRead s t r d v) := .echoBy h
theorem MemWf.comparePoint {t r f} (h : MemWf s) (hf : ∀ b, MemWf (f b)) : MemWf (comparePoint s t r f) := by
  unfold Machine.comparePoint
  refine .ite (hf _) ?_
  split
  · exact hf _
  · exact .putTh h

/-! ## The sync engines -/

theorem OutWf.steer {f} (h : MemWf s) (hf : ∀ s c, MemWf s → MemWf (f s c)) : OutWf (steer s f) :=
  .onThread fun _ _ => .ite (.goOn (hf _ _ h)) (.trapNow h)
theorem MemWf.setStage {c n} (h : MemWf s) : MemWf (setStage s c n) := .setCopier h
theorem MemWf.cancelBank {core k} (h : MemWf s) : MemWf (cancelBank s core k) := .cancelWhere (.setCopier h)
theorem OutWf.execQarm (h : MemWf s) : OutWf (execQarm s) := .steer h fun _ _ h => .setCopier h
theorem OutWf.execQsel {k} (h : MemWf s) : OutWf (execQsel k s) :=
  .steer h fun _ _ h => .ite h <| .unless (.setCopier h) fun h1 => .cancelBank h1
theorem OutWf.execQcancel {k} (h : MemWf s) : OutWf (execQcancel k s) := .steer h fun _ _ h => .ite h (.cancelBank h)
theorem OutWf.execStage (h : MemWf s) : OutWf (execStage s) := .steer h fun _ _ h => .setStage h
theorem OutWf.execStageset {a} (h : MemWf s) : OutWf (execStageset a s) := .steer h fun _ _ h => .setStage h
theorem MemWf.sendSync {t r home op arg val cmp d key} (h : MemWf s) : MemWf (sendSync s t r home op arg val cmp d key) := .putTh (.update h)
theorem MemWf.releaseThen {t r s'} (h : MemWf s) (h' : MemWf s') : MemWf (releaseThen s t r s') := by
  unfold Machine.releaseThen
  split
  · exact h'
  · exact .ite h' h
  · exact .ite h' (.putTh h)
theorem OutWf.phaserOp {a op val d f} (h : MemWf s) (hf : ∀ t r s, MemWf s → MemWf (f t r s)) : OutWf (phaserOp s a op val d f) :=
  .onThread fun _ _ => .ite (.trapNow h) (hf _ _ _ (.sendSync h))
theorem OutWf.execPhreg {m a} (h : MemWf s) : OutWf (execPhreg m a s) := .phaserOp h fun _ _ _ h => h
theorem OutWf.signalOp {a op val other} (h : MemWf s) (ho : ∀ t r, MemWf (other t r)) : OutWf (signalOp s a op val other) :=
  .phaserOp h fun _ _ _ h1 => .comparePoint h fun _ => .ite (.releaseThen h h1) (ho _ _)
theorem OutWf.execPhdrop {a} (h : MemWf s) : OutWf (Machine.execPhdrop a s) := by
  refine .phaserOp h fun _ _ _ h1 => ?_
  dsimp only
  split
  · exact .ite h1 (.comparePoint h fun _ => .ite (.releaseThen h h1) (.goOn h))
  · exact h1
theorem OutWf.execPhsig {a} (h : MemWf s) : OutWf (execPhsig a s) := .signalOp h fun _ _ => .goOn h
theorem OutWf.execPhwait {a b} (h : MemWf s) : OutWf (execPhwait a b s) := by
  unfold Machine.execPhwait
  split
  · exact .fault
  · exact .phaserOp h fun _ _ _ h => h
theorem OutWf.execPhsw {a b} (h : MemWf s) : OutWf (execPhsw a b s) := .signalOp h fun _ _ => .sendSync h
theorem OutWf.execPhqry {d a} (h : MemWf s) : OutWf (execPhqry d a s) := .phaserOp h fun _ _ _ h => h
theorem OutWf.counterOp {a op val d} (h : MemWf s) : OutWf (counterOp s a op val d) := by
  unfold Machine.counterOp
  refine .onThread fun _ _ => ?_
  dsimp only
  split
  · exact .trapNow h
  · exact .sendSync h
theorem OutWf.atomicOp {sub d a b wide o sc} (h : MemWf s) : OutWf (atomicOp s sub d a b wide o sc) := by
  unfold Machine.atomicOp
  refine .onThread fun _ _ => ?_
  refine .ite (.trapNow h) ?_
  refine .ite (.trapNow h) ?_
  split
  · exact .trapNow h
  · exact .when (.ite (.sendSync (.setVoice h)) (.sendSync h)) fun h1 => .comparePoint h fun _ => .releaseThen h h1
theorem FstWf.atomicDo {part sub addr y c wide} (h : MemWf s) : FstWf (atomicDo s part sub addr y c wide) := .mk (.putObj h)
theorem FstWf.phaserServe {q} (h : MemWf s) : FstWf (phaserServe s q) := by
  unfold Machine.phaserServe
  refine .ite (.mk h) ?_
  split
  · refine .ite (.mk h) ?_
    refine .ite (.mk h) ?_
    split
    · exact .mk h
    · exact .ite (.mk (.putPh h)) (.mk (.setPh h))
  · exact .mk h
  · split
    · exact .mk h
    · exact .ite (.mk (.putPh h)) <| .ite (.ite (.mk h) (.mk (.putPh h))) <| .ite (.ite (.mk h) <| .ite (.mk h) (.mk (.setPh h))) <|
        .ite (.mk h) <| .ite (.mk (.putPh h)) (.mk (.setPh (.putPh h)))
theorem MemWf.outAdd {k n} (h : MemWf s) : MemWf (outAdd s k n) := .putObj h
theorem MemWf.objFail {k cause} (h : MemWf s) : MemWf (objFail s k cause) := .putObj h
theorem MemWf.objDone {k flags} (h : MemWf s) : MemWf (objDone s k flags) := .putObj h
theorem MemWf.objDigest {k d} (h : MemWf s) : MemWf (objDigest s k d) := .ite (.putObj h) <| .ite (.putObj h) (.objFail h)
theorem FstWf.counterServe {q} (h : MemWf s) : FstWf (counterServe s q) := by
  unfold Machine.counterServe
  dsimp only
  split
  · exact .ite (.mk h) (.mk (.update h))
  · exact .ite (.mk h) (.mk (.putObj h))
  · exact .mk h
  · exact .mk h
theorem MemWf.groupReply {die v l} (h : MemWf s) : MemWf (groupReply s die v l) := .foldl h fun _ _ h => .reply h
theorem MemWf.groupFail {core t voices lead other addr} (h : MemWf s) : MemWf (groupFail s core t voices lead other addr) := .killFatal h
theorem MemWf.groupServe {q} (h : MemWf s) : MemWf (groupServe s q) := by
  unfold Machine.groupServe
  dsimp only
  split
  · exact .ite (.killFatal h) (.setHome h)
  · split
    · exact .ite (.groupReply h) (.groupFail h)
    · split
      · exact .ite (.setHome h) (.groupFail h)
      · split
        · exact .groupReply (.setHome (.putObj h))
        · exact .groupFail (.groupReply (.setHome (.putObj h)))
theorem MemWf.ackStep4 {q} (h : MemWf s) : MemWf (ackStep4 s q) := .schedule h
theorem MemWf.raceAnswer {q bad} (h : MemWf s) : MemWf (raceAnswer s q bad) := by
  unfold Machine.raceAnswer
  dsimp only
  split
  · exact .update h
  · exact .schedule (.update h)
  · split
    · exact h
    · exact .schedule (.setHome h)
  · exact .schedule (.setCopier h)
theorem MemWf.raceServe {q} (h : MemWf s) : MemWf (raceServe s q) := by
  unfold Machine.raceServe
  dsimp only
  split
  · next e => exact .raceAnswer (.addGrant (.of_ok e (.raceCheck h)))
  · exact .raceAnswer h
theorem MemWf.digestAccepted {q} (h : MemWf s) : MemWf (digestAccepted s q) := by
  unfold Machine.digestAccepted
  split
  · exact .unless (.setCopier h) fun h1 => .phSub h1
  · exact h
theorem MemWf.readObj {q} (h : MemWf s) : MemWf (readObj s q) := by
  unfold Machine.readObj
  split
  · exact h
  · exact .fst (.eccRead h)
theorem MemWf.serve {q} (h : MemWf s) : MemWf (Machine.serve s q) := by
  unfold Machine.serve
  extract_lets slow s1 wait who answer
  have h1 : MemWf s1 := .readObj h
  have ha : ∀ x, FstWf x → MemWf (answer x) := by
    intro x hx
    dsimp only [answer]
    split
    · exact hx
    · exact .reply (.when hx fun h => .drawn h)
  refine .ite (ha _ (.phaserServe h1)) <| .ite (ha _ (.counterServe h1)) <| .ite ?_ <| .ite (.outAdd h1) <|
    .ite (.ackStep4 (.objDone h1)) <| .ite (.ackStep4 (.objDigest (.digestAccepted h1))) <| .ite (.objFail h1) <| .ite (.objDone h1) <|
    .ite (.raceServe h1) <| .ite (.widenAt h1) <| .ite (.echoServe h1) <| .ite (.soon h1) (.groupServe h1)
  split
  next e => exact ha (_, some (0, _)) (.mk (.of_fst e (.atomicDo h1)))
theorem OutWf.execSyncService (h : MemWf s) : OutWf (execSyncService s) := by
  unfold Machine.execSyncService
  refine .next ?_
  split
  · exact h
  · exact .serve (.update h)
theorem OutWf.execPhaseBoundary (h : MemWf s) : OutWf (execPhaseBoundary s) :=
  .next (.ite h <| .ite (.schedule h) (.putPh (.foldl h fun _ _ h => .reply h)))

/-! ## The copy engine -/

theorem MemWf.putEntry {core e} (h : MemWf s) : MemWf (putEntry s core e) := .setCopier h
theorem MemWf.copyFail {core r e cause i0 i1 i2} (h : MemWf s) : MemWf (Machine.copyFail s core r e cause i0 i1 i2) := by
  unfold Machine.copyFail
  refine .ite (.killFatal h) ?_
  extract_lets c s1 s2 s3 s4 k s5 s6
  have h3 : MemWf s3 := .unless (.update (.setCopier h)) fun h => .phSub h
  have h5 : MemWf s5 := .unless (.when h3 fun h => .queueFor h) fun h => .postNotice h
  exact .when (.postNotice h5) fun h => .soon h
theorem MemWf.copyAddr {c cause tid t e path} (h : MemWf s) : MemWf (copyAddr s c cause tid t e path) :=
  .ite (.copyFail (.translated h)) (.copyFail h)
theorem MemWf.copyScale {c tid t z es path} (h : MemWf s) : MemWf (copyScale s c tid t z es path) := .copyFail h
theorem MemWf.failIndex {c v} (h : MemWf s) : MemWf (failIndex s c v) := .copyFail h
theorem MemWf.askXfer {c x u a} (h : MemWf s) : MemWf (askXfer s c x u a) := .putEntry (.askRace h)
theorem MemWf.pushOne {core no u} (h : MemWf s) : MemWf (pushOne s core no u) := by
  unfold Machine.pushOne
  split
  · refine .ite h ?_
    split
    · exact .copyAddr h
    · split
      · refine .ite (.copyAddr h) ?_
        split
        · exact .askXfer h
        · exact .update (.translated h)
      · exact h
  · exact h
theorem MemWf.pushDram {core no} (h : MemWf s) : MemWf (pushDram s core no) := by
  unfold Machine.pushDram
  split
  · dsimp only
    split
    · exact .ite (.copyScale h) (.copyScale h)
    · exact .foldl h fun _ _ h => .pushOne h
  · exact h
theorem MemWf.takeIndex {c} (h : MemWf s) : MemWf (takeIndex s c) := by
  unfold Machine.takeIndex
  dsimp only
  split
  · exact .failIndex (.putEntry h)
  · exact .pushDram (.putEntry h)
theorem MemWf.settle {core no} (h : MemWf s) : MemWf (settle s core no) := by
  unfold Machine.settle
  split
  · refine .ite (.foldl h fun _ _ h => .soon h) ?_
    refine .ite h ?_
    refine .ite (.takeIndex h) ?_
    split
    · exact .failIndex h
    · exact .next h
  · exact h
theorem FstWf.hostWait {c} (h : MemWf s) : FstWf (hostWait s c) := .ite (.mk (.drawn (.ite (.schedule h) h))) (.mk h)
theorem MemWf.startTransfers {core r e} (h : MemWf s) : MemWf (startTransfers s core r e) :=
  .pushDram (.putEntry (.fst (.hostWait h)))
theorem OutWf.issueCopy {kind x} (h : MemWf s) : OutWf (Machine.issueCopy s kind x) := by
  unfold Machine.issueCopy
  extract_lets core c words adv s1 lcs multi src1
  split
  · exact .fault
  extract_lets dt ph e0 fail sr e1 cc n tiles s2 s3 pk src2 s4 e2 src3 s5 s6
  have hadv : ∀ t, MemWf t → MemWf (adv t) := fun _ h => .setCopier h
  have h1 : MemWf s1 := .update h
  have hf : ∀ cause i0 i1 i2, MemWf (fail cause i0 i1 i2) := fun _ _ _ _ => .copyFail (hadv _ h1)
  refine .next (.ite (hf _ _ _ _) <| .ite (hf _ _ _ _) <| .ite (hf _ _ _ _) ?_)
  have h2 : MemWf s2 := .when h1 fun h => .setCopier h
  have h3 : MemWf s3 := .foldl h2 fun _ _ h => .when h fun h => .foldl h fun _ _ h => .resClear h
  have h4 : MemWf s4 := .unless h3 fun h => .setPh h
  have h5 : MemWf s5 := hadv _ (.setCopier h4)
  have h6 : MemWf s6 := .unless h5 fun h => .postNotice h
  exact .ite (.copyFail (hadv _ h3)) <| .ite (.copyFail (hadv _ h3)) (.startTransfers h6)
theorem MemWf.storeElemAt {x pa e v} (h : MemWf s) : MemWf (storeElemAt s x pa e v) := .ite (.wrMem h) (.wrMem h)
theorem MemWf.writeItem {c x u pa} (h : MemWf s) : MemWf (writeItem s c x u pa) := .foldl h fun _ _ h => .storeElemAt h
theorem FstWf.xferEcc {x p core} (h : MemWf s) : FstWf (xferEcc s x p core) :=
  .ite (.eccLog (.holdLines h)) <| .ite (.mk (.holdLines h)) (.mk (.foldl (.fst (.eccBlocks (.holdLines h))) fun _ _ h => .ite (.eccFresh h) h))
theorem MemWf.transfer {c x u pa} (h : MemWf s) : MemWf (Machine.transfer s c x u pa) := by
  unfold Machine.transfer
  refine .ite (.copyFail h) ?_
  split
  · next e => exact .copyFail (.of_fst e (.xferEcc h))
  next e =>
  have h1 := MemWf.of_fst e (.xferEcc h)
  exact .ite (.settle (.putEntry (.writeItem h1))) (.settle (.putEntry h1))
theorem MemWf.performItem {core no u served} (h : MemWf s) : MemWf (performItem s core no u served) := by
  unfold Machine.performItem
  split
  · refine .ite h ?_
    split
    · exact .ite (.transfer h) (.putEntry h)
    · split
      · exact .copyAddr h
      · split
        · exact .askXfer h
        · exact .transfer (.translated h)
  · exact h
theorem MemWf.raceGranted {core no u} (h : MemWf s) : MemWf (raceGranted s core no u) := by
  unfold Machine.raceGranted
  split
  · refine .ite h ?_
    split
    · exact .copyFail h
    · exact .ite (.next (.putEntry h)) <| .when (.putEntry h) fun h1 => .pushOne h1
  · exact h
theorem OutWf.execLineTransfer (h : MemWf s) : OutWf (execLineTransfer s) := .next (.ite (.raceGranted h) (.performItem h))
theorem MemWf.performAccess {ch a} (h : MemWf s) : MemWf (performAccess s ch a) := by
  unfold Machine.performAccess
  refine .ite (.schedule h) ?_
  dsimp only
  split
  · exact .performById (.update h)
  · exact .performItem (.update h)
  · exact .update h
theorem OutWf.execCaravanSlot (h : MemWf s) : OutWf (execCaravanSlot s) := by
  unfold Machine.execCaravanSlot
  refine .next ?_
  refine .ite ?_ ?_
  · split
    · exact .performAccess h
    · exact h
  · refine .ite h ?_
    split
    · exact h
    · exact .schedule (.update h)
theorem FstWf.commitEcc {x core} (h : MemWf s) : FstWf (commitEcc s x core) :=
  .foldl (.mk h) fun _ _ h => .ite h (.mk (.fst (.xferEcc (.fst h))))
theorem FstWf.redCommit {c} (h : MemWf s) : FstWf (redCommit s c) := by
  unfold Machine.redCommit
  dsimp only
  split
  · exact .mk (.copyAddr h)
  · split
    · exact .mk (.askXfer h)
    · refine .ite (.mk (.copyFail h)) ?_
      split
      · next e =>
          exact .mk (.copyFail (.of_fst e (.commitEcc h)))
      · next e => exact .mk (.foldl (.of_fst e (.commitEcc h)) fun _ _ h => .storeElemAt h)
theorem MemWf.releaseEntry {core no} (h : MemWf s) : MemWf (releaseEntry s core no) := .when (.setCopier h) fun h1 => .soon h1
theorem OutWf.execCopyCompletion (h : MemWf s) : OutWf (Machine.execCopyCompletion s) := by
  unfold Machine.execCopyCompletion
  refine .next ?_
  split
  · refine .ite h ?_
    split
    · next e => exact .of_fst e (.ite (.redCommit h) (.mk h))
    next e =>
    have h1 := MemWf.of_fst e (.ite (.redCommit h) (.mk h))
    extract_lets s2 s3 s4 k
    have h2 : MemWf s2 := .putEntry h1
    have h3 : MemWf s3 := .foldl h2 fun _ _ h => .when h fun h => .foldl h fun _ _ h => .resDone h
    have h4 : MemWf s4 := .unless h3 fun h => .phSub h
    exact .ite (.postNotice h4) <| .ite (.releaseEntry h4) (.postNotice h4)
  · exact h
theorem OutWf.execJournalRelease (h : MemWf s) : OutWf (execJournalRelease s) := .next (.ite (.releaseEntry h) h)
theorem MemWf.copyTimeout {core no} (h : MemWf s) : MemWf (copyTimeout s core no) := by
  unfold Machine.copyTimeout
  split
  · exact .ite h (.copyAddr h)
  · exact h
theorem OutWf.execCxlTimeout (h : MemWf s) : OutWf (execCxlTimeout s) := by
  unfold Machine.execCxlTimeout
  refine .next ?_
  refine .ite (.copyTimeout h) ?_
  split
  · exact h
  · refine .ite h ?_
    refine .ite ?_ (.loadReturns (.dropReq h))
    split
    · exact .queueFor (.dropReq h)
    · exact .dropReq h
theorem MemWf.replay {core} (h : MemWf s) : MemWf (replay s core) := by
  unfold Machine.replay
  split
  · exact h
  · exact .foldl h fun _ _ h => .startTransfers h

end Sys2Proof.Machine
end

section
/-! SUPPORT. Threads, cues, scenes and jobs keep the memories canonical. -/

set_option Elab.async false

namespace Sys2Proof.Machine

variable {s : State}

/-! ## What a loaded scene holds -/

theorem MemWf.mapGang {scene gslot f} (h : MemWf s) : MemWf (mapGang s scene gslot f) := .setScene h

/-! ## System instructions and the events of a thread -/

theorem OutWf.execSrrd {d sr} (h : MemWf s) : OutWf (execSrrd d sr s) :=
  .onThread fun _ _ => .ite (.trapNow h) <| .ite (.trapNow h) <| .ite (.echoRead h) (.writeBack h)
theorem MemWf.seedCopyEngine {core x} (h : MemWf s) : MemWf (seedCopyEngine s core x) := .setCopier h
theorem OutWf.execSrwr {a sr} (h : MemWf s) : OutWf (execSrwr a sr s) :=
  .onThread fun _ _ => .ite (.trapNow h) <| .ite (.trapNow h) <|
    .ite (.ite (.trapNow h) (.goOn (.when (.ite (.seedElements h) h) fun h1 => .schedule h1))) (.goOn h)
theorem OutWf.execTidrd {d tid w} (h : MemWf s) : OutWf (execTidrd d tid w s) := .onThread fun _ _ => .writeBack h
theorem MemWf.resClearTid {core part tid} (h : MemWf s) : MemWf (resClearTid s core part tid) := .update h
theorem OutWf.execTidwr {d a tid w} (h : MemWf s) : OutWf (execTidwr d a tid w s) :=
  .asSupervisor h fun _ _ => .ite (.writeBack h) <| .ite (.update h) <|
    .ite (.writeBack h) (.writeBack (.resClearTid (.update (.foldl h fun _ _ h => .setTidWord h))))
theorem OutWf.resOp {a tid f} (h : MemWf s) (hf : ∀ t k, MemWf (f t k)) : OutWf (resOp s a tid f) :=
  .onThread fun _ _ => .ite (.trapNow h) (.ite (.trapNow h) (hf _ _))
theorem OutWf.execResclr {a tid} (h : MemWf s) : OutWf (execResclr a tid s) := by
  unfold Machine.execResclr
  refine .resOp h fun _ _ => ?_
  refine .goOn ?_
  split
  · exact .resClear h
  · exact h
theorem OutWf.execRestst {d a tid} (h : MemWf s) : OutWf (execRestst d a tid s) := .resOp h fun _ _ => .writeBack h
theorem OutWf.execFenceP {src dst sc} (h : MemWf s) : OutWf (execFenceP src dst sc s) :=
  .onThread fun _ _ => .ite (.fenceArrives h) (.putTh h)
theorem OutWf.execFenceD (h : MemWf s) : OutWf (execFenceD s) := .onThread fun _ _ => .ite (.fenceArrives h) (.putTh h)
theorem OutWf.execFenceSc (h : MemWf s) : OutWf (execFenceSc s) := .onThread fun _ _ => .putTh h
theorem OutWf.execRel {_sc} (h : MemWf s) : OutWf (execRel _sc s) :=
  .onThread fun _ _ => .comparePoint h fun _ => .ite (.goOn h) (.putTh h)
theorem OutWf.execAcq {_sc} (h : MemWf s) : OutWf (execAcq _sc s) := .onThread fun _ _ => .goOn h
theorem MemWf.jobAppend {t r d off} (h : MemWf s) : MemWf (jobAppend s t r d off) := .ite (.echoBy (.setPart h)) (.echoBy h)
theorem OutWf.execJobpost {d a} (h : MemWf s) : OutWf (execJobpost d a s) :=
  .onThread fun _ _ => .ite (.trapNow h) <| .ite (.trapNow h) <| .ite (.trapNow h) (.comparePoint h fun _ => .ite (.echoBy h) <|
    .ite (.jobAppend h) (.putTh h))
theorem OutWf.execTimerd {d} (h : MemWf s) : OutWf (execTimerd d s) := .onThread fun _ _ => .echoRead h
theorem OutWf.execTimefr {d} (h : MemWf s) : OutWf (execTimefr d s) := .onThread fun _ _ => .echoRead h
theorem OutWf.execTickrd {d} (h : MemWf s) : OutWf (execTickrd d s) := .onThread fun _ _ => .echoRead h
theorem MemWf.waitTick {t n} (h : MemWf s) : MemWf (waitTick s t n) := .ite (.goOn h) (.putTh h)
theorem OutWf.execWaitt {a} (h : MemWf s) : OutWf (execWaitt a s) := .onThread fun _ _ => .waitTick h
theorem OutWf.execWaittCue {a} (h : MemWf s) : OutWf (execWaittCue a s) := .onThread fun _ _ => .ite (.goOn h) (.putTh h)
theorem OutWf.execTrap {i} (h : MemWf s) : OutWf (execTrap i s) := .onThread fun _ _ => .takeTrap h
theorem MemWf.logHalt {r core slot t} (h : MemWf s) : MemWf (logHalt s r core slot t) := .ringWrite (.update h)
theorem OutWf.execBrk {i} (h : MemWf s) : OutWf (execBrk i s) := .onThread fun _ _ => .ite (.takeTrap h) (.logHalt (.putTh h))
theorem MemWf.trapBack {t r} (h : MemWf s) : MemWf (trapBack s t r) := .ite (.putTh (.askSlice (.drawn h))) (.putTh h)
theorem OutWf.execEret (h : MemWf s) : OutWf (execEret s) := .onThread fun _ _ => .ite (.trapNow h) <| .ite (.trapNow h) (.trapBack h)
theorem OutWf.execEndBlock (h : MemWf s) : OutWf (execEndBlock s) :=
  .onThread fun _ _ => .ite (.trapNow h) (.comparePoint h fun _ => .ite (.next (.putTh h)) (.putTh h))
theorem OutWf.execIllegalWord {w} (h : MemWf s) : OutWf (execIllegalWord w s) := by
  unfold Machine.execIllegalWord
  split
  · exact .onThread fun _ _ => .trapNow h
  · exact .fault
theorem OutWf.execFetchFault (h : MemWf s) : OutWf (execFetchFault s) := .onThread fun _ _ => .trapNow h
theorem OutWf.execRecordDelivery (h : MemWf s) : OutWf (execRecordDelivery s) := by
  unfold Machine.execRecordDelivery
  refine .onThread fun _ _ => ?_
  dsimp only
  split
  · exact h
  · exact .ite h <| .ite (.putTh (.update h)) (.doubleFault (.update h))
theorem OutWf.execDebugResume (h : MemWf s) : OutWf (execDebugResume s) := .onThread fun _ _ => .ite (.trapBack h) h
theorem OutWf.execDebugAccess (h : MemWf s) : OutWf (execDebugAccess s) :=
  .onThread fun _ _ => .ite (.putTh h) <| .ite h <| .ite (.putTh h) (.update h)

/-! ## The cue unit -/

theorem MemWf.writeIdle {core sheet begin_} (h : MemWf s) : MemWf (writeIdle s core sheet begin_) := by
  unfold Machine.writeIdle
  refine .foldl h fun _ _ h => ?_
  split
  · exact .ite (.setCue h) h
  · exact h
theorem MemWf.homeFires {r sheet} (h : MemWf s) : MemWf (homeFires s r sheet) := .setHome h
theorem MemWf.fireRegion {core sheet r} (h : MemWf s) : MemWf (fireRegion s core sheet r) :=
  .ite (.homeFires (.setVoice (.setTh (.update (.setReg (.setRun h)))))) (.setVoice (.setTh (.update (.setReg (.setRun h)))))
theorem MemWf.fireCopies {core r} (h : MemWf s) : MemWf (fireCopies s core r) := by
  unfold Machine.fireCopies
  dsimp only
  split
  · exact .killFatal (.setCopier (.setRun h))
  · exact .setCopier (.setRun h)
theorem MemWf.fireSaved {core sheet r0} (h : MemWf s) : MemWf (fireSaved s core sheet r0) := by
  unfold Machine.fireSaved
  dsimp only
  split
  · exact .cueFail (.queueFor (.ite (.homeFires h) h))
  · exact .update (.ite (.homeFires h) h)
theorem MemWf.fireBlock {core ix variant block under f deadline} (h : MemWf s) : MemWf (fireBlock s core ix variant block under f deadline) :=
  .ite (.fireSaved (.writeIdle (.drawn (.setCue h)))) <|
    .ite (.fireRegion (.writeIdle (.drawn (.setCue h)))) (.fireCopies (.writeIdle (.drawn (.setCue h))))
theorem MemWf.cueRecord {core ix cause i1 fatal} (h : MemWf s) : MemWf (cueRecord s core ix cause i1 fatal) := .queueWith h
theorem MemWf.retrainRecord {core ix} (h : MemWf s) : MemWf (retrainRecord s core ix) := .ite (.queueWith (.devLog h)) h
theorem MemWf.lateInput {core ix cause} (h : MemWf s) : MemWf (lateInput s core ix cause) :=
  .ite (.cueFail (.retrainRecord (.cueRecord h))) (.setHome (.foldl (.retrainRecord (.cueRecord h)) fun _ _ h => .endVoice h))
theorem MemWf.selectAndFire {core ix} (h : MemWf s) : MemWf (selectAndFire s core ix) := by
  unfold Machine.selectAndFire
  dsimp only
  split
  · exact .lateInput h
  · split
    · exact .lateInput h
    · exact .fireBlock h
theorem MemWf.cueStart {core ix ready} (h : MemWf s) : MemWf (cueStart s core ix ready) := by
  unfold Machine.cueStart
  refine .ite h ?_
  dsimp only
  split
  · exact .endVoice (.setCue h)
  · exact .unless (.setCue h) fun h1 => .ite (.cueFail (.setCue h1)) <|
      .unless (.lateInput (.setCue h1)) fun h2 => .ite (.selectAndFire (.setCue h1)) <| .ite h2 (.setCue (.setCue h1))
theorem OutWf.execCueStart (h : MemWf s) : OutWf (execCueStart s) := .next (.cueStart h)
theorem OutWf.execSlackExpiry (h : MemWf s) : OutWf (execSlackExpiry s) := .next (.ite h <| .ite (.selectAndFire h) (.lateInput h))
theorem OutWf.execUnderstudyFire (h : MemWf s) : OutWf (execUnderstudyFire s) := by
  unfold Machine.execUnderstudyFire
  refine .next ?_
  refine .ite h ?_
  split
  · exact .enterHeld h
  · exact .fireBlock h
theorem OutWf.execDeadlineExpiry (h : MemWf s) : OutWf (execDeadlineExpiry s) := by
  unfold Machine.execDeadlineExpiry
  refine .next ?_
  split
  · exact h
  · exact .ite h <| .ite (.endBlocks h) (.endBlocks (.retrainRecord (.cueRecord h)))
theorem MemWf.retire {core sheet r} (h : MemWf s) : MemWf (retire s core sheet r) := .soon (.delRun (.setCue (.occWrite h)))
theorem MemWf.leaveChorus {core slot r} (h : MemWf s) : MemWf (leaveChorus s core slot r) := .ite h (.setHome (.setVoice h))
theorem OutWf.execBlockRetirement (h : MemWf s) : OutWf (execBlockRetirement s) := by
  unfold Machine.execBlockRetirement
  refine .next ?_
  split
  · exact h
  · exact .ite h (.retire (.leaveChorus (.setTh h)))
theorem OutWf.execCopyBlockRetirement (h : MemWf s) : OutWf (execCopyBlockRetirement s) := by
  unfold Machine.execCopyBlockRetirement
  refine .next ?_
  split
  · exact h
  · exact .ite h (.retire h)
theorem MemWf.cancelSaved {scene n} (h : MemWf s) : MemWf (cancelSaved s scene n) :=
  .update (.foldl h fun _ _ h => .foldl h fun _ _ h => .ite h (.putObj h))
theorem MemWf.drainPhaser {scene gslot n cue} (h : MemWf s) : MemWf (drainPhaser s scene gslot n cue) :=
  .ite h (.update (.setPh (.cancelSaved (.foldl (.queueWith h) fun _ _ h => .ite (.cancelWhere h) h))))
theorem MemWf.curtainStep (h : MemWf s) : MemWf (curtainStep s) := by
  unfold Machine.curtainStep
  refine .foldl h fun _ _ h => ?_
  refine .ite h ?_
  refine .foldl h fun _ _ h => ?_
  split
  · exact h
  · exact .foldl h fun _ _ h => .drainPhaser h
theorem MemWf.resetTags (h : MemWf s) : MemWf (resetTags s) := .foldl h fun _ _ h => .ite (.update h) h
theorem MemWf.noteSizes (h : MemWf s) : MemWf (noteSizes s) := .update h
theorem OutWf.execTickBoundary (h : MemWf s) : OutWf (execTickBoundary s) := .next (.update (.resetTags h))
theorem MemWf.cueStep (h : MemWf s) : MemWf (cueStep s) := .update h
theorem MemWf.launchesDone (h : MemWf s) : MemWf (launchesDone s) := .foldl h fun _ _ h => .ite (.soon h) h

/-! ## Power and temperature -/

theorem MemWf.powerRecalc (h : MemWf s) : MemWf (powerRecalc s) := .unless (.update h) fun h1 => .devLog h1
theorem OutWf.execBudgetPeriod (h : MemWf s) : OutWf (execBudgetPeriod s) := .next (.update h)
theorem MemWf.setPwrcap {v} (h : MemWf s) : MemWf (setPwrcap s v) := .powerRecalc (.update h)
theorem OutWf.execPwrcapWrite (h : MemWf s) : OutWf (execPwrcapWrite s) := .next (.setPwrcap h)
theorem MemWf.setThrcfg {v} (h : MemWf s) : MemWf (setThrcfg s v) := .ite (.update h) h
theorem OutWf.execThrcfgWrite (h : MemWf s) : OutWf (execThrcfgWrite s) := .next (.setThrcfg h)

/-! ## Loading a scene -/

theorem MemWf.loadWalk {part va} (h : MemWf s) : MemWf (loadWalk s part va) := by
  unfold Machine.loadWalk
  dsimp only
  split
  · exact .when (.walkEcc h) fun h1 => .queueWith h1
  · exact .walkEcc h
theorem FstWf.readVa {part va n} (h : MemWf s) : FstWf (readVa s part va n) := by
  induction n generalizing s va with
  | zero => exact .mk h
  | succ n ih =>
    unfold Machine.readVa
    split
    · exact .mk (.loadWalk h)
    refine .ite (.mk h) ?_
    split
    · next e => exact .mk (.of_fst e (.eccRead (.loadWalk h)))
    · next e =>
        have h1 := ih (va := va + 64) (MemWf.of_fst e (.eccRead (.loadWalk h)))
        split
        · next e => exact .mk (.of_fst e h1)
        · next e => exact .mk (.of_fst e h1)
theorem MemWf.putRegion {core slot g} (h : MemWf s) : MemWf (putRegion s core slot g) := .setReg (.update h)
theorem OkFstWf.placeWords {x k gslot g l done} (h : MemWf s) : OkFstWf (Machine.placeWords s x k gslot g l done) := by
  induction l generalizing s done with
  | nil => exact .ok (.mk h)
  | cons w l ih =>
    unfold Machine.placeWords
    dsimp only
    generalize List.find? _ _ = core
    cases core with
    | none => exact .error
    | some c =>
      dsimp only
      split
      · exact .error
      · next e => exact .ok (.mk (.of_okFst e (ih (.putRegion h))))
theorem OkFstWf.placeGang {x k gslot g} (h : MemWf s) : OkFstWf (placeGang s x k gslot g) := .map (.placeWords h) fun _ h => .mk h
theorem OkFstWf.loadGang {x k gslot g} (h : MemWf s) : OkFstWf (loadGang s x k gslot g) := by
  unfold Machine.loadGang
  split
  · next e => exact .ok (.mk (.of_okFst e (.placeGang h)))
  · refine .ite .error ?_
    split
    · exact .error
    · exact .ok (.mk h)
theorem OkFstWf.loadGangs {x k l} (h : MemWf s) : OkFstWf (loadGangs s x k l) := by
  induction l generalizing s with
  | nil => exact .ok (.mk h)
  | cons g l ih =>
    unfold Machine.loadGangs
    split
    · exact .error
    next e =>
    have h1 := ih (MemWf.of_okFst e (.loadGang h))
    split
    · exact .error
    · next e => exact .ok (.mk (.of_okFst e h1))
theorem SomeWf.writeCues {x k core l} (h : MemWf s) : SomeWf (writeCues s x k core l) := .map fun _ => .foldl h fun _ _ h => .setCue h
theorem SomeWf.writeVar {x k core b v} (h : MemWf s) : SomeWf (writeVar s x k core b v) := .ite (.some h) (.map fun _ => .update h)
theorem SomeWf.writeVars {x k core l} (h : MemWf s) : SomeWf (writeVars s x k core l) := .foldlM h fun _ _ h => .writeVar h
theorem MemWf.writeTids {x k core} (h : MemWf s) : MemWf (writeTids s x k core) :=
  .foldl h fun _ _ h => .ite h (.update (.foldl h fun _ _ h => .setTidWord h))
theorem SomeWf.pinPages {x dies} (h : MemWf s) : SomeWf (Machine.pinPages s x dies) := by
  refine .ite (.some h) (.foldlM h fun _ _ h => ?_)
  dsimp only
  split
  · exact .none
  · exact .ite .none (.foldlM h fun _ _ h => .ite (.some h) (.ite .none (.some (.update h))))
theorem OkWf.placeScene {k x} (h : MemWf s) : OkWf (Machine.placeScene s k x) := by
  unfold Machine.placeScene
  split
  · exact .error
  next e =>
  have h1 := MemWf.of_okFst e (.loadGangs h)
  dsimp only
  split
  · exact .error
  · exact .error
  · exact .error
  refine .ite .error ?_
  split
  · exact .error
  next e =>
  have h2 := MemWf.of_some e (.bind (.foldlM h1 fun _ _ h => .pinPages h) fun _ h => .pinPages h)
  split
  · exact .error
  next e =>
  have h3 := MemWf.of_some e (.foldlM h2 fun _ _ h => .mapState (.writeVars h) fun _ h => .writeTids h)
  split
  · exact .error
  · next e =>
      have h4 := MemWf.of_some e (.foldlM h3 fun _ _ h => .writeCues h)
      exact .ok (.setScene (.foldl h4 fun _ _ h => .setCore h))
theorem FstWf.readScene {part va} (h : MemWf s) : FstWf (Machine.readScene s part va) := by
  unfold Machine.readScene
  split
  · next e => exact .mk (.of_fst e (.readVa h))
  next e =>
  have h1 := MemWf.of_fst e (.readVa h)
  split
  · next e => exact .mk (.of_fst e (.readVa h1))
  · next e => exact .mk (.of_fst e (.readVa h1))
theorem MemWf.dropTid {part tid} (h : MemWf s) : MemWf (dropTid s part tid) := .foldl h fun _ _ h => .update (.setTidWord h)
theorem MemWf.releaseScene {k} (h : MemWf s) : MemWf (releaseScene s k) :=
  .update (.update (.foldl (.update (.foldl h fun _ _ h => .ite (.putRegion h) h)) fun _ _ h => .dropTid h))

/-! ## Jobs and scenes -/

theorem MemWf.mirror {stream o} (h : MemWf s) : MemWf (mirror s stream o) := .ite h (.ite (.setRing h) (.wrHost h))
theorem MemWf.jobEnd {j cause} (h : MemWf s) : MemWf (jobEnd s j cause) := .unless (.update h) fun h1 => .mirror (.putObj h1)
theorem MemWf.jobsEnd {l cause} (h : MemWf s) : MemWf (jobsEnd s l cause) := .foldl h fun _ _ h => .jobEnd h
theorem MemWf.kick {n} (h : MemWf s) : MemWf (kick s n) := .ite (.ite (.schedule (.drawn h)) h) <| .ite (.soon h) h
theorem MemWf.unpend {n} (h : MemWf s) : MemWf (unpend s n) := .kick (.setStream h)
theorem MemWf.reject {n j} (h : MemWf s) : MemWf (reject s n j) := .unpend (.devLog (.jobEnd h))
theorem MemWf.streamError {n} (h : MemWf s) : MemWf (streamError s n) := .unless (.devLogWhy (.setStream h)) fun h1 => .ringWrite h1
theorem MemWf.pend {n b} (h : MemWf s) : MemWf (pend s n b) :=
  .ite (.reject (.setStream (.update h))) <| .when (.setStream (.update h)) fun h1 => .schedule h1
theorem OutWf.execJobRecordRead (h : MemWf s) : OutWf (execJobRecordRead s) := by
  unfold Machine.execJobRecordRead
  refine .next ?_
  refine .ite ?_ ?_
  · dsimp only
    split
    · exact h
    · exact .ite h (.pend (.setPart h))
  · refine .ite h ?_
    refine .ite (.streamError h) ?_
    split
    · next e => exact .streamError (.of_fst e (.readVa h))
    · next e => exact .pend (.setStream (.of_fst e (.readVa h)))
theorem MemWf.makePhasers {k} (h : MemWf s) : MemWf (makePhasers s k) := .foldl h fun _ _ h => .ite (.setPh h) h
theorem MemWf.dropPhasers {k} (h : MemWf s) : MemWf (dropPhasers s k) := .update h
theorem MemWf.beginCues {k gslot o} (h : MemWf s) : MemWf (beginCues s k gslot o) := .update h
theorem MemWf.beginScene {k o args job} (h : MemWf s) : MemWf (beginScene s k o args job) := .beginCues (.makePhasers (.update (.setScene h)))
theorem MemWf.haltScene {k} (h : MemWf s) : MemWf (haltScene s k) := .update (.foldl h fun _ _ h => .discardBlock h)
theorem MemWf.stopScene {k} (h : MemWf s) : MemWf (stopScene s k) := by
  unfold Machine.stopScene
  refine .powerRecalc ?_
  split
  · exact .jobEnd (.jobsEnd (.jobsEnd (.setScene (.dropPhasers (.haltScene h)))))
  · exact .jobsEnd (.jobsEnd (.setScene (.dropPhasers (.haltScene h))))
theorem OutWf.execSceneStop (h : MemWf s) : OutWf (execSceneStop s) := .next (.ite (.stopScene h) h)
theorem SomeWf.moveCues {k gslot lc voice old new} (h : MemWf s) : SomeWf (moveCues s k gslot lc voice old new) :=
  .map fun _ => .update (.foldl h fun _ _ h => .setCue (.setCue h))
theorem MemWf.copyTids {x old new} (h : MemWf s) : MemWf (copyTids s x old new) :=
  .foldl h fun _ _ h => .update (.foldl h fun _ _ h => .setTidWord h)
theorem SomeWf.moveGang {k gslot new} (h : MemWf s) : SomeWf (moveGang s k gslot new) :=
  .ite .none (.foldlM (.mapGang h) fun _ _ h => .bind (.moveCues h) fun _ h => .bind (.pinPages (.ite h (.copyTids h))) fun _ h =>
    .bind (.writeVars h) fun _ h => .some (.ite h (.update h)))
theorem OkWf.replaceGang {k gslot} (h : MemWf s) : OkWf (Machine.replaceGang s k gslot) := by
  unfold Machine.replaceGang
  dsimp only
  split
  · exact .ok h
  refine .ite (.ok (.mapGang h)) ?_
  split
  · exact .error
  next e =>
  have h1 := MemWf.of_okFst e (.placeWords (.foldl h fun _ _ h => .putRegion h))
  split
  · exact .error
  · next e => exact .ok (.of_some e (.moveGang h1))
theorem FstWf.recoverScene {k} (h : MemWf s) : FstWf (recoverScene s k) := by
  unfold Machine.recoverScene
  refine .foldl (.mk (.setScene h)) fun _ _ h => ?_
  refine .ite h ?_
  split
  · next e => exact .mk (.of_ok e (.replaceGang (.fst h)))
  · exact .mk (.queueWith (.fst h))
theorem OutWf.execRecovery (h : MemWf s) : OutWf (execRecovery s) := by
  unfold Machine.execRecovery
  refine .next ?_
  refine .ite h ?_
  split
  · next e => exact .of_fst e (.recoverScene h)
  · next e => exact .stopScene (.of_fst e (.recoverScene h))
theorem MemWf.changeRefused {part} (h : MemWf s) : MemWf (changeRefused s part) := .queueWith h
theorem OutWf.execSceneChange (h : MemWf s) : OutWf (execSceneChange s) := by
  unfold Machine.execSceneChange
  refine .next ?_
  split
  · exact h
  · refine .ite (.jobsEnd (.changeRefused (.stopScene (.setScene h)))) ?_
    dsimp only
    split
    · next e => exact .jobsEnd (.of_fst e (.ite (.recoverScene (.stopScene (.setScene h))) (.mk (.stopScene (.setScene h)))))
    · next e => exact .jobsEnd (.beginScene (.of_fst e (.ite (.recoverScene (.stopScene (.setScene h))) (.mk (.stopScene (.setScene h))))))
theorem OutWf.admitted {kind f} (h : MemWf s) (hf : ∀ b j, MemWf (f b j)) : OutWf (admitted s kind f) := by
  refine .next ?_
  split
  · exact h
  · exact .ite h (hf _ _)
theorem OutWf.execStartScene (h : MemWf s) : OutWf (execStartScene s) := by
  unfold Machine.execStartScene
  refine .admitted h fun _ _ => ?_
  split
  · exact .reject h
  · exact .ite (.reject h) (.unpend (.beginScene h))
theorem OutWf.execLaunchGang (h : MemWf s) : OutWf (execLaunchGang s) := by
  unfold Machine.execLaunchGang
  refine .admitted h fun _ _ => ?_
  dsimp only
  split
  · exact .reject h
  · exact .ite (.reject h) (.unpend (.beginCues (.update (.ite h (.makePhasers (.update h))))))
theorem OutWf.execGangLaunchComplete (h : MemWf s) : OutWf (execGangLaunchComplete s) := by
  unfold Machine.execGangLaunchComplete
  refine .next ?_
  split
  · exact h
  · exact .jobEnd (.unless (.update h) fun h1 => .dropPhasers h1)
theorem MemWf.stopLaunches {k} (h : MemWf s) : MemWf (stopLaunches s k) := .jobsEnd (.dropPhasers (.haltScene (.update h)))
theorem MemWf.requestChange {run k job} (h : MemWf s) : MemWf (requestChange s run k job) := by
  unfold Machine.requestChange
  refine .setScene ?_
  split
  · exact .jobEnd h
  · exact h
theorem OutWf.execChangeScene (h : MemWf s) : OutWf (execChangeScene s) := by
  unfold Machine.execChangeScene
  refine .admitted h fun _ _ => ?_
  split
  · exact .reject h
  · split
    · exact .unpend (.jobEnd (.changeRefused h))
    · exact .unpend (.requestChange h)
theorem OutWf.execStopScene (h : MemWf s) : OutWf (execStopScene s) := by
  unfold Machine.execStopScene
  refine .admitted h fun _ _ => ?_
  split
  · exact .reject h
  · exact .ite (.unpend (.jobEnd h)) (.unpend (.setScene h))
theorem OutWf.execLoadScene (h : MemWf s) : OutWf (execLoadScene s) :=
  .admitted h fun _ _ => .ite (.reject h) (.unpend (.schedule (.drawn (.setScene h))))
theorem MemWf.loadFails {k j w} (h : MemWf s) : MemWf (loadFails s k j w) := .jobEnd (.ringWrite (.update (.countTime h)))
theorem OutWf.execSceneLoadComplete (h : MemWf s) : OutWf (execSceneLoadComplete s) := by
  unfold Machine.execSceneLoadComplete
  refine .next ?_
  split
  · dsimp only
    split
    · next e => exact .loadFails (.of_fst e (.ite (.mk h) (.readScene h)))
    · next e =>
        split
        · exact .loadFails (.of_fst e (.ite (.mk h) (.readScene h)))
        · next e1 =>
            exact .jobEnd (.powerRecalc (.of_ok e1 (.placeScene (.of_fst e (.ite (.mk h) (.readScene h))))))
  · exact h
theorem OutWf.execUnloadScene (h : MemWf s) : OutWf (execUnloadScene s) := by
  unfold Machine.execUnloadScene
  refine .admitted h fun _ _ => ?_
  split
  · exact .reject h
  · exact .ite (.reject h) (.unpend (.schedule (.drawn (.setScene h))))
theorem OutWf.execSceneUnloadComplete (h : MemWf s) : OutWf (execSceneUnloadComplete s) := .next (.ite (.jobsEnd (.releaseScene h)) h)

end Sys2Proof.Machine
end

section
/-! SUPPORT. The timebase, the management of the device, chorus and pre-emption keep the memories canonical. -/

set_option Elab.async false

namespace Sys2Proof.Machine

variable {s : State}

/-! ## The timebase -/

theorem MemWf.setInc {v} (h : MemWf s) : MemWf (setInc s v) := .update h
theorem OutWf.execTbincWrite (h : MemWf s) : OutWf (execTbincWrite s) := .next (.setInc h)
theorem MemWf.setHbexp {v} (h : MemWf s) : MemWf (setHbexp s v) := .ite (.update h) h
theorem OutWf.execTbctlWrite (h : MemWf s) : OutWf (execTbctlWrite s) := .next (.setHbexp h)
theorem MemWf.requestStep {v} (h : MemWf s) : MemWf (requestStep s v) := .ite h <| .ite (.devLog (.update h)) (.update h)
theorem OutWf.execTbstepWrite (h : MemWf s) : OutWf (execTbstepWrite s) := .next (.requestStep h)
theorem OutWf.execStepApply (h : MemWf s) : OutWf (execStepApply s) := by
  unfold Machine.execStepApply
  refine .next ?_
  split
  · exact h
  · exact .update h
theorem MemWf.restartTimeout {i} (h : MemWf s) : MemWf (restartTimeout s i) := .schedule (.drawn (.update h))
theorem MemWf.servo {off} (h : MemWf s) : MemWf (servo s off) :=
  .when (.update (.setInc (.drawn h))) fun h1 => .when (.update h1) fun h2 => .soon h2
theorem OutWf.inDomain {s'} (h : MemWf s) (h' : MemWf s') : OutWf (inDomain s s') := .next (.ite h' h)
theorem OutWf.execNonPtpFrame (h : MemWf s) : OutWf (execNonPtpFrame s) := .next h
theorem MemWf.loseLock (h : MemWf s) : MemWf (loseLock s) := .when (.update h) fun h1 => .devLog (.update h1)
theorem OutWf.execSyncTimeout (h : MemWf s) : OutWf (execSyncTimeout s) := .next (.loseLock h)
theorem OutWf.execAnnounceTimeout (h : MemWf s) : OutWf (execAnnounceTimeout s) := .next (.loseLock (.update h))
theorem OutWf.execPpsRise (h : MemWf s) : OutWf (execPpsRise s) := .next (.ite h (.schedule (.update h)))
theorem OutWf.execPpsFall (h : MemWf s) : OutWf (execPpsFall s) := .next (.update h)
theorem OutWf.execPpsIn (h : MemWf s) : OutWf (execPpsIn s) := .next (.update h)

/-! ## Management registers and the mailbox -/

theorem MemWf.setPartcfg {p v} (h : MemWf s) : MemWf (setPartcfg s p v) := .ite h (.setPart h)
theorem OutWf.execPartcfgWrite (h : MemWf s) : OutWf (execPartcfgWrite s) := .next (.setPartcfg h)
theorem OutWf.execPartwordWrite (h : MemWf s) : OutWf (execPartwordWrite s) := .next (.ite h (.setCore h))
theorem MemWf.setPtroot {p v} (h : MemWf s) : MemWf (setPtroot s p v) := .ite h (.setPart h)
theorem OutWf.execPtrootWrite (h : MemWf s) : OutWf (execPtrootWrite s) := .next (.setPtroot h)
theorem MemWf.setCtx {p v} (h : MemWf s) : MemWf (setCtx s p v) := .ite h (.setPart h)
theorem OutWf.execCtxWrite (h : MemWf s) : OutWf (execCtxWrite s) := .next (.setCtx h)
theorem MemWf.dropPinned {mode part vpn} (h : MemWf s) : MemWf (dropPinned s mode part vpn) := .update h
theorem MemWf.endTlbinv (h : MemWf s) : MemWf (endTlbinv s) := .ite (.update (.dropPinned h)) h
theorem MemWf.startTlbinv {mode part vpn} (h : MemWf s) : MemWf (startTlbinv s mode part vpn) := .schedule (.drawn (.update (.endTlbinv h)))
theorem OutWf.execTlbinvPage (h : MemWf s) : OutWf (execTlbinvPage s) := .next (.startTlbinv h)
theorem OutWf.execTlbinvPartition (h : MemWf s) : OutWf (execTlbinvPartition s) := .next (.startTlbinv h)
theorem OutWf.execTlbinvAll (h : MemWf s) : OutWf (execTlbinvAll s) := .next (.startTlbinv h)
theorem OutWf.execTlbinvComplete (h : MemWf s) : OutWf (execTlbinvComplete s) := .next (.endTlbinv h)
theorem MemWf.setTlbinv {v} (h : MemWf s) : MemWf (setTlbinv s v) := .ite h (.startTlbinv h)
theorem MemWf.setPoolOwner {core g v} (h : MemWf s) : MemWf (setPoolOwner s core g v) := .ite h (.setCore h)
theorem OutWf.execPoolOwnerWrite (h : MemWf s) : OutWf (execPoolOwnerWrite s) := .next (.setPoolOwner h)
theorem MemWf.setDieOwner {die g v} (h : MemWf s) : MemWf (setDieOwner s die g v) := .ite h (.update h)
theorem OutWf.execDieOwnerWrite (h : MemWf s) : OutWf (execDieOwnerWrite s) := .next (.setDieOwner h)
theorem MemWf.setSlot {ch j v} (h : MemWf s) : MemWf (setSlot s ch j v) := .ite h (.update h)
theorem OutWf.execCaravanMapWrite (h : MemWf s) : OutWf (execCaravanMapWrite s) := .next (.setSlot h)
theorem MemWf.setResv {r v} (h : MemWf s) : MemWf (setResv s r v) := .ite h (.update h)
theorem OutWf.execReservationWrite (h : MemWf s) : OutWf (execReservationWrite s) := .next (.setResv h)
theorem MemWf.setAllot {part die o v} (h : MemWf s) : MemWf (setAllot s part die o v) := .ite h (.update h)
theorem OutWf.execSyncAllotWrite (h : MemWf s) : OutWf (execSyncAllotWrite s) := .next (.setAllot h)
theorem MemWf.srStore {x v} (h : MemWf s) : MemWf (srStore s x v) :=
  .ite (.setInc h) <| .ite (.setHbexp h) <| .ite (.requestStep h) <| .ite (.ite (.update h) h) <| .ite (.setPartcfg h) <| .ite (.setPtroot h) <|
    .ite (.setTlbinv h) <| .ite (.setPwrcap h) <| .ite (.ite (.update h) h) <| .ite (.setThrcfg h) <| .ite (.update h) <| .ite (.setAllot h) <|
    .ite (.setCtx h) h
theorem MemWf.sramWrite {die off v} (h : MemWf s) : MemWf (sramWrite s die off v) := .ite (.update h) <| .ite (.update h) (.update h)
/-- As for `boxEcc`, and `boxOf` is held as a variable. -/
theorem SomeWf.boxWrite {addr v} (h : MemWf s) : SomeWf (Machine.boxWrite s addr v) := by
  conv => arg 1; fun; fun; fun; delta Machine.boxWrite
  obtain ⟨box, hb⟩ : ∃ box, box = boxOf := exists_eq
  rw [← hb]
  dsimp only
  split
  · refine .some ?_
    split
    · exact .rfBack (.wrMem (.rfView h))
    · exact .wrMem h
  · exact .some (.sramWrite h)
  · exact .some (.srStore h)
  · exact .some (.foldl h fun _ _ h => .setPoolOwner h)
  · exact .some (.foldl h fun _ _ h => .setDieOwner h)
  · exact .some (.foldl h fun _ _ h => .setSlot h)
  · exact .some (.foldl h fun _ _ h => .setResv h)
  · exact .none
/-- Only the function is unfolded, for the kernel would compute `boxOf` to compare two cases on it. -/
theorem FstWf.boxEcc {addr} (h : MemWf s) : FstWf (Machine.boxEcc s addr) := by
  conv => arg 1; fun; fun; delta Machine.boxEcc
  split
  · exact .eccLog h
  · exact .mk h
theorem MemWf.boxDone {fail} (h : MemWf s) : MemWf (boxDone s fail) := .update h
/-- What the cases look at is a variable, for the reason given at `boxEcc`. -/
theorem OutWf.execMailboxRead (h : MemWf s) : OutWf (Machine.execMailboxRead s) := by
  unfold Machine.execMailboxRead
  obtain ⟨p, hp⟩ : ∃ p, p = Machine.boxEcc s s.mgmt.mbaddr := exists_eq
  obtain ⟨read, hr⟩ : ∃ f, f = boxRead := exists_eq
  rw [← hp, ← hr]
  have h1 : FstWf p := hp ▸ .boxEcc h
  refine .next ?_
  split
  · exact .boxDone h1
  split
  · exact .boxDone h1
  · exact .boxDone (.update (.drawn h1))
/-- What the cases look at is a variable, for the reason given at `boxEcc`. -/
theorem OutWf.execMailboxWrite (h : MemWf s) : OutWf (Machine.execMailboxWrite s) := by
  unfold Machine.execMailboxWrite
  obtain ⟨p, hp⟩ : ∃ p, p = Machine.boxEcc s s.mgmt.mbaddr := exists_eq
  obtain ⟨write, hw⟩ : ∃ f, f = Machine.boxWrite := exists_eq
  rw [← hp, ← hw]
  have h1 : FstWf p := hp ▸ .boxEcc h
  refine .next ?_
  split
  · exact .boxDone h1
  split
  · exact .boxDone h1
  · next e => exact .boxDone (.of_some e (hw ▸ .boxWrite h1))
theorem MemWf.setWridx {n v} (h : MemWf s) : MemWf (setWridx s n v) := .ite h <| .ite (.streamError (.setStream h)) (.kick (.setStream h))
theorem OutWf.execWridxWrite (h : MemWf s) : OutWf (execWridxWrite s) := .next (.setWridx h)
theorem MemWf.setRctl {n v} (h : MemWf s) : MemWf (setRctl s n v) := .ite h (.kick (.setStream h))
theorem OutWf.execRctlWrite (h : MemWf s) : OutWf (execRctlWrite s) := .next (.setRctl h)
theorem MemWf.streamStore {n off v} (h : MemWf s) : MemWf (streamStore s n off v) := by
  unfold Machine.streamStore
  dsimp only
  split
  · exact .ite h (.setStream h)
  · exact .setRctl h
  · exact .setWridx h
  · exact .ite h (.setStream h)
  · exact h
theorem MemWf.barStore {fn off v} (h : MemWf s) : MemWf (barStore s fn off v) := by
  unfold Machine.barStore
  refine .ite h ?_
  refine .ite (.ite h (.streamStore h)) ?_
  split
  · exact .setRing h
  · exact .setRing h
  · exact .setRing h
  · exact .ite (.update h) h
  · exact .ite (.update h) h
  · exact .ite h (.schedule (.drawn (.update h)))
  · exact h
theorem MemWf.portRequest {v} (h : MemWf s) : MemWf (portRequest s v) := by
  unfold Machine.portRequest
  dsimp only
  split
  · exact .changeRefused h
  · split
    · exact .changeRefused h
    · exact .requestChange h
theorem OutWf.execScreqWrite (h : MemWf s) : OutWf (execScreqWrite s) := .next (.portRequest h)
theorem MemWf.kickWatchdog (h : MemWf s) : MemWf (kickWatchdog s) := .update h
theorem OutWf.execWdkickWrite (h : MemWf s) : OutWf (execWdkickWrite s) := .next (.kickWatchdog h)
theorem OutWf.execWatchdogExpiry (h : MemWf s) : OutWf (execWatchdogExpiry s) := .next (.ite h (.devLog (.update h)))
theorem MemWf.portBStore {off v} (h : MemWf s) : MemWf (portBStore s off v) := by
  unfold Machine.portBStore
  split
  · exact .portRequest h
  · exact .kickWatchdog (.update h)
  · exact .kickWatchdog h
  · exact h
theorem MemWf.setVfs {v} (h : MemWf s) : MemWf (setVfs s v) := .update h
theorem OutWf.execRegisterWrite (h : MemWf s) : OutWf (execRegisterWrite s) :=
  .next (.ite (.srStore h) <| .ite (.barStore h) <| .ite (.setVfs h) <| .ite (.portBStore h) h)

/-! ## Containment -/

theorem OutWf.execInitiateFlr (h : MemWf s) : OutWf (execInitiateFlr s) :=
  .next (.ite (.ite h (.update (.foldl h fun _ _ h => .ite h (.schedule (.setPart h))))) <| .ite h (.schedule (.setPart h)))
theorem MemWf.dropRecords {n} (h : MemWf s) : MemWf (dropRecords s n) := by
  unfold Machine.dropRecords
  refine .setStream ?_
  split
  · exact h
  · exact .update h
theorem MemWf.cutScene {k} (h : MemWf s) : MemWf (cutScene s k) :=
  .ite (.stopScene (.update (.foldl h fun _ _ h => .update h))) <|
    .when (.update (.foldl h fun _ _ h => .update h)) fun h1 => .dropPhasers (.haltScene h1)
theorem OutWf.execFlrStop (h : MemWf s) : OutWf (execFlrStop s) :=
  .next (.ite h (.schedule (.setPart (.update (.foldl (.foldl (.devLogP h) fun _ _ h => .dropRecords h) fun _ _ h => .cutScene h)))))
theorem OutWf.execFlrDrainEnd (h : MemWf s) : OutWf (execFlrDrainEnd s) := by
  unfold Machine.execFlrDrainEnd
  refine .next ?_
  split
  · exact h
  · exact .ite h <| .ite (.schedule (.setPart h)) (.schedule (.drawn (.setPart h)))
theorem MemWf.scrub {p} (h : MemWf s) : MemWf (Machine.scrub s p) := by
  exact .update (.dropPinned (.foldl (.zeroMem (.foldl h fun _ _ h => .flushFor h)) fun _ _ h => .releaseScene h))
theorem OutWf.execFlrComplete (h : MemWf s) : OutWf (execFlrComplete s) := by
  unfold Machine.execFlrComplete
  refine .next ?_
  split
  · exact h
  · exact .ite h (.setPart (.update (.devLog (.scrub h))))
theorem MemWf.clearCaps {core m} (h : MemWf s) : MemWf (clearCaps s core m) := .ite h (.update (.devLogOn (.setCore h)))
theorem OutWf.execCapClear (h : MemWf s) : OutWf (execCapClear s) := .next (.clearCaps h)
theorem OutWf.execChannelFence (h : MemWf s) : OutWf (execChannelFence s) := .next (.ite h (.clearCaps h))
theorem MemWf.logRetrain {m len} (h : MemWf s) : MemWf (logRetrain s m len) := .foldl (.devLog h) fun _ _ h => .queueWith h
theorem OutWf.execRetrainStart (h : MemWf s) : OutWf (execRetrainStart s) := .next (.ite h (.schedule (.update h)))
theorem MemWf.endRetrain {m} (h : MemWf s) : MemWf (endRetrain s m) := .update h
theorem MemWf.realign {m} (h : MemWf s) : MemWf (realign s m) := .update h
theorem OutWf.execRetrainEnd (h : MemWf s) : OutWf (execRetrainEnd s) := .next (.ite (.logRetrain (.realign (.endRetrain h))) h)
theorem OutWf.execRetrainTimeout (h : MemWf s) : OutWf (execRetrainTimeout s) :=
  .next (.ite h (.foldl (.update (.logRetrain (.endRetrain h))) fun _ _ h => .ite (.stopScene (.queueWith h)) (.stopLaunches (.queueWith h))))

/-! ## State readout -/

theorem OutWf.execStaterd {d a space} (h : MemWf s) : OutWf (execStaterd d a space s) := .asSupervisor h fun _ _ => .putTh h

/-! ## The host window, save, power and bring-up -/

theorem OutWf.execCxlLinkDown (h : MemWf s) : OutWf (execCxlLinkDown s) :=
  .next (.ite (.ite h (.devLog (.update h))) <| .ite h (.devLog (.update h)))
theorem OutWf.execCxlTrained (h : MemWf s) : OutWf (execCxlTrained s) := .next (.ite h <| .ite (.update h) (.update h))
theorem OutWf.execHostWindow (h : MemWf s) : OutWf (execHostWindow s) := by
  unfold Machine.execHostWindow
  have h1 : FstWf (if s.cur.flag then eccStore s ⟨.dev, s.cur.ix⟩ s.cur.data.length 0
      else eccRead s ⟨.dev, s.cur.ix⟩ s.cur.data.length 0 0) :=
    .ite (.eccStore h) (.eccRead h)
  exact .next (.ite (.update h) (.ite (.schedule h) (.ite (.update h1) (.ite (.eccFresh (.wrMem h1)) (.update h1)))))
theorem OutWf.execCxlSnoop (h : MemWf s) : OutWf (execCxlSnoop s) := .next (.ite (.update (.wrMem h)) (.update h))
theorem MemWf.saveRecord {tick cause done} (h : MemWf s) : MemWf (saveRecord s tick cause done) := .eccFresh (.wrMem h)
theorem MemWf.haltDevice (h : MemWf s) : MemWf (haltDevice s) := .update (.flushRecords h)
theorem MemWf.cutAll (h : MemWf s) : MemWf (cutAll s) := .foldl (.update h) fun _ _ h => .cutScene h
theorem OutWf.execSaveStart (h : MemWf s) : OutWf (execSaveStart s) :=
  .next (.ite h <| .ite (.haltDevice (.cutAll (.update (.ite (.devLog h) (.devLog h))))) (.schedule (.drawn (.saveRecord (.update (.cutAll (.update
    (.ite (.devLog h) (.devLog h)))))))))
theorem MemWf.freshRange {a n} (h : MemWf s) : MemWf (freshRange s a n) := .update h
theorem MemWf.saveContents {k d} (h : MemWf s) : MemWf (Machine.saveContents s k d) := by
  unfold Machine.saveContents
  refine .ite ?_ (.wrMem (.freshRange h))
  obtain ⟨-, hh, hs⟩ := memWf_iff.1 h
  exact memWf_iff.2 ⟨Memory.wf_copies (memWf_iff.1 (.foldl (.freshRange h) fun _ _ h => .rfView h)).1, hh, hs⟩
theorem OutWf.execSaveUnit (h : MemWf s) : OutWf (execSaveUnit s) := by
  unfold Machine.execSaveUnit
  refine .next ?_
  split
  · exact h
  · exact .ite (.haltDevice (.saveRecord (.saveContents h))) (.schedule (.drawn (.update (.saveRecord (.saveContents h)))))
theorem OutWf.execPwrgoodLoss (h : MemWf s) : OutWf (execPwrgoodLoss s) := .next (.unless (.update h) fun h1 => .schedule h1)
theorem MemWf.coldState (h : MemWf s) : MemWf (coldState s) := by
  obtain ⟨hd, hh, hs⟩ := memWf_iff.1 h
  exact memWf_iff.2 ⟨tabWf_filter 0 _ _ hd, hh, hs⟩
theorem OutWf.execPowerOff (h : MemWf s) : OutWf (execPowerOff s) := .next (.update (.coldState h))
theorem OutWf.execColdReset (h : MemWf s) : OutWf (execColdReset s) := .next (.coldState h)
theorem MemWf.selfTest {c} (h : MemWf s) : MemWf (selfTest s c) := .unless (.setCore h) fun h1 => .devLogOn h1
theorem MemWf.saveReport (h : MemWf s) : MemWf (Machine.saveReport s) := by
  unfold Machine.saveReport
  extract_lets s1 w
  exact .unless (.fst (.eccLog h)) fun h => .devLog h
theorem MemWf.stageDone {n} (h : MemWf s) : MemWf (stageDone s n) := .update h
theorem OutWf.execBootStage (h : MemWf s) : OutWf (execBootStage s) := by
  unfold Machine.execBootStage
  refine .next ?_
  refine .ite h ?_
  split
  · exact .haltDevice (.update h)
  · split
    · exact .update h
    · exact .saveReport (.stageDone (.foldl h fun _ _ h => .selfTest h))
    · exact .when (.foldl (.when (.stageDone h) fun h1 => .devLog h1) fun _ _ h => .kick h) fun h1 => .soon h1
    · exact .ite (.stageDone h) h
    · exact .stageDone h
theorem OutWf.execBoundaryScan (h : MemWf s) : OutWf (execBoundaryScan s) := .ite (.next (.update h)) <| .ite .refused (.next h)

/-! ## Chorus -/

theorem MemWf.takeCheckpoint {core slot r} (h : MemWf s) : MemWf (takeCheckpoint s core slot r) := by
  unfold Machine.takeCheckpoint
  dsimp only
  split
  · exact .killFatal h
  · exact .setVoice (.wrMem h)
theorem MemWf.restoreElems {core slot d x} (h : MemWf s) : MemWf (restoreElems s core slot d x) := .foldl h fun _ _ h => .setEl h
theorem MemWf.rollRegion {core x} (h : MemWf s) : MemWf (rollRegion s core x) := .restoreElems (.setReg h)
theorem MemWf.rollVoice {core slot} (h : MemWf s) : MemWf (rollVoice s core slot) := by
  unfold Machine.rollVoice
  refine .setVoice ?_
  split
  · refine .foldl ?_ fun _ _ h => .rollRegion h
    refine .foldl h fun _ _ h => ?_
    split
    · exact .eccFresh (.wrMem h)
    · exact h
  · refine .setTh ?_
    refine .foldl ?_ fun _ _ h => .rollRegion h
    refine .foldl h fun _ _ h => ?_
    split
    · exact .eccFresh (.wrMem h)
    · exact h
theorem FstWf.commitStore {core slot r p x rec} (h : FstWf x) : FstWf (Machine.commitStore core slot r p x rec) := by
  unfold Machine.commitStore
  dsimp only
  split
  · split
    · exact .mk h
    refine .ite (.mk (.queueFor h)) (.ite (.mk (.fst (.eccAccess (.holdLines h)))) (.mk (.foldl ?_ fun _ _ h => .ite (.wrMem h) h)))
    exact .eccFresh (.fst (.eccAccess (.holdLines h)))
  · exact h
theorem FstWf.commitHeld {core slot r p} (h : MemWf s) : FstWf (commitHeld s core slot r p) := .foldl (.mk h) fun _ _ h => .commitStore h
theorem MemWf.outcome {core slot die lead} (h : MemWf s) : MemWf (outcome s core slot die lead) := .setTh (.setVoice h)
theorem MemWf.minority {core slot r lead other} (h : MemWf s) : MemWf (minority s core slot r lead other) :=
  .echoLead (.setHome (.setScene (.mapGang (.setCore (.cueDone (.discardBlock (.devLogWhy h)))))))
theorem MemWf.closePoint {hk p groupNo} (h : MemWf s) : MemWf (closePoint s hk p groupNo) := .ite (.setHome h) h
theorem FstWf.matchPoint {slot r p sig} (h : MemWf s) : FstWf (Machine.matchPoint s slot r p sig) := by
  unfold Machine.matchPoint
  dsimp only
  split
  · exact .mk h
  split
  · exact .mk (.schedule h)
  · exact .mk (.foldl (.setHome h) fun _ _ h => .askRace h)
  split
  · next e => exact .mk (.killFatal (.of_fst e (.commitHeld h)))
  next e =>
  refine .mk (.closePoint (.foldl (.setHome (.of_fst e (.commitHeld h))) fun _ _ h => ?_))
  split
  · exact h
  · exact .outcome h
theorem MemWf.mismatch {slot r p} (h : MemWf s) : MemWf (mismatch s slot r p) := by
  unfold Machine.mismatch
  dsimp only
  split
  · exact h
  · refine .ite (.killFatal h) ?_
    refine .foldl ?_ fun _ _ h => ?_
    · refine .setHome ?_
      split
      · exact .queueFor h
      · exact h
    · split
      · exact h
      · exact .rollVoice h
theorem MemWf.decidePoint {core slot r p} (h : MemWf s) : MemWf (Machine.decidePoint s core slot r p) := by
  unfold Machine.decidePoint
  split
  · exact h
  · exact .ite (.killFatal h) (.mismatch h)
  split
  · next e _ =>
      have h1 := MemWf.of_fst e (.matchPoint h)
      split
      · exact h1
      · exact .minority h1
  · next e _ _ => exact .of_fst e (.matchPoint h)
theorem MemWf.decideAgain {core slot no} (h : MemWf s) : MemWf (decideAgain s core slot no) := by
  unfold Machine.decideAgain
  split
  · exact h
  · split
    · exact h
    · exact .decidePoint h
theorem OutWf.execChorusSignature (h : MemWf s) : OutWf (execChorusSignature s) := by
  unfold Machine.execChorusSignature
  refine .next ?_
  refine .ite (.decideAgain h) ?_
  split
  · exact h
  · refine .ite h ?_
    dsimp only
    split
    · exact .decidePoint (.unless (.setHome h) fun h1 => .schedule h1)
    · exact .ite (.closePoint (.outcome (.unless (.setHome h) fun h1 => .schedule h1))) (.minority (.unless (.setHome h) fun h1 => .schedule h1))
theorem MemWf.failHome {hk v w} (h : MemWf s) : MemWf (failHome s hk v w) := by
  unfold Machine.failHome
  refine .setHome ?_
  refine .foldl ?_ fun _ _ h => .endVoice h
  split
  · exact h
  · exact .queueWith h
theorem OutWf.execChorusLagExpiry (h : MemWf s) : OutWf (execChorusLagExpiry s) := by
  unfold Machine.execChorusLagExpiry
  refine .next ?_
  split
  · exact h
  · dsimp only
    split
    · exact .killFatal h
    · exact .failHome h
theorem MemWf.sendSignature {core slot r} (h : MemWf s) : MemWf (sendSignature s core slot r) := .ite h (.setTh (.update h))

/-! ## The end of a region’s cycle -/

theorem MemWf.applyPending {core slot} (h : MemWf s) : MemWf (applyPending s core slot) := by
  unfold Machine.applyPending
  dsimp only
  split
  · exact .seedRegion (.setReg h)
  · exact .setReg h
theorem OutWf.execIiBoundary (h : MemWf s) : OutWf (execIiBoundary s) := .next (.applyPending h)
theorem OutWf.execKernelRunEnd (h : MemWf s) : OutWf (execKernelRunEnd s) := .next (.when (.setReg (.applyPending h)) fun h1 => .guardRecords h1)
theorem MemWf.deliverOne {core slot key f t} (h : MemWf s) : MemWf (deliverOne s core slot key f t) :=
  .foldl (.setEl h) fun _ _ h => .ite (.guardDrop h) h
theorem MemWf.endElem {core slot key counted} (h : MemWf s) : MemWf (endElem s core slot key counted) := by
  unfold Machine.endElem
  refine .foldl (.update (.foldl (.setEl h) fun _ _ h => .deliverOne h)) fun _ _ h => ?_
  split
  · exact .soon h
  · exact h
theorem MemWf.stallRows {core slot} (h : MemWf s) : MemWf (stallRows s core slot) :=
  .foldl h fun _ _ h => .ite h <| .ite h (.foldl h fun _ _ h => .soon h)
theorem MemWf.wakeRegion {core slot} (h : MemWf s) : MemWf (wakeRegion s core slot) := .ite h (.setReg h)
theorem MemWf.regionFaults {core slot} (h : MemWf s) : MemWf (regionFaults s core slot) := by
  unfold Machine.regionFaults
  dsimp only
  split
  · exact h
  · exact .endBlocks (.unless (.foldl (.setReg h) fun _ _ h => .regRecord h) fun h1 => .discardRegion (.dropDrains (.dropRequests (.guardRecords
      (.dropDue h1)))))
theorem MemWf.deliver {core slot} (h : MemWf s) : MemWf (Machine.deliver s core slot) := by
  unfold Machine.deliver
  extract_lets k g counted keys s1 g1 s2 s3 s4 g4
  have h1 : MemWf s1 := .foldl h fun _ _ h => .endElem h
  have h2 : MemWf s2 := .unless h1 fun h1 => .stallRows (.setReg h1)
  exact .when (.regionFaults (.wakeRegion h2)) fun h => .guardRecords h
theorem MemWf.fabricPhase {core} (h : MemWf s) : MemWf (fabricPhase s core) :=
  .update (.foldl (.setCore h) fun _ _ h => .unless (.ite (.dropReq h) h) fun h1 => .setReg h1)
theorem MemWf.copyPhase {core} (h : MemWf s) : MemWf (copyPhase s core) := .update h

/-! ## The heartbeat and pre-emption -/

theorem MemWf.endFenceSc {x} (h : MemWf s) : MemWf (endFenceSc s x) := by
  unfold Machine.endFenceSc
  split
  · exact .ite (.setTh (.widen h)) h
  · exact h
theorem MemWf.takeLevel {cl e} (h : MemWf s) : MemWf (takeLevel s cl e) := .update h
theorem MemWf.logFor {cause i0 i1 l} (h : MemWf s) : MemWf (logFor s cause i0 i1 l) := .foldl (.devLog h) fun _ _ h => .queueWith h
theorem MemWf.enterT2 {d} (h : MemWf s) : MemWf (enterT2 s d) := .logFor (.foldl (.update h) fun _ _ h => .takeLevel h)
theorem MemWf.leaveT2 {d} (h : MemWf s) : MemWf (leaveT2 s d) := .logFor (.update h)
theorem MemWf.thermal (h : MemWf s) : MemWf (Machine.thermal s) := by
  unfold Machine.thermal
  extract_lets m s1 above hot m1 s2 s3 m3 s4 s5
  have h2 : MemWf s2 := by
    dsimp only [s2]
    split
    · exact .unless (.update h) fun h => .devLog (.update h)
    · exact .when (.update h) fun h => .update h
  have h3 : MemWf s3 := .unless h2 fun h => .foldl h fun _ _ h => .enterT2 h
  have h4 : MemWf s4 := .unless h3 fun h => .foldl (.update h) fun _ _ h => .takeLevel h
  have h5 : MemWf s5 := .foldl h4 fun _ _ h => .leaveT2 h
  exact .when h5 fun h => .schedule (.update h)
theorem MemWf.storeImage {i} (h : MemWf s) : MemWf (storeImage s i) := .update (.foldl h fun _ _ h => .eccFresh (.wrMem (.fst (.eccStore h))))
theorem FstWf.readImage {i} (h : MemWf s) : FstWf (readImage s i) := .foldl (.mk h) fun _ _ h => .mk (.fst (.eccRead (.fst h)))
theorem OkFstWf.placeAgain {k gslot} (h : MemWf s) : OkFstWf (Machine.placeAgain s k gslot) := by
  unfold Machine.placeAgain
  split
  · exact .error
  extract_lets
  split
  · exact .error
  · next e => exact .ite (.ok (.mk (.of_okFst e (.placeWords h)))) .error
theorem MemWf.freezeRegion {w} (h : MemWf s) : MemWf (freezeRegion s w) := .setReg (.update h)
theorem MemWf.freezeGang {k gslot g} (h : MemWf s) : MemWf (freezeGang s k gslot g) :=
  .update (.foldl (.foldl (.mapGang h) fun _ _ h => .setTh (.freezeRegion (.guardRecords h))) fun _ _ h => .ite h (.setCopier (.update h)))
theorem MemWf.clearSlot {k gslot y} (h : MemWf s) : MemWf (clearSlot s k gslot y) :=
  .putRegion (.delRun (.update (.setVoice (.setTh (.when (.ite (.update h) h) fun h1 => .setCopier (.delRun h1))))))
theorem MemWf.releaseGang {k gslot g} (h : MemWf s) : MemWf (releaseGang s k gslot g) :=
  .mapGang (.foldl (.foldl (.foldl h fun _ _ h => .flushFor h) fun _ _ h => .clearSlot h) fun _ _ h => .storeImage h)
theorem MemWf.thawGang {k gslot g} (h : MemWf s) : MemWf (thawGang s k gslot g) :=
  .mapGang (.foldl (.foldl h fun _ _ h => .setTh (.setReg h)) fun _ _ h => .ite (.replay h) h)
theorem MemWf.resumeReady (h : MemWf s) : MemWf (resumeReady s) := by
  unfold Machine.resumeReady
  split
  · exact h
  · split
    · exact h
    · exact .soon h
theorem MemWf.preemptOne {p} (h : MemWf s) : MemWf (preemptOne s p) := by
  unfold Machine.preemptOne
  split
  · exact h
  · exact .ite (.ite (.freezeGang h) h) <| .ite (.ite h <| .ite (.resumeReady (.releaseGang h)) (.thawGang h)) h
theorem MemWf.preemptStep (h : MemWf s) : MemWf (preemptStep s) := .foldl h fun _ _ h => .preemptOne h
theorem MemWf.preemption (h : MemWf s) : MemWf (preemption s) := .resumeReady (.preemptStep (.foldl h fun _ _ h => .mapGang h))
theorem OutWf.execHeartbeat (h : MemWf s) : OutWf (execHeartbeat s) := .next (.preemption (.thermal (.foldl h fun _ _ h => .endFenceSc h)))
theorem MemWf.restoreRegion {i core} (h : MemWf s) : MemWf (restoreRegion s i core) :=
  .foldl (.setReg h) fun _ _ h => .foldl h fun _ _ h => .setEl h
theorem MemWf.deliverLate {k} (h : MemWf s) : MemWf (deliverLate s k) := .foldl h fun _ _ h => .endElem h
theorem MemWf.moveWaiters {w core} (h : MemWf s) : MemWf (moveWaiters s w core) := by
  unfold Machine.moveWaiters
  split
  · exact .update h
  · exact h
theorem MemWf.restoreVoice {core slot r v} (h : MemWf s) : MemWf (restoreVoice s core slot r v) := .setVoice (.wrMem h)
theorem MemWf.restoreImage {i core} (h : MemWf s) : MemWf (Machine.restoreImage s i core) := by
  unfold Machine.restoreImage
  extract_lets tk s1 s2 t s3 s4 qk q s5 s6
  have h1 : MemWf s1 := .deliverLate (.restoreRegion h)
  have h2 : MemWf s2 := by
    dsimp only [s2]
    split
    · exact h1
    · exact .setRun h1
  have h3 : MemWf s3 := .moveWaiters (.setTh h2)
  have h4 : MemWf s4 := by
    dsimp only [s4]
    split
    · exact .restoreVoice h3
    · exact h3
  have h5 : MemWf s5 := .unless h4 fun h => .update h
  have h6 : MemWf s6 := .when h5 fun h => .update h
  split
  · exact .replay (.setCopier (.setRun h6))
  · exact h6
theorem MemWf.lagAgain {hk} (h : MemWf s) : MemWf (lagAgain s hk) := .foldl h fun _ _ h => .schedule h
theorem MemWf.movePoints {k gslot d} (h : MemWf s) : MemWf (movePoints s k gslot d) := .foldl (.update h) fun _ _ h => .lagAgain h
theorem MemWf.refuseResume {k gslot g i} (h : MemWf s) : MemWf (refuseResume s k gslot g i) := .update (.mapGang (.queueWith h))
theorem MemWf.resumeGang {k gslot g} (h : MemWf s) : MemWf (Machine.resumeGang s k gslot g) := by
  unfold Machine.resumeGang
  extract_lets mine x s1
  have h1 : MemWf s1 := .fst (.foldl (.mk h) fun _ _ h => .mk (.fst (.readImage (.fst h))))
  split
  · exact .refuseResume h1
  split
  · exact h1
  next e =>
  have h2 := MemWf.of_okFst e (.placeAgain h1)
  split
  · exact h1
  · next e => exact .movePoints (.foldl (.update (.of_some e (.moveGang h2))) fun _ _ h => .restoreImage h)
theorem OutWf.execResume (h : MemWf s) : OutWf (execResume s) := by
  unfold Machine.execResume
  refine .next ?_
  split
  · exact h
  · exact .ite h (.resumeReady (.resumeGang h))

end Sys2Proof.Machine
end

section
/-! SUPPORT. Every instruction and every turn keeps the memories canonical, and so does a step. -/

set_option Elab.async false

namespace Sys2Proof.Machine

variable {s : State}

/-! ## Every instruction -/

theorem OutWf.exec {i} (h : MemWf s) : OutWf (exec i s) := by
  unfold Machine.exec
  split
  iterate 19 exact .aluOp h
  iterate 10 exact .immOp h
  · exact .execLis h
  iterate 4 exact .memAccess h
  · exact .execSrrd h
  · exact .execSrwr h
  · exact .execBr h
  · exact .execCall h
  · exact .execBc h
  · exact .execBstS h
  · exact .execBstC h
  · exact .execBct h
  · exact .execJr h
  · exact .execRet h
  · exact .execCallr h
  · exact .execKset h
  · exact .execKrd h
  · exact .execKstart h
  · exact .execKwait h
  · exact .execKstop h
  · exact .execCfgld h
  · exact .execConstw h
  · exact .execVsel h
  · exact .execEpsel h
  · exact .execQarm h
  · exact .execQsel h
  · exact .execQcancel h
  · exact .execStage h
  · exact .execStageset h
  · exact .execTidrd h
  · exact .execTidwr h
  · exact .execResclr h
  · exact .execRestst h
  · exact .execPhreg h
  · exact .execPhdrop h
  · exact .execPhsig h
  · exact .execPhwait h
  · exact .execPhsw h
  · exact .execPhqry h
  iterate 4 exact .counterOp h
  iterate 11 exact .atomicOp h
  · exact .execFenceP h
  · exact .execFenceSc h
  · exact .execFenceD h
  · exact .execRel h
  · exact .execAcq h
  · exact .execJobpost h
  · exact .execTimerd h
  · exact .execTimefr h
  · exact .execTickrd h
  · exact .execWaitt h
  · exact .execWaittCue h
  · exact .execTrap h
  · exact .execEret h
  · exact .execEndBlock h
  · exact .execBrk h
  · exact .execStaterd h
  · exact .execIllegalWord h
  · exact .execFetchFault h
  · exact .execRecordDelivery h
  · exact .execDebugResume h
  · exact .execDebugAccess h
  · exact .execENop h
  · exact .dataOp h
  · exact .chooseOp h
  · exact .chooseOp h
  · exact .truthOp h
  · exact .execEVote3 h
  · exact .execEDelay h
  · exact .execEFlag h
  · exact .execETrap h
  iterate 25 exact .dataOp h
  iterate 5 exact .truthOp h
  iterate 23 exact .dataOp h
  · exact .execECvtSr h
  · exact .execEQmax h
  · exact .dataOp h
  · exact .execEQmx h
  iterate 5 exact .dataOp h
  iterate 4 exact .portOp h
  · exact .execAMode h
  · exact .wpre h
  · exact .wpre h
  · exact .execAWswap h
  · exact .execAPass h
  · exact .execADrain h
  · exact .execAClr h
  · exact .execABind h
  · exact .execABindOff h
  · exact .execWeightFetch h
  · exact .execPreloadComplete h
  · exact .execAOperandFetch h
  · exact .execAcAccumulate h
  · exact .execPassComplete h
  · exact .execAclrZeroWrite h
  · exact .execDrainStart h
  · exact .execEpilogueBeat h
  · exact .execEpilogueStore h
  · exact .execDrainComplete h
  · exact .execPEend h
  · exact .execPErd h
  · exact .execPRrev h
  · exact .execPSclx h
  · exact .execPCvf h
  · exact .execPBias h
  iterate 4 exact .pairWord h
  · exact .execPClmp h
  · exact .execPRelu h
  · exact .execPElut h
  · exact .execPQnt h
  · exact .execPEst h
  · exact .execPEbyp h
  · exact .execPEsum h
  · exact .execPEsel h
  · exact .execPEmov h
  · exact .execPEflg h
  iterate 6 exact .issueCopy h
  · exact .execLineTransfer h
  · exact .execCaravanSlot h
  · exact .execCopyCompletion h
  · exact .execJournalRelease h
  · exact .execCopyBlockRetirement h
  · exact .execPeerRequest h
  · exact .execPrompterPerform h
  · exact .execPortPerform h
  · exact .execPortReply h
  · exact .execStallFreeze h
  · exact .execIiBoundary h
  · exact .execKernelRunEnd h
  · exact .execTickBoundary h
  · exact .execHeartbeat h
  · exact .execCueStart h
  · exact .execSlackExpiry h
  · exact .execDeadlineExpiry h
  · exact .execUnderstudyFire h
  · exact .execBlockRetirement h
  · exact .execResume h
  · exact .execSceneChange h
  · exact .execSceneStop h
  · exact .execRecovery h
  · exact .execJobRecordRead h
  · exact .execStartScene h
  · exact .execLaunchGang h
  · exact .execChangeScene h
  · exact .execStopScene h
  · exact .execLoadScene h
  · exact .execUnloadScene h
  · exact .execSceneLoadComplete h
  · exact .execSceneUnloadComplete h
  · exact .execGangLaunchComplete h
  · exact .execPhaseBoundary h
  · exact .execChorusSignature h
  · exact .execChorusLagExpiry h
  · exact .execTbincWrite h
  · exact .execTbctlWrite h
  · exact .execTbstepWrite h
  · exact .execStepApply h
  · exact .inDomain h (.ite (.update (.restartTimeout h)) (.servo (.update (.restartTimeout h))))
  · exact .inDomain h (.ite (.servo (.update h)) h)
  · exact .inDomain h (.update h)
  · exact .inDomain h (.restartTimeout h)
  · exact .execNonPtpFrame h
  · exact .execSyncTimeout h
  · exact .execAnnounceTimeout h
  · exact .execPpsRise h
  · exact .execPpsFall h
  · exact .execPpsIn h
  · exact .execPartcfgWrite h
  · exact .execPartwordWrite h
  · exact .execPtrootWrite h
  · exact .execTlbinvPage h
  · exact .execTlbinvPartition h
  · exact .execTlbinvAll h
  · exact .execTlbinvComplete h
  · exact .execPoolOwnerWrite h
  · exact .execDieOwnerWrite h
  · exact .execCaravanMapWrite h
  · exact .execReservationWrite h
  · exact .execSyncAllotWrite h
  · exact .execCtxWrite h
  · exact .execThrcfgWrite h
  · exact .execPwrcapWrite h
  · exact .execRegisterWrite h
  · exact .execMailboxRead h
  · exact .execMailboxWrite h
  · exact .execWridxWrite h
  · exact .execRctlWrite h
  · exact .execHostWindow h
  · exact .execCxlTimeout h
  · exact .execCxlLinkDown h
  · exact .execScreqWrite h
  · exact .execWdkickWrite h
  · exact .execWatchdogExpiry h
  · exact .execInitiateFlr h
  · exact .execFlrStop h
  · exact .execFlrDrainEnd h
  · exact .execFlrComplete h
  · exact .execChannelFence h
  · exact .execCapClear h
  · exact .execRetrainStart h
  · exact .execRetrainEnd h
  · exact .execRetrainTimeout h
  · exact .execBudgetPeriod h
  · exact .execSaveStart h
  · exact .execSaveUnit h
  · exact .execPwrgoodLoss h
  · exact .execPowerOff h
  · exact .execColdReset h
  · exact .execBootStage h
  · exact .execSyncService h
  · exact .execCxlTrained h
  · exact .execCxlSnoop h
  · exact .execBoundaryScan h

/-! ## The order of turns -/

theorem MemWf.newLevels (h : MemWf s) : MemWf (newLevels s) := .ite (.update h) h
theorem MemWf.countLost (h : MemWf s) : MemWf (countLost s) := .update h
theorem MemWf.noteDrains (h : MemWf s) : MemWf (noteDrains s) := .update h
theorem MemWf.newCycle (h : MemWf s) : MemWf (newCycle s) :=
  .update (.when (.noteDrains (.update (.countLost (.newLevels (.update h))))) fun h1 => .noteSizes h1)
theorem MemWf.turn (h : MemWf s) : MemWf (turn s) := .ite (.update h) <| .ite h <| .ite (.update h) <| .ite (.flushRecords h) (.newCycle h)
theorem MemWf.resumeRun {core sheet r} (h : MemWf s) : MemWf (resumeRun s core sheet r) := by
  unfold Machine.resumeRun
  split
  · exact h
  · exact .setRun (.setCue h)
theorem OutWf.runWord {core slot i} (h : MemWf s) : OutWf (runWord s core slot i) := .exec (.update h)
theorem OutWf.fetchWord {core slot t r} (h : MemWf s) : OutWf (fetchWord s core slot t r) := by
  unfold Machine.fetchWord
  refine .ite (.runWord h) ?_
  refine .ite (.next (.killFatal h)) ?_
  dsimp only
  split
  · exact .runWord h
  · split <;> exact .runWord h
theorem OutWf.issue {core slot} (h : MemWf s) : OutWf (Machine.issue s core slot) := by
  unfold Machine.issue
  extract_lets k
  split
  · exact .next h
  extract_lets s1 s2
  have h2 : MemWf s2 := .when (.resumeRun h) fun h => .takeCheckpoint h
  split
  · exact .next h2
  refine .ite (.fetchWord h2) ?_
  split
  · next e =>
      have h3 := MemWf.of_next e (.runWord h2)
      split
      · exact .fetchWord h3
      · exact .next h3
  · exact .fault
  · exact .refused
theorem OutWf.goesOn {core slot} (h : MemWf s) : OutWf (goesOn s core slot) := .ite (.issue h) (.next h)
theorem MemWf.waitOver {core slot} (h : MemWf s) : MemWf (waitOver s core slot) := .setTh h
theorem OutWf.wordDone {core slot} (h : MemWf s) : OutWf (wordDone s core slot) := .goesOn (.setTh h)
theorem OutWf.dataBack {core slot cause v d path} (h : MemWf s) : OutWf (dataBack s core slot cause v d path) :=
  .ite (.next (.takeTrap (.setTh h))) (.goesOn (.setTh h))
theorem OutWf.waitSlot {core slot t r} (h : MemWf s) : OutWf (waitSlot s core slot t r) := by
  unfold Machine.waitSlot
  dsimp only
  split
  · exact .goesOn h
  · exact .ite (.goesOn (.waitOver h)) (.next h)
  · exact .ite (.goesOn (.waitOver h)) (.next h)
  · exact .next h
  · exact .ite (.dataBack h) (.next h)
  · exact .ite (.goesOn (.waitOver h)) (.next h)
  · exact .next h
  · exact .ite (.dataBack h) (.next h)
  · exact .ite (.fetchWord h) (.next h)
  · exact .ite (.next (.takeTrap h)) (.next h)
  · exact .ite (.wordDone h) (.next h)
  · exact .ite (.wordDone h) (.next h)
  · exact .ite (.wordDone h) (.next h)
  · exact .ite (.goesOn (.fenceArrives h)) (.next h)
  · exact .ite (.wordDone h) (.next h)
  · exact .next h
  · exact .ite (.wordDone h) (.next h)
  · exact .ite (.goesOn (.jobAppend h)) (.next h)
  · exact .ite (.fetchWord h) (.next h)
  · exact .next (.ite (.next h) h)
  · exact .next (.ite h (.sendSignature h))
  · exact .ite (.fetchWord h) (.next h)
  · exact .ite (.goesOn (.waitOver h)) (.next h)
theorem OutWf.threadSlot {core slot} (h : MemWf s) : OutWf (threadSlot s core slot) := by
  unfold Machine.threadSlot
  dsimp only
  split
  · exact .next (.update h)
  · exact .ite (.next (.update h)) (.waitSlot (.update h))
theorem OutWf.copyTry {core} (h : MemWf s) : OutWf (copyTry s core) := by
  unfold Machine.copyTry
  dsimp only
  split
  · exact .next (.update h)
  · refine .ite (.next (.update h)) ?_
    refine .ite (.next (.when (.setCopier (.resumeRun (.update h))) fun h1 => .next h1)) ?_
    refine .ite (.next (.setCopier (.resumeRun (.update h)))) ?_
    split
    · exact .exec (.setCopier (.resumeRun (.update h)))
    · exact .next (.setCopier (.resumeRun (.update h)))
theorem OutWf.elemSlot {core slot row col} (h : MemWf s) : OutWf (elemSlot s core slot row col) := by
  unfold Machine.elemSlot
  dsimp only
  split
  · exact .next (.update h)
  · refine .ite ?_ ?_
    · refine .next ?_
      refine .elemFault ?_
      split
      · exact .resumeRun (.update h)
      · exact .update h
    · split
      · refine .exec ?_
        split
        · exact .resumeRun (.update h)
        · exact .update h
      · refine .next ?_
        split
        · exact .resumeRun (.update h)
        · exact .update h
theorem OutWf.epilogueWord {core} (h : MemWf s) : OutWf (epilogueWord s core) := by
  unfold Machine.epilogueWord
  dsimp only
  split
  · exact .next (.update h)
  · split
    · exact .next (.update h)
    · split
      · exact .exec (.update h)
      · exact .next (.update h)
theorem MemWf.programRead {core slot off prog tab} (h : MemWf s) : MemWf (programRead s core slot off prog tab) := .ite (.setReg h) h
theorem MemWf.raiseFlag {core slot line} (h : MemWf s) : MemWf (raiseFlag s core slot line) := .setTh h
theorem OutWf.runAct {x} (h : MemWf s) : OutWf (runAct s x) := by
  unfold Machine.runAct
  split
  · exact .threadSlot h
  · exact .elemSlot h
  · exact .next (.deliver h)
  · exact .epilogueWord h
  · exact .next (.programRead h)
  · exact .next (.raiseFlag h)
  · exact .next (.seedCopyEngine h)
  · exact .copyTry h
  · exact .next (.fabricPhase h)
  · exact .next (.copyPhase h)
  · exact .next (.curtainStep h)
  · exact .next (.update h)
  · exact .next (.cueStep h)
  · exact .next (.preemptStep (.launchesDone h))
  · exact .next (.postFab h)
  · exact .ite (.next h) (.exec (.update h))

/-! ## One step -/

theorem OutWf.step (h : MemWf s) : OutWf (step s) := by
  unfold Machine.step
  split
  · exact .runAct (.update h)
  · exact .next (.turn h)

/-- Settles O60: a turn either runs an act of the cycle or begins what comes next, and both keep the memories canonical. -/
theorem memoriesStayCanonical : Obligations.MemoriesStayCanonical := fun _ _ h e => OutWf.step h _ e

end Sys2Proof.Machine
end

section
/-! The reset state and the laws of memory. -/

set_option Elab.async false

namespace Sys2Proof.Machine

open Safety

/-! ## Reading after a store -/

/-- Bytes stored in a place are read back from it. -/
theorem rdMem_wrMem_same (s : State) (p : Place) (l : List Byte) : rdMem (wrMem s p l) p l.length = l := by
  obtain ⟨st, a⟩ := p
  cases st <;> exact rdBytes_wrBytes_same _ a l

/-- A store leaves the other two memories alone. -/
theorem rdMem_wrMem_otherStore (s : State) {p q : Place} (l : List Byte) (n : Nat) (h : q.store ≠ p.store) :
    rdMem (wrMem s p l) q n = rdMem s q n := by
  obtain ⟨sp, a⟩ := p
  obtain ⟨sq, b⟩ := q
  match sp, sq, h with
  | .dev, .host, _ | .dev, .safety, _ | .host, .dev, _ | .host, .safety, _ | .safety, .dev, _ | .safety, .host, _ => rfl

/-- A place that the bytes of a store do not reach reads as before. -/
theorem rdMem_wrMem_apart (s : State) {p q : Place} (l : List Byte) (n : Nat) (h : q.addr + n ≤ p.addr ∨ p.addr + l.length ≤ q.addr) :
    rdMem (wrMem s p l) q n = rdMem s q n := by
  by_cases hs : q.store = p.store
  · obtain ⟨sp, a⟩ := p
    obtain ⟨sq, b⟩ := q
    obtain rfl : sq = sp := hs
    cases sq <;> exact rdBytes_wrBytes_apart _ a b n l h
  · exact rdMem_wrMem_otherStore s l n hs

theorem sameBytesBut_wrMem (s : State) (p : Place) (l : List Byte) : SameBytesBut s (wrMem s p l) p l.length
  | _, .inl h => rdMem_wrMem_otherStore s l 1 h
  | _, .inr h => rdMem_wrMem_apart s l 1 h

theorem memoryLawsRule : MemoryLawsRule := fun s p l => ⟨rdMem_wrMem_same s p l, sameBytesBut_wrMem s p l, MemWf.wrMem⟩

/-! ## The reset state -/

/-- No stream of a reset device has been set up: each reads as the default one, with the registers of R429. -/
theorem getStream_reset (n : Nat) : getStream .reset n = {} := rfl

/-- So with the partitions. -/
theorem getPart_reset (p : Nat) : getPart .reset p = {} := rfl

/-- A device without scenes and launches runs nothing in real time. -/
theorem rtRunning_reset : rtRunning .reset = false := rfl

/-- The registers of the timebase, of the power caps, of the thermal ladder and of the boot status are fields of the reset state. -/
theorem resetStateRule : ResetStateRule :=
  ⟨rfl, rfl, rfl, rfl, rtRunning_reset, rfl, rfl, rfl, rfl, rfl, rfl, rfl, rfl, rfl, rfl, rfl, rfl, rfl, rfl, rfl,
    fun n => getStream_reset n ▸ ⟨rfl, rfl, rfl, rfl, rfl, rfl, rfl⟩, fun p => getPart_reset p ▸ ⟨rfl, rfl, rfl, rfl⟩, memoriesWf_reset⟩

/-- Settles O59, by the values of the reset state and the laws of a store of bytes. -/
theorem resetAndMemory : Obligations.ResetAndMemory := ⟨resetStateRule, memoryLawsRule⟩

end Sys2Proof.Machine
end

section
/-! SUPPORT. Tables, and the steps that only make records and entries of the log, or meet errors of memory. -/

set_option Elab.async false

namespace Sys2Proof.Machine

open Safety

variable {α : Type}

/-! ## Tables -/

@[simp] theorem lookup_tdel_same (t : Tab α) (k : Nat) : lookup (tdel t k) k = none := by
  induction t with
  | nil => rfl
  | cons p r ih =>
    obtain ⟨a, v⟩ := p
    by_cases h : a = k <;> simp [tdel, lookup, h, ih]

@[simp] theorem lookup_tins_same (t : Tab α) (k : Nat) (v : α) : lookup (tins t k v) k = some v := by
  induction t with
  | nil => simp [tins, lookup]
  | cons p r ih =>
    obtain ⟨a, w⟩ := p
    by_cases h : a < k
    · simp [tins, lookup, h, ih, h.ne]
    · by_cases e : a = k <;> simp [tins, lookup, h, e]

theorem getTh_setTh_self (s : State) (k : Nat) (t : Thread) : getTh (setTh s k t) k = t := (getTh_setTh _ _ _ _).trans (if_pos rfl)
theorem getCue_setCue_self (s : State) (k : Nat) (q : Cue) : getCue (setCue s k q) k = q := (getCue_setCue _ _ _ _).trans (if_pos rfl)
theorem getScene_setScene_self (s : State) (k : Nat) (x : Scene) : getScene (setScene s k x) k = x := (getScene_setScene _ _ _ _).trans (if_pos rfl)
theorem getStream_setStream_self (s : State) (n : Nat) (t : Stream) : getStream (setStream s n t) n = t := (getStream_setStream _ _ _ _).trans (if_pos rfl)
@[simp] theorem runOf_delRun (s : State) (core sheet : Nat) : runOf (delRun s core sheet) core sheet = none := lookup_tdel_same _ _
@[simp] theorem runOf_setRun (s : State) (core sheet : Nat) (r : Run) : runOf (setRun s core sheet r) core sheet = some r := lookup_tins_same _ _ _

/-- A relation that composes holds across a fold of steps that it holds across. -/
theorem foldl_rel {β σ : Type} {R : σ → σ → Prop} (refl : ∀ s, R s s) (trans : ∀ {s t u}, R s t → R t u → R s u) {f : σ → β → σ}
    (step : ∀ s b, R s (f s b)) (l : List β) (s : σ) : R s (l.foldl f s) := by
  induction l generalizing s with
  | nil => exact refl s
  | cons b l ih => exact trans (step s b) (ih _)

/-! ## Records, the log and the rings -/

/-- A step has made records or entries of the device's log, with what goes to the rings of the functions, or has met an error of memory, and has left all else
as it was; what stood in the records and in the log still stands there. -/
def Logged (s s' : State) : Prop :=
  ∃ timef recs evlog hostMem rings irqs ecc, s.recs ⊆ recs ∧ s.evlog ⊆ evlog ∧ s' = { s with
    mgmt := { s.mgmt with timef := timef }, recs := recs, evlog := evlog, hostMem := hostMem, rings := rings, irqs := irqs, ecc := ecc }

theorem Logged.refl (s : State) : Logged s s := ⟨_, _, _, _, _, _, _, List.Subset.refl _, List.Subset.refl _, rfl⟩
theorem Logged.trans {s t u : State} : Logged s t → Logged t u → Logged s u := by
  rintro ⟨_, _, _, _, _, _, _, hr, he, rfl⟩ ⟨_, _, _, _, _, _, _, hr', he', rfl⟩
  exact ⟨_, _, _, _, _, _, _, List.Subset.trans hr hr', List.Subset.trans he he', rfl⟩
theorem Logged.ite {s t u : State} {c : Prop} [Decidable c] (ht : Logged s t) (hu : Logged s u) : Logged s (if c then t else u) := by
  split <;> assumption
theorem Logged.foldl {β : Type} {f : State → β → State} (hf : ∀ s b, Logged s (f s b)) (l : List β) (s : State) : Logged s (l.foldl f s) :=
  foldl_rel .refl .trans hf l s

section
variable {s s' : State} (h : Logged s s')
include h

theorem Logged.recs : s.recs ⊆ s'.recs := by obtain ⟨_, _, _, _, _, _, _, hr, -, rfl⟩ := h; exact hr
theorem Logged.evlog : s.evlog ⊆ s'.evlog := by obtain ⟨_, _, _, _, _, _, _, -, he, rfl⟩ := h; exact he
theorem Logged.cues : s'.cues = s.cues := by obtain ⟨_, _, _, _, _, _, _, -, -, rfl⟩ := h; rfl
theorem Logged.runs : s'.runs = s.runs := by obtain ⟨_, _, _, _, _, _, _, -, -, rfl⟩ := h; rfl
theorem Logged.parts : s'.parts = s.parts := by obtain ⟨_, _, _, _, _, _, _, -, -, rfl⟩ := h; rfl
theorem Logged.cur : s'.cur = s.cur := by obtain ⟨_, _, _, _, _, _, _, -, -, rfl⟩ := h; rfl
theorem Logged.jobs : s'.jobs = s.jobs := by obtain ⟨_, _, _, _, _, _, _, -, -, rfl⟩ := h; rfl
theorem Logged.launches : s'.launches = s.launches := by obtain ⟨_, _, _, _, _, _, _, -, -, rfl⟩ := h; rfl
theorem Logged.streams : s'.streams = s.streams := by obtain ⟨_, _, _, _, _, _, _, -, -, rfl⟩ := h; rfl
theorem Logged.nextId : s'.nextId = s.nextId := by obtain ⟨_, _, _, _, _, _, _, -, -, rfl⟩ := h; rfl
theorem Logged.getObj (k : Nat) : getObj s' k = getObj s k := by obtain ⟨_, _, _, _, _, _, _, -, -, rfl⟩ := h; rfl
theorem Logged.scenes : s'.scenes = s.scenes := by obtain ⟨_, _, _, _, _, _, _, -, -, rfl⟩ := h; rfl
theorem Logged.cycle : s'.cycle = s.cycle := by obtain ⟨_, _, _, _, _, _, _, -, -, rfl⟩ := h; rfl
theorem Logged.threads : s'.threads = s.threads := by obtain ⟨_, _, _, _, _, _, _, -, -, rfl⟩ := h; rfl
theorem Logged.tb : s'.tb = s.tb := by obtain ⟨_, _, _, _, _, _, _, -, -, rfl⟩ := h; rfl
end

theorem logged_countTime (s : State) (cause : Nat) : Logged s (countTime s cause) := by
  unfold countTime
  split
  · exact ⟨_, _, _, _, _, _, _, List.Subset.refl _, List.Subset.refl _, rfl⟩
  · exact .refl s
theorem logged_ringWrite (s : State) (fn : Nat) (r : Record) : Logged s (ringWrite s fn r) := by
  unfold ringWrite
  dsimp only
  split
  · split
    · exact ⟨_, _, _, _, _, _, _, List.Subset.refl _, List.Subset.refl _, rfl⟩
    · exact ⟨_, _, _, _, _, _, _, List.Subset.refl _, List.Subset.refl _, rfl⟩
  · exact ⟨_, _, _, _, _, _, _, List.Subset.refl _, List.Subset.refl _, rfl⟩

theorem subset_recInsert (k : Nat) (r : Record) (l : List (Nat × Record)) : (k, r) :: l ⊆ recInsert k r l := by
  induction l with
  | nil => exact List.Subset.refl _
  | cons q l ih =>
    unfold recInsert
    split
    · exact List.Subset.refl _
    · obtain ⟨hr, hl⟩ := List.cons_subset.1 ih
      simp [List.cons_subset, hr, List.subset_cons_of_subset _ hl]

theorem logged_queueWith (s : State) (core part : Nat) (w : Why) (lc block cue gang : Nat) : Logged s (queueWith s core part w lc block cue gang) :=
  (logged_countTime s w.cause).trans ⟨_, _, _, _, _, _, _, (List.cons_subset.1 (subset_recInsert _ _ _)).2, List.Subset.refl _, rfl⟩
/-- A record that is queued stands among those of its cycle. -/
theorem mem_recs_queueWith (s : State) (core part : Nat) (w : Why) (lc block cue gang : Nat) :
    ∃ x ∈ (queueWith s core part w lc block cue gang).recs, x.2.cause = w.cause :=
  ⟨_, (List.cons_subset.1 (subset_recInsert _ _ _)).1, rfl⟩

/-- An entry of the log, before it goes to the ring. -/
theorem logged_entry (s : State) (cause : Nat) (r : Record) : Logged s { countTime s cause with evlog := s.evlog ++ [r] } := by
  unfold countTime
  split
  · exact ⟨_, _, _, _, _, _, _, List.Subset.refl _, List.subset_append_left _ _, rfl⟩
  · exact ⟨_, _, _, _, _, _, _, List.Subset.refl _, List.subset_append_left _ _, rfl⟩
/-- A cause of the log: an entry of it that goes to the ring of the PF, and an interrupt or none. -/
theorem devLogWhy_steps (s : State) (core : Nat) (w : Why) (lc part block cue gang : Nat) :
    ∃ r : Record, r.cause = w.cause ∧ Logged { countTime s w.cause with evlog := s.evlog ++ [r] } (devLogWhy s core w lc part block cue gang) := by
  refine ⟨⟨w.cause, part, recWords w (recWord0 w false lc part block cue gang) (ticks s) core 0⟩, rfl, ?_⟩
  unfold devLogWhy
  dsimp only
  split
  · exact (logged_ringWrite _ _ _).trans ⟨_, _, _, _, _, _, _, List.Subset.refl _, List.Subset.refl _, rfl⟩
  · exact logged_ringWrite _ _ _
theorem logged_devLogWhy (s : State) (core : Nat) (w : Why) (lc part block cue gang : Nat) : Logged s (devLogWhy s core w lc part block cue gang) := by
  obtain ⟨r, -, h⟩ := devLogWhy_steps s core w lc part block cue gang
  exact (logged_entry s w.cause r).trans h
/-- It stands in the log. -/
theorem mem_evlog_devLogWhy (s : State) (core : Nat) (w : Why) (lc part block cue gang : Nat) :
    ∃ e ∈ (devLogWhy s core w lc part block cue gang).evlog, e.cause = w.cause := by
  obtain ⟨r, hr, h⟩ := devLogWhy_steps s core w lc part block cue gang
  exact ⟨r, h.evlog (List.mem_append_right _ (List.mem_singleton_self r)), hr⟩
theorem logged_devLog (s : State) (cause i0 i1 : Nat) : Logged s (devLog s cause i0 i1) := logged_devLogWhy _ _ _ _ _ _ _ _
theorem mem_evlog_devLog (s : State) (cause i0 i1 : Nat) : ∃ e ∈ (devLog s cause i0 i1).evlog, e.cause = cause := mem_evlog_devLogWhy _ _ _ _ _ _ _ _

/-! ## Errors that reads of memory meet -/

theorem logged_eccBlocks (s : State) (p : Place) (l : List Nat) (core : Nat) : Logged s (eccBlocks s p l core).1 := by
  have ht : Logged s (transferred s l) := ⟨_, _, _, _, _, _, _, List.Subset.refl _, List.Subset.refl _, rfl⟩
  unfold eccBlocks
  split
  · exact .refl s
  · exact ht.trans (logged_devLogWhy _ _ _ _ _ _ _ _)
  · exact ht.trans (logged_devLogWhy _ _ _ _ _ _ _ _)
theorem logged_eccLog (s : State) (p : Place) (n core : Nat) : Logged s (eccLog s p n core).1 := by
  unfold eccLog
  split
  · exact .refl s
  · exact logged_eccBlocks _ _ _ _
theorem logged_eccRead (s : State) (p : Place) (n part core : Nat) : Logged s (eccRead s p n part core).1 := by
  unfold eccRead
  dsimp only
  split
  · exact logged_eccLog _ _ _ _
  · exact (logged_eccLog _ _ _ _).trans (logged_queueWith _ _ _ _ _ _ _ _)
theorem logged_walkEcc (s : State) (core part va : Nat) : Logged s (walkEcc s core part va) := by
  unfold walkEcc
  split
  · exact .foldl (fun _ _ => logged_eccBlocks _ _ _ _) _ _
  · exact .refl s
theorem logged_loadWalk (s : State) (part va : Nat) : Logged s (loadWalk s part va) := by
  unfold loadWalk
  dsimp only
  split
  · split
    · exact (logged_walkEcc _ _ _ _).trans (logged_queueWith _ _ _ _ _ _ _ _)
    · exact logged_walkEcc _ _ _ _
  · exact logged_walkEcc _ _ _ _
/-- Reading a partition's virtual addresses changes nothing but for the errors that it meets. -/
theorem logged_readVa (part n : Nat) : ∀ (s : State) (va : Nat), Logged s (readVa s part va n).1 := by
  induction n with
  | zero => exact fun s _ => .refl s
  | succ n ih =>
    intro s va
    unfold readVa
    split
    · exact logged_loadWalk _ _ _
    · split
      · exact .refl s
      · split
        · next e => exact (logged_loadWalk _ _ _).trans (congrArg Prod.fst e ▸ logged_eccRead _ _ _ _ _)
        · next e =>
            have h1 := (logged_loadWalk s part va).trans (congrArg Prod.fst e ▸ logged_eccRead _ _ _ _ _)
            split
            · next e' => exact h1.trans (congrArg Prod.fst e' ▸ ih _ _)
            · next e' => exact h1.trans (congrArg Prod.fst e' ▸ ih _ _)
end Sys2Proof.Machine
end

section
/-! Time reads and waits. -/

set_option Elab.async false

namespace Sys2Proof.Machine

open Safety

/-! ## Time words -/

/-- The time that a core has, as its C-die's own timebase or the device's gives it (R31, R411). -/
theorem timeOn_eq (s : State) (core : Nat) :
    timeOn s core = match s.tb.own.find? fun o => o.1 == dieOf core with
      | none => (s.tb.ticks, s.tb.frac)
      | some o => (o.2.1, o.2.2.1) := by
  unfold timeOn
  cases s.tb.own.find? fun o => o.1 == dieOf core <;> rfl

/-- In no chorus a read of a value that the voices must agree on writes it back as it is. -/
theorem result_echoRead {s : State} {t : Thread} {r : Run} (h : Runs s t r) (hc : r.chorus = false) (d : Nat) (v : W64) :
    Result s t d v (onThread s fun t r => echoRead s t r d v) := by
  rw [onThread_runs h]
  simp only [echoRead, echoBy, hc, Bool.not_false, if_true]
  exact result_writeBack d v

/-- In no chorus the fire tick that a wait counts from is the block's own. -/
theorem leadFire_alone (s : State) {r : Run} (hc : r.chorus = false) (slot : Nat) : leadFire s r slot = r.fire := by
  simp [leadFire, hc]

theorem execWaitt_runs {s : State} {t : Thread} {r : Run} (h : Runs s t r) (hc : r.chorus = false) (a : Nat) :
    execWaitt a s = .next (waitTick s t (rdReg t a).toNat) := by
  unfold execWaitt
  rw [onThread_runs h, leadFire_alone s hc, Int.sub_add_cancel, Int.toNat_natCast]

/-- Settles O20: a read writes the time that the core's C-die has; a wait compares its tick with it, and WAITT_CUE with the device's (log 46). -/
theorem timeWords : Obligations.TimeWords := by
  intro s t r d a h hc x now
  have hnow : timeOn s s.cur.core = now := timeOn_eq s _
  have hns : timeNsOn s s.cur.core = 10 * now.1 + 10 * now.2 / 2 ^ 32 := by
    rw [timeNsOn, hnow, Nat.mul_comm now.1, Nat.mul_comm now.2]
  refine ⟨?_, ?_, ?_, fun hx => ?_, fun hx => ?_, fun hx => ?_, fun hx => ?_⟩
  · exact hns ▸ result_echoRead h hc d _
  · exact hnow ▸ result_echoRead h hc d _
  · exact hnow ▸ result_echoRead h hc d _
  · change Passes s t (execWaitt a s)
    rw [execWaitt_runs h hc, waitTick, ticksOn, hnow, if_pos hx]
    exact becomes_putTh s _
  · change Becomes s _ (execWaitt a s)
    rw [execWaitt_runs h hc, waitTick, ticksOn, hnow, if_neg (Nat.not_le.2 hx)]
    exact becomes_putTh s _
  · change Passes s t (execWaittCue a s)
    rw [execWaittCue, onThread_runs h, if_pos hx]
    exact becomes_putTh s _
  · change Becomes s _ (execWaittCue a s)
    rw [execWaittCue, onThread_runs h, if_neg (Int.not_le.2 hx)]
    exact becomes_putTh s _

end Sys2Proof.Machine
end

section
/-! The end of a block, and the steps of a tick boundary. -/

set_option Elab.async false

namespace Sys2Proof.Machine

open Safety

/-! ## Retirement -/

/-- The fields of an occupancy entry that `occWrite` makes (R54): the outcome and the variant stand above BUSY and IDLE. -/
theorem occ_fields (outcome variant busy idle : Nat) (ho : outcome < 4) (hb : busy < 2 ^ 29) (hi : idle < 2 ^ 29) :
    let w := (w64 (outcome * 2 ^ 62 + variant % 4 * 2 ^ 60 + busy * 2 ^ 29 + idle)).toNat
    w / 2 ^ 62 = outcome ∧ w / 2 ^ 60 % 4 = variant % 4 := by
  simp only [w64, BitVec.toNat_ofNat]
  omega

/-- The end of a block writes its outcome and its variant. -/
theorem occ_occWrite (s : State) (core ix outcome variant fireN : Nat) (ho : outcome < 4) :
    let w := (getCue (occWrite s core ix outcome variant fireN) (1024 * core + ix)).occ.toNat
    w / 2 ^ 62 = outcome ∧ w / 2 ^ 60 % 4 = variant % 4 := by
  simp only [occWrite, getCue_setCue, if_true]
  exact occ_fields _ _ _ _ ho (by omega) (Nat.mod_lt _ (by decide))

theorem sameMem_occWrite (s : State) (core ix outcome variant fireN : Nat) : SameMem s (occWrite s core ix outcome variant fireN) := ⟨rfl, rfl, rfl⟩
theorem sameMem_delRun (s : State) (core sheet : Nat) : SameMem s (delRun s core sheet) := ⟨rfl, rfl, rfl⟩
theorem sameMem_retire (s : State) (core sheet : Nat) (r : Run) : SameMem s (retire s core sheet r) :=
  (sameMem_occWrite _ _ _ _ _ _).trans <| (sameMem_setCue _ _ _).trans <| (sameMem_delRun _ _ _).trans (sameMem_soon _ _)

/-- A retired block: its sheet runs nothing, its cue is DONE, and OUTCOME is 0 (R45, R54). -/
theorem retire_own (s : State) (core sheet : Nat) (r : Run) (hu : r.under = false) :
    let s' := retire s core sheet r
    runOf s' core sheet = none ∧ (getCue s' (1024 * core + r.cue)).st = .done
      ∧ (getCue s' (1024 * core + r.cue)).occ.toNat / 2 ^ 62 = 0 ∧ (getCue s' (1024 * core + r.cue)).occ.toNat / 2 ^ 60 % 4 = r.variant % 4
      ∧ s'.threads = s.threads := by
  have hocc := occ_occWrite s core r.cue 0 r.variant r.fireN (by decide)
  have hq : getCue (retire s core sheet r) (1024 * core + r.cue)
      = { getCue (occWrite s core r.cue 0 r.variant r.fireN) (1024 * core + r.cue) with st := .done } := by
    simp only [retire, hu, Bool.not_false, if_true, Bool.false_eq_true, if_false]
    exact getCue_setCue_self _ _ _
  intro s'
  rw [hq]
  refine ⟨runOf_delRun _ _ _, rfl, hocc.1, hocc.2, ?_⟩
  simp only [s', retire, soon_other, delRun_other, setCue_other, occWrite]

/-- END of a block in no chorus waits, and puts the retirement next where its conditions hold (R45, R260). -/
theorem endWordRule : EndWordRule := by
  intro s t r h hb hc
  have hend : execEndBlock s = .next (if endReady s s.cur.core s.cur.slot
      then next (putTh s { t with wait := .ending }) (.row .blockRetirement { core := s.cur.core, slot := s.cur.slot })
      else putTh s { t with wait := .ending }) := by
    rw [execEndBlock, onThread_runs h]
    simp only [hb, hc, comparePoint, Option.isSome_none, Bool.false_eq_true, if_false, Bool.not_false, if_true]
  refine ⟨fun hr => ?_, fun hr => ?_⟩
  · change Becomes s _ (execEndBlock s)
    rw [hend, hr]
    exact becomes_putTh s _
  · rw [hr] at hend
    refine ⟨_, hend, ?_, rfl, SameMem.sameBytes ⟨rfl, rfl, rfl⟩, fun k hk => ?_⟩
    · exact getTh_setTh_self _ _ _
    · exact (getTh_setTh _ _ _ _).trans (if_neg hk)

/-- The two retirements, of a region's block and of a copy engine's, both end in `retire` (R45, R190). -/
theorem retirementRule : RetirementRule := by
  intro s r sheet hr hc hu q' done
  refine ⟨fun hs hw he => ?_, fun hs hp hj => ?_⟩
  · subst hs
    let s1 := setTh s (thKey s.cur.core s.cur.slot) { getTh s (thKey s.cur.core s.cur.slot) with running := false, wait := .none }
    have hex : execBlockRetirement s = .next (retire s1 s.cur.core s.cur.slot r) := by
      unfold execBlockRetirement
      simp [hr, hw, he, leaveChorus, hc, s1]
    obtain ⟨h1, h2, h3, h4, h5⟩ := retire_own s1 s.cur.core s.cur.slot r hu
    refine ⟨_, hex, ⟨h1, h2, h3, h4, ((sameMem_setTh _ _ _).trans (sameMem_retire _ _ _ _)).sameBytes⟩, ?_⟩
    rw [getTh, h5]
    exact congrArg Thread.running (getTh_setTh_self _ _ _)
  · subst hs
    have hex : execCopyBlockRetirement s = .next (retire s s.cur.core 4 r) := by
      unfold execCopyBlockRetirement
      simp [hr, hj, Nat.not_lt.2 hp]
    obtain ⟨h1, h2, h3, h4, -⟩ := retire_own s s.cur.core 4 r hu
    exact ⟨_, hex, h1, h2, h3, h4, (sameMem_retire _ _ _ _).sameBytes⟩

/-- Settles O23, by the two rows: END waits or makes the retirement the next step, and the retirement clears the sheet and closes the cue. -/
theorem blockEnds : Obligations.BlockEnds := ⟨endWordRule, retirementRule⟩

/-! ## The tick boundary -/

/-- Only race tags and the grants of them change at the start of the periods (R346). -/
theorem resetTags_only (s : State) : ∃ tags grants, resetTags s = { s with tags := tags, grants := grants } := by
  refine foldl_rel (R := fun s s' => ∃ tags grants, s' = { s with tags := tags, grants := grants }) (fun s => ⟨_, _, rfl⟩) ?_ (fun s x => ?_) _ s
  · rintro s _ _ ⟨a, b, rfl⟩ ⟨c, d, rfl⟩
    exact ⟨c, d, rfl⟩
  · split
    · exact ⟨_, _, rfl⟩
    · exact ⟨_, _, rfl⟩

/-- Settles O26: the boundary prepends the four steps to what is still to do, and what it changes besides are race tags. -/
theorem tickOrder : Obligations.TickOrder := by
  intro s
  obtain ⟨tags, grants, h⟩ := resetTags_only s
  refine ⟨_, rfl, ?_⟩
  rw [h]
  exact ⟨SameMem.sameBytes ⟨rfl, rfl, rfl⟩, rfl, rfl, rfl, rfl⟩

end Sys2Proof.Machine
end

section
/-! SUPPORT. What the cue unit keeps while a block is discarded. -/

set_option Elab.async false

namespace Sys2Proof.Machine

open Safety
/-! ## What stays for the cue unit while a block is discarded -/

/-- The cues, the blocks that run, the scenes and the time are as before, and the records of this cycle are still there. -/
structure CuesKept (s s' : State) : Prop where
  cues : s'.cues = s.cues
  runs : s'.runs = s.runs
  scenes : s'.scenes = s.scenes
  tb : s'.tb = s.tb
  cycle : s'.cycle = s.cycle
  recs : s.recs ⊆ s'.recs

namespace CuesKept
variable {s s' t : State}

theorem refl (s : State) : CuesKept s s := ⟨rfl, rfl, rfl, rfl, rfl, List.Subset.refl _⟩
theorem trans (h : CuesKept s t) (k : CuesKept t s') : CuesKept s s' :=
  ⟨k.cues.trans h.cues, k.runs.trans h.runs, k.scenes.trans h.scenes, k.tb.trans h.tb, k.cycle.trans h.cycle, List.Subset.trans h.recs k.recs⟩
/-- An update of other fields. -/
theorem update (h : (s'.cues, s'.runs, s'.scenes, s'.tb, s'.cycle, s'.recs) = (s.cues, s.runs, s.scenes, s.tb, s.cycle, s.recs) := by rfl) :
    CuesKept s s' := by
  simp only [Prod.mk.injEq] at h
  obtain ⟨h1, h2, h3, h4, h5, h6⟩ := h
  exact ⟨h1, h2, h3, h4, h5, h6 ▸ List.Subset.refl _⟩
theorem ite {c : Prop} [Decidable c] (hs : CuesKept t s) (hs' : CuesKept t s') : CuesKept t (if c then s else s') := by split <;> assumption
theorem foldl {β : Type} {f : State → β → State} (hf : ∀ s b, CuesKept s (f s b)) (l : List β) (s : State) : CuesKept s (l.foldl f s) :=
  foldl_rel .refl .trans hf l s
theorem logged (h : Logged s s') : CuesKept s s' := ⟨h.cues, h.runs, h.scenes, h.tb, h.cycle, h.recs⟩

theorem guardDrop (s : State) (core slot row col side pos : Nat) (t : Token) : CuesKept s (guardDrop s core slot row col side pos t) := by
  unfold Machine.guardDrop
  exact .ite (.refl s) .update
theorem dropDue (s : State) (core slot : Nat) : CuesKept s (dropDue s core slot) := by
  unfold Machine.dropDue
  refine .ite (.refl s) (.foldl (fun s p => .foldl (fun s f => .foldl (fun s d => ?_) _ _) _ _) _ _)
  exact .ite (guardDrop _ _ _ _ _ _ _ _) (.refl s)
theorem guardRecords (s : State) (core slot : Nat) : CuesKept s (guardRecords s core slot) :=
  .trans (.foldl (fun _ _ => .logged (logged_queueWith _ _ _ _ _ _ _ _)) _ _) .update
theorem dropRequests (s : State) (core slot : Nat) : CuesKept s (dropRequests s core slot) := .update
theorem objWake (s : State) (k : Nat) : CuesKept s (objWake s k) := .trans .update (.foldl (fun _ _ => .update) _ _)
theorem setObj (s : State) (k : Nat) (v : SyncObj) : CuesKept s (setObj s k v) := by
  unfold Machine.setObj
  split
  · exact .refl s
  · exact .update
  · exact .update
theorem putObj (s : State) (k : Nat) (o : SyncObj) : CuesKept s (putObj s k o) := (setObj s k o).trans (objWake _ k)
theorem dropNotice (s : State) (core no k : Nat) : CuesKept s (dropNotice s core no k) := .ite .update (putObj _ _ _)
theorem dropDrains (s : State) (core slot part : Nat) : CuesKept s (dropDrains s core slot part) := by
  unfold Machine.dropDrains
  extract_lets c mine gone beat s1 s2
  have h1 : CuesKept s s1 := .update
  have h2 : CuesKept s1 s2 := .ite (.refl _) .update
  exact (h1.trans h2).trans (.foldl (fun s d => .ite (.refl s) (dropNotice _ _ _ _)) _ _)
theorem discardRegion (s : State) (core slot : Nat) : CuesKept s (discardRegion s core slot) := .update

end CuesKept

/-- Discarding the block of a region sheet (R49, steps 2 and 3): what the cue unit reads stays but for the run, and the thread stops. -/
structure Discarded (s s' : State) (core sheet : Nat) : Prop where
  cues : s'.cues = s.cues
  scenes : s'.scenes = s.scenes
  tb : s'.tb = s.tb
  recs : s.recs ⊆ s'.recs
  idle : runOf s' core sheet = none
  stopped : (getTh s' (thKey core sheet)).running = false

theorem discarded_discardBlock {s : State} {core sheet : Nat} {r : Run} (h : runOf s core sheet = some r) (hs : sheet ≠ 4) :
    Discarded s (discardBlock s core sheet) core sheet := by
  unfold discardBlock
  simp -zeta only [h, if_neg hs]
  extract_lets t0 s1 s2 q s3 s4 t s5 s6 s7 c s8
  have h1 : CuesKept s s1 := .ite (.logged (logged_queueWith _ _ _ _ _ _ _ _)) (.refl s)
  have h2 : CuesKept s1 s2 := .trans (.dropDue _ _ _) (.guardRecords _ _ _)
  have h4 : CuesKept s2 s4 := ((CuesKept.dropRequests _ _ _).trans (.dropDrains _ _ _ _)).trans (.discardRegion _ _ _)
  clear_value s4
  have h7 : CuesKept s4 s7 := .update
  have hrun : (getTh s7 (thKey core sheet)).running = false := congrArg Thread.running (getTh_setTh_self _ _ _)
  obtain ⟨a, b, h8⟩ : ∃ a b, s8 = { s7 with resid := a, residAt := b } := by
    refine foldl_rel (R := fun s s' : State => ∃ a b, s' = { s with resid := a, residAt := b }) (fun s => ⟨_, _, rfl⟩) ?_ (fun s d => ⟨_, _, rfl⟩) _ _
    rintro s _ _ ⟨a, b, rfl⟩ ⟨c, d, rfl⟩
    exact ⟨c, d, rfl⟩
  have h := ((h1.trans h2).trans h4).trans h7
  clear_value s8 s7
  subst h8
  exact ⟨h.cues, h.scenes, h.tb, h.recs, runOf_delRun _ _ _, hrun⟩

end Sys2Proof.Machine
end

section
/-! Firing of a cue, late inputs, deadlines and understudies. -/

set_option Elab.async false

namespace Sys2Proof.Machine

open Safety

/-! ## Failing a cue -/

/-- A cue that enters HELD (R50): the records stay, and no sheet or thread changes. -/
theorem enterHeld_own (s : State) (core ix fireN variant : Nat) :
    let s' := enterHeld s core ix fireN variant
    (getCue s' (1024 * core + ix)).st = .held ∧ s'.recs = s.recs ∧ s'.runs = s.runs ∧ s'.threads = s.threads := by
  unfold enterHeld
  extract_lets k q s1 s2
  obtain ⟨a, h⟩ : ∃ a, s2 = { s1 with resid := a } := by
    refine foldl_rel (R := fun s s' : State => ∃ a, s' = { s with resid := a }) (fun s => ⟨_, rfl⟩) ?_ (fun s d => ⟨_, rfl⟩) _ _
    rintro s _ _ ⟨a, rfl⟩ ⟨b, rfl⟩
    exact ⟨b, rfl⟩
  have h1 : getCue s2 k = { q with st := .held, understudyDue := none } := by
    rw [h]
    exact getCue_setCue_self _ _ _
  have h2 : s2.recs = s.recs ∧ s2.runs = s.runs ∧ s2.threads = s.threads := by rw [h]; exact ⟨rfl, rfl, rfl⟩
  clear_value s2
  refine ⟨?_, h2⟩
  change (getCue (occWrite s2 core ix 3 variant fireN) k).st = _
  rw [occWrite, getCue_setCue, if_pos rfl, h1]

/-- A cue that is not yet its understudy's passes to it, due at the tick t, or is held; no record goes, and no sheet or thread changes (R46). -/
theorem cueFail_own (s : State) (core ix t fireN cause variant : Nat) {q : Cue} (hq : getCue s (1024 * core + ix) = q) (hu : q.st ≠ .under) :
    let s' := cueFail s core ix t fireN cause variant
    (qUnder q ≠ 0xFFF → (getCue s' (1024 * core + ix)).st = .under ∧ (getCue s' (1024 * core + ix)).understudyDue = some t)
    ∧ (qUnder q = 0xFFF → (getCue s' (1024 * core + ix)).st = .held) ∧ s'.recs = s.recs ∧ s'.runs = s.runs ∧ s'.threads = s.threads := by
  subst hq
  unfold cueFail
  extract_lets k q g s1 s'
  dsimp only [s']
  rw [if_neg (show ¬ q.st = .under from hu)]
  by_cases h : qUnder q = 0xFFF
  · rw [if_pos (show bits q.word0.toNat 51 40 = 0xFFF from h)]
    obtain ⟨h1, h2, h3, h4⟩ := enterHeld_own (setCue s k { q with failCause := cause }) core ix fireN variant
    exact ⟨fun h' => absurd h h', fun _ => h1, h2, h3, h4⟩
  · rw [if_neg (show ¬ bits q.word0.toNat 51 40 = 0xFFF from h)]
    have hs : getCue s1 k = { q with st := .under, failCause := cause, understudyDue := some t } := getCue_setCue_self _ _ _
    have hq : (getCue s1 k).st = .under ∧ (getCue s1 k).understudyDue = some t := hs ▸ ⟨rfl, rfl⟩
    split
    · exact ⟨fun _ => hq, fun h' => absurd h' h, rfl, rfl, rfl⟩
    · exact ⟨fun _ => hq, fun h' => absurd h' h, rfl, rfl, rfl⟩

/-- An understudy that fails is held, with 0x0C6 (R50). -/
theorem cueFail_under (s : State) (core ix t fireN cause variant : Nat) (hu : (getCue s (1024 * core + ix)).st = .under) :
    let s' := cueFail s core ix t fireN cause variant
    (getCue s' (1024 * core + ix)).st = .held ∧ (∃ x ∈ s'.recs, x.2.cause = 0x0C6) ∧ s'.runs = s.runs := by
  unfold cueFail
  extract_lets k q g s1 s'
  dsimp only [s']
  rw [if_pos (show q.st = .under from hu)]
  obtain ⟨h1, h2, h3, -⟩ := enterHeld_own (queueWith s core q.part { cause := 0x0C6, eng := 6, fatal := true, pos := ix, i0 := ix } q.lc
    (bits q.word0.toNat 51 40) ix (g.getD 0)) core ix fireN 0
  refine ⟨h1, ?_, h3.trans (logged_queueWith _ _ _ _ _ _ _ _).runs⟩
  rw [h2]
  exact mem_recs_queueWith _ _ _ _ _ _ _ _

/-- The records of a cue that fails: its own and, near a retrain, that of R412. -/
theorem cueRecords_steps (s : State) (core ix cause i1 : Nat) (fatal : Bool) :
    let s' := retrainRecord (cueRecord s core ix cause i1 fatal) core ix
    Logged s s' ∧ ∃ x ∈ s'.recs, x.2.cause = cause := by
  have hc : Logged s (cueRecord s core ix cause i1 fatal) := logged_queueWith _ _ _ _ _ _ _ _
  have hm : ∃ x ∈ (cueRecord s core ix cause i1 fatal).recs, x.2.cause = cause := mem_recs_queueWith _ _ _ _ _ _ _ _
  have hr : ∀ s : State, Logged s (retrainRecord s core ix) := by
    intro s
    unfold retrainRecord
    exact .ite ((logged_devLog _ _ _ _).trans (logged_queueWith _ _ _ _ _ _ _ _)) (.refl s)
  obtain ⟨x, hx, hc'⟩ := hm
  exact ⟨hc.trans (hr _), x, (hr _).recs hx, hc'⟩

/-- With the record of its cause, a cue that fails is as R46 says. -/
theorem fails_cueFail (s0 s : State) {q : Cue} (hq : getCue s (1024 * s0.cur.core + s0.cur.ix) = q) (hu : q.st ≠ .under) {cause : Nat}
    (hm : ∃ x ∈ s.recs, x.2.cause = cause) (fireN c variant : Nat) :
    Fails s0 (cueFail s s0.cur.core s0.cur.ix s0.tb.ticks fireN c variant) q cause := by
  obtain ⟨h1, h2, h3, -⟩ := cueFail_own s s0.cur.core s0.cur.ix s0.tb.ticks fireN c variant hq hu
  obtain ⟨x, hx, hc⟩ := hm
  exact ⟨h1, h2, x, h3 ▸ hx, hc⟩

/-! ## Firing -/

/-- A table after the writes of the places below n. -/
theorem tget_foldl_tput_range {α : Type} [DecidableEq α] (d : α) (f : Nat → α) (t : Tab α) (k n : Nat) :
    tget ((List.range n).foldl (fun w i => tput w d i (f i)) t) d k = if k < n then f k else tget t d k := by
  induction n with
  | zero => rfl
  | succ n ih =>
    rw [List.range_succ, List.foldl_append, List.foldl_cons, List.foldl_nil, tget_tput, ih]
    by_cases h : k = n
    · simp [h]
    · rw [if_neg h]
      exact if_congr (by omega) rfl rfl

/-- A thread that fires has the arguments in its first four registers (R359). -/
theorem rdReg_firedThread (t : Thread) (entry begin_ : Nat) (args : List W64) {i : Nat} (hi : i < 4) :
    rdReg (firedThread t entry begin_ args) (8 + i) = args.getD i 0 := by
  have hk : 16 * (firedThread t entry begin_ args).depth + (8 + i - 8) = i := by simp [firedThread]
  rw [rdReg, if_neg (by omega), if_neg (by omega), hk]
  exact (tget_foldl_tput_range 0 (fun i => args.getD i 0) [] i 4).trans (if_pos hi)

/-- Cues change, and free numbers are drawn. -/
def CuesOnly (s s' : State) : Prop := ∃ cues free, s' = { s with cues := cues, free := free }

theorem CuesOnly.refl (s : State) : CuesOnly s s := ⟨_, _, rfl⟩
theorem CuesOnly.trans {s t u : State} : CuesOnly s t → CuesOnly t u → CuesOnly s u := by
  rintro ⟨_, _, rfl⟩ ⟨a, b, rfl⟩
  exact ⟨a, b, rfl⟩
theorem cuesOnly_setCue (s : State) (k : Nat) (q : Cue) : CuesOnly s (setCue s k q) := ⟨_, _, rfl⟩

/-- The IDLE fields are written, and each cue keeps its phase. -/
theorem writeIdle_only (s : State) (core sheet begin_ : Nat) :
    CuesOnly s (writeIdle s core sheet begin_) ∧ ∀ k, (getCue (writeIdle s core sheet begin_) k).st = (getCue s k).st := by
  refine foldl_rel (R := fun s s' => CuesOnly s s' ∧ ∀ k, (getCue s' k).st = (getCue s k).st) (fun s => ⟨.refl s, fun _ => rfl⟩) ?_ (fun s p => ?_) _ s
  · exact fun h h' => ⟨h.1.trans h'.1, fun k => (h'.2 k).trans (h.2 k)⟩
  · split
    · split
      · refine ⟨cuesOnly_setCue _ _ _, fun k => ?_⟩
        rw [getCue_setCue]
        split
        · next h => rw [h]
        · rfl
      · exact ⟨.refl s, fun _ => rfl⟩
    · exact ⟨.refl s, fun _ => rfl⟩

/-- A block in no chorus that fires on a region sheet. -/
theorem fireRegion_own (s : State) (core sheet : Nat) (r : Run) (hc : r.chorus = false) :
    let s' := fireRegion s core sheet r
    runOf s' core sheet = some r ∧ (∃ t, getTh s' (thKey core sheet) = firedThread t r.entry r.fireN (argsOf s r.scene r.gslot))
      ∧ s'.cues = s.cues ∧ SameMem s s' := by
  unfold fireRegion
  simp -zeta only [hc, Bool.false_eq_true, if_false]
  extract_lets k s1 g s2 s3 s4 s'
  have hr : runOf s1 core sheet = some r := runOf_setRun s core sheet r
  have h1 : s1.cues = s.cues ∧ SameMem s s1 ∧ argsOf s1 r.scene r.gslot = argsOf s r.scene r.gslot := ⟨rfl, ⟨rfl, rfl, rfl⟩, rfl⟩
  clear_value s1
  have h3 : s3.runs = s1.runs ∧ s3.cues = s1.cues ∧ SameMem s1 s3 ∧ argsOf s3 r.scene r.gslot = argsOf s1 r.scene r.gslot :=
    ⟨rfl, rfl, ⟨rfl, rfl, rfl⟩, rfl⟩
  clear_value s3
  have h4 : s'.threads = s4.threads ∧ s'.runs = s3.runs ∧ s'.cues = s3.cues ∧ SameMem s3 s' := ⟨rfl, rfl, rfl, rfl, rfl, rfl⟩
  obtain ⟨ht, hr', hc', hm⟩ := h4
  refine ⟨?_, ⟨getTh s3 k, ?_⟩, hc'.trans (h3.2.1.trans h1.1), (h1.2.1.trans h3.2.2.1).trans hm⟩
  · rw [← hr, runOf, hr', h3.1]; rfl
  · rw [getTh, ht, ← h1.2.2, ← h3.2.2.2]
    exact getTh_setTh_self _ _ _

/-- A cue whose gang is resident fires a block on a region sheet, in no chorus or as an understudy (R46, R48, R218). -/
theorem fired_fireBlock (s0 : State) {s : State} (hs : CuesOnly s0 s) {q : Cue} (hq : getCue s (1024 * s0.cur.core + s0.cur.ix) = q)
    (hsh : qSheet q < 4) (hg : gangResident s0 q.scene (qGslot q) = true) (b v deadline : Nat) (under : Bool) (hc : (qChorus q && !under) = false) :
    Fired s0 (fireBlock s s0.cur.core s0.cur.ix v b under s0.tb.ticks deadline) q b v deadline under := by
  unfold fireBlock
  extract_lets k q' loc r s1 s2
  have hq' : q' = q := hq
  have hr : r = firedRun s s0.cur.core s0.cur.ix v b under s0.tb.ticks deadline loc := rfl
  rw [firedRun, hq] at hr
  have h1 : CuesOnly s s1 := ⟨_, _, rfl⟩
  obtain ⟨h2, hst⟩ := writeIdle_only s1 s0.cur.core (qSheet q') r.fireN
  have hcue : (getCue s2 k).st = if under then .under else .run :=
    (hst k).trans (congrArg Cue.st (getCue_setCue_self _ _ _))
  obtain ⟨cues, free, h⟩ : CuesOnly s0 s2 := (hs.trans h1).trans h2
  clear_value s2 r
  have hg' : gangResident s2 q.scene (qGslot q) = true := by rw [h]; exact hg
  have hm : SameMem s0 s2 := by rw [h]; exact ⟨rfl, rfl, rfl⟩
  have ha : argsOf s2 q.scene (qGslot q) = argsOf s0 q.scene (qGslot q) := by rw [h]; rfl
  rw [hq', hg', if_neg (by decide), if_pos hsh]
  obtain ⟨h3, ⟨t, ht⟩, h4, h5⟩ := fireRegion_own s2 s0.cur.core (qSheet q) r (by rw [hr]; exact hc)
  refine ⟨r, h3, ?_⟩
  rw [ht, getCue, h4]
  subst hr
  exact ⟨rfl, rfl, rfl, rfl, rfl, rfl, rfl, ⟨rfl, rfl, rfl, rfl, rfl, fun i hi => (rdReg_firedThread _ _ _ _ hi).trans (by rw [ha])⟩, hcue,
    (hm.trans h5).sameBytes⟩

/-! ## Starting a cue -/

/-- The late-input path of a cue in no chorus (R46). -/
theorem fails_lateInput (s0 : State) {s : State} (hs : CuesOnly s0 s) {q : Cue} (hq : getCue s (1024 * s0.cur.core + s0.cur.ix) = q) (hc : qChorus q = false)
    (hu : q.st ≠ .under) (cause : Nat) : Fails s0 (lateInput s s0.cur.core s0.cur.ix cause) q cause := by
  obtain ⟨hl, hm⟩ := cueRecords_steps s s0.cur.core s0.cur.ix cause 0 false
  unfold lateInput
  extract_lets s1 q'
  have hq' : q' = q := by
    rw [← hq]
    exact congrArg (fun c => tget c default (1024 * s0.cur.core + s0.cur.ix)) hl.cues
  have ht : ticks s1 = s0.tb.ticks := by
    obtain ⟨_, _, rfl⟩ := hs
    rw [ticks, hl.tb]
  rw [hq', hc, Bool.not_false, if_pos rfl, ht]
  exact fails_cueFail s0 s1 hq' hu hm _ _ _

/-- A waiting cue of a real-time partition, in no chorus, whose sheet is free and whose gang has its pages, is put back as it was; it fires, is late, or
waits for its slack (R46). -/
theorem cueStart_waiting (s : State) (core ix : Nat) (ready : Bool) {q : Cue} (hq : getCue s (1024 * core + ix) = q) (hst : q.st = .wait)
    (hc : qChorus q = false) (hrt : isBe s q.part = false) (hidle : (runOf s core (qSheet q)).isNone = true) (hd : q.drained = false)
    (hbad : ((gangOf s q.scene (qGslot q)).map (·.bad)).getD false = false) :
    let s2 := setCue (setCue s (1024 * core + ix) q) (1024 * core + ix) q
    cueStart s core ix ready = if ready then selectAndFire s2 core ix else if qSlack q = 0 then lateInput s2 core ix 0x0C1
      else setCue s2 (1024 * core + ix) { q with st := .gated } := by
  intro s2
  have hd' : { q with st := .wait, drained := false } = q := by rw [← hd, ← hst]
  have hd2 : { q with st := .gated, drained := false } = { q with st := .gated } := by rw [← hd]
  have hf : chorusFailed (setCue s (1024 * core + ix) q) q = none := by rw [chorusFailed, hc, if_neg (by decide)]
  have he : eligible1 (setCue s (1024 * core + ix) q) core q = true := by
    change ((!isBe s q.part || _) && (runOf s core (qSheet q)).isNone) = true
    rw [hrt, hidle]
    rfl
  have hbe : isBe (setCue s (1024 * core + ix) q) q.part = false := hrt
  have hb : ((gangOf (setCue s (1024 * core + ix) q) q.scene (qGslot q)).map (·.bad)).getD false = false := hbad
  unfold cueStart
  simp only [hq, hst, beq_self_eq_true, Bool.or_true, Bool.not_true, Bool.false_eq_true, if_false, if_true, hf, he, hbe, hb, hd, hd', hd2]
  exact rfl

/-- Where a variant fits, the cue fires it (R84). -/
theorem selectAndFire_fires (s : State) (core ix : Nat) {q : Cue} (hq : getCue s (1024 * core + ix) = q) {b : Block} {v : Nat}
    (hb : blockOfId (getScene s q.scene) (qBlock q) = some b) (hv : pickVariant s core q b = some v) :
    selectAndFire s core ix = fireBlock s core ix v b.id false (ticks s) q.deadTick := by
  rw [selectAndFire, hq]
  simp only [hb, hv]

/-- The two steps at which a cue fires its block (R46, R48). -/
theorem cueFiresRule : CueFiresRule := by
  rintro s q b v ⟨hq, hsh, hc, hg, hb, hv⟩ hfl
  refine ⟨fun hst hrt hidle hd hbad => ⟨_, rfl, ?_⟩, fun hst => ⟨_, rfl, ?_⟩⟩
  · rw [cueStart_waiting s _ _ _ hq hst hc hrt hidle hd hbad, hfl, if_pos rfl]
    have hq2 := getCue_setCue_self (setCue s (1024 * s.cur.core + s.cur.ix) q) (1024 * s.cur.core + s.cur.ix) q
    rw [selectAndFire_fires _ _ _ hq2 hb hv]
    exact fired_fireBlock s ((cuesOnly_setCue _ _ _).trans (cuesOnly_setCue _ _ _)) hq2 hsh hg _ _ _ _
      (by rw [hc]; rfl)
  · rw [hq, if_neg (not_not.2 hst), hfl, if_pos rfl, selectAndFire_fires s _ _ hq hb hv]
    exact fired_fireBlock s (.refl s) hq hsh hg _ _ _ _ (by rw [hc]; rfl)

/-- The two steps at which a cue is late, and the one that gates it (R46). -/
theorem cueLateRule : CueLateRule := by
  intro s q hq hc hfl
  refine ⟨fun hst hrt hidle hd hbad => ?_, fun hst => ⟨_, rfl, ?_⟩⟩
  · have hx : exec .cueStart s = .next (cueStart s s.cur.core s.cur.ix s.cur.flag) := rfl
    have hq2 := getCue_setCue_self (setCue s (1024 * s.cur.core + s.cur.ix) q) (1024 * s.cur.core + s.cur.ix) q
    rw [hx, cueStart_waiting s _ _ _ hq hst hc hrt hidle hd hbad, hfl, if_neg (by decide)]
    refine ⟨fun hz => ⟨_, rfl, ?_⟩, fun hz => ⟨_, rfl, ?_⟩⟩
    · rw [if_pos hz]
      exact fails_lateInput s ((cuesOnly_setCue _ _ _).trans (cuesOnly_setCue _ _ _)) hq2 hc (by rw [hst]; decide) _
    · rw [if_neg hz]
      exact ⟨getCue_setCue_self _ _ _,
        ((sameMem_setCue _ _ _).trans ((sameMem_setCue _ _ _).trans (sameMem_setCue _ _ _))).sameBytes⟩
  · rw [hq, if_neg (not_not.2 hst), hfl, if_neg (by decide)]
    exact fails_lateInput s (.refl s) hq hc (by rw [hst]; decide) _

/-- Settles O27: a cue that waits is put back as it was, and its block fires; one whose inputs are missing takes the late-input path. -/
theorem cueStarts : Obligations.CueStarts := ⟨cueFiresRule, cueLateRule⟩

/-! ## Deadlines -/

/-- The kill at a deadline: the record goes first, then the block is discarded, then its cue fails (R49). -/
theorem overrunsRule : OverrunsRule := by
  intro s q r hq hst hsh hr hix hc hu hdue hfr
  obtain ⟨hl, x, hx, hcause⟩ := cueRecords_steps s s.cur.core s.cur.ix 0x0C0 0 true
  set s1 := retrainRecord (cueRecord s s.cur.core s.cur.ix 0x0C0 0 true) s.cur.core s.cur.ix with h1
  have hr1 : runOf s1 s.cur.core (qSheet q) = some r := by rw [runOf, hl.runs]; exact hr
  have hd := discarded_discardBlock hr1 (by omega)
  have hx' : exec .deadlineExpiry s = .next (cueFail (discardBlock s1 s.cur.core (qSheet q)) s.cur.core s.cur.ix s.tb.ticks r.fireN 0x0C0 r.variant) := by
    change execDeadlineExpiry s = _
    unfold execDeadlineExpiry
    simp [hq, hr, hix, hdue, hfr, hu, ← h1, endBlocks, hr1, hc]
    rfl
  have hq1 : getCue (discardBlock s1 s.cur.core (qSheet q)) (1024 * s.cur.core + s.cur.ix) = q := by
    rw [getCue, hd.cues, hl.cues]; exact hq
  obtain ⟨h1, h2, h3, h4, h5⟩ := cueFail_own _ s.cur.core s.cur.ix s.tb.ticks r.fireN 0x0C0 r.variant hq1 (by rw [hst]; decide)
  refine ⟨_, hx', ?_, ?_, ⟨h1, h2, x, h3 ▸ hd.recs hx, hcause⟩⟩
  · rw [runOf, h4]; exact hd.idle
  · rw [getTh, h5]; exact hd.stopped

/-- The firing of an understudy, and its kill (R50). -/
theorem understudiesRule : UnderstudiesRule := by
  intro s q hq hst hsh
  refine ⟨fun b hdue hg hb => ?_, fun r hr hix hc hu hdue hfr => ?_⟩
  · have hx : exec .understudyFire s = .next (fireBlock s s.cur.core s.cur.ix 0 b.id true s.tb.ticks (s.tb.ticks + b.ub)) := by
      change execUnderstudyFire s = _
      unfold execUnderstudyFire
      simp [hq, hst, hdue, hb, ← Option.not_isSome]
      rfl
    exact ⟨_, hx, fired_fireBlock s (.refl s) hq hsh hg _ _ _ _ (by rw [Bool.not_true, Bool.and_false])⟩
  · have hd := discarded_discardBlock hr (by omega)
    have hx : exec .deadlineExpiry s = .next (cueFail (discardBlock s s.cur.core (qSheet q)) s.cur.core s.cur.ix s.tb.ticks r.fireN 0x0C6 r.variant) := by
      change execDeadlineExpiry s = _
      unfold execDeadlineExpiry
      simp [hq, hr, hix, hdue, hfr, hu, endBlocks, hc]
      rfl
    have hq1 : (getCue (discardBlock s s.cur.core (qSheet q)) (1024 * s.cur.core + s.cur.ix)).st = .under := by
      rw [getCue, hd.cues]; exact (congrArg Cue.st hq).trans hst
    obtain ⟨h1, h2, h3⟩ := cueFail_under _ s.cur.core s.cur.ix s.tb.ticks r.fireN 0x0C6 r.variant hq1
    exact ⟨_, hx, by rw [runOf, h3]; exact hd.idle, h1, h2⟩

/-- Settles O28: a block that is killed is discarded, which leaves its cue as it was, and then the cue fails; an understudy fires as any block. -/
theorem deadlines : Obligations.Deadlines := ⟨overrunsRule, understudiesRule⟩

end Sys2Proof.Machine
end

section
/-! SUPPORT. The end of a job. -/

set_option Elab.async false

namespace Sys2Proof.Machine

open Safety

/-! ## Objects -/

/-- What is read of the bytes that were stored, from a place among them. -/
theorem rdBytes_wrBytes_within (m : Tab Byte) (a i n : Nat) (l : List Byte) (h : i + n ≤ l.length) :
    rdBytes (wrBytes m a l) (a + i) n = (l.drop i).take n := by
  apply List.ext_getElem?
  intro j
  by_cases hj : j < n
  · rw [rdBytes_getElem? _ _ _ _ hj, tget_wrBytes, if_pos (by omega), List.getElem?_take_of_lt hj, List.getElem?_drop, List.getElem?_eq_getElem (by omega)]
    congr 1
    rw [List.getD_eq_getElem?_getD, List.getElem?_eq_getElem (by omega)]
    simp [Nat.add_assoc]
  · rw [List.getElem?_eq_none (by simp; omega), List.getElem?_eq_none (by simp; omega)]

/-- A word of a store of whole words. -/
theorem w64_rdBytes_wrBytes (m : Tab Byte) (a : Nat) (l r : List Byte) (v : W64) :
    w64 (leNat (rdBytes (wrBytes m a (l ++ leBytes 8 v.toNat ++ r)) (a + l.length) 8)) = v := by
  rw [rdBytes_wrBytes_within _ _ _ _ _ (by simp), List.append_assoc, List.drop_left, List.take_left' (length_leBytes 8 _), leNat_leBytes,
    Nat.mod_eq_of_lt (show v.toNat < 256 ^ 8 from v.isLt)]
  exact BitVec.ofNat_toNat _ v

theorem objAt_setObj (s : State) (k j : Nat) (o : SyncObj) : objAt (setObj s k o) j = objAt s j := by
  unfold setObj
  split <;> rfl

/-- The count and the status of an object that is held, after a write of it. -/
theorem getObj_setObj (s : State) (k : Nat) (o : SyncObj) (h : (objAt s k).isSome = true) :
    (getObj (setObj s k o) k).count = o.count ∧ (getObj (setObj s k o) k).status = o.status := by
  obtain ⟨p, hp⟩ := Option.isSome_iff_exists.1 h
  unfold getObj
  rw [objAt_setObj, hp]
  cases p with
  | sram n =>
    simp only [setObj, hp, tget_tput, if_true]
    exact ⟨trivial, trivial⟩
  | dram a =>
    simp only [setObj, hp]
    have h0 := w64_rdBytes_wrBytes s.mem a []
      (leBytes 8 o.status.toNat ++ leBytes 8 (o.out % 2 ^ 32 + b2n o.ref.isSome * 2 ^ 63) ++ leBytes 8 (o.ref.getD 0).toNat) o.count
    have h1 := w64_rdBytes_wrBytes s.mem a (leBytes 8 o.count.toNat)
      (leBytes 8 (o.out % 2 ^ 32 + b2n o.ref.isSome * 2 ^ 63) ++ leBytes 8 (o.ref.getD 0).toNat) o.status
    simp only [List.nil_append, ← List.append_assoc, length_leBytes, List.length_nil] at h0 h1
    exact ⟨h0, h1⟩

/-! ## The end of a job -/

/-- A job has ended: objects, the threads and images that wait for one, the ring and the memory of the host change, and nothing else. -/
def Completes (s s' : State) : Prop :=
  ∃ threads images objWaiters objs mem ecc rings hostMem irqs, s' = { s with
    threads := threads, images := images, objWaiters := objWaiters, objs := objs, mem := mem, ecc := ecc, rings := rings, hostMem := hostMem, irqs := irqs }

/-- Waits are answered, and the ring and the memory of the host change; each object is as before. -/
def Wakes (s s' : State) : Prop :=
  ∃ threads images objWaiters rings hostMem irqs, s' = { s with
    threads := threads, images := images, objWaiters := objWaiters, rings := rings, hostMem := hostMem, irqs := irqs }

theorem Completes.trans {s t u : State} : Completes s t → Completes t u → Completes s u := by
  rintro ⟨_, _, _, _, _, _, _, _, _, rfl⟩ ⟨_, _, _, _, _, _, _, _, _, rfl⟩
  exact ⟨_, _, _, _, _, _, _, _, _, rfl⟩
theorem Wakes.refl (s : State) : Wakes s s := ⟨_, _, _, _, _, _, rfl⟩
theorem Wakes.trans {s t u : State} : Wakes s t → Wakes t u → Wakes s u := by
  rintro ⟨_, _, _, _, _, _, rfl⟩ ⟨_, _, _, _, _, _, rfl⟩
  exact ⟨_, _, _, _, _, _, rfl⟩
theorem Wakes.completes {s t : State} : Wakes s t → Completes s t := by
  rintro ⟨_, _, _, _, _, _, rfl⟩
  exact ⟨_, _, _, _, _, _, _, _, _, rfl⟩

theorem wakes_objWake (s : State) (k : Nat) : Wakes s (objWake s k) :=
  Wakes.trans ⟨_, _, _, _, _, _, rfl⟩ (foldl_rel .refl .trans (fun _ _ => ⟨_, _, _, _, _, _, rfl⟩) _ _)
theorem wakes_mirror (s : State) (stream : Nat) (o : SyncObj) : Wakes s (mirror s stream o) := by
  unfold mirror
  extract_lets m fn
  split
  · exact .refl s
  · split
    · exact ⟨_, _, _, _, _, _, rfl⟩
    · exact ⟨_, _, _, _, _, _, rfl⟩
theorem completes_setObj (s : State) (k : Nat) (o : SyncObj) : Completes s (setObj s k o) := by
  unfold setObj
  split
  · exact (Wakes.refl s).completes
  · exact ⟨_, _, _, _, _, _, _, _, _, rfl⟩
  · exact ⟨_, _, _, _, _, _, _, _, _, rfl⟩

/-- The object of a job's completion, after it. -/
def completed (o : SyncObj) (cause index : Nat) : SyncObj :=
  if cause = 0 then { o with count := o.count + 1, status := 0 } else { o with status := w64 (cause * 2 ^ 55 + index) }

/-- Key of the object that a job completes to (R61). -/
def completionKey (b : Job) : Nat := 2 ^ 28 * b.fn + jCpl b / 16
/-- The address of its completion names no object that is held. -/
def NoObject (s : State) (b : Job) : Prop := jCpl b % 16 ≠ 0 ∨ 2 ^ 32 ≤ jCpl b ∨ (objAt s (completionKey b)).isNone = true

/-- Without an object a job that ends is gone, and that is all. -/
theorem jobEnd_bare (s : State) (j cause : Nat) (h : NoObject s (getJob s j)) : jobEnd s j cause = { s with jobs := tdel s.jobs j } := if_pos h

/-- With one, it is written, its waits are answered, and the mirror of a host stream gets it. -/
theorem jobEnd_object (s : State) (j cause : Nat) (h : ¬ NoObject s (getJob s j)) :
    let b := getJob s j
    let o := completed (getObj s (completionKey b)) cause b.index
    Wakes (setObj { s with jobs := tdel s.jobs j } (completionKey b) o) (jobEnd s j cause) := by
  intro b o
  have hx : jobEnd s j cause = mirror (putObj { s with jobs := tdel s.jobs j } (completionKey b) o) b.stream o := if_neg h
  rw [hx]
  exact (wakes_objWake _ _).trans (wakes_mirror _ _ _)

/-- Whichever it is, the job is gone and little else changes. -/
theorem completes_jobEnd (s : State) (j cause : Nat) : Completes { s with jobs := tdel s.jobs j } (jobEnd s j cause) := by
  by_cases h : NoObject s (getJob s j)
  · rw [jobEnd_bare s j cause h]
    exact (Wakes.refl _).completes
  · exact (completes_setObj _ _ _).trans (jobEnd_object s j cause h).completes

/-- The object that was written reads back after the waits. -/
theorem getObj_wakes {s t : State} (h : Wakes s t) (k : Nat) : getObj t k = getObj s k := by
  obtain ⟨_, _, _, _, _, _, rfl⟩ := h
  rfl

/-- R61, R62: completion. -/
theorem jobCompletionRule : JobCompletionRule := by
  intro s j cause
  refine ⟨?_, fun h16 h32 hobj => ?_⟩
  · obtain ⟨_, _, _, _, _, _, _, _, _, h⟩ := completes_jobEnd s j cause
    rw [h]
    exact lookup_tdel_same _ _
  · have hn : ¬ NoObject s (getJob s j) := by
      rintro (h | h | h)
      · exact h h16
      · exact absurd h32 (Nat.not_lt.2 h)
      · rw [← Option.not_isSome, completionKey, hobj] at h
        cases h
    rw [getObj_wakes (jobEnd_object s j cause hn)]
    obtain ⟨hc, hs⟩ := getObj_setObj { s with jobs := tdel s.jobs j } (completionKey (getJob s j))
      (completed (getObj s (completionKey (getJob s j))) cause (getJob s j).index) hobj
    unfold completionKey at hc hs ⊢
    rw [hc, hs]
    exact ⟨fun h => by simp [completed, h], fun h => by simp [completed, h]⟩

end Sys2Proof.Machine
end

section
/-! Loads and unloads. -/

set_option Elab.async false

namespace Sys2Proof.Machine

open Safety

/-! ## A load whose completion wakes a waiting thread -/

/-- The tables of an identity map of 2 MiB under root page 16 and, at 0x20000, the header of a scene that holds nothing (R63, R117). -/
def emptySceneMem : Tab Byte :=
  [(0x10000, 1), (0x10001, 0x10), (0x10002, 1), (0x11000, 1), (0x11001, 0x20), (0x11002, 1), (0x12000, 0x23), (0x20004, 7), (0x20006, 1), (0x20008, 0x40)]

/-- Job 4 has begun the load of that scene, and a thread waits in CTRWAIT (R203) for the count 1 of the object that the job completes to. -/
def loadAwaited : State :=
  { State.reset with
    parts := [(0, { enable := true, root := 16, rootEn := true })], mem := emptySceneMem
    scenes := [(0, { live := true, base := 0x20000, job := some 4 })], jobs := [(4, { words := [0, BitVec.ofNat 64 (4 * 2 ^ 60), 0, 0x20000] })]
    sync := [(0, 1)], objWaiters := [(0, { id := 0, core := 0, t := 0, d := 8, target := 1 })], threads := [(0, { running := true, wait := .sync 0 })] }

/-- Its image is read and placed, and the completion of the job changes the thread that waited. -/
theorem loadAwaited_wakes : (match readScene loadAwaited 0 0x20000 with
    | (_, .error _) => false
    | (s0, .ok y) => match placeScene s0 0 { y with base := 0x20000 } with
      | .error _ => false
      | .ok s1 => (getTh (jobEnd (powerRecalc s1) 4 0) 0).wait != .sync 0) = true := by decide +kernel

/-- Refutes O46: the job of a load that ends adds one to its completion object, so a thread that waits for the count gets its reply (R203), where the rule
says that no thread changes. -/
theorem not_loadsAndUnloads : ¬ Obligations.LoadsAndUnloads := by
  rintro ⟨hrule, -⟩
  obtain ⟨-, -, hload, -⟩ := hrule loadAwaited
  obtain ⟨hdone, -⟩ := hload 4 rfl rfl rfl (by decide +kernel) (by decide)
  have hw := loadAwaited_wakes
  split at hw
  · cases hw
  next y hread =>
    split at hw
    · cases hw
    next s1 hplace =>
      obtain ⟨s', -, hs', -, -, -, -, -, -, -, -, -, -, hthreads, -⟩ := hdone _ y s1 hread hplace
      have ht : (getTh s' 0).wait = .sync 0 := by rw [getTh, hthreads]; rfl
      rw [← hs', ht] at hw
      cases hw

end Sys2Proof.Machine
end

section
/-! Reading, rejecting and completing jobs; the start of a scene. -/

set_option Elab.async false

namespace Sys2Proof.Machine

open Safety

/-! ## Admission -/

/-- The admitted job of a stream meets its kind's own meaning. -/
theorem admitted_admits {s : State} {kind : Nat} {b : Job} {j : Nat} (h : Admits s kind b j) (f : Job → Nat → State) :
    admitted s kind f = .next (f b j) := by
  obtain ⟨hp, rfl, hk, hs⟩ := h
  simp [admitted, hp, hk, hs]

/-- A read of the stream's next record may be put off; nothing else changes. -/
theorem kick_only (s : State) (n : Nat) : ∃ free todo agenda, kick s n = { s with free := free, todo := todo, agenda := agenda } := by
  unfold kick
  extract_lets t
  split
  · split
    · exact ⟨_, _, _, rfl⟩
    · exact ⟨_, _, _, rfl⟩
  · split
    · exact ⟨_, _, _, rfl⟩
    · exact ⟨_, _, _, rfl⟩

/-- A record that is pending no longer: its stream, the free numbers and the steps to come change. -/
theorem unpend_only (s : State) (n : Nat) : ∃ streams free todo agenda, unpend s n =
    { s with streams := streams, free := free, todo := todo, agenda := agenda } := by
  obtain ⟨_, _, _, h⟩ := kick_only (setStream s n { getStream s n with pending := none }) n
  exact ⟨_, _, _, _, h⟩

/-- A stream whose record is taken back may read its next. -/
theorem pending_unpend (s : State) (n : Nat) : (getStream (unpend s n) n).pending = none := by
  obtain ⟨_, _, _, h⟩ := kick_only (setStream s n { getStream s n with pending := none }) n
  rw [unpend, h]
  exact congrArg Stream.pending (getStream_setStream_self _ _ _)

/-- A step that leaves jobs and objects keeps what the completion of a job has written. -/
theorem signals_congr {s t u : State} {j cause : Nat} (h : Signals s t j cause) (hj : u.jobs = t.jobs) (ho : ∀ k, getObj u k = getObj t k) :
    Signals s u j cause := by
  unfold Signals at h ⊢
  simp only [hj, ho]
  exact h

/-- A rejection signals 0x0C7 and logs it, and leaves scenes, cues and launches (R62, R65). -/
theorem rejected_reject (s : State) (j : Nat) : Rejected s (reject s s.cur.ix j) j := by
  have hsig := jobCompletionRule s j 0x0C7
  obtain ⟨_, _, _, _, _, _, _, _, _, h1⟩ := completes_jobEnd s j 0x0C7
  unfold reject
  extract_lets i
  have hl : Logged _ _ := logged_devLog (jobEnd s j 0x0C7) 0x0C7 s.cur.ix i
  obtain ⟨e, he, hcause⟩ := mem_evlog_devLog (jobEnd s j 0x0C7) 0x0C7 s.cur.ix i
  obtain ⟨_, _, _, _, h3⟩ := unpend_only (devLog (jobEnd s j 0x0C7) 0x0C7 s.cur.ix i) s.cur.ix
  refine ⟨pending_unpend _ _, signals_congr hsig ?_ ?_, ?_, ?_, ?_, e, ?_, hcause⟩
  · rw [h3]; exact hl.jobs
  · intro k
    rw [h3]
    exact hl.getObj k
  · rw [h3]; exact hl.scenes.trans (by rw [h1])
  · rw [h3]; exact hl.cues.trans (by rw [h1])
  · rw [h3]; exact hl.launches.trans (by rw [h1])
  · rw [h3]; exact he

/-- An instruction whose meaning for the pending job is its rejection. -/
theorem rejects {s : State} {i : Instr} {kind : Nat} {f : Job → Nat → State} (hx : exec i s = admitted s kind f) {b : Job} {j : Nat} (h : Admits s kind b j)
    (hf : f b j = reject s s.cur.ix j) : ∃ s', exec i s = .next s' ∧ Rejected s s' j :=
  ⟨_, hx.trans ((admitted_admits h f).trans (congrArg _ hf)), rejected_reject s j⟩

/-- The admissions that R62 refuses: each meaning comes to `reject`. -/
theorem rejectionsRule : RejectionsRule := by
  intro s b j
  refine ⟨?_, ?_, ?_, ?_, ?_, ?_⟩
  · intro h hc
    refine rejects (show exec .startScene s = execStartScene s from rfl) h ?_
    obtain hn | ⟨k, hk, hbad⟩ := hc
    · simp only [hn]
    · simp only [hk]
      rw [if_pos]
      obtain h | h | ⟨h, h'⟩ := hbad
      · simp [h]
      · simp [h]
      · simp [h, h']
  · intro h hg
    refine rejects (show exec .launchGang s = execLaunchGang s from rfl) h ?_
    simp only [hg, List.find?_nil]
  · intro h hn
    refine rejects (show exec .changeScene s = execChangeScene s from rfl) h ?_
    simp only [hn]
  · intro h hn
    refine rejects (show exec .stopScene s = execStopScene s from rfl) h ?_
    simp only [hn]
  · intro h hp
    refine rejects (show exec .loadScene s = execLoadScene s from rfl) h ?_
    rw [hp, Bool.not_false, if_pos rfl]
  · intro h hc
    refine rejects (show exec .unloadScene s = execUnloadScene s from rfl) h ?_
    obtain hn | ⟨k, hk, hbad⟩ := hc
    · simp only [hn]
    · simp only [hk]
      rw [if_pos]
      obtain h | h | ⟨y, hy, c, hch, hck⟩ := hbad
      · simp [h]
      · simp [h]
      · refine Bool.or_eq_true_iff.2 (.inr (List.any_eq_true.2 ⟨y, hy, ?_⟩))
        simp only [hch, hck, beq_self_eq_true]

/-- A rejection leaves the partitions, and the read index of its stream. -/
theorem reject_kept (s : State) (n j : Nat) :
    (reject s n j).parts = s.parts ∧ (getStream (reject s n j) n).rdidx = (getStream s n).rdidx := by
  obtain ⟨_, _, _, _, _, _, _, _, _, h1⟩ := completes_jobEnd s j 0x0C7
  unfold reject
  extract_lets i
  have hl : Logged _ _ := logged_devLog (jobEnd s j 0x0C7) 0x0C7 n i
  generalize devLog (jobEnd s j 0x0C7) 0x0C7 n i = s2 at hl
  have hs : s2.streams = s.streams := by rw [hl.streams, h1]
  have hp : s2.parts = s.parts := by rw [hl.parts, h1]
  obtain ⟨_, _, _, h3⟩ := kick_only (setStream s2 n { getStream s2 n with pending := none }) n
  rw [unpend, h3]
  refine ⟨hp, (congrArg Stream.rdidx (getStream_setStream_self _ _ _)).trans ?_⟩
  rw [getStream, hs]
  rfl

/-! ## Reading records -/

/-- A record becomes pending, or is rejected at once (R59, R62). -/
theorem pend_own (s : State) {n : Nat} (hn : s.cur.ix = n) (b : Job) :
    let s' := pend s n b
    (getStream s' n).rdidx = (getStream s n).rdidx ∧ s'.parts = s.parts
    ∧ (recordBad (ticks s + 1) b (64 ≤ n) = false → (getStream s' n).pending = some s.nextId ∧ (getJob s' s.nextId).words = b.words)
    ∧ (recordBad (ticks s + 1) b (64 ≤ n) = true → (getStream s' n).pending = none ∧ s'.scenes = s.scenes ∧ ∃ r ∈ s'.evlog, r.cause = 0x0C7) := by
  unfold pend
  extract_lets j now due s1 t s2 s'
  have hst : getStream s2 n = { getStream s1 n with pending := some j } := getStream_setStream_self _ _ _
  have hjob : (getJob s2 j).words = b.words := (congrArg Job.words ((tget_tput _ _ _ _ _).trans (if_pos rfl)) :)
  have hs2 : ∃ streams nextId jobs, s2 = { s with streams := streams, nextId := nextId, jobs := jobs } := ⟨_, _, _, rfl⟩
  have hs1 : getStream s1 n = getStream s n := rfl
  dsimp only [s']
  clear_value s2 s1
  have hcur : s2.cur.ix = n := by obtain ⟨_, _, _, h⟩ := hs2; rw [h]; exact hn
  have hrest : s2.parts = s.parts ∧ s2.scenes = s.scenes := by obtain ⟨_, _, _, h⟩ := hs2; rw [h]; exact ⟨rfl, rfl⟩
  have hrd : (getStream s2 n).rdidx = (getStream s n).rdidx := by rw [hst, hs1]
  by_cases hbad : recordBad now b (64 ≤ n) = true
  · rw [if_pos hbad]
    obtain ⟨hpend, -, hsc, -, -, hlog⟩ := rejected_reject s2 j
    obtain ⟨hparts, hr⟩ := reject_kept s2 n j
    rw [hcur] at hpend hsc hlog
    unfold Frees at hpend
    rw [hcur] at hpend
    exact ⟨hr.trans hrd, hparts.trans hrest.1, fun h => absurd (hbad.symm.trans h) (by decide), fun _ => ⟨hpend, hsc.trans hrest.2, hlog⟩⟩
  · rw [if_neg hbad]
    have hp : (getStream s2 n).pending = some j := by rw [hst]
    split
    · exact ⟨hrd, hrest.1, fun _ => ⟨hp, hjob⟩, fun h => absurd h hbad⟩
    · exact ⟨hrd, hrest.1, fun _ => ⟨hp, hjob⟩, fun h => absurd h hbad⟩

/-- A stream that stops on an error (R59, R430). -/
theorem streamError_own (s : State) (n : Nat) :
    let s' := streamError s n
    (getStream s' n).err = true ∧ (getStream s' n).en = false ∧ (getStream s' n).rdidx = (getStream s n).rdidx ∧ ∃ r ∈ s'.evlog, r.cause = 0x0C7 := by
  unfold streamError
  extract_lets t w r s1 s'
  have hl : Logged (setStream s n { t with err := true, en := false }) s1 := logged_devLogWhy _ _ _ _ _ _ _ _
  obtain ⟨e, he, hcause⟩ : ∃ e ∈ s1.evlog, e.cause = w.cause := mem_evlog_devLogWhy _ _ _ _ _ _ _ _
  have hl' : Logged s1 s' := .ite (.refl _) (logged_ringWrite _ _ _)
  have hst : getStream s' n = { t with err := true, en := false } := by
    rw [getStream, (hl.trans hl').streams]
    exact getStream_setStream_self _ _ _
  rw [hst]
  exact ⟨rfl, rfl, rfl, e, hl'.evlog he, hcause⟩

/-- A host stream, enabled, with records left and none pending, whose function admits jobs. -/
def Readable (s : State) (n : Nat) : Prop :=
  n < 64 ∧ (getStream s n).en = true ∧ (getStream s n).pending = none ∧ stopped s (n / 4) = false
  ∧ ((getStream s n).wridx + 2 ^ 32 - (getStream s n).rdidx) % 2 ^ 32 ≠ 0

/-- The line at which its next record stands, if it can be read. -/
def recordLine (s : State) (n : Nat) : State × Option (List Byte) :=
  readVa s (n / 4) ((getStream s n).rbase.toNat + 64 * ((getStream s n).rdidx % 2 ^ (getStream s n).log2n)) 1

/-- The stream when the record is read, and the job that the bytes of the record give (R59). -/
def recordTaken (t : Stream) : Stream := { t with rdidx := (t.rdidx + 1) % 2 ^ 32 }
def recordJob (n : Nat) (t : Stream) (l : List Byte) : Job :=
  { stream := n, index := t.rdidx, fn := n / 4, words := (List.range 8).map fun i => w64 (leNat ((l.drop (8 * i)).take 8)) }

theorem recordRead_overfull {s : State} (h : Readable s s.cur.ix) (ho : overfull (getStream s s.cur.ix) = true) :
    exec .jobRecordRead s = .next (streamError s s.cur.ix) := by
  obtain ⟨hn, hen, hp, hgo, hleft⟩ := h
  change execJobRecordRead s = _
  simp [execJobRecordRead, Nat.not_le.2 hn, hen, hp, hgo, ho]
  exact fun h => absurd h hleft
theorem recordRead_unreadable {s s1 : State} (h : Readable s s.cur.ix) (ho : overfull (getStream s s.cur.ix) = false)
    (hl : recordLine s s.cur.ix = (s1, none)) : exec .jobRecordRead s = .next (streamError s1 s.cur.ix) := by
  obtain ⟨hn, hen, hp, hgo, hleft⟩ := h
  unfold recordLine at hl
  change execJobRecordRead s = _
  simp [execJobRecordRead, Nat.not_le.2 hn, hen, hp, hgo, ho, hl]
  exact fun h => absurd h hleft
theorem recordRead_record {s s1 : State} (h : Readable s s.cur.ix) (ho : overfull (getStream s s.cur.ix) = false) {l : List Byte}
    (hl : recordLine s s.cur.ix = (s1, some l)) :
    exec .jobRecordRead s
      = .next (pend (setStream s1 s.cur.ix (recordTaken (getStream s s.cur.ix))) s.cur.ix (recordJob s.cur.ix (getStream s s.cur.ix) l)) := by
  obtain ⟨hn, hen, hp, hgo, hleft⟩ := h
  unfold recordLine at hl
  change execJobRecordRead s = _
  simp [execJobRecordRead, Nat.not_le.2 hn, hen, hp, hgo, ho, hl, recordTaken, recordJob]
  exact fun h => absurd h hleft

/-- A host stream's next record, or the error that stops it; a device queue's oldest record (R59, R92, R430). -/
theorem recordReadsRule : RecordReadsRule := by
  intro s n t
  refine ⟨fun hn hen hp hgo => ?_, fun hn hp hgo w l hq => ?_⟩
  · intro left line hleft
    have hr : Readable s s.cur.ix := ⟨hn, hen, hp, hgo, hleft⟩
    have hl : Logged s line.1 := logged_readVa _ _ _ _
    have hst : getStream line.1 n = t := by rw [getStream, hl.streams]; rfl
    refine ⟨fun hc => ?_, fun hle l hline => ?_⟩
    · cases ho : overfull t with
      | true => exact ⟨_, recordRead_overfull hr ho, streamError_own s n⟩
      | false =>
        have hnone : line.2 = none := by
          refine hc.resolve_left fun hlt => ?_
          rw [overfull, hen, Bool.true_and, decide_eq_false_iff_not] at ho
          exact ho hlt
        obtain ⟨h1, h2, h3, h4⟩ := streamError_own line.1 n
        exact ⟨_, recordRead_unreadable hr ho (show line = (line.1, none) from hnone ▸ rfl), h1, h2, h3.trans (by rw [hst]), h4⟩
    · have ho : overfull t = false := by
        rw [overfull, hen, Bool.true_and, decide_eq_false_iff_not]
        exact Nat.not_lt.2 hle
      have hx := recordRead_record hr ho (show line = (line.1, some l) from hline ▸ rfl)
      have hcur : (setStream line.1 n (recordTaken t)).cur.ix = n := congrArg Cur.ix hl.cur
      have hst' := getStream_setStream_self line.1 n (recordTaken t)
      have hid : (setStream line.1 n (recordTaken t)).nextId = s.nextId := hl.nextId
      have hsc : (setStream line.1 n (recordTaken t)).scenes = s.scenes := hl.scenes
      have htick : ticks (setStream line.1 n (recordTaken t)) = ticks s := congrArg TimeBase.ticks hl.tb
      generalize setStream line.1 n (recordTaken t) = s2 at *
      intro b
      obtain ⟨hrd, -, hgood, hbad⟩ := pend_own s2 hcur b
      rw [htick, decide_eq_false (Nat.not_le.2 hn)] at hgood hbad
      rw [hid] at hgood
      refine ⟨_, hx, hrd.trans (congrArg Stream.rdidx hst'), hgood, fun h => ?_⟩
      obtain ⟨hp', hs', he'⟩ := hbad h
      exact ⟨hp', hs'.trans hsc, he'⟩
  · have hp' : (getStream s s.cur.ix).pending = none := hp
    have hx : exec .jobRecordRead s
        = .next (pend (setPart s (n - 64) { getPart s (n - 64) with devQueue := l }) n { stream := n, index := 0, fn := n - 64, words := w }) := by
      change execJobRecordRead s = _
      simp only [execJobRecordRead, if_pos (show 64 ≤ s.cur.ix from hn), show (getPart s (s.cur.ix - 64)).devQueue = w :: l from hq, hp',
        show stopped s (s.cur.ix - 64) = false from hgo, Option.isSome_none, Bool.or_self, Bool.false_eq_true, if_false]
      rfl
    obtain ⟨-, hparts, hgood, -⟩ := pend_own (setPart s (n - 64) { getPart s (n - 64) with devQueue := l }) (n := n) rfl
      { stream := n, index := 0, fn := n - 64, words := w }
    refine ⟨_, hx, ?_, fun h => hgood (by rw [decide_eq_true hn]; exact h)⟩
    rw [getPart, hparts]
    exact (congrArg Part.devQueue ((getPart_setPart _ _ _ _).trans (if_pos rfl)) :)

/-- Settles O43, by what the end of a job writes to its object, what a rejection leaves alone, and what a record that is read becomes. -/
theorem jobRecords : Obligations.JobRecords := ⟨jobCompletionRule, rejectionsRule, recordReadsRule⟩

/-! ## Start of a scene -/

/-- The phasers that a scene maps are made, and nothing else changes (R209). -/
theorem makePhasers_only (s : State) (k : Nat) : ∃ phasers, makePhasers s k = { s with phasers := phasers } := by
  refine foldl_rel (R := fun s s' : State => ∃ phasers, s' = { s with phasers := phasers }) (fun s => ⟨_, rfl⟩) ?_ (fun s p => ?_) _ s
  · rintro s _ _ ⟨_, rfl⟩ ⟨a, rfl⟩
    exact ⟨a, rfl⟩
  · split
    · exact ⟨_, rfl⟩
    · exact ⟨_, rfl⟩

/-- A cue at the beginning of its first period from an origin (R39, R383). -/
def begunCue (s : State) (o : Nat) (q : Cue) : Cue :=
  { q with
    st := .idle, period := 0, startTick := o + qStart q + cueSkew s q, deadTick := o + qDead q + cueSkew s q
    understudyDue := none, failCause := 0, drained := false }

/-- The cues of a scene begin their first period at its origin (R39). -/
theorem begins_beginCues {s t : State} (hc : t.cues = s.cues) (k o : Nat) (hskew : ∀ q : Cue, q.scene = k → cueSkew t q = cueSkew s q) :
    Begins s (beginCues t k none o) k o fun _ => True := by
  intro x hx hk _
  refine ⟨begunCue t o x.2, List.mem_map.2 ⟨x, hc ▸ hx, ?_⟩, ?_⟩
  · exact if_pos ⟨hk, rfl⟩
  · rw [← hskew x.2 hk]
    exact ⟨rfl, rfl, rfl, rfl⟩

/-- A scene that starts: the entry of the scene, its phasers, race tags and cues change, and nothing else (R56). -/
theorem beginScene_only (s : State) (k o : Nat) (args : List W64) (job : Option Nat) :
    let s' := beginScene s k o args job
    (∃ scenes phasers tags grants cues, s' = { s with scenes := scenes, phasers := phasers, tags := tags, grants := grants, cues := cues })
      ∧ getScene s' k = { getScene s k with running := true, origin := o, args := args, job := job, stopAt := none, stopJobs := [], change := none }
      ∧ Begins s s' k o fun _ => True := by
  unfold beginScene
  extract_lets x s1 s2 s'
  have hx : getScene s1 k = { x with running := true, origin := o, args := args, job := job, stopAt := none, stopJobs := [], change := none } :=
    getScene_setScene_self _ _ _
  have h1 : ∃ scenes, s1 = { s with scenes := scenes } := ⟨_, rfl⟩
  clear_value s1
  obtain ⟨ph, h3⟩ := makePhasers_only s2 k
  have hs2 : ∃ scenes tags grants, s2 = { s with scenes := scenes, tags := tags, grants := grants } := by
    obtain ⟨a, rfl⟩ := h1
    exact ⟨_, _, _, rfl⟩
  have hx2 : getScene s2 k = getScene s1 k := rfl
  clear_value s2
  obtain ⟨a, b, c, rfl⟩ := hs2
  have hskew : ∀ q : Cue, q.scene = k → cueSkew (makePhasers { s with scenes := a, tags := b, grants := c } k) q = cueSkew s q := by
    intro q hq
    rw [h3]
    have hg : (getScene { s with scenes := a, tags := b, grants := c, phasers := ph } q.scene).gangs = (getScene s q.scene).gangs := by
      rw [hq]
      exact (congrArg Scene.gangs (hx2.trans hx) :)
    unfold cueSkew gangOf
    rw [hg]
  refine ⟨?_, ?_, begins_beginCues (by rw [h3]) k o hskew⟩
  · dsimp only [s']
    rw [h3]
    exact ⟨_, _, _, _, _, rfl⟩
  · dsimp only [s']
    rw [h3]
    exact hx2.trans hx

/-- Settles O44: a scene that may start is begun, and the record is pending no longer; one that is not loaded is rejected. -/
theorem sceneStarts : Obligations.SceneStarts := by
  intro s b j h
  refine ⟨fun hn => ?_, fun k hk hrun hlaunch hlock => ?_⟩
  · obtain ⟨s', hx, -, -, hs, -⟩ := (rejectionsRule s b j).1 h (.inl hn)
    exact ⟨s', hx, hs⟩
  · have hx : exec .startScene s = .next (unpend (beginScene s k (ticks s) (jArgs b) (some j)) s.cur.ix) := by
      change execStartScene s = _
      rw [execStartScene, admitted_admits h]
      have hgo : ((getScene s k).running || launching s k || (sceneRtc (getScene s k) && !s.tb.locked)) = false := by
        cases hr : sceneRtc (getScene s k)
        · simp [hrun, hlaunch]
        · simp [hrun, hlaunch, hlock hr]
      simp only [hk, hgo, Bool.false_eq_true, if_false]
    obtain ⟨⟨_, _, _, _, _, h1⟩, hget, hbeg⟩ := beginScene_only s k (ticks s) (jArgs b) (some j)
    have hp := pending_unpend (beginScene s k (ticks s) (jArgs b) (some j)) s.cur.ix
    obtain ⟨_, _, _, _, h2⟩ := unpend_only (beginScene s k (ticks s) (jArgs b) (some j)) s.cur.ix
    generalize beginScene s k (ticks s) (jArgs b) (some j) = s1 at *
    refine ⟨_, hx, hp, ?_⟩
    rw [h2]
    refine ⟨SameMem.sameBytes ?_, ?_, ?_, hget, hbeg⟩
    · rw [h1]; exact ⟨rfl, rfl, rfl⟩
    · rw [h1]
    · rw [h1]

end Sys2Proof.Machine
end

section
/-! The timebase. -/

set_option Elab.async false

namespace Sys2Proof.Machine

open Safety

/-! ## Tables whose entries change and whose keys stay -/

section
variable {α β : Type}

theorem tget_eq_lookup (t : Tab α) (d : α) (k : Nat) : tget t d k = (lookup t k).getD d := by
  induction t with
  | nil => rfl
  | cons p r ih =>
    obtain ⟨a, v⟩ := p
    by_cases h : a = k
    · simp [tget, lookup, h]
    · simp [tget, lookup, h, ih]

theorem lookup_map (f : Nat × α → Nat × β) (hf : ∀ x, (f x).1 = x.1) (t : List (Nat × α)) (k : Nat) :
    lookup (t.map f) k = (lookup t k).map fun v => (f (k, v)).2 := by
  induction t with
  | nil => rfl
  | cons p r ih =>
    obtain ⟨a, v⟩ := p
    have h : f (a, v) = (a, (f (a, v)).2) := Prod.ext (hf _) rfl
    rw [List.map_cons, h]
    by_cases hk : a = k
    · subst hk
      simp [lookup]
    · simp [lookup, hk, ih]
end

/-! ## Registers of the timebase -/

/-- The signed number of 64 bits. -/
theorem sx_64 (v : Nat) : sx 64 v = (BitVec.ofNat 64 v).toInt := by
  rw [sx, BitVec.toInt_eq_toNat_cond, BitVec.toNat_ofNat]
  split <;> split <;> omega

/-- A tick moved by a step, as a number modulo 2^64. -/
theorem moved_cast (z : Int) (n : Nat) : (moved z n : Int) = ((n : Int) + z) % 2 ^ 64 := by
  rw [moved, tr]
  omega

/-- The entry of a key among entries that are made of keys. -/
theorem find?_keyed {α : Type} (v : α) (l : List Nat) (d : Nat) :
    (l.map fun d' => (d', v)).find? (·.1 == d) = if d ∈ l then some (d, v) else none := by
  induction l with
  | nil => rfl
  | cons a l ih =>
    by_cases h : a = d
    · simp [h]
    · simp [h, ih, Ne.symm h]

/-- The C-dies that go on alone from a write of INC on: those cut off that have no timebase of their own yet (R411). -/
def goingAlone (s : State) : List Nat := (List.range 4).filter fun d => moduleDown s (8 + d) && !s.tb.own.any (·.1 == d)

theorem own_setInc (s : State) (v : Nat) : (setInc s v).tb.own = s.tb.own ++ (goingAlone s).map fun d => (d, s.tb.ticks, s.tb.frac, s.tb.inc) := rfl

theorem find?_own_setInc (s : State) (v : Nat) {d : Nat} (hd : d < 4) : (setInc s v).tb.own.find? (·.1 == d)
    = if moduleDown s (8 + d) = true ∧ (s.tb.own.find? (·.1 == d)).isNone = true then some (d, s.tb.ticks, s.tb.frac, s.tb.inc)
      else s.tb.own.find? (·.1 == d) := by
  have hmem : d ∈ goingAlone s ↔ moduleDown s (8 + d) = true ∧ (s.tb.own.find? (·.1 == d)).isNone = true := by
    rw [goingAlone, List.mem_filter, List.mem_range, Bool.and_eq_true, ← List.isSome_find?, Option.not_isSome]
    exact and_iff_right hd
  rw [own_setInc, List.find?_append, find?_keyed]
  simp only [← hmem]
  by_cases h : d ∈ goingAlone s
  · rw [if_pos h, if_pos h, Option.isNone_iff_eq_none.1 (hmem.1 h).2, Option.none_or]
  · rw [if_neg h, if_neg h, Option.or_none]

/-- With every module up none goes on alone. -/
theorem setInc_up {s : State} (h : ∀ d < 4, moduleDown s (8 + d) = false) (v : Nat) :
    setInc s v = { s with tb := { s.tb with inc := max 286302520 (min 286359786 (v % 2 ^ 32)) } } := by
  have hnone : goingAlone s = [] := List.filter_eq_nil_iff.2 fun d hd => by simp [h d (List.mem_range.1 hd)]
  have hown : s.tb.own ++ (goingAlone s).map (fun d => (d, s.tb.ticks, s.tb.frac, s.tb.inc)) = s.tb.own := by rw [hnone, List.map_nil, List.append_nil]
  change { s with tb := { s.tb with inc := _, own := s.tb.own ++ (goingAlone s).map fun d => (d, s.tb.ticks, s.tb.frac, s.tb.inc) } } = _
  rw [hown]

/-- A request of a step that is not zero (R34). -/
theorem requestStep_nonzero (s : State) {v : Nat} (hv : v % 2 ^ 64 ≠ 0) : requestStep s v =
    if rtRunning s then devLog { s with tb := { s.tb with stepref := true } } 0x0C5 0 (v % 2 ^ 64)
    else { s with tb := { s.tb with stepPend := some (s.tb.stepPend.getD 0 + (BitVec.ofNat 64 v).toInt) } } := by
  have hz : sx 64 v ≠ 0 := by
    rw [sx]
    split <;> omega
  rw [← sx_64]
  exact if_neg hz

theorem noneLoaded_iff (s : State) : s.scenes.any (fun x => x.2.live && x.2.loaded) = false ↔ ∀ x ∈ s.scenes, x.2.live = true → x.2.loaded = false := by
  simp

/-- The writes of the timebase registers (R32, R34, R36, R411). -/
theorem timebaseWritesRule : TimebaseWritesRule := by
  intro s v
  refine ⟨fun hup => congrArg _ (setInc_up hup v), ⟨_, rfl, rfl, rfl, SameMem.sameBytes ⟨rfl, rfl, rfl⟩, fun d hd => find?_own_setInc s v hd⟩, ?_,
    fun hrt hv => ?_, fun hrt hv => ?_⟩
  · intro h
    refine ⟨fun h4 h10 hl => congrArg _ (if_pos ⟨h4, h10, (noneLoaded_iff s).2 hl⟩), fun hc => congrArg _ (if_neg ?_)⟩
    rintro ⟨h4, h10, hl⟩
    obtain hlt | hlt | ⟨x, hx, hlive, hloaded⟩ := hc
    · exact absurd h4 (Nat.not_le.2 hlt)
    · exact absurd h10 (Nat.not_le.2 hlt)
    · exact absurd ((noneLoaded_iff s).1 hl x hx hlive) (by simp [hloaded])
  · exact congrArg _ ((requestStep_nonzero s hv).trans (by rw [hrt]; rfl))
  · have hx : exec .tbstepWrite s = .next (devLog { s with tb := { s.tb with stepref := true } } 0x0C5 0 (v % 2 ^ 64)) :=
      congrArg _ ((requestStep_nonzero s hv).trans (if_pos hrt))
    exact ⟨_, hx, (logged_devLog _ _ _ _).tb, mem_evlog_devLog _ _ _ _⟩

/-! ## The step -/

/-- What waits for a tick waits for the moved one; no other thread changes. -/
theorem moveWait_only {z : Int} {t t' : Thread} (h : t' = moveWait z t) :
    { t' with wait := t.wait } = t ∧ ((∀ n, t.wait ≠ .restart n) → t' = t) := by
  rw [h, moveWait]
  split
  · next n h => exact ⟨rfl, fun hn => absurd h (hn n)⟩
  · exact ⟨rfl, fun _ => rfl⟩

theorem tget_moveWait (z : Int) (t : Tab Thread) (k : Nat) : tget (t.map fun x => (x.1, moveWait z x.2)) default k = moveWait z (tget t default k) := by
  rw [tget_eq_lookup, tget_eq_lookup t, lookup_map (fun x : Nat × Thread => (x.1, moveWait z x.2)) (fun _ => rfl)]
  cases lookup t k <;> rfl

/-- A run with its ticks moved is the run otherwise. -/
theorem moveRun_only (z : Int) (r : Run) : { moveRun z r with fire := r.fire, deadline := r.deadline, frozenAt := r.frozenAt } = r := rfl

/-- Each table that holds ticks keeps its keys, and each of its entries moves or stays (R34, log 18). -/
theorem stepAppliedRule : StepAppliedRule := by
  intro s z hz
  change ∃ s', execStepApply s = .next s' ∧ _
  simp only [execStepApply, hz]
  refine ⟨_, rfl, moved_cast z _, rfl, rfl, fun k => ?_, rfl, fun core sheet r hr => ?_, SameMem.sameBytes ⟨rfl, rfl, rfl⟩, fun k => ?_⟩
  · change (tget (s.scenes.map _) (default : Scene) k).origin = _ ∨ tget s.scenes default k = default
    rw [tget_eq_lookup, tget_eq_lookup s.scenes, lookup_map _ (fun x => by split <;> rfl)]
    cases hl : lookup s.scenes k with
    | none => exact .inr rfl
    | some x =>
      have hg : getScene s k = x := by rw [getScene, tget_eq_lookup, hl]; rfl
      left
      dsimp only [Option.map_some, Option.getD_some]
      rw [hg]
      split
      · rfl
      · rfl
  · have hl : lookup s.runs (shKey core sheet) = some r := hr
    refine ⟨if movesWith s r.scene then moveRun z r else r, ?_, ?_⟩
    · change lookup (s.runs.map _) (shKey core sheet) = _
      rw [lookup_map _ (fun x => by split <;> rfl), hl, Option.map_some]
      dsimp only
      split <;> rfl
    · split
      · exact ⟨moveRun_only z r, moved_cast z _, moved_cast z _⟩
      · exact ⟨rfl, rfl, rfl⟩
  · exact moveWait_only (tget_moveWait z s.threads k)

/-! ## The servo -/

/-- The count of offsets within 100 ns after one more. -/
def goodAfter (s : State) (off : Int) : Nat := if -100 ≤ off ∧ off ≤ 100 then min 16 (s.tb.goodSyncs + 1) else 0

/-- The tick, INC and lock after the servo has measured an offset, in a device that does not wait for lock to boot. -/
theorem servo_own (s : State) (off : Int) (hstage : s.mgmt.stage ≠ 5) :
    let s' := servo s off
    286302520 ≤ s'.tb.inc ∧ s'.tb.inc ≤ 286359786 ∧ s'.tb.pendSync = s.tb.pendSync ∧ s'.tb.goodSyncs = goodAfter s off ∧ s'.tb.ticks = s.tb.ticks
      ∧ (goodAfter s off = 16 → s'.tb.locked = true ∧ (s.tb.locked = false → s'.tb.holdover = false))
      ∧ (goodAfter s off ≠ 16 → s'.tb.locked = s.tb.locked) := by
  unfold servo
  extract_lets good n s1 tb s2 tb' s3 s'
  have hn : n = goodAfter s off := by
    dsimp only [n, good, goodAfter]
    simp only [Bool.and_eq_true, decide_eq_true_eq]
  have h2 : s2.tb.goodSyncs = n ∧ s2.tb.inc = s1.tb.inc ∧ s2.tb.pendSync = s.tb.pendSync ∧ s2.tb.ticks = s.tb.ticks ∧ s2.tb.locked = s.tb.locked
      ∧ s2.mgmt.stage = s.mgmt.stage := ⟨rfl, rfl, rfl, rfl, rfl, rfl⟩
  obtain ⟨hlo, hhi⟩ : 286302520 ≤ s1.tb.inc ∧ s1.tb.inc ≤ 286359786 := ⟨Nat.le_max_left _ _, Nat.max_le.2 ⟨by decide, Nat.min_le_left _ _⟩⟩
  obtain ⟨hgood, hinc, hpend, hticks, hlocked, hst⟩ := h2
  rw [← hn]
  dsimp only [s']
  by_cases hc : n = 16 ∧ s2.tb.locked = false
  · rw [if_pos hc, if_neg (by exact hst ▸ hstage)]
    exact ⟨hinc ▸ hlo, hinc ▸ hhi, hpend, hgood, hticks, fun _ => ⟨rfl, fun _ => rfl⟩, fun h => absurd hc.1 h⟩
  · rw [if_neg hc]
    refine ⟨hinc ▸ hlo, hinc ▸ hhi, hpend, hgood, hticks, fun h => ?_, fun _ => hlocked⟩
    have hl : s2.tb.locked = true := by simpa [h] using hc
    exact ⟨hl, fun h' => absurd (hlocked.symm.trans hl) (by simp [h'])⟩

/-- What R35 says of a measured offset, of the state before it. -/
def Servoed (s : State) (off : Int) (s' : State) : Prop :=
  286302520 ≤ s'.tb.inc ∧ s'.tb.inc ≤ 286359786 ∧ s'.tb.pendSync = false
  ∧ (-100 ≤ off → off ≤ 100 → s'.tb.goodSyncs = min 16 (s.tb.goodSyncs + 1)
      ∧ (15 ≤ s.tb.goodSyncs → s'.tb.locked = true ∧ (s.tb.locked = false → s'.tb.holdover = false)))
  ∧ ((off < -100 ∨ 100 < off) → s'.tb.goodSyncs = 0 ∧ s'.tb.locked = s.tb.locked) ∧ s'.tb.ticks = s.tb.ticks

/-- The servo does so once the Sync does not wait any more. -/
theorem servoed_servo {s t : State} (ht : t.tb = { s.tb with pendSync := false }) (hstage : t.mgmt.stage ≠ 5) (off : Int) : Servoed s off (servo t off) := by
  obtain ⟨hlo, hhi, hpend, hgood, hticks, hlock, hkeep⟩ := servo_own t off hstage
  rw [goodAfter] at hgood hlock hkeep
  have hg : t.tb.goodSyncs = s.tb.goodSyncs ∧ t.tb.ticks = s.tb.ticks ∧ t.tb.locked = s.tb.locked ∧ t.tb.pendSync = false := by
    rw [ht]
    exact ⟨rfl, rfl, rfl, rfl⟩
  obtain ⟨hg1, hg2, hg3, hg4⟩ := hg
  rw [hg1] at hgood hlock hkeep
  rw [hg2] at hticks
  rw [hg3] at hlock hkeep
  rw [hg4] at hpend
  refine ⟨hlo, hhi, hpend, fun h h' => ?_, fun h => ?_, hticks⟩
  · rw [if_pos ⟨h, h'⟩] at hgood hlock
    exact ⟨hgood, fun h15 => hlock (by omega)⟩
  · rw [if_neg (by omega)] at hgood hkeep
    exact ⟨hgood, hkeep (by decide)⟩

/-- A message's timeout that starts anew. -/
theorem restartTimeout_only (s : State) (i : Instr) : ∃ free agenda, restartTimeout s i = { s with free := free, agenda := agenda } := ⟨_, _, rfl⟩

/-- A lost lock (R35). -/
theorem loseLock_locked {s : State} (h : s.tb.locked = true) :
    let s' := loseLock s
    s'.tb.locked = false ∧ s'.tb.holdover = true ∧ s'.tb.inc = s.tb.inc ∧ ∃ e ∈ s'.evlog, e.cause = 0x0C8 := by
  unfold loseLock
  extract_lets tb s1 tb' s'
  dsimp only [s']
  rw [if_pos (show s1.tb.locked = true from h), (logged_devLog _ _ _ _).tb]
  exact ⟨rfl, rfl, rfl, mem_evlog_devLog _ _ _ _⟩

theorem timeNs_eq (s : State) : timeNs s = 10 * s.tb.ticks + 10 * s.tb.frac / 2 ^ 32 := by
  rw [timeNs, Nat.mul_comm s.tb.ticks, Nat.mul_comm s.tb.frac]

theorem inDomain_zero {s : State} (h : s.cur.ix = 0) (f : State) : inDomain s f = .next f := congrArg _ (if_pos h)
theorem inDomain_other {s : State} (h : s.cur.ix ≠ 0) (f : State) : inDomain s f = .next s := congrArg _ (if_neg h)

/-- Each message of domain 0 reaches the servo or the register that it concerns; each timeout loses the lock (R35 to R37, R436, R437). -/
theorem servoLockRule : ServoLockRule := by
  intro s hstage now servoed
  have hnow : (timeNs s : Int) = now := by
    rw [timeNs_eq]
    push_cast
    rfl
  have hrx : rxStamp s = now - s.tb.phyRx := by rw [rxStamp, hnow]
  have htx : txStamp s = now + s.tb.phyTx := by rw [txStamp, hnow]
  refine ⟨fun h hf => ?_, fun h hf => ?_, fun h hp => ?_, fun hp => ?_, fun h hf => ?_, fun h hf => ?_, rfl,
    fun h => ?_, fun h i hi => ?_, fun h i hi => ?_⟩
  · refine ⟨_, inDomain_zero h _, ?_⟩
    rw [hf, if_neg (by decide), hrx]
    exact servoed_servo (s := s) rfl (by exact hstage) _
  · refine ⟨_, inDomain_zero h _, ?_⟩
    rw [hf, if_pos rfl, hrx]
    rfl
  · refine ⟨_, inDomain_zero h _, ?_⟩
    rw [hp, if_pos rfl]
    exact servoed_servo (s := s) rfl (by exact hstage) _
  · change inDomain s _ = _
    rw [hp, if_neg (by decide)]
    exact congrArg _ (ite_self s)
  · refine (inDomain_zero h _).trans ?_
    rw [hf, if_pos rfl, htx]
  · refine (inDomain_zero h _).trans ?_
    rw [hf, if_neg (by decide), hrx]
  · exact ⟨_, inDomain_zero h _, rfl, rfl⟩
  · obtain rfl | rfl | rfl | rfl := hi
    · exact inDomain_other h _
    · exact inDomain_other h _
    · exact inDomain_other h _
    · exact inDomain_other h _
  · obtain rfl | rfl := hi
    · exact ⟨_, rfl, loseLock_locked h⟩
    · exact ⟨_, rfl, loseLock_locked (s := { s with agenda := s.agenda.filter fun d => d.act != .row .announceTimeout {} }) h⟩

/-! ## The pulse pins -/

/-- The pins of R438. -/
theorem pulsePinsRule : PulsePinsRule := by
  intro s
  refine ⟨fun h => congrArg _ (if_neg (Nat.not_lt.2 h)), fun h => congrArg _ (if_pos h), rfl, ?_⟩
  rw [← timeNs_eq]
  rfl

/-- Settles O29, rule by rule: the writes, the step that every table of ticks takes, the servo, the pins. -/
theorem timebase : Obligations.Timebase := ⟨timebaseWritesRule, stepAppliedRule, servoLockRule, pulsePinsRule⟩

end Sys2Proof.Machine
end

section
/-! A heartbeat boundary. -/

set_option Elab.async false

namespace Sys2Proof.Machine

open Safety

/-! ## FENCE.SC at a heartbeat -/

/-- Threads and race tags change, and nothing else. -/
def FencesOnly (s s' : State) : Prop := ∃ tags threads, s' = { s with tags := tags, threads := threads }

theorem FencesOnly.refl (s : State) : FencesOnly s s := ⟨_, _, rfl⟩
theorem FencesOnly.trans {s t u : State} : FencesOnly s t → FencesOnly t u → FencesOnly s u := by
  rintro ⟨_, _, rfl⟩ ⟨a, b, rfl⟩
  exact ⟨a, b, rfl⟩

theorem endFenceSc_only (s : State) (x : Nat × Thread) : FencesOnly s (endFenceSc s x) := by
  unfold endFenceSc
  split
  · split
    · exact ⟨_, _, rfl⟩
    · exact .refl s
  · exact .refl s

/-- One thread's fence leaves the other threads. -/
theorem getTh_endFenceSc_other (s : State) (x : Nat × Thread) {k : Nat} (h : k ≠ x.1) : getTh (endFenceSc s x) k = getTh s k := by
  unfold endFenceSc
  split
  · split
    · exact (getTh_setTh _ _ _ _).trans (if_neg h)
    · rfl
  · rfl

theorem endFenceSc_waits (s : State) (x : Nat × Thread) (h : ∀ ids, x.2.wait ≠ .fenceSc ids true) : endFenceSc s x = s := by
  unfold endFenceSc
  split
  · next hw _ => exact absurd hw (h _)
  · rfl

/-- A thread that runs goes on past its FENCE.SC when the drain has ended (R252). -/
theorem endFenceSc_ends {s : State} {k : Nat} {t : Thread} {ids : List Nat} {r : Run} (hw : t.wait = .fenceSc ids true) (hr : runOf s (k / 4) (k % 4) = some r)
    (hrun : t.running = true) (hfz : t.frozen = false) (hh : t.halted = false) :
    getTh (endFenceSc s (k, t)) k = advance { getTh s k with wait := .none } := by
  unfold endFenceSc
  simp only [hw, hr, hrun, hfz, hh, Bool.not_false, Bool.and_self, if_true]
  exact getTh_setTh_self _ _ _

/-- The fences of the threads below n end. -/
def endFences (s : State) (n : Nat) : State := (List.range n).foldl (fun st k => endFenceSc st (k, getTh s k)) s

theorem endFences_succ (s : State) (n : Nat) : endFences s (n + 1) = endFenceSc (endFences s n) (n, getTh s n) := by
  rw [endFences, List.range_succ, List.foldl_append]
  rfl

theorem endFences_only (s : State) (n : Nat) : FencesOnly s (endFences s n) :=
  foldl_rel (R := FencesOnly) .refl .trans (fun _ _ => endFenceSc_only _ _) _ s

/-- Each thread changes in its own turn only. -/
theorem getTh_endFences (s : State) (n k : Nat) :
    getTh (endFences s n) k = if k < n then getTh (endFenceSc (endFences s k) (k, getTh s k)) k else getTh s k := by
  induction n with
  | zero => rfl
  | succ n ih =>
    rw [endFences_succ]
    by_cases h : k = n
    · rw [h, if_pos (Nat.lt_succ_self n)]
    · rw [getTh_endFenceSc_other _ _ h, ih]
      exact if_congr (by omega) rfl rfl

/-- Before its turn a thread is as it was. -/
theorem getTh_endFences_before (s : State) (k : Nat) : getTh (endFences s k) k = getTh s k :=
  (getTh_endFences s k k).trans (if_neg (Nat.lt_irrefl k))

/-- A thread whose drain has not ended, or that waits for something else, is as before. -/
theorem getTh_endFences_waits {s : State} {k : Nat} (h : ∀ ids, (getTh s k).wait ≠ .fenceSc ids true) (n : Nat) : getTh (endFences s n) k = getTh s k := by
  rw [getTh_endFences, endFenceSc_waits _ _ h, getTh_endFences_before, ite_self]

/-- A thread whose drain has ended goes on. -/
theorem getTh_endFences_ends {s : State} {k n : Nat} (hk : k < n) {ids : List Nat} {r : Run} (hw : (getTh s k).wait = .fenceSc ids true)
    (hr : runOf s (k / 4) (k % 4) = some r) (hrun : (getTh s k).running = true) (hfz : (getTh s k).frozen = false) (hh : (getTh s k).halted = false) :
    getTh (endFences s n) k = advance { getTh s k with wait := .none } := by
  have hr' : runOf (endFences s k) (k / 4) (k % 4) = some r := by
    obtain ⟨_, _, h⟩ := endFences_only s k
    rw [h]
    exact hr
  rw [getTh_endFences, if_pos hk, endFenceSc_ends hw hr' hrun hfz hh, getTh_endFences_before]

/-! ## Pre-emption that has nothing to do -/

theorem gangsWhere_none {s : State} {p : Nat → Nat → Gang → Bool} (h : ∀ x ∈ s.scenes, ∀ g ∈ x.2.gangs, ∀ i, p x.1 i g = false) :
    gangsWhere s p = [] := by
  refine List.flatMap_eq_nil_iff.2 fun x hx => ?_
  split
  · rw [List.map_eq_nil_iff, List.filter_eq_nil_iff]
    intro g hg
    simp [h x hx g.1 (List.fst_mem_of_mem_zipIdx hg)]
  · rfl

theorem insReady_ne_nil (s : State) (p : Nat × Nat) (l : List (Nat × Nat)) : insReady s p l ≠ [] := by
  cases l with
  | nil => exact List.cons_ne_nil _ _
  | cons a r =>
    rw [insReady]
    split
    · exact List.cons_ne_nil _ _
    · exact List.cons_ne_nil _ _

theorem foldl_insReady_eq_nil {s : State} {l : List (Nat × Nat)} : ∀ {m : List (Nat × Nat)}, l.foldl (fun l p => insReady s p l) m = [] → l = [] := by
  induction l with
  | nil => exact fun _ => rfl
  | cons a l ih =>
    intro m h
    rw [List.foldl_cons] at h
    rw [ih h] at h
    exact absurd h (insReady_ne_nil s a m)

/-- Whether gangs are ready lies with the scenes and the images. -/
theorem readyGangs_none {s s' : State} (hr : readyGangs s = []) (hs : s'.scenes = s.scenes) (hi : s'.images = s.images) : readyGangs s' = [] := by
  unfold readyGangs gangsWhere at hr ⊢
  rw [hs, hi, foldl_insReady_eq_nil hr]
  rfl

/-- With no gang ready and none being pre-empted a heartbeat leaves the gangs as they are (R89). -/
theorem preemption_idle {s : State} (hr : readyGangs s = []) (hp : ∀ x ∈ s.scenes, ∀ g ∈ x.2.gangs, g.preempt = 0) : preemption s = s := by
  have hnone : gangsWhere s (fun _ _ g => g.preempt != 0) = [] := gangsWhere_none fun x hx g hg _ => by simp [hp x hx g hg]
  have hv : chooseVictims s s [] [] (victims s) = [] := rfl
  unfold preemption preemptStep
  simp only [hnone, hr, List.foldl_nil, hv]
  rw [resumeReady, hr]

/-! ## Levels and the throttle -/

theorem lookup_tins_other {α : Type} (t : Tab α) {k j : Nat} (v : α) (h : j ≠ k) : lookup (tins t k v) j = lookup t j := by
  induction t with
  | nil => simp [tins, lookup, Ne.symm h]
  | cons p r ih =>
    obtain ⟨a, w⟩ := p
    rw [tins]
    split
    · simp [lookup, ih]
    · split
      · next e => simp [lookup, e, Ne.symm h]
      · simp [lookup, Ne.symm h]

theorem levelNext_takeLevel (s : State) (c e j : Nat) : levelNext (takeLevel s c e) j = if j = c then e else levelNext s j := by
  by_cases h : j = c
  · rw [if_pos h, h, levelNext, takeLevel, lookup_tins_same]
    rfl
  · rw [if_neg h, levelNext, takeLevel, lookup_tins_other _ _ h]
    rfl

/-- Clusters that take one level after another, each that which the state names. -/
theorem levelNext_takeLevels {f : State → Nat} (hf : ∀ s c e, f (takeLevel s c e) = f s) (l : List Nat) (s : State) (j : Nat) :
    levelNext (l.foldl (fun s c => takeLevel s c (f s)) s) j = if j ∈ l then f s else levelNext s j := by
  induction l generalizing s with
  | nil => rfl
  | cons c l ih =>
    rw [List.foldl_cons, ih, hf, levelNext_takeLevel]
    by_cases hl : j ∈ l
    · simp [hl]
    · by_cases hc : j = c
      · simp [hc]
      · simp [hl, hc]

/-- The dies that are throttled and the levels to be taken change, with what is logged of it. -/
def ThrottleOnly (s s' : State) : Prop :=
  ∃ t2In t2Out timef levelPend recs evlog hostMem rings irqs ecc, s' = { s with
    mgmt := { s.mgmt with t2In := t2In, t2Out := t2Out, timef := timef }, levelPend := levelPend, recs := recs, evlog := evlog
    hostMem := hostMem, rings := rings, irqs := irqs, ecc := ecc }

theorem ThrottleOnly.refl (s : State) : ThrottleOnly s s := ⟨_, _, _, _, _, _, _, _, _, _, rfl⟩
theorem ThrottleOnly.trans {s t u : State} : ThrottleOnly s t → ThrottleOnly t u → ThrottleOnly s u := by
  rintro ⟨_, _, _, _, _, _, _, _, _, _, rfl⟩ ⟨_, _, _, _, _, _, _, _, _, _, rfl⟩
  exact ⟨_, _, _, _, _, _, _, _, _, _, rfl⟩
theorem Logged.throttleOnly {s s' : State} : Logged s s' → ThrottleOnly s s' := by
  rintro ⟨_, _, _, _, _, _, _, -, -, rfl⟩
  exact ⟨_, _, _, _, _, _, _, _, _, _, rfl⟩
theorem Logged.t2In {s s' : State} : Logged s s' → s'.mgmt.t2In = s.mgmt.t2In := by
  rintro ⟨_, _, _, _, _, _, _, -, -, rfl⟩
  rfl
theorem Logged.levelNext {s s' : State} (h : Logged s s') (c : Nat) : levelNext s' c = levelNext s c := by
  obtain ⟨_, _, _, _, _, _, _, -, -, rfl⟩ := h
  rfl
theorem ThrottleOnly.throttleSet {s s' : State} (h : ThrottleOnly s s') (d : Nat) : throttleSet s' d = throttleSet s d := by
  obtain ⟨_, _, _, _, _, _, _, _, _, _, rfl⟩ := h
  rfl
theorem ThrottleOnly.t2e {s s' : State} (h : ThrottleOnly s s') : s'.mgmt.t2e = s.mgmt.t2e := by
  obtain ⟨_, _, _, _, _, _, _, _, _, _, rfl⟩ := h
  rfl

theorem logged_logFor (s : State) (cause i0 i1 : Nat) (l : List (Nat × Nat)) : Logged s (logFor s cause i0 i1 l) :=
  (logged_devLog _ _ _ _).trans (.foldl (fun _ _ => logged_queueWith _ _ _ _ _ _ _ _) _ _)

theorem throttleOnly_takeLevels (f : State → Nat) (l : List Nat) (s : State) : ThrottleOnly s (l.foldl (fun s c => takeLevel s c (f s)) s) :=
  foldl_rel (R := ThrottleOnly) .refl .trans (fun _ _ => ⟨_, _, _, _, _, _, _, _, _, _, rfl⟩) _ s

theorem t2In_takeLevels (f : State → Nat) (l : List Nat) (s : State) : (l.foldl (fun s c => takeLevel s c (f s)) s).mgmt.t2In = s.mgmt.t2In :=
  foldl_rel (R := fun s s' : State => s'.mgmt.t2In = s.mgmt.t2In) (fun _ => rfl)
    (fun {s t u} (h : t.mgmt.t2In = s.mgmt.t2In) (k : u.mgmt.t2In = t.mgmt.t2In) => k.trans h)
    (f := fun s c => takeLevel s c (f s)) (fun _ _ => rfl) _ s

/-- A die that enters T2: its clusters take the level of T2, and no other does (R422). -/
theorem enterT2_own (s : State) (d : Nat) :
    ThrottleOnly s (enterT2 s d) ∧ (enterT2 s d).mgmt.t2In = s.mgmt.t2In ++ [d]
      ∧ ∀ c, levelNext (enterT2 s d) c = if c ∈ throttleSet s d then s.mgmt.t2e else levelNext s c := by
  unfold enterT2
  extract_lets cls m s1
  have h0 : ThrottleOnly s s1 := ⟨_, _, _, _, _, _, _, _, _, _, rfl⟩
  have hl := logged_logFor (cls.foldl (fun s c => takeLevel s c s.mgmt.t2e) s1) 0x161 (d * 64) (tget s1.mgmt.tmax 0 d) (partsOn s1 cls)
  refine ⟨(h0.trans (throttleOnly_takeLevels (·.mgmt.t2e) cls s1)).trans hl.throttleOnly, hl.t2In.trans (t2In_takeLevels (·.mgmt.t2e) cls s1),
    fun c => ?_⟩
  rw [hl.levelNext, levelNext_takeLevels (f := (·.mgmt.t2e)) (fun _ _ _ => rfl)]
  change (if c ∈ cls then s.mgmt.t2e else levelNext s c) = _
  by_cases hc : c ∈ throttleSet s d
  · rw [if_pos hc]
    by_cases he : levelNext s c = s.mgmt.t2e
    · rw [he, ite_self]
    · rw [if_pos (List.mem_filter.2 ⟨hc, by simpa using he⟩)]
  · rw [if_neg hc, if_neg fun h => hc (List.mem_filter.1 h).1]

/-- Dies that enter T2 one after another. -/
theorem enterT2s_own (l : List Nat) (s : State) :
    ThrottleOnly s (l.foldl enterT2 s) ∧ (l.foldl enterT2 s).mgmt.t2In = s.mgmt.t2In ++ l
      ∧ ∀ c, (levelNext s c = s.mgmt.t2e ∨ ∃ d ∈ l, c ∈ throttleSet s d) → levelNext (l.foldl enterT2 s) c = s.mgmt.t2e := by
  induction l generalizing s with
  | nil => exact ⟨.refl s, (List.append_nil _).symm, fun c h => h.resolve_right (by simp)⟩
  | cons d l ih =>
    obtain ⟨h1, h2, h3⟩ := enterT2_own s d
    obtain ⟨i1, i2, i3⟩ := ih (enterT2 s d)
    refine ⟨h1.trans i1, ?_, fun c hc => ?_⟩
    · rw [List.foldl_cons, i2, h2, List.append_assoc]
      rfl
    · rw [List.foldl_cons, ← h1.t2e]
      refine i3 c ?_
      rw [h1.t2e, h3]
      simp only [h1.throttleSet]
      obtain hc | ⟨d', hd', hc⟩ := hc
      · exact .inl (by rw [hc, ite_self])
      · obtain rfl | hd' := List.mem_cons.1 hd'
        · exact .inl (if_pos hc)
        · exact .inr ⟨d', hd', hc⟩

/-- The clusters that return to level 16 are not of a die that is throttled. -/
theorem freed_apart {s : State} {dies : List Nat} {d c : Nat} (hd : d ∈ dies) (hc : c ∈ throttleSet s d) : c ∉ freed s dies := by
  intro h
  have hk := (List.mem_filter.1 h).2
  rw [Bool.and_eq_true, Bool.not_eq_true', List.contains_eq_mem, decide_eq_false_iff_not] at hk
  exact hk.2 (List.mem_flatMap.2 ⟨d, hd, hc⟩)

/-- A die that leaves T2 is gone from the list; the levels stay until the next boundary. -/
theorem leaveT2_own (s : State) (d : Nat) :
    ThrottleOnly s (leaveT2 s d) ∧ (leaveT2 s d).mgmt.t2In = s.mgmt.t2In.filter (· != d) ∧ ∀ c, levelNext (leaveT2 s d) c = levelNext s c := by
  unfold leaveT2
  extract_lets before m s1
  have h0 : ThrottleOnly s s1 := ⟨_, _, _, _, _, _, _, _, _, _, rfl⟩
  have hl := logged_logFor s1 0x162 (d * 64) (tget s1.mgmt.tmax 0 d) (partsOn s1 ((freed s1 s1.mgmt.t2In).filter fun c => !before.contains c))
  exact ⟨h0.trans hl.throttleOnly, hl.t2In, hl.levelNext⟩

/-- Dies that leave T2 one after another. -/
theorem leaveT2s_own (l : List Nat) (s : State) :
    ThrottleOnly s (l.foldl leaveT2 s) ∧ (∀ d, d ∈ (l.foldl leaveT2 s).mgmt.t2In ↔ d ∈ s.mgmt.t2In ∧ d ∉ l)
      ∧ ∀ c, levelNext (l.foldl leaveT2 s) c = levelNext s c := by
  induction l generalizing s with
  | nil => exact ⟨.refl s, fun d => by simp, fun _ => rfl⟩
  | cons a l ih =>
    obtain ⟨h1, h2, h3⟩ := leaveT2_own s a
    obtain ⟨i1, i2, i3⟩ := ih (leaveT2 s a)
    refine ⟨h1.trans i1, fun d => ?_, fun c => (i3 c).trans (h3 c)⟩
    rw [List.foldl_cons, i2, h2, List.mem_filter, List.mem_cons, bne_iff_ne, not_or, and_assoc]

/-! ## The sample and the thresholds -/

/-- The sample of a C-die at a heartbeat, in degrees (log 8). -/
def sampled (s : State) (d : Nat) : Int := degrees (Config.freeTemp (s.free + d)).toNat
/-- A C-die is at T3. -/
def Hot (s : State) : Prop := ∃ d, d < 4 ∧ (s.mgmt.t3 : Int) ≤ sampled s d

/-- The state of T1 changes, with what is logged of it. -/
def T1Only (s s' : State) : Prop :=
  ∃ t1In timef recs evlog hostMem rings irqs ecc, s' = { s with
    mgmt := { s.mgmt with t1In := t1In, timef := timef }, recs := recs, evlog := evlog, hostMem := hostMem, rings := rings, irqs := irqs, ecc := ecc }

theorem T1Only.of_logged {s s' : State} {b : Bool} : Logged { s with mgmt := { s.mgmt with t1In := b } } s' → T1Only s s' ∧ s'.mgmt.t1In = b := by
  rintro ⟨_, _, _, _, _, _, _, -, -, rfl⟩
  exact ⟨⟨_, _, _, _, _, _, _, _, rfl⟩, rfl⟩

/-- What of a device's climate two states have in common; the gangs are the same. -/
structure SameClimate (s s' : State) : Prop where
  tmax : s'.mgmt.tmax = s.mgmt.tmax
  t3In : s'.mgmt.t3In = s.mgmt.t3In
  t2e : s'.mgmt.t2e = s.mgmt.t2e
  threads : s'.threads = s.threads
  scenes : s'.scenes = s.scenes
  images : s'.images = s.images
  tb : s'.tb = s.tb

theorem SameClimate.trans {s t u : State} (h : SameClimate s t) (k : SameClimate t u) : SameClimate s u :=
  ⟨k.tmax.trans h.tmax, k.t3In.trans h.t3In, k.t2e.trans h.t2e, k.threads.trans h.threads, k.scenes.trans h.scenes,
    k.images.trans h.images, k.tb.trans h.tb⟩
theorem SameClimate.temp {s t : State} (h : SameClimate s t) (d : Nat) : tempOf t d = tempOf s d := by rw [tempOf, h.tmax, tempOf]
theorem SameClimate.throttleSet {s t : State} (h : SameClimate s t) (d : Nat) : throttleSet t d = throttleSet s d := by
  unfold Machine.throttleSet gangClusters
  rw [h.scenes]
theorem ThrottleOnly.climate {s s' : State} : ThrottleOnly s s' → SameClimate s s' ∧ s'.mgmt.t1In = s.mgmt.t1In := by
  rintro ⟨_, _, _, _, _, _, _, _, _, _, rfl⟩
  exact ⟨⟨rfl, rfl, rfl, rfl, rfl, rfl, rfl⟩, rfl⟩
theorem T1Only.climate {s s' : State} : T1Only s s' → SameClimate s s' ∧ s'.mgmt.t2In = s.mgmt.t2In := by
  rintro ⟨_, _, _, _, _, _, _, _, rfl⟩
  exact ⟨⟨rfl, rfl, rfl, rfl, rfl, rfl, rfl⟩, rfl⟩

/-- The state after the sample. -/
def sampleAll (s : State) : State :=
  { s with free := s.free + 4, mgmt := { s.mgmt with tmax := (List.range 4).foldl (fun t d => tput t 0 d (Config.freeTemp (s.free + d)).toNat) [] } }
/-- The first die that is at a threshold. -/
def firstAbove (s : State) (t : Nat) : Option Nat := (List.range 4).find? fun d => (t : Int) ≤ tempOf s d
/-- T1 is entered or left (R421). -/
def crossT1 (m : Mgmt) (s : State) : State :=
  match firstAbove s m.t1 with
  | some d => if m.t1In then s
    else devLog { s with mgmt := { s.mgmt with t1In := true } } 0x160 (d * 64) (tget s.mgmt.tmax 0 d)
  | none => if (List.range 4).all fun d => tempOf s d < (m.t1 : Int) - 5 then { s with mgmt := { s.mgmt with t1In := false } } else s
/-- The dies that enter T2, and those that leave it (R422). -/
def entering (m : Mgmt) (s : State) : List Nat := (List.range 4).filter fun d => !m.t2In.contains d && (m.t2 : Int) ≤ tempOf s d
def leaving (m : Mgmt) (s : State) : List Nat := m.t2In.filter fun d => tempOf s d < (m.t2 : Int) - 5
/-- The clusters of the dies that left T2 at the last boundary are released. -/
def releaseLeft (m : Mgmt) (s : State) : State :=
  if m.t2Out.isEmpty then s
  else (freed s s.mgmt.t2In).foldl (fun s c => takeLevel s c 16) { s with mgmt := { s.mgmt with t2Out := [] } }
/-- T3 is entered: the save starts at the next tick (R426). -/
def crossT3 (m : Mgmt) (hot : Bool) (s : State) : State :=
  if hot && !m.t3In then schedule { s with mgmt := { s.mgmt with t3In := true } } .tick (ticks s + 1) (.row .saveStart { ix := 0x163 }) else s

/-- The stages of a heartbeat's sample, in their order. -/
theorem thermal_stages (s : State) :
    let m := s.mgmt
    let hot := (firstAbove (sampleAll s) m.t3).isSome
    let s2 := crossT1 m (sampleAll s)
    let s3 := if hot then s2 else (entering m s2).foldl enterT2 s2
    let s4 := releaseLeft m s3
    thermal s = crossT3 m hot ((leaving m s4).foldl leaveT2 s4) := (rfl)

theorem tempOf_sampleAll (s : State) {d : Nat} (hd : d < 4) : tempOf (sampleAll s) d = sampled s d :=
  congrArg degrees ((tget_foldl_tput_range 0 (fun d => (Config.freeTemp (s.free + d)).toNat) [] d 4).trans (if_pos hd))

theorem firstAbove_isSome (s : State) (t : Nat) : (firstAbove (sampleAll s) t).isSome = true ↔ ∃ d, d < 4 ∧ (t : Int) ≤ sampled s d := by
  rw [firstAbove, List.find?_isSome]
  refine exists_congr fun d => ?_
  rw [List.mem_range, decide_eq_true_eq]
  exact and_congr_right fun hd => by rw [tempOf_sampleAll s hd]

/-- T1 holds from a die at it on, until every die is more than five degrees below it (R421). -/
theorem crossT1_own (s : State) :
    let s' := crossT1 s.mgmt (sampleAll s)
    T1Only (sampleAll s) s' ∧ ((∃ d, d < 4 ∧ (s.mgmt.t1 : Int) ≤ sampled s d) → s'.mgmt.t1In = true)
      ∧ ((∀ d, d < 4 → sampled s d < (s.mgmt.t1 : Int) - 5) → s'.mgmt.t1In = false) := by
  have habove := firstAbove_isSome s s.mgmt.t1
  have hdec : (∃ d, d < 4 ∧ (s.mgmt.t1 : Int) ≤ sampled s d) → ¬ ∀ d, d < 4 → sampled s d < (s.mgmt.t1 : Int) - 5 := by
    rintro ⟨d, hd, h⟩ hb
    have := hb d hd
    omega
  unfold crossT1
  split
  · next d ha =>
    have hcold := hdec (habove.1 (by rw [ha]; rfl))
    split
    · next hin => exact ⟨⟨_, _, _, _, _, _, _, _, rfl⟩, fun _ => hin, fun h => absurd h hcold⟩
    · obtain ⟨h, hin⟩ := T1Only.of_logged (s := sampleAll s) (b := true) (logged_devLog _ 0x160 (d * 64) (tget (sampleAll s).mgmt.tmax 0 d))
      exact ⟨h, fun _ => hin, fun h => absurd h hcold⟩
  · next ha =>
    have hno : ¬ ∃ d, d < 4 ∧ (s.mgmt.t1 : Int) ≤ sampled s d := fun h => absurd (habove.2 h) (by rw [ha]; decide)
    split
    · exact ⟨⟨_, _, _, _, _, _, _, _, rfl⟩, fun h => absurd h hno, fun _ => rfl⟩
    · next hall =>
      refine ⟨⟨_, _, _, _, _, _, _, _, rfl⟩, fun h => absurd h hno, fun h => absurd (List.all_eq_true.2 fun d hd => ?_) hall⟩
      rw [decide_eq_true_eq, tempOf_sampleAll s (List.mem_range.1 hd)]
      exact h d (List.mem_range.1 hd)

theorem mem_entering (m : Mgmt) (s : State) (d : Nat) : d ∈ entering m s ↔ d < 4 ∧ d ∉ m.t2In ∧ (m.t2 : Int) ≤ tempOf s d := by
  rw [entering, List.mem_filter, List.mem_range, Bool.and_eq_true, decide_eq_true_eq, List.contains_eq_mem, Bool.not_eq_true', decide_eq_false_iff_not]
theorem mem_leaving (m : Mgmt) (s : State) (d : Nat) : d ∈ leaving m s ↔ d ∈ m.t2In ∧ tempOf s d < (m.t2 : Int) - 5 := by
  rw [leaving, List.mem_filter, decide_eq_true_eq]

/-- A release leaves the dies in T2 and the levels of their clusters. -/
theorem releaseLeft_own (m : Mgmt) (s : State) : ThrottleOnly s (releaseLeft m s) ∧ (releaseLeft m s).mgmt.t2In = s.mgmt.t2In
    ∧ ∀ d ∈ s.mgmt.t2In, ∀ c ∈ throttleSet s d, levelNext (releaseLeft m s) c = levelNext s c := by
  unfold releaseLeft
  split
  · exact ⟨.refl _, rfl, fun _ _ _ _ => rfl⟩
  · have h0 : ThrottleOnly s { s with mgmt := { s.mgmt with t2Out := [] } } := ⟨_, _, _, _, _, _, _, _, _, _, rfl⟩
    refine ⟨h0.trans (throttleOnly_takeLevels (fun _ => 16) _ _), t2In_takeLevels (fun _ => 16) _ _, fun d hd c hc => ?_⟩
    rw [levelNext_takeLevels (f := fun _ => 16) (fun _ _ _ => rfl), if_neg (freed_apart hd hc)]
    rfl

/-- What follows of T2 and T3 keeps the rest of the thermal state. -/
theorem crossT3_own (m : Mgmt) (hot : Bool) (s : State) :
    let s' := crossT3 m hot s
    s'.mgmt.tmax = s.mgmt.tmax ∧ s'.mgmt.t1In = s.mgmt.t1In ∧ s'.mgmt.t2In = s.mgmt.t2In
      ∧ s'.threads = s.threads ∧ s'.scenes = s.scenes ∧ s'.images = s.images
      ∧ (∀ c, levelNext s' c = levelNext s c) ∧ (s'.mgmt.t3In = if hot && !m.t3In then true else s.mgmt.t3In)
      ∧ (hot = true → m.t3In = false → ⟨.tick, ticks s + 1, .row .saveStart { ix := 0x163 }⟩ ∈ s'.agenda) := by
  unfold crossT3
  by_cases h : (hot && !m.t3In) = true
  · rw [if_pos h, if_pos h]
    exact ⟨rfl, rfl, rfl, rfl, rfl, rfl, fun _ => rfl, rfl, fun _ _ => List.mem_append_right _ (List.mem_singleton_self _)⟩
  · rw [if_neg h, if_neg h]
    exact ⟨rfl, rfl, rfl, rfl, rfl, rfl, fun _ => rfl, rfl, fun h1 h2 => absurd (by rw [h1, h2]; rfl) h⟩

/-- The dies in T2 after the dies that enter, those that were released and those that leave (R422, log 41). -/
theorem throttle_own (m : Mgmt) (hot : Bool) (s : State) :
    let s3 := if hot then s else (entering m s).foldl enterT2 s
    let s4 := releaseLeft m s3
    let s5 := (leaving m s4).foldl leaveT2 s4
    ThrottleOnly s s5
      ∧ (∀ d, d ∈ s.mgmt.t2In → ¬ (d ∈ m.t2In ∧ tempOf s d < (m.t2 : Int) - 5) → d ∈ s5.mgmt.t2In)
      ∧ (hot = false → ∀ d, d < 4 → d ∉ m.t2In → (m.t2 : Int) ≤ tempOf s d →
          d ∈ s5.mgmt.t2In ∧ ∀ c ∈ throttleSet s d, levelNext s5 c = s.mgmt.t2e)
      ∧ ∀ d, d ∈ m.t2In → tempOf s d < (m.t2 : Int) - 5 → d ∉ s5.mgmt.t2In := by
  intro s3 s4 s5
  have h3 : ThrottleOnly s s3 ∧ (∀ d ∈ s.mgmt.t2In, d ∈ s3.mgmt.t2In)
      ∧ (hot = false → ∀ d ∈ entering m s, d ∈ s3.mgmt.t2In ∧ ∀ c ∈ throttleSet s d, levelNext s3 c = s.mgmt.t2e) := by
    cases hot with
    | true => exact ⟨.refl _, fun _ h => h, fun h => absurd h (by decide)⟩
    | false =>
      obtain ⟨h, hin, hlevel⟩ := enterT2s_own (entering m s) s
      change ThrottleOnly s ((entering m s).foldl enterT2 s) ∧ (∀ d ∈ s.mgmt.t2In, d ∈ ((entering m s).foldl enterT2 s).mgmt.t2In)
        ∧ (_ → ∀ d ∈ entering m s, d ∈ ((entering m s).foldl enterT2 s).mgmt.t2In ∧ _)
      rw [hin]
      exact ⟨h, fun d hd => List.mem_append_left _ hd, fun _ d hd => ⟨List.mem_append_right _ hd, fun c hc => hlevel c (.inr ⟨d, hd, hc⟩)⟩⟩
  obtain ⟨h3, h3in, h3enter⟩ := h3
  obtain ⟨h4, h4in, h4level⟩ := releaseLeft_own m s3
  obtain ⟨h5, h5in, h5level⟩ := leaveT2s_own (leaving m s4) s4
  have htemp : ∀ d, tempOf s4 d = tempOf s d := (h3.trans h4).climate.1.temp
  have hin : ∀ d, d ∈ s5.mgmt.t2In ↔ d ∈ s3.mgmt.t2In ∧ ¬ (d ∈ m.t2In ∧ tempOf s d < (m.t2 : Int) - 5) := by
    intro d
    rw [← htemp, ← mem_leaving, ← h4in]
    exact h5in d
  refine ⟨(h3.trans h4).trans h5, fun d hd hstay => (hin d).2 ⟨h3in d hd, hstay⟩,
    fun hh d hd hnot ht => ?_, fun d hd ht h => ((hin d).1 h).2 ⟨hd, ht⟩⟩
  obtain ⟨he, hl⟩ := h3enter hh d ((mem_entering m s d).2 ⟨hd, hnot, ht⟩)
  refine ⟨(hin d).2 ⟨he, fun h => hnot h.1⟩, fun c hc => ?_⟩
  rw [h5level, h4level d he c (by rw [h3.throttleSet]; exact hc)]
  exact hl c hc

/-- The thermal state of the device as one heartbeat leaves it (R421, R422, R426); the gangs and the threads are as before. -/
theorem thermal_own (s : State) :
    let s' := thermal s
    (s'.threads = s.threads ∧ s'.scenes = s.scenes ∧ s'.images = s.images) ∧ (∀ d, d < 4 → tempOf s' d = sampled s d)
      ∧ ((∃ d, d < 4 ∧ (s.mgmt.t1 : Int) ≤ sampled s d) → s'.mgmt.t1In = true)
      ∧ ((∀ d, d < 4 → sampled s d < (s.mgmt.t1 : Int) - 5) → s'.mgmt.t1In = false)
      ∧ (s'.mgmt.t3In = true ↔ s.mgmt.t3In = true ∨ Hot s)
      ∧ (Hot s → s.mgmt.t3In = false → ⟨.tick, ticks s + 1, .row .saveStart { ix := 0x163 }⟩ ∈ s'.agenda)
      ∧ (¬ Hot s → ∀ d, d < 4 → (s.mgmt.t2 : Int) ≤ sampled s d → d ∈ s'.mgmt.t2In
          ∧ (d ∉ s.mgmt.t2In → ∀ c ∈ throttleSet s d, levelNext s' c = s.mgmt.t2e))
      ∧ ∀ d, d < 4 → d ∈ s.mgmt.t2In → sampled s d < (s.mgmt.t2 : Int) - 5 → d ∉ s'.mgmt.t2In := by
  intro s'
  obtain ⟨h2, ht1, ht1'⟩ := crossT1_own s
  obtain ⟨hc2, h2in⟩ := h2.climate
  have hhot : (firstAbove (sampleAll s) s.mgmt.t3).isSome = true ↔ Hot s := firstAbove_isSome s s.mgmt.t3
  have hs' : s' = _ := thermal_stages s
  clear_value s'
  generalize crossT1 s.mgmt (sampleAll s) = s2 at *
  generalize (firstAbove (sampleAll s) s.mgmt.t3).isSome = hot at *
  obtain ⟨h5, hkept, henter, hleave⟩ := throttle_own s.mgmt hot s2
  obtain ⟨hc5, h5t1⟩ := h5.climate
  generalize (leaving s.mgmt (releaseLeft s.mgmt (if hot then s2 else (entering s.mgmt s2).foldl enterT2 s2))).foldl leaveT2
    (releaseLeft s.mgmt (if hot then s2 else (entering s.mgmt s2).foldl enterT2 s2)) = s5 at *
  obtain ⟨h6tmax, h6t1, h6in, h6threads, h6scenes, h6images, h6level, h6t3, h6agenda⟩ := crossT3_own s.mgmt hot s5
  rw [← hs'] at h6tmax h6t1 h6in h6threads h6scenes h6images h6level h6t3 h6agenda
  have hc := hc2.trans hc5
  have htemp2 : ∀ d, d < 4 → tempOf s2 d = sampled s d := fun d hd => (hc2.temp d).trans (tempOf_sampleAll s hd)
  have hset : ∀ d, throttleSet s2 d = throttleSet s d := fun d => hc2.throttleSet d
  have ht2e : s2.mgmt.t2e = s.mgmt.t2e := hc2.t2e
  have hin2 : s2.mgmt.t2In = s.mgmt.t2In := h2in
  refine ⟨⟨h6threads.trans hc.threads, h6scenes.trans hc.scenes, h6images.trans hc.images⟩, fun d hd => ?_, fun h => ?_, fun h => ?_, ?_, fun h h3 => ?_,
    fun h d hd ht => ?_, fun d hd hmem ht => ?_⟩
  · rw [tempOf, h6tmax, ← tempOf, hc5.temp, htemp2 d hd]
  · rw [h6t1, h5t1, ht1 h]
  · rw [h6t1, h5t1, ht1' h]
  · rw [h6t3, hc.t3In, ← hhot]
    change (if (hot && !s.mgmt.t3In) = true then true else s.mgmt.t3In) = true ↔ _
    cases hot <;> cases s.mgmt.t3In <;> simp
  · have hticks : ticks s5 = ticks s := congrArg TimeBase.ticks hc.tb
    rw [← hticks]
    exact h6agenda (hhot.2 h) h3
  · have hcool : hot = false := Bool.eq_false_iff.2 fun e => h (hhot.1 e)
    have henter' := henter hcool d hd
    rw [htemp2 d hd, hset, ht2e] at henter'
    rw [h6in]
    simp only [h6level]
    by_cases hmem : d ∈ s.mgmt.t2In
    · refine ⟨hkept d (hin2 ▸ hmem) ?_, fun h => absurd hmem h⟩
      rw [htemp2 d hd]
      omega
    · exact ⟨(henter' hmem ht).1, fun _ => (henter' hmem ht).2⟩
  · rw [h6in]
    exact hleave d hmem (by rw [htemp2 d hd]; exact ht)

/-- Settles O47: the fences end each in its thread's turn, then the sample crosses the thresholds, and pre-emption has nothing to do. -/
theorem heartbeats : Obligations.Heartbeats := by
  intro s hready hidle temp hot
  obtain ⟨⟨hthreads, hscenes, himages⟩, htemp, ht1, ht1', ht3, hsave, hin, hout⟩ := thermal_own (endFences s 256)
  have hth : ∀ k, getTh (thermal (endFences s 256)) k = getTh (endFences s 256) k := fun k => congrArg (fun t => tget t default k) hthreads
  have hs0 := endFences_only s 256
  have hx : exec .heartbeat s = .next (preemption (thermal (endFences s 256))) := rfl
  have hset : ∀ d, throttleSet (endFences s 256) d = throttleSet s d := by
    obtain ⟨_, _, h⟩ := hs0
    rw [h]
    exact fun _ => rfl
  have hm : (endFences s 256).mgmt = s.mgmt ∧ (endFences s 256).free = s.free ∧ ticks (endFences s 256) = ticks s ∧ (endFences s 256).scenes = s.scenes
      ∧ (endFences s 256).images = s.images := by
    obtain ⟨_, _, h⟩ := hs0
    rw [h]
    exact ⟨rfl, rfl, rfl, rfl, rfl⟩
  obtain ⟨hmgmt, hfree, hticks, hsc0, him0⟩ := hm
  have hsampled : ∀ d, sampled (endFences s 256) d = temp d := fun d => by rw [sampled, hfree]
  have hhot : Hot (endFences s 256) ↔ hot := by
    unfold Hot
    simp only [hsampled, hmgmt]
    rfl
  rw [hmgmt] at ht1 ht1' ht3 hsave hin hout
  simp only [hsampled, hhot, hset, hticks] at htemp ht1 ht1' ht3 hsave hin hout
  rw [preemption_idle (readyGangs_none hready (hscenes.trans hsc0) (himages.trans him0)) (by rw [hscenes, hsc0]; exact hidle)] at hx
  refine ⟨_, hx, htemp, ?_, ?_, ?_, ht1, ht1', ht3, hsave, hin, hout⟩
  · rintro k t ids r hk rfl hw hrun hfz hh hr
    exact (hth k).trans (getTh_endFences_ends hk hw hr hrun hfz hh)
  · rintro k t ids hk rfl hw
    exact (hth k).trans (getTh_endFences_waits (fun ids' h => by rw [hw] at h; cases h) 256)
  · intro k hw
    exact (hth k).trans (getTh_endFences_waits (fun ids' => hw ids' true) 256)

end Sys2Proof.Machine
end

section
/-! Registers and tables of the management controller. -/

set_option Elab.async false

namespace Sys2Proof.Machine

open Safety

/-! ## Partition registers -/

/-- A region is placed on a core. -/
theorem anyPlaced_eq_true {s : State} {core : Nat} :
    ((List.range 4).any fun sl => (getReg s (thKey core sl)).placed) = true ↔ ∃ sl < 4, (getReg s (thKey core sl)).placed = true := by
  simp only [List.any_eq_true, List.mem_range]

/-- No region is placed on a core. -/
theorem anyPlaced_eq_false {s : State} {core : Nat} :
    ((List.range 4).any fun sl => (getReg s (thKey core sl)).placed) = false ↔ ∀ sl < 4, (getReg s (thKey core sl)).placed = false := by
  simp only [List.any_eq_false, List.mem_range, Bool.not_eq_true]

/-- A partition word that is valid is taken on a core with no region (R97, R98). -/
theorem execPartwordWrite_taken {s : State} (hp : ∀ sl < 4, (getReg s (thKey s.cur.core sl)).placed = false) (hok : partwordOk s.cur.val = true)
    (ht : spTgt s.cur.val = 1 ∨ spTgt s.cur.val = 2 ∨ bits s.cur.val 20 19 = 0) :
    execPartwordWrite s = .next (setCore s s.cur.core { getCore s s.cur.core with partword := BitVec.ofNat 32 s.cur.val }) := by
  have h1 := anyPlaced_eq_false.2 hp
  have h2 : ((spTgt s.cur.val == 1 || spTgt s.cur.val == 2) || bits s.cur.val 20 19 == 0) = true := by simpa [or_assoc] using ht
  simp only [execPartwordWrite, h1, h2, hok, Bool.not_true, Bool.or_false, Bool.false_eq_true, if_false]

/-- Otherwise it is refused; SPGM1 other than 0 needs SPTGT 1 or 2 (log 76). -/
theorem execPartwordWrite_refused {s : State} (h : (∃ sl, sl < 4 ∧ (getReg s (thKey s.cur.core sl)).placed = true) ∨ partwordOk s.cur.val = false
    ∨ (spTgt s.cur.val ≠ 1 ∧ spTgt s.cur.val ≠ 2 ∧ bits s.cur.val 20 19 ≠ 0)) : execPartwordWrite s = .next s := by
  refine congrArg Host.Outcome.next (if_pos ?_)
  obtain h | h | ⟨h1, h2, h3⟩ := h
  · rw [anyPlaced_eq_true.2 h]
    rfl
  · simp [h]
  · simp [h1, h2, h3]

theorem partitionRegistersRule : PartitionRegistersRule := by
  intro s p v b c
  refine ⟨fun h => ?_, fun h => ?_, fun hp hok ht => ?_, execPartwordWrite_refused⟩
  · have h' : ¬ partLoaded s s.cur.ix = true := Bool.eq_false_iff.1 h
    refine ⟨?_, ?_, ?_⟩ <;> exact congrArg Host.Outcome.next (if_neg h')
  · refine ⟨?_, ?_, ?_⟩ <;> exact congrArg Host.Outcome.next (if_pos h)
  · refine ⟨_, execPartwordWrite_taken hp hok ht, ?_, fun d hd => ?_, (sameMem_setCore _ _ _).sameBytes, rfl⟩
    · exact (getCore_setCore _ _ _ _).trans (if_pos rfl)
    · exact (getCore_setCore _ _ _ _).trans (if_neg hd)

/-! ## Owners, caravan, reservations and allotments -/

/-- A granule's entry is written while no region is placed on its core (R101). -/
theorem setPoolOwner_unplaced {s : State} {core g v : Nat} (hg : g < 128) (h : ∀ sl < 4, (getReg s (thKey core sl)).placed = false) :
    setPoolOwner s core g v
      = setCore s core { getCore s core with owners := tput (getCore s core).owners 0 g (BitVec.ofNat 8 (v &&& 0x8F)) } := by
  have hfree : ∀ p, ((List.range 4).any fun sl => (getReg s (thKey core sl)).placed && (getReg s (thKey core sl)).part == p) = false :=
    fun p => List.any_eq_false.2 fun sl hsl => by simp [h sl (List.mem_range.1 hsl)]
  unfold setPoolOwner
  extract_lets old holds
  have hno : ∀ o, holds o = false := by
    rintro (_ | p)
    · rfl
    · exact hfree p
  exact if_neg (by simp [hno, hg])

/-- A die buffer's entry is written while no scene is loaded (R106). -/
theorem setDieOwner_unloaded {s : State} {die g v : Nat} (hg : g < 256) (h : ∀ p, partLoaded s p = false) :
    setDieOwner s die g v = { s with dieOwners := tput s.dieOwners 0 (256 * die + g) (BitVec.ofNat 8 (v &&& 0x8F)) } := by
  unfold setDieOwner
  extract_lets old loaded
  have hno : ∀ o, loaded o = false := by
    rintro (_ | p)
    · rfl
    · exact h p
  exact if_neg (by simp [hno, hg])

/-- It stays while its owner has a loaded scene. -/
theorem setDieOwner_loaded {s : State} {die g v p : Nat} (ho : ownerOf (tget s.dieOwners 0 (256 * die + g)).toNat = some p)
    (h : partLoaded s p = true) : setDieOwner s die g v = s := by
  unfold setDieOwner
  extract_lets old loaded
  have hold : loaded old = true := by
    rw [show old = some p from ho]
    exact h
  exact if_pos (.inr (by rw [hold]; rfl))

theorem ownerTablesRule : OwnerTablesRule := by
  intro s c i v
  refine ⟨fun hi h => ?_, fun hi h => ?_, fun h ho => ?_, fun h h' => ?_, fun h => ?_, fun h => ?_, fun h => ?_, fun h => ?_, fun h hf => ?_⟩
  · have hx : exec .poolOwnerWrite s = .next _ := congrArg Host.Outcome.next (setPoolOwner_unplaced hi h)
    refine ⟨_, hx, (sameMem_setCore _ _ _).sameBytes, ?_, fun j hj => ?_⟩
    · rw [getCore_setCore, if_pos rfl]
      exact (tget_tput _ _ _ _ _).trans (if_pos rfl)
    · rw [getCore_setCore, if_pos rfl]
      exact (tget_tput _ _ _ _ _).trans (if_neg hj)
  · have hx : exec .dieOwnerWrite s = .next _ := congrArg Host.Outcome.next (setDieOwner_unloaded hi h)
    exact ⟨_, hx, SameMem.sameBytes ⟨rfl, rfl, rfl⟩, fun j => tget_tput _ _ _ _ _⟩
  · obtain ⟨p, hp⟩ := Option.isSome_iff_exists.1 ho
    exact congrArg Host.Outcome.next (setDieOwner_loaded hp (h p hp))
  · have hx : exec .caravanMapWrite s = .next _ := congrArg Host.Outcome.next (if_neg fun ho => (Bool.or_eq_true_iff.1 ho).elim (Bool.eq_false_iff.1 h) (Bool.eq_false_iff.1 h'))
    exact ⟨_, hx, SameMem.sameBytes ⟨rfl, rfl, rfl⟩, fun j => tget_tput _ _ _ _ _⟩
  · exact congrArg Host.Outcome.next (if_pos (Bool.or_eq_true_iff.2 (.inl h)))
  · have hx : exec .reservationWrite s = .next _ := congrArg Host.Outcome.next (if_neg (Bool.eq_false_iff.1 h))
    exact ⟨_, hx, SameMem.sameBytes ⟨rfl, rfl, rfl⟩, fun j => tget_tput _ _ _ _ _⟩
  · exact congrArg Host.Outcome.next (if_pos h)
  · exact congrArg Host.Outcome.next (if_pos (Bool.or_eq_true_iff.2 (.inl h)))
  · intro k hok
    have hx : exec .syncAllotWrite s = .next { s with sync := tput s.sync 0 k (BitVec.ofNat 64 (v &&& 0x0000FFFF3FFF7FFF)) } := by
      change Host.Outcome.next (setAllot s i c s.cur.flag v) = _
      simp only [setAllot, hf, Bool.false_eq_true, if_false, h, hok, Bool.not_true, Bool.or_false, k]
    exact ⟨_, hx, SameMem.sameBytes ⟨rfl, rfl, rfl⟩, fun j => tget_tput _ _ _ _ _⟩

/-- Settles O49: each write of a register or of a table is taken or refused by the one condition that its meaning states. -/
theorem managementTables : Obligations.ManagementTables := ⟨partitionRegistersRule, ownerTablesRule⟩

end Sys2Proof.Machine
end

section
/-! SUPPORT. Elements of a region that are written one after the other. -/

set_option Elab.async false

namespace Sys2Proof.Machine

theorem getReg_setReg_self (s : State) (k : Nat) (g : Region) : getReg (setReg s k g) k = g := (getReg_setReg _ _ _ _).trans (if_pos rfl)

/-- Elements at the keys of a list, each written from what it was. -/
def eachElem {ι : Type} (key : ι → Nat) (f : ι → Elem → Elem) (l : List ι) (s : State) : State :=
  l.foldl (fun s i => setEl s (key i) (f i (getEl s (key i)))) s

variable {ι : Type} {key : ι → Nat} {f : ι → Elem → Elem}

/-- Nothing but elements changes. -/
theorem eachElem_only (l : List ι) (s : State) : ∃ elems, eachElem key f l s = { s with elems := elems } := by
  refine foldl_rel (R := fun s s' : State => ∃ elems, s' = { s with elems := elems }) (fun s => ⟨_, rfl⟩) ?_ (fun s i => ⟨_, rfl⟩) l s
  rintro s _ _ ⟨_, rfl⟩ ⟨a, rfl⟩
  exact ⟨a, rfl⟩

/-- An element whose writes all do the same, and do no more when made again, has that done to it. -/
theorem getEl_eachElem {l : List ι} {i : ι} (hi : i ∈ l) (hsame : ∀ j ∈ l, key j = key i → f j = f i) (hidem : ∀ x, f i (f i x) = f i x) (s : State) :
    getEl (eachElem key f l s) (key i) = f i (getEl s (key i)) := by
  have hall : ∀ l : List ι, (∀ j ∈ l, key j = key i → f j = f i) → ∀ s : State,
      f i (getEl (eachElem key f l s) (key i)) = f i (getEl s (key i)) ∧
        (i ∈ l → getEl (eachElem key f l s) (key i) = f i (getEl s (key i))) := by
    intro l
    induction l using List.reverseRecOn with
    | nil => exact fun _ s => ⟨rfl, fun h => absurd h List.not_mem_nil⟩
    | append_singleton l j ih =>
      intro h s
      obtain ⟨h1, h2⟩ := ih (fun a ha => h a (List.mem_append_left _ ha)) s
      have hstep : eachElem key f (l ++ [j]) s = setEl (eachElem key f l s) (key j) (f j (getEl (eachElem key f l s) (key j))) := by
        rw [eachElem, List.foldl_append]
        rfl
      rw [hstep, getEl_setEl]
      by_cases hj : key i = key j
      · rw [if_pos hj, ← hj, h j (List.mem_append_right _ (List.mem_singleton_self j)) hj.symm, h1]
        exact ⟨hidem _, fun _ => rfl⟩
      · rw [if_neg hj]
        refine ⟨h1, fun hm => h2 ((List.mem_append.1 hm).resolve_right fun he => hj ?_)⟩
        rw [List.mem_singleton.1 he]
  exact (hall l hsame s).2 hi

end Sys2Proof.Machine
end

section
/-! Periods, runs and stalls of a region. -/

set_option Elab.async false

namespace Sys2Proof.Machine

open Safety

/-! ## What is pending -/

variable {α : Type} [DecidableEq α]

/-- A list of writes leaves the keys that it does not name. -/
theorem tget_puts_apart (d : α) {j : Nat} : ∀ {l : List (Nat × α)} (t : Tab α), (∀ e ∈ l, e.1 ≠ j) →
    tget (l.foldl (fun t p => tput t d p.1 p.2) t) d j = tget t d j := by
  intro l
  induction l with
  | nil => exact fun t _ => rfl
  | cons e l ih =>
    intro t h
    rw [List.foldl_cons, ih _ fun a ha => h a (List.mem_cons_of_mem _ ha), tget_tput, if_neg (h e List.mem_cons_self).symm]

/-- A key that a list of writes names reads the value that all of them give it. -/
theorem tget_puts (d : α) {j : Nat} {v : α} {l : List (Nat × α)} (hm : (j, v) ∈ l) (t : Tab α) (h : ∀ e ∈ l, e.1 = j → e.2 = v) :
    tget (l.foldl (fun t p => tput t d p.1 p.2) t) d j = v := by
  induction l using List.reverseRecOn with
  | nil => cases hm
  | append_singleton l e ih =>
    rw [List.foldl_append, List.foldl_cons, List.foldl_nil, tget_tput]
    by_cases he : j = e.1
    · rw [if_pos he]
      exact h e (List.mem_append_right _ (List.mem_singleton_self e)) he.symm
    · rw [if_neg he]
      refine ih ((List.mem_append.1 hm).resolve_right fun hx => he ?_) fun a ha => h a (List.mem_append_left _ ha)
      rw [← List.mem_singleton.1 hx]

/-- The elements of a region in rows: their rows and columns. -/
def regionCells (h : Nat) : List (Nat × Nat) := (List.range (4 * hH h)).flatMap fun r => (List.range (4 * hW h)).map fun c => (r, c)

theorem mem_regionCells {h r c : Nat} : (r, c) ∈ regionCells h ↔ r < 4 * hH h ∧ c < 4 * hW h := by
  simp [regionCells]

theorem hW_le (h : Nat) : hW h ≤ 4 := by unfold hW bits; omega

/-- The generators of a region take a seed, element by element (R231). -/
theorem seedRegion_eq (s : State) (core slot x : Nat) :
    seedRegion s core slot x = eachElem (fun p => 256 * thKey core slot + 16 * p.1 + p.2) (fun p e => { e with gen := seedOf x p.1 p.2 })
      (regionCells (getReg s (thKey core slot)).hdr.toNat) s := by
  rw [eachElem, regionCells, List.foldl_flatMap]
  simp only [List.foldl_map]
  rfl

/-- A region once its pending constants, mask and seed are in force (R74, R266). -/
def pendingTaken (g : Region) : Region :=
  { g with
    con := g.conPend.foldl (fun t p => tput t 0 p.1 p.2) g.con, conPend := [], stageMask := g.maskPend.getD g.stageMask
    maskPend := none, seedPend := none }

/-- A step leaves memory, threads and all regions but one, which becomes g'. -/
structure RegionStep (s s' : State) (k : Nat) (g' : Region) : Prop where
  mem : SameMem s s'
  threads : s'.threads = s.threads
  region : getReg s' k = g'
  others : ∀ j, j ≠ k → getReg s' j = getReg s j

theorem regionStep_setReg (s : State) (k : Nat) (g : Region) : RegionStep s (setReg s k g) k g :=
  ⟨sameMem_setReg _ _ _, rfl, getReg_setReg_self _ _ _, fun _ hj => (getReg_setReg _ _ _ _).trans (if_neg hj)⟩
theorem RegionStep.trans {s t u : State} {k : Nat} {g g' : Region} (h : RegionStep s t k g) (h' : RegionStep t u k g') : RegionStep s u k g' :=
  ⟨h.mem.trans h'.mem, h'.threads.trans h.threads, h'.region, fun j hj => (h'.others j hj).trans (h.others j hj)⟩

/-- Putting into force what is pending changes the region, and the generators of its elements where a seed is pending (R231, R266). -/
theorem applyPending_own (s : State) (core slot : Nat) :
    let k := thKey core slot
    let g := getReg s k
    let s' := applyPending s core slot
    (∃ elems, s' = { setReg s k (pendingTaken g) with elems := elems })
    ∧ (g.seedPend = none → s'.elems = s.elems)
    ∧ ∀ x r c, g.seedPend = some x → r < 4 * hH g.hdr.toNat → c < 4 * hW g.hdr.toNat →
        getEl s' (256 * k + 16 * r + c) = { getEl s (256 * k + 16 * r + c) with gen := seedOf x.toNat r c } := by
  intro k g s'
  cases hs : g.seedPend with
  | none =>
    have hx : s' = setReg s k (pendingTaken g) := by
      dsimp only [s', applyPending]
      rw [show (getReg s (thKey core slot)).seedPend = none from hs]
      rfl
    rw [hx]
    exact ⟨⟨_, rfl⟩, fun _ => rfl, fun x r c h => by cases h⟩
  | some x =>
    have hx : s' = seedRegion (setReg s k (pendingTaken g)) core slot x.toNat := by
      dsimp only [s', applyPending]
      rw [show (getReg s (thKey core slot)).seedPend = some x from hs]
      rfl
    have hh : (getReg (setReg s k (pendingTaken g)) (thKey core slot)).hdr = g.hdr := (congrArg Region.hdr (getReg_setReg_self s k (pendingTaken g)) :)
    rw [hx, seedRegion_eq, hh]
    refine ⟨eachElem_only _ _, nofun, ?_⟩
    rintro _ r c ⟨⟩ hr hc
    refine getEl_eachElem (i := (r, c)) (mem_regionCells.2 ⟨hr, hc⟩) (fun j hj hkey => ?_) (fun _ => rfl) _
    obtain ⟨r', c'⟩ := j
    obtain ⟨-, hc'⟩ := mem_regionCells.1 hj
    have hw := hW_le g.hdr.toNat
    have h16 : 16 * r' + c' = 16 * r + c := by dsimp only at hkey; omega
    have : r' = r ∧ c' = c := by omega
    rw [this.1, this.2]

theorem regionStep_applyPending (s : State) (core slot : Nat) :
    RegionStep s (applyPending s core slot) (thKey core slot) (pendingTaken (getReg s (thKey core slot))) := by
  obtain ⟨⟨_, h⟩, -⟩ := applyPending_own s core slot
  obtain ⟨hmem, hth, hreg, ho⟩ := regionStep_setReg s (thKey core slot) (pendingTaken (getReg s (thKey core slot)))
  rw [h]
  exact ⟨hmem, hth, hreg, ho⟩

/-- What an II boundary and the end of a run put into force in a region, whatever else they change of it (R74, R266). -/
structure Takes (g g' : Region) : Prop where
  mask : g'.stageMask = g.maskPend.getD g.stageMask
  maskPend : g'.maskPend = none
  conPend : g'.conPend = []
  seedPend : g'.seedPend = none
  con : g'.con = g.conPend.foldl (fun t p => tput t 0 p.1 p.2) g.con
  rest : (g'.trip, g'.opc, g'.rte, g'.count, g'.votes, g'.weights) = (g.trip, g.opc, g.rte, g.count, g.votes, g.weights)

theorem takes_pendingTaken (g : Region) : Takes g (pendingTaken g) := ⟨rfl, rfl, rfl, rfl, rfl, rfl⟩

/-- In the words of the rule. -/
theorem Takes.rule {g g' : Region} (h : Takes g g') :
    g'.stageMask = g.maskPend.getD g.stageMask ∧ g'.maskPend = none ∧ g'.conPend = [] ∧ g'.seedPend = none
      ∧ (∀ j, (∀ e ∈ g.conPend, e.1 ≠ j) → tget g'.con 0 j = tget g.con 0 j)
      ∧ (∀ j v, (j, v) ∈ g.conPend → (∀ e ∈ g.conPend, e.1 = j → e.2 = v) → tget g'.con 0 j = v)
      ∧ g'.trip = g.trip ∧ g'.opc = g.opc ∧ g'.rte = g.rte ∧ g'.count = g.count ∧ g'.votes = g.votes ∧ g'.weights = g.weights := by
  obtain ⟨h1, h2, h3, h4, hcon, hrest⟩ := h
  simp only [Prod.mk.injEq] at hrest
  refine ⟨h1, h2, h3, h4, fun j hj => ?_, fun j v hm hv => ?_, hrest⟩
  · rw [hcon]
    exact tget_puts_apart 0 _ hj
  · rw [hcon]
    exact tget_puts 0 hm _ hv

/-! ## The end of a run -/

/-- The cause of a drop record, of a site and its count (R408). -/
def dropWhy (r : Region) (slot : Nat) (p : Nat × Nat) : Why :=
  { cause := 0x14A, eng := 1, slot := slot, fatal := false, pos := tget r.dropPos 0 p.1, i0 := p.1 / 4 * 16 + p.1 % 4, i1 := p.2
    i2 := tget r.dropTick 0 p.1 }

/-- Each drop that a region's guards have counted is recorded, and the counts begin anew (R408). -/
theorem guardRecords_own (s : State) (core slot : Nat) :
    let k := thKey core slot
    ∃ s1, Logged s s1 ∧ (∀ e ∈ (getReg s k).drops, ∃ x ∈ (guardRecords s core slot).recs, x.2.cause = 0x14A)
      ∧ guardRecords s core slot = setReg s1 k { getReg s1 k with drops := [], dropTick := [], dropPos := [] } := by
  intro k
  unfold guardRecords
  extract_lets r g s1
  refine ⟨s1, .foldl (fun _ _ => logged_queueWith _ _ _ _ _ _ _ _) _ _, fun e he => ?_, rfl⟩
  obtain ⟨a, l, hl⟩ := List.exists_cons_of_ne_nil (List.ne_nil_of_mem he)
  obtain ⟨x, hx, hc⟩ := mem_recs_queueWith s core r.part (dropWhy r slot a) r.lc ((runOf s core slot).map (·.block) |>.getD 0xFFF)
    ((runOf s core slot).map (·.cue) |>.getD 0) (g.getD 0)
  refine ⟨x, ?_, hc⟩
  dsimp only [s1]
  rw [hl, List.foldl_cons]
  exact (Logged.foldl (fun _ _ => logged_queueWith _ _ _ _ _ _ _ _) _ _).recs hx

theorem sameMem_guardRecords (s : State) (core slot : Nat) : SameMem s (guardRecords s core slot) :=
  (SameMem.foldl _ (fun _ _ => sameMem_queueWith _ _ _ _ _ _ _ _) _ _).trans (sameMem_setReg _ _ _)

theorem Logged.regions {s s' : State} (h : Logged s s') : s'.regions = s.regions := by obtain ⟨_, _, _, _, _, _, _, -, -, rfl⟩ := h; rfl
theorem Logged.elems {s s' : State} (h : Logged s s') : s'.elems = s.elems := by obtain ⟨_, _, _, _, _, _, _, -, -, rfl⟩ := h; rfl

theorem elems_guardRecords (s : State) (core slot : Nat) : (guardRecords s core slot).elems = s.elems := by
  obtain ⟨s1, hl, -, h⟩ := guardRecords_own s core slot
  rw [h]
  exact hl.elems

/-- A region whose drops have been recorded. -/
def dropsRecorded (g : Region) : Region := { g with drops := [], dropTick := [], dropPos := [] }

theorem regionStep_guardRecords (s : State) (core slot : Nat) :
    RegionStep s (guardRecords s core slot) (thKey core slot) (dropsRecorded (getReg s (thKey core slot))) := by
  obtain ⟨s1, hl, -, h⟩ := guardRecords_own s core slot
  have hreg : ∀ j, getReg s1 j = getReg s j := fun j => by rw [getReg, hl.regions]; rfl
  rw [hreg] at h
  refine ⟨sameMem_guardRecords s core slot, ?_, ?_, fun j hj => ?_⟩
  · rw [h]; exact hl.threads
  · rw [h]; exact getReg_setReg_self _ _ _
  · rw [h]; exact ((getReg_setReg _ _ _ _).trans (if_neg hj)).trans (hreg j)

/-- A region whose run has ended. -/
def runEnded (g : Region) : Region := { g with runs := false, stopReq := false }

/-- The state at the end of a run, before its drops are recorded. -/
def runEnd (s : State) (core slot : Nat) : State :=
  setReg (applyPending s core slot) (thKey core slot) (runEnded (getReg (applyPending s core slot) (thKey core slot)))

theorem regionStep_runEnd (s : State) (core slot : Nat) :
    RegionStep s (runEnd s core slot) (thKey core slot) (runEnded (pendingTaken (getReg s (thKey core slot)))) := by
  have h := regionStep_applyPending s core slot
  rw [← h.region]
  exact h.trans (regionStep_setReg _ _ _)

/-- RIDLE is 1 at the end of a run of a region that is not killed and whose ports wait for nothing (R234). -/
theorem ridle_runEnd {s : State} {core slot : Nat} (hk : (getReg s (thKey core slot)).killed = false) (hp : portsBusy s core slot = false) :
    ridle (runEnd s core slot) core slot = true := by
  have hb : portsBusy (runEnd s core slot) core slot = false := by
    obtain ⟨⟨_, h⟩, -⟩ := applyPending_own s core slot
    rw [runEnd, h]
    exact hp
  rw [ridle, (regionStep_runEnd s core slot).region, hb, runEnded, pendingTaken, hk]
  rfl

theorem execKernelRunEnd_eq (s : State) : execKernelRunEnd s = .next (if ridle (runEnd s s.cur.core s.cur.slot) s.cur.core s.cur.slot then
    guardRecords (runEnd s s.cur.core s.cur.slot) s.cur.core s.cur.slot else runEnd s s.cur.core s.cur.slot) := rfl

/-- Settles O38: the boundary and the end of a run put the same pending values into force, the latter stops the region and records its drops, and a stall is
noted once. -/
theorem regionSteps : Obligations.RegionSteps := by
  intro s k g others takes seeded
  obtain ⟨-, helems, hseed⟩ := applyPending_own s s.cur.core s.cur.slot
  have hothers : ∀ {s' : State} {g' : Region}, RegionStep s s' k g' → others s' := fun h => ⟨h.mem.sameBytes, h.threads, h.others⟩
  refine ⟨?_, ?_, ?_⟩
  · have h := regionStep_applyPending s s.cur.core s.cur.slot
    refine ⟨_, rfl, hothers h, ?_, ?_, helems, hseed⟩
    · exact Takes.rule (h.region ▸ takes_pendingTaken g)
    · exact (congrArg Region.runs h.region :)
  · have h := regionStep_runEnd s s.cur.core s.cur.slot
    by_cases hi : ridle (runEnd s s.cur.core s.cur.slot) s.cur.core s.cur.slot = true
    · have h' := h.trans (regionStep_guardRecords (runEnd s s.cur.core s.cur.slot) s.cur.core s.cur.slot)
      have hel := elems_guardRecords (runEnd s s.cur.core s.cur.slot) s.cur.core s.cur.slot
      obtain ⟨-, -, hrecs, -⟩ := guardRecords_own (runEnd s s.cur.core s.cur.slot) s.cur.core s.cur.slot
      rw [h.region] at h' hrecs
      refine ⟨_, (execKernelRunEnd_eq s).trans (congrArg _ (if_pos hi)), hothers h', ?_, ?_, ?_, ?_, fun _ _ => ⟨?_, hrecs⟩⟩
      · exact Takes.rule (h'.region ▸ ⟨rfl, rfl, rfl, rfl, rfl, rfl⟩)
      · exact (congrArg Region.runs h'.region :)
      · exact (congrArg Region.stopReq h'.region :)
      · exact ⟨fun hn => hel.trans (helems hn), fun x r c hx hr hc => (by rw [getEl, hel]; exact hseed x r c hx hr hc)⟩
      · exact (congrArg Region.drops h'.region :)
    · refine ⟨_, (execKernelRunEnd_eq s).trans (congrArg _ (if_neg hi)), hothers h, ?_, ?_, ?_, ⟨helems, hseed⟩, fun hk hp => absurd (ridle_runEnd hk hp) hi⟩
      · exact Takes.rule (h.region ▸ ⟨rfl, rfl, rfl, rfl, rfl, rfl⟩)
      · exact (congrArg Region.runs h.region :)
      · exact (congrArg Region.stopReq h.region :)
  · by_cases hc : s.cur.ix ∈ g.stalls
    · exact ⟨s, congrArg Host.Outcome.next (if_pos (List.contains_iff_mem.2 hc)), ⟨fun _ => rfl, rfl, fun _ _ => rfl⟩, rfl, (if_pos hc).symm⟩
    · have h := regionStep_setReg s k { g with stalls := g.stalls ++ [s.cur.ix] }
      exact ⟨_, congrArg Host.Outcome.next (if_neg fun h => hc (List.contains_iff_mem.1 h)), hothers h, rfl, h.region.trans (if_neg hc).symm⟩

end Sys2Proof.Machine
end

section
/-! Constants, stage masks, configuration planes and epilogue programs. -/

set_option Elab.async false

namespace Sys2Proof.Machine

open Safety

variable {s : State} {t : Thread} {r : Run}

/-! ## What a controlling word meets -/

theorem holdsRegion_of_mayControl {sl : Nat} (h : MayControl s r sl) : holdsRegion s s.cur.core sl r.part = true := by
  obtain ⟨hp, hpart, -⟩ := h
  simp [holdsRegion, hp, hpart]

theorem controls_of_mayControl {sl : Nat} (h : MayControl s r sl) : controls s s.cur.core s.cur.slot sl r.part = true := by
  have hr := holdsRegion_of_mayControl h
  obtain ⟨-, -, h | h⟩ := h
  · simp [controls, h]
  · simp [controls, hr, h]

/-- A word that goes on makes cur's thread its next one, and leaves the others. -/
theorem getTh_goOn (s : State) (t : Thread) : getTh (goOn s t) (curKey s) = advance t := getTh_setTh_self _ _ _
theorem otherThreads_goOn (s : State) (t : Thread) : OtherThreads s (goOn s t) := fun _ hk => (getTh_setTh _ _ _ _).trans (if_neg hk)

theorem onlyRegion_setReg (s : State) (sl : Nat) (g : Region) : OnlyRegion s (setReg s (thKey s.cur.core sl) g) sl :=
  ⟨rfl, (sameMem_setReg _ _ _).sameBytes, fun _ hk => (getReg_setReg _ _ _ _).trans (if_neg hk)⟩
/-- Going on changes cur's thread only. -/
theorem onlyRegion_goOn {s' : State} {sl : Nat} (h : OnlyRegion s s' sl) (t : Thread) : OnlyRegion s (goOn s' t) sl := by
  obtain ⟨hrest, hmem, hreg⟩ := h
  exact ⟨hrest, fun p => ((sameMem_setTh _ _ _).sameBytes p).trans (hmem p), hreg⟩
theorem getReg_goOn (s : State) (k : Nat) (t : Thread) : getReg (goOn s t) k = getReg s k := rfl

/-! ## Stage masks and constants -/

theorem execVsel_goes (h : Runs s t r) {sl : Nat} (hm : MayControl s r sl) (a : Nat) :
    execVsel a sl s = .next (goOn (setReg s (thKey s.cur.core sl) (if (getReg s (thKey s.cur.core sl)).runs
      then { getReg s (thKey s.cur.core sl) with maskPend := some ((rdReg t a).toNat % 64) }
      else { getReg s (thKey s.cur.core sl) with stageMask := (rdReg t a).toNat % 64 })) t) := by
  simp only [execVsel, onThread_runs h, holdsRegion_of_mayControl hm, controls_of_mayControl hm, Bool.not_true, Bool.false_eq_true, if_false]

/-- A row and column beyond the rectangle of a region header (R74). -/
def conOutside (h e : Nat) : Bool := 4 * hH h ≤ e / 16 || 4 * hW h ≤ e % 16

theorem conOutside_eq_false {h e : Nat} : conOutside h e = false ↔ e / 16 < 4 * hH h ∧ e % 16 < 4 * hW h := by
  simp [conOutside]
theorem conOutside_eq_true {h e : Nat} : conOutside h e = true ↔ 4 * hH h ≤ e / 16 ∨ 4 * hW h ≤ e % 16 := by
  simp [conOutside]

/-- The key of the constant that CONSTW names. -/
def namedCon (e j : Nat) : Nat := conKey (e / 16) (e % 16) j

theorem execConstw_goes (h : Runs s t r) {sl : Nat} (hm : MayControl s r sl) (a b j : Nat)
    (hin : conOutside (getReg s (thKey s.cur.core sl)).hdr.toNat (rdReg t b).toNat = false) :
    ∃ bad, execConstw a b j sl s = .next (goOn { setReg s (thKey s.cur.core sl) (putCon (getReg s (thKey s.cur.core sl))
      (namedCon (rdReg t b).toNat j) ((rdReg t a).setWidth 32)) with cfgBad := bad } t) := by
  unfold conOutside at hin
  simp only [execConstw, onThread_runs h, holdsRegion_of_mayControl hm, controls_of_mayControl hm, Bool.not_true, Bool.false_eq_true, if_false, hin]
  exact ⟨_, rfl⟩

theorem execConstw_outside (h : Runs s t r) {sl : Nat} (hm : MayControl s r sl) (a b j : Nat)
    (hout : conOutside (getReg s (thKey s.cur.core sl)).hdr.toNat (rdReg t b).toNat = true) :
    ∃ w, execConstw a b j sl s = .next (trapNow s 0x145 w (rdReg t b).toNat 0) := by
  unfold conOutside at hout
  simp only [execConstw, onThread_runs h, holdsRegion_of_mayControl hm, controls_of_mayControl hm, Bool.not_true, Bool.false_eq_true, if_false, hout, if_true]
  exact ⟨_, rfl⟩

/-- Without a region in the slot CONSTW takes the image that stands for it (R74). -/
theorem execConstw_saved (h : Runs s t r) {sl : Nat} (hp : (getReg s (thKey s.cur.core sl)).placed = false) (a b j : Nat) {i : Image}
    (hi : s.images.find? (fun i => i.part == r.part && i.core == s.cur.core && i.slot == sl) = some i) :
    execConstw a b j sl s = .next (if conOutside i.snap.region.hdr.toNat (rdReg t b).toNat
      then trapNow s 0x145 (encSY 0x18 0 a b 4 (j * 4 + sl)) (rdReg t b).toNat 0
      else goOn { s with images := s.images.map fun i => if i.part == r.part && i.core == s.cur.core && i.slot == sl
        then { i with snap := { i.snap with region := putSaved i.snap.region (namedCon (rdReg t b).toNat j) (BitVec.ofNat 32 (rdReg t a).toNat) } }
        else i } t) := by
  have hn : holdsRegion s s.cur.core sl r.part = false := by simp [holdsRegion, hp]
  simp only [execConstw, onThread_runs h, hn, Bool.not_false, if_true, hi]
  rfl

theorem constantsAndMaskRule : ConstantsAndMaskRule := by
  intro s t r a b j sl h _ k g e m v
  refine ⟨fun hm => ?_, fun hm h1 h2 => ?_, fun hm hout => ?_, fun i hp hi => ?_⟩
  · refine ⟨_, execVsel_goes h hm a, onlyRegion_goOn (onlyRegion_setReg _ _ _) t, getTh_goOn _ _, ?_⟩
    rw [getReg_goOn]
    exact getReg_setReg_self _ _ _
  · obtain ⟨bad, hx⟩ := execConstw_goes h hm a b j (conOutside_eq_false.2 ⟨h1, h2⟩)
    refine ⟨_, _, hx, onlyRegion_goOn (onlyRegion_setReg s sl _) t, getTh_goOn _ _, getReg_setReg_self _ _ _, fun hrun => ?_, fun hrun => ?_⟩
    · rw [putCon, if_neg (by rw [show (getReg s (thKey s.cur.core sl)).runs = false from hrun]; decide)]
      exact ⟨rfl, fun x => tget_tput _ _ _ _ _⟩
    · rw [putCon, if_pos hrun]
      exact ⟨rfl, lookup_tins_same _ _ _⟩
  · obtain ⟨w, hx⟩ := execConstw_outside h hm a b j (conOutside_eq_true.2 hout)
    exact ⟨w, hx⟩
  · have hx := execConstw_saved h hp a b j hi
    refine ⟨fun h1 h2 => ?_, fun hout => ⟨_, hx.trans (congrArg _ (if_pos (conOutside_eq_true.2 hout)))⟩⟩
    rw [conOutside_eq_false.2 ⟨h1, h2⟩] at hx
    refine ⟨_, { i with snap := { i.snap with region := putSaved i.snap.region (namedCon e j) v } }, hx, getTh_goOn _ _,
      SameMem.sameBytes ⟨rfl, rfl, rfl⟩, otherThreads_goOn _ _, rfl, ?_, rfl, fun x => tget_tput _ _ _ _ _⟩
    refine List.mem_map.2 ⟨i, List.mem_of_find?_eq_some hi, ?_⟩
    rw [if_pos (List.find?_some hi)]
    rfl

/-! ## Configuration planes -/

/-- All planes that a region's pages need are loaded (R243). -/
def pagesFull (pages : List Nat) (g : Region) : Bool := pages.all fun q => g.opLoaded.contains q && g.rtLoaded.contains q

theorem pagesFull_iff {pages : List Nat} {g : Region} : pagesFull pages g = true ↔ ∀ q ∈ pages, q ∈ g.opLoaded ∧ q ∈ g.rtLoaded := by
  simp [pagesFull]

/-- The state after the planes of a page are loaded: the page is clear where its opcode plane is new, and its planes hold no error (R73, R243, log 25). -/
def planesLoaded (s : State) (core sl page : Nat) (p : Plane) (g : Region) : State :=
  setReg (freshPage (if p == .op || p == .all then clearPage s (thKey core sl) page else s) core sl page p) (thKey core sl) g

theorem execCfgld_goes (h : Runs s t r) {sl : Nat} (hm : MayControl s r sl) {p : Plane} {a b : Nat} {g' : Region}
    (hi : ridle s s.cur.core sl = true) (ho : (rdReg t a).toNat % 64 = 0) (hl : (rdReg t a).toNat + planeSize p ≤ r.len)
    (hp : (rdReg t b).toNat ∈ hPages (getReg s (thKey s.cur.core sl)).hdr.toNat)
    (hb : imageBad s s.cur.core r (rdReg t a).toNat (planeSize p) = false)
    (hg : loadPlanes (getReg s (thKey s.cur.core sl)) p (rdReg t b).toNat (imageBytes s s.cur.core r (rdReg t a).toNat (planeSize p)) = .ok g')
    (hc : (if p != .cn && pagesFull (hPages (getReg s (thKey s.cur.core sl)).hdr.toNat) g'
        && !pagesFull (hPages (getReg s (thKey s.cur.core sl)).hdr.toNat) (getReg s (thKey s.cur.core sl))
      then regionCheck s s.cur.core r.part g' else none) = none) :
    execCfgld p a b sl s = .next (goOn (planesLoaded s s.cur.core sl (rdReg t b).toNat p g')
      (stall (planesLoaded s s.cur.core sl (rdReg t b).toNat p g') (planeCycles p) t)) := by
  have hbad : ¬ ((rdReg t a).toNat % 64 ≠ 0 ∨ r.len < (rdReg t a).toNat + planeSize p
      ∨ (!(hPages (getReg s (thKey s.cur.core sl)).hdr.toNat).contains (rdReg t b).toNat) = true) := by
    simp [ho, hl, hp]
  unfold pagesFull at hc
  simp only [execCfgld, onThread_runs h, holdsRegion_of_mayControl hm, controls_of_mayControl hm, hi, Bool.not_true, Bool.or_self, Bool.false_eq_true,
    if_false, hbad, hb, hg, hc]
  rfl

/-- What an element keeps when its page is cleared: its generator and the results in flight. -/
def clearedElem (x : Elem) : Elem := { gen := x.gen, pipe := x.pipe }
/-- Key of an element of a page of a slot's region. -/
def pageElem (k page e : Nat) : Nat := 256 * k + 16 * (page / 4 * 4 + e / 4) + (page % 4 * 4 + e % 4)

theorem clearPage_eq (s : State) (k page : Nat) : clearPage s k page = eachElem (pageElem k page) (fun _ => clearedElem) (List.range 16) s := rfl

theorem getEl_clearPage (s : State) (k page : Nat) {e : Nat} (he : e < 16) :
    getEl (clearPage s k page) (pageElem k page e) = clearedElem (getEl s (pageElem k page e)) := by
  rw [clearPage_eq]
  exact getEl_eachElem (key := pageElem k page) (f := fun _ => clearedElem) (List.mem_range.2 he) (fun _ _ _ => rfl) (fun _ => rfl) s

theorem planesLoaded_only (s : State) (core sl page : Nat) (p : Plane) (g : Region) :
    ∃ elems bad, planesLoaded s core sl page p g = setReg { s with elems := elems, cfgBad := bad } (thKey core sl) g := by
  obtain ⟨_, h⟩ := eachElem_only (key := pageElem (thKey core sl) page) (f := fun _ => clearedElem) (List.range 16) s
  unfold planesLoaded
  split
  · rw [clearPage_eq, h]
    exact ⟨_, _, rfl⟩
  · exact ⟨_, _, rfl⟩

theorem getEl_planesLoaded {s : State} {core sl page : Nat} {p : Plane} (hp : p = .op ∨ p = .all) (g : Region) {e : Nat} (he : e < 16) :
    (getEl (planesLoaded s core sl page p g) (pageElem (thKey core sl) page e)).q = [] := by
  have hx : getEl (planesLoaded s core sl page p g) (pageElem (thKey core sl) page e)
      = getEl (clearPage s (thKey core sl) page) (pageElem (thKey core sl) page e) := by
    unfold planesLoaded
    rw [if_pos (by obtain rfl | rfl := hp <;> rfl)]
    generalize clearPage s (thKey core sl) page = s1
    rfl
  rw [hx, getEl_clearPage _ _ _ he]
  rfl

theorem configurationLoadRule : ConfigurationLoadRule := by
  intro s t r p a b sl g' h hm k g off page size cycles full hi ho hl hp hb hg hc
  have hsize : size = planeSize p := by cases p <;> rfl
  have hcycles : cycles = planeCycles p := by cases p <;> rfl
  have hcheck : (if p != .cn && pagesFull (hPages g.hdr.toNat) g' && !pagesFull (hPages g.hdr.toNat) g then regionCheck s s.cur.core r.part g' else none)
      = none := by
    refine ite_eq_right_iff.2 fun hif => ?_
    simp only [Bool.and_eq_true, bne_iff_ne, Bool.not_eq_true', ne_eq] at hif
    obtain ⟨⟨hcn, hf'⟩, hf⟩ := hif
    obtain h | h | h | h := hc
    · exact absurd h hcn
    · exact absurd (pagesFull_iff.1 hf') h
    · exact absurd (pagesFull_iff.2 h) (Bool.eq_false_iff.1 hf)
    · exact h
  rw [hsize] at hl hb hg
  have hx := execCfgld_goes h hm hi ho hl hp hb hg hcheck
  obtain ⟨_, _, hs'⟩ := planesLoaded_only s s.cur.core sl page p g'
  refine ⟨_, hx, ?_, fun j hj => ?_, ?_, fun j hj => ?_, ?_, fun hop e he => getEl_planesLoaded hop g' he⟩
  · rw [getReg_goOn, hs']
    exact getReg_setReg_self _ _ _
  · rw [getReg_goOn, hs']
    exact (getReg_setReg _ _ _ _).trans (if_neg hj)
  · rw [hs']
    exact SameMem.sameBytes ⟨rfl, rfl, rfl⟩
  · rw [hs']
    exact otherThreads_goOn _ _ j hj
  · rw [hcycles, hs']
    exact getTh_goOn _ _

/-! ## Epilogue programs -/

theorem execEpsel_outside (h : Runs s t r) {sl : Nat} (hm : MayControl s r sl) {a : Nat} (hout : r.len < 4 * (rdReg t a).toNat + 4) :
    execEpsel a sl s = .next (trapNow s 0x145 (encSY 0x18 0 a 0 6 sl) (rdReg t a).toNat 0) := by
  simp only [execEpsel, onThread_runs h, holdsRegion_of_mayControl hm, controls_of_mayControl hm, Bool.not_true, Bool.false_eq_true, if_false, hout, if_true]

/-- The words of the program at a word offset of the block's image. -/
def selectedWords (s : State) (core : Nat) (r : Run) (off : Nat) : List Nat :=
  progWords ((List.range (min 64 ((r.len - 4 * off) / 4))).map fun i => imageWord s core r (4 * (off + i)))

theorem execEpsel_goes (h : Runs s t r) {sl : Nat} (hm : MayControl s r sl) {a : Nat} {ws : List Nat}
    (hws : selectedWords s s.cur.core r (rdReg t a).toNat = ws) (hin : 4 * (rdReg t a).toNat + 4 ≤ r.len) (hlut : ∀ w ∈ ws, w / 2 ^ 27 ≠ 0x0C)
    (hb : imageBad s s.cur.core r (4 * (rdReg t a).toNat) (4 * ws.length) = false)
    (hf : progFault s s.cur.core r.part (hArray (getReg s (thKey s.cur.core sl)).hdr.toNat) ws true = none) :
    execEpsel a sl s = .next (goOn (schedule s (.cluster (clusterOf s.cur.core)) (nOf s s.cur.core + ws.length)
      (.epLoaded s.cur.core sl (rdReg t a).toNat ws [])) (stall s ws.length t)) := by
  have hno : (ws.any fun w => epOp w == 0x0C) = false := List.any_eq_false.2 fun w hw => by simpa [epOp] using hlut w hw
  have hin' : ¬ r.len < 4 * (rdReg t a).toNat + 4 := Nat.not_lt.2 hin
  unfold selectedWords at hws
  simp only [execEpsel, onThread_runs h, holdsRegion_of_mayControl hm, controls_of_mayControl hm, Bool.not_true, Bool.false_eq_true, if_false, hin', hws, hno,
    hb, Bool.false_and, Bool.or_self, Bool.not_false, Bool.true_or, hf]
  rfl

theorem epilogueSelectRule : EpilogueSelectRule := by
  intro s t r a sl h hm core off ws
  refine ⟨fun hout => ⟨_, execEpsel_outside h hm hout⟩, fun hin hlut hb hf => ?_⟩
  exact ⟨_, execEpsel_goes h hm rfl hin hlut hb hf, SameMem.sameBytes ⟨rfl, rfl, rfl⟩, otherThreads_goOn _ _, getTh_goOn _ _, rfl⟩

/-- Settles O13: under the conditions of each rule the word passes all its checks and goes on with the state that its meaning makes. -/
theorem regionSetup : Obligations.RegionSetup := ⟨constantsAndMaskRule, configurationLoadRule, epilogueSelectRule⟩

end Sys2Proof.Machine
end

section
/-! SUPPORT. The end of a scene's blocks: what runs of it goes, and the scenes, the launches and the time stay. -/

set_option Elab.async false

namespace Sys2Proof.Machine

open Safety

variable {α : Type}

/-! ## Tables without some keys -/

theorem mem_tdel {t : Tab α} {k : Nat} {x : Nat × α} : x ∈ tdel t k ↔ x ∈ t ∧ x.1 ≠ k := by
  induction t with
  | nil => simp [tdel]
  | cons p t ih =>
    obtain ⟨a, v⟩ := p
    by_cases h : a = k
    · simp only [tdel, h, if_true, ih, List.mem_cons]
      constructor
      · exact fun hx => ⟨.inr hx.1, hx.2⟩
      · rintro ⟨rfl | hx, hk⟩
        · exact absurd rfl hk
        · exact ⟨hx, hk⟩
    · simp only [tdel, h, if_false, ih, List.mem_cons]
      constructor
      · rintro (rfl | hx)
        · exact ⟨.inl rfl, h⟩
        · exact ⟨.inr hx.1, hx.2⟩
      · rintro ⟨rfl | hx, hk⟩
        · exact .inl rfl
        · exact .inr ⟨hx, hk⟩

theorem tdel_absent {t : Tab α} {k : Nat} (h : lookup t k = none) : tdel t k = t := by
  induction t with
  | nil => rfl
  | cons p t ih =>
    obtain ⟨a, v⟩ := p
    by_cases ha : a = k
    · simp [lookup, ha] at h
    · simp only [lookup, ha, if_false] at h
      simp only [tdel, ha, if_false, ih h]

/-- A key that a filter takes out is not found. -/
theorem lookup_filter_ne (t : List (Nat × α)) (k : Nat) : lookup (t.filter fun x => x.1 != k) k = none := by
  induction t with
  | nil => rfl
  | cons p t ih =>
    obtain ⟨a, v⟩ := p
    by_cases ha : a = k
    · simpa [ha] using ih
    · simpa [ha, lookup] using ih

/-- Keys that go one after the other. -/
theorem mem_tdels {t : Tab α} {l : List Nat} {x : Nat × α} : x ∈ l.foldl tdel t ↔ x ∈ t ∧ x.1 ∉ l := by
  induction l generalizing t with
  | nil => simp
  | cons k l ih => rw [List.foldl_cons, ih, mem_tdel, List.mem_cons, not_or, and_assoc]

/-! ## What tells which scenes run, and with what -/

/-- The scenes, the launches in progress, the time and the blocks that run. -/
def lifeOf (s : State) : Tab Scene × List (Nat × Launch) × TimeBase × List (Nat × Run) := (s.scenes, s.launches, s.tb, s.runs)

/-- A function of the state that every step of a fold keeps. -/
theorem foldl_keeps {β γ : Type} {p : State → γ} {f : State → β → State} (h : ∀ s b, p (f s b) = p s) (l : List β) (s : State) :
    p (l.foldl f s) = p s :=
  foldl_rel (R := fun s s' => p s' = p s) (fun _ => rfl) (fun h h' => h'.trans h) h l s

theorem Logged.lifeOf_eq {s s' : State} (h : Logged s s') : lifeOf s' = lifeOf s := by
  obtain ⟨_, _, _, _, _, _, _, -, -, rfl⟩ := h
  rfl
@[simp] theorem lifeOf_resClear (s : State) (k : Nat) : lifeOf (resClear s k) = lifeOf s := rfl
@[simp] theorem lifeOf_guardDrop (s : State) (core slot row col side pos : Nat) (t : Token) : lifeOf (guardDrop s core slot row col side pos t) = lifeOf s := by
  unfold guardDrop
  split <;> rfl
@[simp] theorem lifeOf_dropDue (s : State) (core slot : Nat) : lifeOf (dropDue s core slot) = lifeOf s := by
  unfold dropDue
  dsimp only
  split
  · rfl
  · refine foldl_keeps (fun s p => foldl_keeps (fun s f => foldl_keeps (fun s d => ?_) _ _) _ _) _ _
    split
    · exact lifeOf_guardDrop _ _ _ _ _ _ _ _
    · rfl
@[simp] theorem lifeOf_guardRecords (s : State) (core slot : Nat) : lifeOf (guardRecords s core slot) = lifeOf s := by
  obtain ⟨s1, h, -, hx⟩ := guardRecords_own s core slot
  rw [hx]
  exact h.lifeOf_eq
@[simp] theorem lifeOf_objWake (s : State) (k : Nat) : lifeOf (objWake s k) = lifeOf s := by
  obtain ⟨_, _, _, _, _, _, h⟩ := wakes_objWake s k
  rw [h]
  rfl
@[simp] theorem lifeOf_putObj (s : State) (k : Nat) (o : SyncObj) : lifeOf (putObj s k o) = lifeOf s := by
  obtain ⟨_, _, _, _, _, _, _, _, _, h⟩ := completes_setObj s k o
  rw [putObj, lifeOf_objWake, h]
  rfl
@[simp] theorem lifeOf_putPh (s : State) (k : Nat) (p : Phaser) : lifeOf (putPh s k p) = lifeOf s := by
  unfold putPh
  dsimp only
  split <;> rfl
@[simp] theorem lifeOf_phSub (s : State) (k n : Nat) : lifeOf (phSub s k n) = lifeOf s := by
  unfold phSub
  dsimp only
  split
  · exact lifeOf_putPh _ _ _
  · rfl
@[simp] theorem lifeOf_dropNotice (s : State) (core no k : Nat) : lifeOf (dropNotice s core no k) = lifeOf s := by
  unfold dropNotice
  split
  · rfl
  · exact lifeOf_putObj _ _ _
@[simp] theorem lifeOf_dropDone (s : State) (core no k : Nat) : lifeOf (dropDone s core no k) = lifeOf s := by
  unfold dropDone
  dsimp only
  split
  · exact lifeOf_putObj _ _ _
  · rfl
@[simp] theorem lifeOf_cancelEntry (s : State) (core : Nat) (e : JEntry) (scene part : Nat) : lifeOf (cancelEntry s core e scene part) = lifeOf s := by
  unfold cancelEntry
  extract_lets c s1 s2 s3
  have h3 : lifeOf s3 = lifeOf s := by
    dsimp only [s3]
    split
    · rfl
    · exact lifeOf_phSub _ _ _
  clear_value s3
  rw [← h3]
  split
  · rfl
  · split
    · exact lifeOf_dropDone _ _ _ _
    · exact lifeOf_dropNotice _ _ _ _
@[simp] theorem lifeOf_cancelWhere (s : State) (core : Nat) (p : JEntry → Bool) : lifeOf (cancelWhere s core p) = lifeOf s := by
  unfold cancelWhere
  split
  · rfl
  · exact foldl_keeps (fun s e => lifeOf_cancelEntry _ _ _ _ _) _ _
@[simp] theorem lifeOf_dropDrains (s : State) (core slot part : Nat) : lifeOf (dropDrains s core slot part) = lifeOf s := by
  unfold dropDrains
  extract_lets c mine gone beat s1 s2
  have h2 : lifeOf s2 = lifeOf s := by
    dsimp only [s2]
    split <;> rfl
  clear_value s2
  rw [← h2]
  refine foldl_keeps (fun s d => ?_) _ _
  split
  · rfl
  · exact lifeOf_dropNotice _ _ _ _

/-- A block that is discarded runs no longer; scenes, launches and the time stay, and so do the other blocks (R49). -/
theorem lifeOf_discardBlock (s : State) (core sheet : Nat) :
    lifeOf (discardBlock s core sheet) = (s.scenes, s.launches, s.tb, tdel s.runs (shKey core sheet)) := by
  unfold discardBlock
  split
  · next h => rw [tdel_absent h]; rfl
  · extract_lets t0 s1 s2 s3 s4 s5 t s6 s7 s8 q s9
    have h1 : lifeOf s1 = lifeOf s := by
      dsimp only [s1]
      split
      · exact (logged_queueWith _ _ _ _ _ _ _ _).lifeOf_eq
      · rfl
    clear_value s1
    have h2 : lifeOf s2 = lifeOf s1 := (lifeOf_guardRecords _ _ _).trans (lifeOf_dropDue _ _ _)
    clear_value s2
    have h3 : lifeOf s3 = lifeOf s2 := rfl
    have h4 : lifeOf s4 = lifeOf s3 := lifeOf_dropDrains _ _ _ _
    clear_value s4
    have h8 : lifeOf s8 = lifeOf s := by
      dsimp only [s8]
      split
      · exact (lifeOf_cancelWhere _ _ _).trans h1
      · exact ((h4.trans (h3.trans (h2.trans h1))) :)
    clear_value s8
    have h9 : lifeOf s9 = lifeOf s8 := by
      dsimp only [s9]
      exact foldl_keeps (p := lifeOf) (fun s d => lifeOf_resClear s _) _ _
    obtain ⟨hscenes, hlaunches, htb, hruns⟩ : s9.scenes = s.scenes ∧ s9.launches = s.launches ∧ s9.tb = s.tb ∧ s9.runs = s.runs := by
      simpa [lifeOf] using h9.trans h8
    rw [← hscenes, ← hlaunches, ← htb, ← hruns]
    rfl

/-- Several blocks. -/
theorem lifeOf_discardBlocks (l : List (Nat × Run)) (s : State) :
    lifeOf (l.foldl (fun s r => discardBlock s (r.1 / 8) (r.1 % 8)) s) = (s.scenes, s.launches, s.tb, (l.map (·.1)).foldl tdel s.runs) := by
  induction l generalizing s with
  | nil => rfl
  | cons r l ih =>
    have hkey : shKey (r.1 / 8) (r.1 % 8) = r.1 := by unfold shKey; omega
    have h := lifeOf_discardBlock s (r.1 / 8) (r.1 % 8)
    simp only [lifeOf, Prod.mk.injEq, hkey] at h
    obtain ⟨h1, h2, h3, h4⟩ := h
    rw [List.foldl_cons, ih, h1, h2, h3, h4]
    rfl

/-- The blocks of a scene are gone when it is halted, and nothing else of what tells which scenes run has changed (R57). -/
theorem haltScene_own (s : State) (k : Nat) :
    (haltScene s k).scenes = s.scenes ∧ (haltScene s k).launches = s.launches ∧ (haltScene s k).tb = s.tb ∧ ∀ r ∈ (haltScene s k).runs, r.2.scene ≠ k := by
  have h := lifeOf_discardBlocks (s.runs.filter fun r => r.2.scene == k) s
  simp only [lifeOf, Prod.mk.injEq] at h
  obtain ⟨h1, h2, h3, h4⟩ := h
  refine ⟨h1, h2, h3, fun r hr hk => ?_⟩
  obtain ⟨hin, hout⟩ := mem_tdels.1 (h4 ▸ hr : r ∈ ((s.runs.filter fun r => r.2.scene == k).map (·.1)).foldl tdel s.runs)
  exact hout (List.mem_map_of_mem (List.mem_filter.2 ⟨hin, beq_iff_eq.2 hk⟩))

end Sys2Proof.Machine
end

section
/-! Launches, changes and stops of scenes. -/

set_option Elab.async false

namespace Sys2Proof.Machine

open Safety

/-! ## Jobs that end -/

/-- Jobs have ended, and nothing but their completions has changed. -/
def JobsEnded (s s' : State) : Prop := ∃ jobs, Completes { s with jobs := jobs } s'

theorem JobsEnded.refl (s : State) : JobsEnded s s := ⟨s.jobs, (Wakes.refl s).completes⟩
theorem JobsEnded.trans {s t u : State} : JobsEnded s t → JobsEnded t u → JobsEnded s u := by
  rintro ⟨_, _, _, _, _, _, _, _, _, _, rfl⟩ ⟨b, _, _, _, _, _, _, _, _, _, rfl⟩
  exact ⟨b, _, _, _, _, _, _, _, _, _, rfl⟩
theorem jobsEnded_jobEnd (s : State) (j cause : Nat) : JobsEnded s (jobEnd s j cause) := ⟨_, completes_jobEnd s j cause⟩
theorem jobsEnd_some (s : State) (j cause : Nat) : jobsEnd s (some j).toList cause = jobEnd s j cause := rfl
theorem jobsEnded_jobsEnd (s : State) (l : List Nat) (cause : Nat) : JobsEnded s (jobsEnd s l cause) := by
  unfold jobsEnd
  exact foldl_rel (R := JobsEnded) .refl .trans (fun s j => jobsEnded_jobEnd s j cause) l s

section
variable {s s' : State} (h : JobsEnded s s')
include h

theorem JobsEnded.scenes : s'.scenes = s.scenes := by obtain ⟨_, _, _, _, _, _, _, _, _, _, rfl⟩ := h; rfl
theorem JobsEnded.launches : s'.launches = s.launches := by obtain ⟨_, _, _, _, _, _, _, _, _, _, rfl⟩ := h; rfl
theorem JobsEnded.tb : s'.tb = s.tb := by obtain ⟨_, _, _, _, _, _, _, _, _, _, rfl⟩ := h; rfl
theorem JobsEnded.runs : s'.runs = s.runs := by obtain ⟨_, _, _, _, _, _, _, _, _, _, rfl⟩ := h; rfl
theorem JobsEnded.phasers : s'.phasers = s.phasers := by obtain ⟨_, _, _, _, _, _, _, _, _, _, rfl⟩ := h; rfl
theorem JobsEnded.recs : s'.recs = s.recs := by obtain ⟨_, _, _, _, _, _, _, _, _, _, rfl⟩ := h; rfl
theorem JobsEnded.getScene (k : Nat) : getScene s' k = getScene s k := by rw [Machine.getScene, h.scenes]; rfl
end

/-- A step that changes neither the job nor the objects before its completion. -/
theorem signals_of_eq {s t u : State} {j cause : Nat} (h : Signals t u j cause) (hj : getJob t j = getJob s j) (ho : ∀ k, objAt t k = objAt s k)
    (hg : ∀ k, getObj t k = getObj s k) : Signals s u j cause := by
  unfold Signals at h ⊢
  simp only [hj, ho, hg] at h
  exact h

/-- The power computation changes budgets, caps and the log, and nothing of scenes, launches, blocks or phasers (R418). -/
theorem powerRecalc_own (s : State) : ∃ mgmt budgetNext, Logged { s with mgmt := mgmt, budgetNext := budgetNext } (powerRecalc s) := by
  unfold powerRecalc
  dsimp only
  split
  · exact ⟨_, _, .refl _⟩
  · exact ⟨_, _, logged_devLog _ _ _ _⟩

/-! ## A scene that stops -/

/-- What a scene is after its stop. -/
def stoppedScene (s : State) (x : Scene) : Scene :=
  { x with running := false, job := none, stopAt := none, stopJobs := [], change := none, stopTick := some (ticks s) }

/-- A stop ends one scene: its blocks and phasers are gone, and other scenes, launches and the time stay (R57, R58). -/
structure SceneStopped (s s' : State) (k : Nat) : Prop where
  scene : getScene s' k = stoppedScene s (getScene s k)
  others : ∀ j, j ≠ k → getScene s' j = getScene s j
  launches : s'.launches = s.launches
  tb : s'.tb = s.tb
  runs : ∀ r ∈ s'.runs, r.2.scene ≠ k
  phasers : ∀ p ∈ s'.phasers, p.1 / 4096 ≠ k

theorem SceneStopped.jobsEnded {s t u : State} {k : Nat} (h : SceneStopped s t k) (hj : JobsEnded t u) : SceneStopped s u k := by
  refine ⟨(hj.getScene k).trans h.scene, fun j hjk => (hj.getScene j).trans (h.others j hjk), hj.launches.trans h.launches, hj.tb.trans h.tb, ?_, ?_⟩
  · rw [hj.runs]; exact h.runs
  · rw [hj.phasers]; exact h.phasers

theorem SceneStopped.powerRecalc {s t : State} {k : Nat} (h : SceneStopped s t k) : SceneStopped s (powerRecalc t) k := by
  obtain ⟨_, _, _, _, _, _, _, _, _, -, -, hx⟩ := powerRecalc_own t
  obtain ⟨h1, h2, h3, h4, h5, h6⟩ := h
  rw [hx]
  exact ⟨h1, h2, h3, h4, h5, h6⟩

theorem sceneStopped_stopScene (s : State) (k : Nat) : SceneStopped s (stopScene s k) k := by
  obtain ⟨hscenes, hlaunches, htb, hruns⟩ := haltScene_own s k
  unfold stopScene
  generalize haltScene s k = s0 at *
  extract_lets x s1 s2 s3 s4
  have h2 : SceneStopped s s2 k := by
    have hg : ∀ j, getScene s1 j = getScene s j := fun j => by rw [getScene, show s1.scenes = s.scenes from hscenes]; rfl
    refine ⟨?_, fun j hj => ?_, hlaunches, htb, hruns, fun p hp => ?_⟩
    · rw [getScene_setScene_self, show ticks s1 = ticks s from congrArg TimeBase.ticks htb]
      rfl
    · exact ((getScene_setScene _ _ _ _).trans (if_neg hj)).trans (hg j)
    · exact bne_iff_ne.1 (List.mem_filter.1 hp).2
  have h3 : SceneStopped s s3 k := (h2.jobsEnded (jobsEnded_jobsEnd _ _ _)).jobsEnded (jobsEnded_jobsEnd _ _ _)
  have h4 : SceneStopped s s4 k := by
    dsimp only [s4]
    split
    · exact h3.jobsEnded (jobsEnded_jobEnd _ _ _)
    · exact h3
  exact h4.powerRecalc

/-! ## The record of an admitted job -/

theorem signals_unpend {s t : State} {j cause : Nat} (h : Signals s t j cause) (n : Nat) : Signals s (unpend t n) j cause := by
  obtain ⟨_, _, _, _, hx⟩ := unpend_only t n
  rw [hx]
  exact signals_congr h rfl fun _ => rfl
theorem scenes_unpend (s : State) (n : Nat) : (unpend s n).scenes = s.scenes := by
  obtain ⟨_, _, _, _, hx⟩ := unpend_only s n
  rw [hx]
theorem getScene_unpend (s : State) (n k : Nat) : getScene (unpend s n) k = getScene s k := by rw [getScene, scenes_unpend]; rfl
theorem sameMem_unpend (s : State) (n : Nat) : SameMem s (unpend s n) := by
  obtain ⟨_, _, _, _, hx⟩ := unpend_only s n
  rw [hx]
  exact ⟨rfl, rfl, rfl⟩

/-! ## Stops -/

/-- The scene has a SCENE point (R57). -/
theorem anyScenePoint_iff {s : State} {k : Nat} :
    ((sceneCues s k).any fun q => qScene q.2) = true ↔ ∃ q ∈ s.cues, q.2.scene = k ∧ qScene q.2 = true := by
  simp [sceneCues]

theorem stopScene_idle {s : State} {b : Job} {j k : Nat} (h : Admits s 3 b j) (hk : sceneById s b.fn (jScene b) = some k)
    (hr : (getScene s k).running = false) : exec .stopScene s = .next (unpend (jobEnd s j 0) s.cur.ix) := by
  change execStopScene s = _
  rw [execStopScene, admitted_admits h]
  simp only [hk, hr, Bool.not_false, if_true]

theorem stopScene_running {s : State} {b : Job} {j k : Nat} (h : Admits s 3 b j) (hk : sceneById s b.fn (jScene b) = some k)
    (hr : (getScene s k).running = true) : exec .stopScene s = .next (unpend (setScene s k { getScene s k with
      stopAt := if (sceneCues s k).any fun q => qScene q.2 then (getScene s k).stopAt else
        some (((getScene s k).origin + (ago s (getScene s k).origin / periodOf (getScene s k) + 1) * periodOf (getScene s k)) % 2 ^ 64)
      stopJobs := (getScene s k).stopJobs ++ [j] }) s.cur.ix) := by
  change execStopScene s = _
  rw [execStopScene, admitted_admits h]
  simp only [hk, hr, Bool.not_true, Bool.false_eq_true, if_false]

/-- R58: stops. -/
theorem sceneStopsRule : SceneStopsRule := by
  intro s
  refine ⟨fun b j k h hk => ⟨fun hr => ?_, fun hr => ?_⟩, fun hr => ?_, fun hr => ?_⟩
  · exact ⟨_, stopScene_idle h hk hr, pending_unpend _ _, signals_unpend (jobCompletionRule s j 0) _,
      (scenes_unpend _ _).trans (jobsEnded_jobEnd s j 0).scenes⟩
  · refine ⟨_, stopScene_running h hk hr, pending_unpend _ _, ((sameMem_setScene _ _ _).trans (sameMem_unpend _ _)).sameBytes, ?_⟩
    rw [getScene_unpend, getScene_setScene_self, if_congr anyScenePoint_iff rfl rfl]
  · have h := sceneStopped_stopScene s s.cur.ix
    refine ⟨_, congrArg Host.Outcome.next (if_pos hr), ?_, ?_, h.runs, h.phasers⟩
    · rw [h.scene]; rfl
    · rw [h.scene]; rfl
  · exact congrArg Host.Outcome.next (if_neg (Bool.eq_false_iff.1 hr))

/-! ## Changes -/

theorem changeScene_recorded {s : State} {b : Job} {j k r : Nat} (h : Admits s 2 b j) (hk : sceneById s b.fn (jScene b) = some k)
    (hr : runningScene s b.fn k = some r) : exec .changeScene s = .next (unpend (requestChange s r k (some j)) s.cur.ix) := by
  change execChangeScene s = _
  rw [execChangeScene, admitted_admits h]
  simp only [hk, hr]

theorem changeScene_refused {s : State} {b : Job} {j k : Nat} (h : Admits s 2 b j) (hk : sceneById s b.fn (jScene b) = some k)
    (hr : runningScene s b.fn k = none) : exec .changeScene s = .next (unpend (jobEnd (changeRefused s b.fn) j 0x0C4) s.cur.ix) := by
  change execChangeScene s = _
  rw [execChangeScene, admitted_admits h]
  simp only [hk, hr]

/-- A refused change is recorded for the supervisor, and nothing else changes (R65). -/
theorem logged_changeRefused (s : State) (p : Nat) : Logged s (changeRefused s p) := logged_queueWith _ _ _ _ _ _ _ _
theorem mem_recs_changeRefused (s : State) (p : Nat) : ∃ x ∈ (changeRefused s p).recs, x.2.cause = 0x0C4 := mem_recs_queueWith _ _ _ _ _ _ _ _

/-- A job that ends after records were made. -/
theorem Logged.signals {s t : State} (h : Logged s t) (j cause : Nat) : Signals s (jobEnd t j cause) j cause := by
  obtain ⟨_, _, _, _, _, _, _, -, -, rfl⟩ := h
  exact signals_of_eq (jobCompletionRule _ j cause) rfl (fun _ => rfl) fun _ => rfl

/-- A request is recorded in the scene that runs; the job of one that waited there ends (R57). -/
theorem requestChange_own (s : State) (r k : Nat) (job : Option Nat) :
    getScene (requestChange s r k job) r = { getScene s r with change := some (k, ticks s, job) }
    ∧ ∀ a q j', (getScene s r).change = some (a, q, some j') → Signals s (requestChange s r k job) j' 0x0C4 := by
  unfold requestChange
  extract_lets x s1 y
  have h1 : JobsEnded s s1 := by
    dsimp only [s1]
    split
    · exact jobsEnded_jobEnd _ _ _
    · exact .refl s
  refine ⟨?_, fun a q j' hc => ?_⟩
  · have hy : y = x := h1.getScene r
    rw [getScene_setScene_self, hy, show ticks s1 = ticks s from congrArg TimeBase.ticks h1.tb]
  · have hs1 : s1 = jobEnd s j' 0x0C4 := by
      dsimp only [s1, x]
      rw [hc]
    rw [hs1]
    exact signals_congr (jobCompletionRule s j' 0x0C4) rfl fun _ => rfl

/-- The scenes when one starts: that one alone has changed (R56). -/
theorem scenes_beginScene (s : State) (k o : Nat) (args : List W64) (job : Option Nat) : (beginScene s k o args job).scenes = (setScene s k { getScene s k with
    running := true, origin := o, args := args, job := job, stopAt := none, stopJobs := [], change := none }).scenes := by
  unfold beginScene
  extract_lets x s1 s2
  obtain ⟨_, h⟩ := makePhasers_only s2 k
  rw [h]
  rfl

theorem getScene_beginScene (s : State) (k o j : Nat) (args : List W64) (job : Option Nat) : getScene (beginScene s k o args job) j = if j = k then
    { getScene s k with running := true, origin := o, args := args, job := job, stopAt := none, stopJobs := [], change := none } else getScene s j := by
  rw [getScene, scenes_beginScene]
  exact getScene_setScene _ _ _ _

/-- The state when the scene of a change request has stopped (R57). -/
def changeStops (s : State) : State := stopScene (setScene s s.cur.ix { getScene s s.cur.ix with change := none }) s.cur.ix

/-- The scene that runs stops; what it was changed to, the launches and the time are as before. -/
theorem changeStops_own (s : State) :
    (getScene (changeStops s) s.cur.ix).running = false ∧ (∀ j, j ≠ s.cur.ix → getScene (changeStops s) j = getScene s j)
    ∧ (changeStops s).launches = s.launches ∧ ticks (changeStops s) = ticks s := by
  have h := sceneStopped_stopScene (setScene s s.cur.ix { getScene s s.cur.ix with change := none }) s.cur.ix
  refine ⟨?_, fun j hj => ?_, h.launches, congrArg TimeBase.ticks h.tb⟩
  · rw [changeStops, h.scene]; rfl
  · exact (h.others j hj).trans ((getScene_setScene _ _ _ _).trans (if_neg hj))

/-- The change is refused where the scene that it names is gone, runs or is launched when it takes effect (log 23). -/
def cannotStart (s : State) (k : Nat) : Bool := !((getScene s k).live && (getScene s k).loaded) || (getScene s k).running || launching s k

theorem cannotStart_iff {s : State} {k : Nat} : cannotStart s k = true ↔
    (getScene s k).live = false ∨ (getScene s k).loaded = false ∨ (getScene s k).running = true ∨ launching s k = true := by
  simp [cannotStart, or_assoc]

theorem cannotStart_changeStops {s : State} {k : Nat} (h : k ≠ s.cur.ix) : cannotStart (changeStops s) k = cannotStart s k := by
  obtain ⟨-, hsc, hl, -⟩ := changeStops_own s
  unfold cannotStart launching
  rw [hsc k h, hl]

theorem sceneChange_refused {s : State} {k q : Nat} {job : Option Nat} (hc : (getScene s s.cur.ix).change = some (k, q, job))
    (h : cannotStart (changeStops s) k = true) :
    exec .sceneChange s = .next (jobsEnd (changeRefused (changeStops s) (getScene s s.cur.ix).part) job.toList 0x0C4) := by
  unfold cannotStart launching changeStops at h
  change execSceneChange s = _
  simp only [execSceneChange, hc, h, if_true]
  rfl

theorem sceneChange_starts {s : State} {k q : Nat} {job : Option Nat} (hc : (getScene s s.cur.ix).change = some (k, q, job))
    (h : cannotStart (changeStops s) k = false) (hr : (getScene (changeStops s) k).recover = false) :
    ∃ args, exec .sceneChange s = .next (jobsEnd (beginScene (changeStops s) k (ticks (changeStops s)) args none) job.toList 0) := by
  unfold cannotStart launching at h
  change ∃ args, execSceneChange s = _
  unfold changeStops at *
  simp only [execSceneChange, hc, h, hr, Bool.false_eq_true, if_false]
  exact ⟨_, rfl⟩

/-- R57, R65: changes. -/
theorem sceneChangesRule : SceneChangesRule := by
  intro s
  obtain ⟨hstop, hkept, -, hticks⟩ := changeStops_own s
  refine ⟨fun b j k h hk => ⟨fun r hr => ?_, fun hr => ?_⟩, fun k q job hc hk hlive hload hrun hrec hl => ?_, fun k q job hc hk hno => ?_, fun hc => ?_⟩
  · obtain ⟨hget, hsig⟩ := requestChange_own s r k (some j)
    exact ⟨_, changeScene_recorded h hk hr, pending_unpend _ _, (getScene_unpend _ _ _).trans hget, fun a q j' hc => signals_unpend (hsig a q j' hc) _⟩
  · have hl := logged_changeRefused s b.fn
    have hj := jobsEnded_jobEnd (changeRefused s b.fn) j 0x0C4
    obtain ⟨x, hx, hcause⟩ := mem_recs_changeRefused s b.fn
    obtain ⟨_, _, _, _, hu⟩ := unpend_only (jobEnd (changeRefused s b.fn) j 0x0C4) s.cur.ix
    refine ⟨_, changeScene_refused h hk hr, pending_unpend _ _, signals_unpend (hl.signals j 0x0C4) _,
      (scenes_unpend _ _).trans (hj.scenes.trans hl.scenes), x, ?_, hcause⟩
    rw [hu]
    exact hj.recs ▸ hx
  · have hgo : cannotStart (changeStops s) k = false := by
      rw [cannotStart_changeStops hk, cannotStart, hlive, hload, hrun, hl]
      rfl
    obtain ⟨args, hx⟩ := sceneChange_starts hc hgo ((congrArg Scene.recover (hkept k hk)).trans hrec)
    have hj := jobsEnded_jobsEnd (beginScene (changeStops s) k (ticks (changeStops s)) args none) job.toList 0
    refine ⟨_, hx, ?_, ?_, ?_⟩
    · rw [hj.getScene, getScene_beginScene, if_neg hk.symm]
      exact hstop
    · rw [hj.getScene, getScene_beginScene, if_pos rfl]
    · rw [hj.getScene, getScene_beginScene, if_pos rfl]
      exact hticks
  · have hgo : cannotStart (changeStops s) k = true := (cannotStart_changeStops hk).trans (cannotStart_iff.2 hno)
    have hl := logged_changeRefused (changeStops s) (getScene s s.cur.ix).part
    have hj := jobsEnded_jobsEnd (changeRefused (changeStops s) (getScene s s.cur.ix).part) job.toList 0x0C4
    obtain ⟨x, hx, hcause⟩ := mem_recs_changeRefused (changeStops s) (getScene s s.cur.ix).part
    have hget : ∀ i, getScene (jobsEnd (changeRefused (changeStops s) (getScene s s.cur.ix).part) job.toList 0x0C4) i = getScene (changeStops s) i :=
      fun i => (hj.getScene i).trans (by rw [getScene, hl.scenes]; rfl)
    refine ⟨_, sceneChange_refused hc hgo, ?_, (hget k).trans (hkept k hk), ?_, x, hj.recs ▸ hx, hcause⟩
    · rw [hget]
      exact hstop
    · rintro i rfl
      rw [jobsEnd_some]
      exact (jobCompletionRule (changeRefused (changeStops s) _) i 0x0C4).1
  · change execSceneChange s = _
    simp only [execSceneChange, hc]

/-! ## Launches -/

/-- A launch of a gang that is free starts its cues; the phasers of the scene are made anew by its first launch (R93). -/
theorem launchGang_goes {s : State} {b : Job} {j k g : Nat} {l : List (Nat × Nat)} (h : Admits s 1 b j) (hg : gangsById s b.fn (jGang b) = (k, g) :: l)
    (hr : (getScene s k).running = false) (hfree : ∀ x ∈ s.launches, ¬ (x.2.scene = k ∧ x.2.gslot = g))
    (hlock : sceneRtc (getScene s k) = true → s.tb.locked = true) :
    ∃ phasers tags grants, exec .launchGang s = .next (unpend (beginCues { s with
      phasers := phasers, tags := tags, grants := grants, launches := s.launches ++ [(j, ⟨k, g, ticks s, jArgs b, j⟩)] } k (some g) (ticks s)) s.cur.ix) := by
  have hany : (s.launches.any fun l => l.2.scene == k && l.2.gslot == g) = false :=
    List.any_eq_false.2 fun x hx => by simpa using hfree x hx
  have hgo : (sceneRtc (getScene s k) && !s.tb.locked) = false := by
    cases hrtc : sceneRtc (getScene s k)
    · rfl
    · rw [hlock hrtc]
      rfl
  change ∃ phasers tags grants, execLaunchGang s = _
  rw [execLaunchGang, admitted_admits h]
  simp only [hg, List.find?_cons, hr, hany, Bool.not_false, Bool.and_self, hgo, Bool.false_eq_true, if_false]
  split
  · exact ⟨_, _, _, rfl⟩
  · obtain ⟨_, hm⟩ := makePhasers_only { s with
      tags := s.tags.filter (fun t => t.1 / 2 ^ 40 != k), grants := s.grants.filter fun t => t.key / 2 ^ 40 != k } k
    rw [hm]
    exact ⟨_, _, _, rfl⟩

/-- The cues of a gang slot begin their first period at an origin (R93). -/
theorem begins_beginCues_slot {s t : State} (hc : t.cues = s.cues) (k g o : Nat) (hskew : ∀ q, cueSkew t q = cueSkew s q) :
    Begins s (beginCues t k (some g) o) k o fun q => qGslot q = g := by
  intro x hx hk hg
  refine ⟨begunCue t o x.2, List.mem_map.2 ⟨x, hc ▸ hx, if_pos ⟨hk, hg.symm⟩⟩, ?_⟩
  rw [← hskew x.2]
  exact ⟨rfl, rfl, rfl, rfl⟩

/-- A launch that completes is in progress no longer, and takes the phasers of its scene along where it is the last (R93). -/
def launchLeaves (s : State) (scene : Nat) : State :=
  let s := { s with launches := s.launches.filter fun x => x.1 != s.cur.ix }
  if launching s scene then s else dropPhasers s scene

theorem launchLeaves_own (s : State) (scene : Nat) :
    (∃ phasers, launchLeaves s scene = { s with launches := s.launches.filter (fun x => x.1 != s.cur.ix), phasers := phasers })
    ∧ ((∀ x ∈ s.launches, x.1 ≠ s.cur.ix → x.2.scene ≠ scene) → ∀ p ∈ (launchLeaves s scene).phasers, p.1 / 4096 ≠ scene) := by
  unfold launchLeaves
  extract_lets s1
  split
  · next hl =>
    refine ⟨⟨_, rfl⟩, fun hno => ?_⟩
    obtain ⟨x, hx, hs⟩ := List.any_eq_true.1 hl
    obtain ⟨hin, hne⟩ := List.mem_filter.1 hx
    exact absurd (beq_iff_eq.1 hs) (hno x hin (bne_iff_ne.1 hne))
  · exact ⟨⟨_, rfl⟩, fun _ p hp => bne_iff_ne.1 (List.mem_filter.1 hp).2⟩

/-- R93: launches. -/
theorem gangLaunchesRule : GangLaunchesRule := by
  intro s
  refine ⟨fun b j k g l h hg hr hfree hlock => ?_, fun l hl => ?_⟩
  · obtain ⟨ph, tags, gr, hx⟩ := launchGang_goes h hg hr hfree hlock
    refine ⟨_, hx, pending_unpend _ _, ?_⟩
    have hb := begins_beginCues_slot (s := s) (t := { s with
      phasers := ph, tags := tags, grants := gr, launches := s.launches ++ [(j, ⟨k, g, ticks s, jArgs b, j⟩)] }) rfl k g (ticks s) fun _ => rfl
    obtain ⟨_, _, _, _, hu⟩ := unpend_only (beginCues { s with
      phasers := ph, tags := tags, grants := gr, launches := s.launches ++ [(j, ⟨k, g, ticks s, jArgs b, j⟩)] } k (some g) (ticks s)) s.cur.ix
    rw [hu]
    exact ⟨SameMem.sameBytes ⟨rfl, rfl, rfl⟩, rfl, rfl, rfl, hb⟩
  · have hx : exec .gangLaunchComplete s = .next (jobEnd (launchLeaves s l.scene) l.job 0) := by
      change execGangLaunchComplete s = _
      simp only [execGangLaunchComplete, hl]
      rfl
    obtain ⟨⟨_, hs1⟩, hph⟩ := launchLeaves_own s l.scene
    have hj := jobsEnded_jobEnd (launchLeaves s l.scene) l.job 0
    refine ⟨_, hx, ?_, ?_, fun hno => ?_⟩
    · rw [hj.launches, hs1]
      exact lookup_filter_ne _ _
    · rw [hs1]
      exact signals_of_eq (jobCompletionRule _ l.job 0) rfl (fun _ => rfl) fun _ => rfl
    · rw [hj.phasers]
      exact hph hno

/-- Settles O45: a launch, a change and a stop come each to the state that its meaning makes, in which the ends of jobs leave scenes, launches and phasers. -/
theorem sceneLife : Obligations.SceneLife := ⟨gangLaunchesRule, sceneChangesRule, sceneStopsRule⟩

end Sys2Proof.Machine
end

section
/-! The resume of a gang whose image holds an uncorrectable error. -/

set_option Elab.async false

namespace Sys2Proof.Machine

open Safety

/-- The context image of gang 3 of scene 0, saved from core 0 with a block of it running (R88). -/
def frozenImage : Image :=
  { gang := 3, part := 0, lc := 0, voice := 0, slot := 0, core := 0, freezeTick := 0, thread := {}, snap := ⟨0, { placed := true }, []⟩
    run := some { scene := 0, cue := 0, block := 0, variant := 0, under := false, fire := 0, deadline := 100, fireN := 0, part := 0, gslot := 0
                  gang := 3, lc := 0, voice := 0, chorus := false, len := 64, entry := 8, base := 0 }
    copier := none, records := [], chorus := none }

/-- Gang 3 without its pages. -/
def waitingGang : Gang :=
  { id := 3, nlc := 1, phase := 0, chor := 0, skew := 0, words := [⟨0, 0, 0, true, 0, 0, 0⟩], resident := false }

/-- Gang 3 waits for its pages: the model has stored its image to the first free page of the partition's context area (R435). -/
def preemptedGang : State :=
  storeImage { State.reset with
    parts := [(0, { ctxSize := 9 })]
    scenes := [(0, { live := true, loaded := true, gangs := [waitingGang] })] } frozenImage

/-- That state, at the resume of gang slot 0 of scene 0, with an uncorrectable error in the first 32 bytes of the stored image (R439). -/
def spoiledImage : State := { preemptedGang with ecc := [(16 * 2 ^ 20 / 32, 2)], cur := {} }

/-- The gang of the scene is the one that waits. -/
theorem spoiledImage_gang : (getScene spoiledImage 0).gangs[0]? = some waitingGang := by decide +kernel

/-- The words that R376 checks are as they were stored. -/
theorem spoiledImage_not_damaged :
    (spoiledImage.images.any fun m => (m.snap.region.scene == 0 && m.snap.region.gslot == 0) && imageDamaged spoiledImage m) = false := by
  decide +kernel

/-- The gang is ready to be placed again. -/
theorem spoiledImage_ready : (0, 0) ∈ readyGangs spoiledImage := by decide +kernel

/-- There is room for the gang, and its pages can be pinned there. -/
theorem spoiledImage_room : (match placeAgain spoiledImage 0 0 with
    | .error _ => false
    | .ok (s1, g1) => (moveGang s1 0 0 { g1 with resident := true, heldSince := ticks spoiledImage }).isSome) = true := by decide +kernel

/-- Where its image is whole the gang comes back. -/
theorem preemptedGang_resumes : (match exec .resume preemptedGang with
    | .next s' => (getScene s' 0).gangs.map (·.resident)
    | _ => []) = [true] := by decide +kernel

/-- The read of the image meets the error, and the gang stays away. -/
theorem spoiledImage_stays : (match exec .resume spoiledImage with
    | .next s' => (getScene s' 0).gangs.map (·.resident)
    | _ => []) = [false] := by decide +kernel

/-- Refutes O48: a resume reads the image, and one with an uncorrectable error is not used (R371, R439, log 49); `imageDamaged` sees only the words that R376
checks, so the rule says that this gang, whose header is good and which has room, comes back. -/
theorem not_replacement : ¬ Obligations.Replacement := by
  rintro ⟨-, hrule⟩
  obtain ⟨hready, -, -⟩ := hrule spoiledImage
  obtain ⟨-, -, hroom⟩ := hready waitingGang spoiledImage_gang rfl spoiledImage_ready
  have hback := spoiledImage_room
  split at hback
  · cases hback
  next s1 g1 hplace =>
    obtain ⟨s', hexec, hresident, -, -⟩ := (hroom s1 g1 spoiledImage_not_damaged hplace).2 hback
    have hstays : (getScene s' 0).gangs.map (·.resident) = [false] := by
      have h := spoiledImage_stays
      rw [hexec] at h
      exact h
    have hhere : ((getScene s' 0).gangs.map (·.resident))[0]? = some true := by
      rw [List.getElem?_map]
      exact hresident
    rw [hstays] at hhere
    cases hhere

end Sys2Proof.Machine
end

section
/-! JOBPOST: a job record of the scratchpad for the device queue of the partition. -/

set_option Elab.async false

namespace Sys2Proof.Machine

open Safety

/-! ## Chorus words outside a chorus -/

/-- In no chorus a value that the voices would echo is the thread's own. -/
theorem echoBy_alone (s : State) (t : Thread) {r : Run} (hc : r.chorus = false) (d : Nat) (v : W64) (lead : Bool) :
    echoBy s t r d v lead = writeBack s t d v := by
  simp [echoBy, hc]

/-- In no chorus a compare point has its effect at once, as the lead's. -/
theorem comparePoint_alone (s : State) (t : Thread) {r : Run} (hc : r.chorus = false) (f : Bool → State) : comparePoint s t r f = f true := by
  simp [comparePoint, hc]

/-! ## The record joins the queue -/

/-- The eight words of the record at an offset of a core's pool. -/
def jobRecordAt (s : State) (core off : Nat) : List W64 :=
  (List.range 8).map fun i => BitVec.ofNat 64 (leNat (rdMem s ⟨.dev, poolAddr core (off + 8 * i)⟩ 8))

theorem jobAppend_room {s : State} {t : Thread} {r : Run} (hc : r.chorus = false) (d off : Nat) (h : (getPart s r.part).devQueue.length < 16) :
    jobAppend s t r d off = writeBack (setPart s r.part { getPart s r.part with
      devQueue := (getPart s r.part).devQueue ++ [jobRecordAt s s.cur.core off] }) t d 0 :=
  (if_pos h).trans (echoBy_alone _ t hc d 0 true)

theorem jobAppend_full {s : State} {t : Thread} {r : Run} (hc : r.chorus = false) (d off : Nat) (h : 16 ≤ (getPart s r.part).devQueue.length) :
    jobAppend s t r d off = writeBack s t d 1 :=
  (if_neg (Nat.not_lt.2 h)).trans (echoBy_alone s t hc d 1 true)

/-! ## The word -/

section
variable {s : State} {t : Thread} {r : Run} (h : Runs s t r) (d a : Nat)
include h

/-- A record that does not lie on 64 bytes (R254). -/
theorem execJobpost_misaligned (ho : (rdReg t a).toNat % 2 ^ 23 % 64 ≠ 0) :
    execJobpost d a s = .next (trapNow s 0x06B (info3 0 0 ((rdReg t a).toNat % 2 ^ 23)) 0 pathE) := by
  rw [execJobpost, onThread_runs h, if_pos ho]

/-- A record that does not lie in SP (R254). -/
theorem execJobpost_outside (ho : (rdReg t a).toNat % 2 ^ 23 % 64 = 0) (hs : areaOk s s.cur.core ((rdReg t a).toNat % 2 ^ 23) 64 .peer = false) :
    execJobpost d a s = .next (trapNow s 0x063 (info3 0 0 ((rdReg t a).toNat % 2 ^ 23)) 0 pathE) := by
  simp only [execJobpost, onThread_runs h, ho, hs, ne_eq, not_true_eq_false, if_false, Bool.not_false, if_true]

/-- A record in a granule of another owner (R101). -/
theorem execJobpost_notOwned (ho : (rdReg t a).toNat % 2 ^ 23 % 64 = 0) (hs : areaOk s s.cur.core ((rdReg t a).toNat % 2 ^ 23) 64 .peer = true)
    (hw : ownedOk s s.cur.core r.part ((rdReg t a).toNat % 2 ^ 23) 64 = false) :
    execJobpost d a s = .next (trapNow s 0x064 (info3 0 0 ((rdReg t a).toNat % 2 ^ 23)) 0 pathE) := by
  simp only [execJobpost, onThread_runs h, ho, hs, hw, ne_eq, not_true_eq_false, if_false, Bool.not_true, Bool.not_false, Bool.false_eq_true, if_true]

/-- A record that may be posted joins the queue, or waits for the accesses of its release (R254, R337). -/
theorem execJobpost_allowed (hc : r.chorus = false) (ho : (rdReg t a).toNat % 2 ^ 23 % 64 = 0)
    (hs : areaOk s s.cur.core ((rdReg t a).toNat % 2 ^ 23) 64 .peer = true) (hw : ownedOk s s.cur.core r.part ((rdReg t a).toNat % 2 ^ 23) 64 = true) :
    execJobpost d a s = .next (if settled s s.cur.core (jobIds s s.cur.core r.part) = true
      then jobAppend s { t with wait := .none } r d ((rdReg t a).toNat % 2 ^ 23)
      else putTh s { t with wait := .jobpost d ((rdReg t a).toNat % 2 ^ 23) (jobIds s s.cur.core r.part) }) := by
  simp only [execJobpost, onThread_runs h, ho, hs, hw, comparePoint_alone s t hc, ne_eq, not_true_eq_false, if_false, Bool.not_true, Bool.false_eq_true]
end

/-- Settles O19: a trap for each of the three checks, and past them the queue's one condition on its room. -/
theorem jobPost : Obligations.JobPost := by
  intro s t r d a h hc core off q
  refine ⟨fun ho hs hw hset => ⟨fun hroom => ?_, fun hfull => ?_⟩, fun ho hs hw hset => ?_, fun ho hs hw => ?_, fun ho => ?_, fun ho hs => ?_⟩
  · have hx : exec (.jobpost d a) s = .next _ :=
      (execJobpost_allowed h d a hc ho hs hw).trans (congrArg Host.Outcome.next ((if_pos hset).trans (jobAppend_room hc d off hroom)))
    refine ⟨_, _, hx, fun _ => rfl, fun k hk => ?_, ?_, wrote_wrReg _ d 0, getTh_setTh_self _ _ _⟩
    · exact (getTh_setTh _ _ _ _).trans (if_neg hk)
    · exact congrArg Part.devQueue ((getPart_setPart _ _ _ _).trans (if_pos rfl))
  · have hx : exec (.jobpost d a) s = .next _ :=
      (execJobpost_allowed h d a hc ho hs hw).trans (congrArg Host.Outcome.next ((if_pos hset).trans (jobAppend_full hc d off hfull)))
    exact hx ▸ result_writeBack d 1
  · have hx : exec (.jobpost d a) s = .next _ :=
      (execJobpost_allowed h d a hc ho hs hw).trans (congrArg Host.Outcome.next (if_neg (Bool.eq_false_iff.1 hset)))
    exact hx ▸ becomes_putTh s _
  · exact ⟨_, execJobpost_notOwned h d a ho hs hw⟩
  · exact ⟨_, execJobpost_misaligned h d a ho⟩
  · exact ⟨_, execJobpost_outside h d a ho hs⟩

end Sys2Proof.Machine
end

section
/-! Translation invalidation, and the registers that the management controller writes. -/

set_option Elab.async false

namespace Sys2Proof.Machine

open Safety

/-! ## Invalidation (R116) -/

/-- Of a translation cache that an invalidation has passed, no entry is one that it hits. -/
theorem hit_of_mem_invalidated {hit : Xlat → Bool} {t : Tab (List Xlat)} {e : Nat × List Xlat}
    (he : e ∈ t.filterMap fun c => if (c.2.filter fun x => !hit x).isEmpty then none else some (c.1, c.2.filter fun x => !hit x)) :
    ∀ x ∈ e.2, hit x = false := by
  obtain ⟨c, -, hc⟩ := List.mem_filterMap.1 he
  split at hc
  · cases hc
  · cases hc
    intro x hx
    simpa using (List.mem_filter.1 hx).2

/-- The translations of an invalidation of a page, of a partition, or of all are gone from every TLB. -/
theorem not_hit_of_mem_dropPinned {s : State} {mode part vpn : Nat} {e : Nat × List Xlat}
    (he : e ∈ (dropPinned s mode part vpn).coreTlb ∨ e ∈ (dropPinned s mode part vpn).dieTlb) : ∀ x ∈ e.2, ¬ (
      (mode = 0 ∧ x.host = false ∧ x.part = part ∧ x.va ≤ vpn * 4096 ∧ vpn * 4096 < x.va + 2 ^ x.log2) ∨ (mode = 1 ∧ x.part = part) ∨ 2 ≤ mode) := by
  intro x hx
  have hit := he.elim (fun h => hit_of_mem_invalidated h x hx) fun h => hit_of_mem_invalidated h x hx
  match mode with
  | 0 => simpa using hit
  | 1 => simpa using hit
  | n + 2 => cases hit

/-- So are the pinned ones, and no others. -/
theorem mem_pinned_dropPinned (s : State) (mode part vpn : Nat) (e : Nat × Nat × Nat × Nat) :
    e ∈ (dropPinned s mode part vpn).pinned ↔ e ∈ s.pinned ∧ ¬ (
      (mode = 0 ∧ e.1 / 4 = part ∧ e.2.1 ≤ vpn * 4096 ∧ vpn * 4096 < e.2.1 + 2 ^ e.2.2.1) ∨ (mode = 1 ∧ e.1 / 4 = part) ∨ 2 ≤ mode) := by
  match mode with
  | 0 => simp [dropPinned, imp_iff_not_or, or_assoc]
  | 1 => simp [dropPinned]
  | n + 2 => simp [dropPinned]

/-- An invalidation that is busy ends: its translations go, and it is no longer shown busy. -/
theorem endTlbinv_busy {s : State} (h : s.mgmt.tlbBusy = true) :
    endTlbinv s = { dropPinned s s.mgmt.tlbMode s.mgmt.tlbPart s.mgmt.tlbVpn with mgmt := { s.mgmt with tlbBusy := false, tlbMode := 3 } } := if_pos h
theorem endTlbinv_idle {s : State} (h : s.mgmt.tlbBusy = false) : endTlbinv s = s := if_neg (Bool.eq_false_iff.1 h)

theorem sameMem_endTlbinv (s : State) : SameMem s (endTlbinv s) := by
  unfold endTlbinv
  split <;> exact ⟨rfl, rfl, rfl⟩
theorem endTlbinv_cycle (s : State) : (endTlbinv s).cycle = s.cycle := by
  unfold endTlbinv
  split <;> rfl
/-- Of the management controller's registers only those of TLBINV change. -/
theorem endTlbinv_mgmt (s : State) : ∃ b m, (endTlbinv s).mgmt = { s.mgmt with tlbBusy := b, tlbMode := m } := by
  unfold endTlbinv
  split <;> exact ⟨_, _, rfl⟩

/-- What the start of an invalidation does. -/
theorem startTlbinv_spec (s : State) (mode part vpn : Nat) : let s' := startTlbinv s mode part vpn
    s'.mgmt = { s.mgmt with tlbBusy := true, tlbMode := mode, tlbPart := part, tlbVpn := vpn } ∧ s'.pinned = (endTlbinv s).pinned ∧ SameBytes s s'
      ∧ ∃ n, ⟨.master, s.cycle + 1 + n, .row .tlbinvComplete {}⟩ ∈ s'.agenda := by
  obtain ⟨b, m, hm⟩ := endTlbinv_mgmt s
  refine ⟨?_, rfl, (sameMem_endTlbinv s).sameBytes, Config.freeNat (endTlbinv s).free, ?_⟩
  · change { (endTlbinv s).mgmt with tlbBusy := true, tlbMode := mode, tlbPart := part, tlbVpn := vpn } = _
    rw [hm]
  · rw [← endTlbinv_cycle s]
    exact List.mem_append_right _ (List.mem_singleton_self _)

theorem invalidationsRule : InvalidationsRule := by
  intro s
  refine ⟨fun i mode part vpn hi => ?_, fun h => congrArg Host.Outcome.next (endTlbinv_idle h), fun h => ?_⟩
  · have hx : exec i s = .next (startTlbinv s mode part vpn) := by
      simp only [List.mem_cons, Prod.mk.injEq, List.not_mem_nil, or_false] at hi
      obtain ⟨rfl, rfl, rfl, rfl⟩ | ⟨rfl, rfl, rfl, rfl⟩ | ⟨rfl, rfl, rfl, rfl⟩ := hi <;> rfl
    exact ⟨_, hx, startTlbinv_spec s mode part vpn⟩
  · have hx : exec .tlbinvComplete s = .next _ := congrArg Host.Outcome.next (endTlbinv_busy h)
    exact ⟨_, hx, SameMem.sameBytes ⟨rfl, rfl, rfl⟩, rfl, mem_pinned_dropPinned s _ _ _, fun e he => not_hit_of_mem_dropPinned he⟩

/-! ## Register writes (R6, R442) -/

/-- An address below 0x10000 names a special register. -/
theorem execRegisterWrite_special {s : State} {x : Nat} (hx : s.cur.ix = x) (h : x < 0x10000) :
    execRegisterWrite s = .next (srStore s x s.cur.val) := by
  subst hx
  exact congrArg Host.Outcome.next (if_pos h)

/-- The addresses from 0x100000 on name registers of port B, where there is one. -/
theorem execRegisterWrite_portB {s : State} (h : 0x100000 ≤ s.cur.ix) (h' : s.cur.ix < 0x101000) :
    execRegisterWrite s = .next (if s.mgmt.portB.isSome = true then portBStore s (s.cur.ix - 0x100000) s.cur.val else s) := by
  have h1 : ¬ s.cur.ix < 0x10000 := by omega
  have h2 : ¬ s.cur.ix < 0x50000 := by omega
  have h3 : ¬ s.cur.ix = 0x200000 := by omega
  simp only [execRegisterWrite, h1, h2, h3, h, h', if_false, true_and]

theorem registerWritesRule : RegisterWritesRule := by
  intro s x v
  refine ⟨fun hx => ?_, fun hx => ?_, fun hx => ?_, fun hx => ?_, fun hx => ?_, fun hx => ?_, fun hx => ?_, fun hx hb => ?_, fun h h' hb => ?_⟩
  · exact execRegisterWrite_special hx (by decide)
  · exact execRegisterWrite_special hx (by decide)
  · exact execRegisterWrite_special hx (by decide)
  · exact execRegisterWrite_special hx (by decide)
  · exact execRegisterWrite_special hx (by decide)
  · change execRegisterWrite s = _
    have hv : s.cur.ix = 0x200000 := hx
    simp [execRegisterWrite, hv, setVfs, Config.totalVfs, v]
  · exact execRegisterWrite_special hx (by decide)
  · have hv : s.cur.ix = 0x100008 := hx
    have hw := execRegisterWrite_portB (s := s) (by omega) (by omega)
    rw [hv, if_pos hb] at hw
    exact hw
  · exact (execRegisterWrite_portB h h').trans (congrArg Host.Outcome.next (if_neg (by simp [hb])))

end Sys2Proof.Machine
end

section
/-! The mailbox of the management controller. -/

set_option Elab.async false

namespace Sys2Proof.Machine

open Safety

/-- Memories that are as before read as before, whatever the length. -/
theorem SameMem.rdMem {s s' : State} (h : SameMem s s') (p : Place) (n : Nat) : rdMem s' p n = rdMem s p n := by
  obtain ⟨hd, hh, hs⟩ := h
  obtain ⟨st, a⟩ := p
  cases st <;> simp [Machine.rdMem, hd, hh, hs]

/-- What is logged does not reach the device memory or the mailbox's data. -/
theorem Logged.mem {s s' : State} (h : Logged s s') : s'.mem = s.mem := by obtain ⟨_, _, _, _, _, _, _, -, -, rfl⟩ := h; rfl
theorem Logged.mbdata {s s' : State} (h : Logged s s') : s'.mgmt.mbdata = s.mgmt.mbdata := by obtain ⟨_, _, _, _, _, _, _, -, -, rfl⟩ := h; rfl

theorem w64_toNat (v : W64) : w64 v.toNat = v := (BitVec.ofNat_toNat _ v).trans (BitVec.setWidth_eq v)

/-! ## Resident windows in a pool (R100) -/

/-- A relation that composes and holds across a store in device memory holds between a state and the view with its windows in their shares. -/
theorem rfView_rel {R : State → State → Prop} (refl : ∀ s, R s s) (trans : ∀ {s t u}, R s t → R t u → R s u)
    (step : ∀ s p l, R s (wrMem s ⟨.dev, p⟩ l)) (s : State) (core : Nat) : R s (rfView s core) := by
  unfold rfView
  split
  · exact refl s
  · exact foldl_rel refl trans (fun s i => foldl_rel refl trans (fun s k => step s _ _) _ s) _ s
/-- One that holds across a change of a thread holds between a state and the one with its windows taken back from their shares. -/
theorem rfBack_rel {R : State → State → Prop} (refl : ∀ s, R s s) (trans : ∀ {s t u}, R s t → R t u → R s u)
    (step : ∀ s k t, R s (setTh s k t)) (s : State) (core : Nat) : R s (rfBack s core) := by
  unfold rfBack
  split
  · exact refl s
  · exact foldl_rel refl trans (fun s i => step s _ _) _ s

theorem rfView_mgmt (s : State) (core : Nat) : (rfView s core).mgmt = s.mgmt :=
  rfView_rel (R := fun s t => t.mgmt = s.mgmt) (fun _ => rfl) (fun h k => k.trans h) (fun _ _ _ => rfl) s core
theorem rfBack_mgmt (s : State) (core : Nat) : (rfBack s core).mgmt = s.mgmt :=
  rfBack_rel (R := fun s t => t.mgmt = s.mgmt) (fun _ => rfl) (fun h k => k.trans h) (fun _ _ _ => rfl) s core
theorem sameMem_rfBack (s : State) (core : Nat) : SameMem s (rfBack s core) :=
  rfBack_rel SameMem.refl SameMem.trans sameMem_setTh s core

/-! ## A word of an engine's SRAM (R208) -/

theorem sramWrite_mgmt (s : State) (die off v : Nat) : (sramWrite s die off v).mgmt = s.mgmt := by
  unfold sramWrite
  split
  · rfl
  · split <;> rfl

/-- A digest reference of 0 reads as none does. -/
theorem getD_reference (v : Nat) : (if v = 0 then none else some (w64 v)).getD 0 = w64 v := by
  split
  · next h => rw [h]; rfl
  · rfl

/-- A word that is written is read back. -/
theorem sramRead_sramWrite_same (s : State) (die off v : Nat) : sramRead (sramWrite s die off v) die off = (w64 v).toNat := by
  unfold sramRead sramWrite
  by_cases h1 : off < 0x40000
  · simp only [h1, if_true, tget_tput]
    by_cases h2 : off % 16 < 8 <;> simp only [h2, if_true, if_false]
  · by_cases h2 : off < 0x60000
    · simp only [h1, h2, if_true, if_false, tget_tput, getD_reference]
    · simp only [h1, h2, if_false, lookup_tins_same, Option.getD_some]

/-! ## What an access names and meets (R439) -/

/-- The address map depends on the installed DRAM alone. -/
theorem boxOf_congr {s s' : State} (h : s'.mgmt.dramGib = s.mgmt.dramGib) (addr : Nat) : boxOf s' addr = boxOf s addr := by
  unfold boxOf dramSize
  rw [h]

theorem eccLog_good {s : State} {a n : Nat} (h : eccOf s a n = 0) (core : Nat) : eccLog s ⟨.dev, a⟩ n core = (s, true) := by
  change eccBlocks s ⟨.dev, a⟩ (blocksOf a n) core = _
  unfold eccOf at h
  simp only [eccBlocks, h]

theorem eccLog_uncorrectable {s : State} {a n : Nat} (h : 2 ≤ eccOf s a n) (core : Nat) : (eccLog s ⟨.dev, a⟩ n core).2 = false := by
  change (eccBlocks s ⟨.dev, a⟩ (blocksOf a n) core).2 = _
  unfold eccBlocks
  split
  · next h0 => exact absurd (h0 ▸ h : 2 ≤ 0) (by decide)
  · next h1 => exact absurd (h1 ▸ h : 2 ≤ 1) (by decide)
  · rfl

/-! An equation for each case of an access. Only the function itself is unfolded, for the kernel would compute the address map to compare two cases on it. -/

section
variable {s : State} {addr : Nat}

theorem boxEcc_mem {a : Nat} (h : boxOf s addr = .mem a) : boxEcc s addr = eccLog s ⟨.dev, a⟩ 8 0 := by
  conv => lhs; fun; fun; delta boxEcc
  rw [h]

theorem boxEcc_good (h : ∀ a, boxOf s addr = .mem a → eccOf s a 8 = 0) : boxEcc s addr = (s, true) := by
  conv => lhs; fun; fun; delta boxEcc
  split
  · next a ha => exact eccLog_good (h a ha) 0
  · rfl

theorem boxEcc_notMem (h : ∀ a, boxOf s addr ≠ .mem a) : boxEcc s addr = (s, true) := boxEcc_good fun a ha => absurd ha (h a)

theorem boxRead_mem {a : Nat} (h : boxOf s addr = .mem a) :
    boxRead s addr = some (leNat (rdMem (((poolCore a).map (rfView s)).getD s) ⟨.dev, a⟩ 8)) := by
  conv => lhs; fun; fun; delta boxRead
  rw [h]
theorem boxRead_sram {d o : Nat} (h : boxOf s addr = .sram d o) : boxRead s addr = some (sramRead s d o) := by
  conv => lhs; fun; fun; delta boxRead
  rw [h]
theorem boxRead_special {x : Nat} (h : boxOf s addr = .special x) : boxRead s addr = some (devRead s x) := by
  conv => lhs; fun; fun; delta boxRead
  rw [h]
theorem boxRead_nothing (h : boxOf s addr = .nothing) : boxRead s addr = none := by
  conv => lhs; fun; fun; delta boxRead
  rw [h]
theorem boxRead_isSome (h : boxOf s addr ≠ .nothing) : ∃ v, boxRead s addr = some v := by
  conv in boxRead s addr => fun; fun; delta boxRead
  split
  case h_8 e => exact absurd e h
  all_goals exact ⟨_, rfl⟩

/-- A write of memory; in a pool the shares hold the resident windows before it, and the threads have them back after it. -/
theorem boxWrite_mem {a : Nat} (h : boxOf s addr = .mem a) (v : Nat) : ∃ s1, boxWrite s addr v = some s1 ∧ s1.mgmt = s.mgmt
    ∧ SameMem (wrMem (((poolCore a).map (rfView s)).getD s) ⟨.dev, a⟩ (leBytes 8 v)) s1 := by
  conv in boxWrite s addr v => fun; fun; fun; delta boxWrite
  rw [h]
  refine ⟨_, rfl, ?_⟩
  cases poolCore a with
  | none => exact ⟨rfl, .refl _⟩
  | some c => exact ⟨(rfBack_mgmt _ c).trans (rfView_mgmt s c), sameMem_rfBack _ c⟩
theorem boxWrite_sram {d o : Nat} (h : boxOf s addr = .sram d o) (v : Nat) : boxWrite s addr v = some (sramWrite s d o v) := by
  conv => lhs; fun; fun; fun; delta boxWrite
  rw [h]
theorem boxWrite_nothing (h : boxOf s addr = .nothing) (v : Nat) : boxWrite s addr v = none := by
  conv => lhs; fun; fun; fun; delta boxWrite
  rw [h]
theorem boxWrite_isSome (h : boxOf s addr ≠ .nothing) (v : Nat) : ∃ s1, boxWrite s addr v = some s1 := by
  conv in boxWrite s addr v => fun; fun; fun; delta boxWrite
  split
  case h_8 e => exact absurd e h
  all_goals exact ⟨_, rfl⟩
end

/-! ## The two commands (R433)

The function that a command applies to the next state is held as a variable, for the reason given above. -/

section
variable {s : State}

/-- A command that meets an uncorrectable error fails: it logs the error and transfers nothing. -/
theorem execMailboxRead_error (h : (boxEcc s s.mgmt.mbaddr).2 = false) :
    execMailboxRead s = .next (boxDone (boxEcc s s.mgmt.mbaddr).1 true) := by
  conv => lhs; fun; delta execMailboxRead
  generalize boxEcc s s.mgmt.mbaddr = p at h ⊢
  obtain ⟨s1, b⟩ := p
  obtain rfl : b = false := h
  rfl
theorem execMailboxWrite_error (h : (boxEcc s s.mgmt.mbaddr).2 = false) :
    execMailboxWrite s = .next (boxDone (boxEcc s s.mgmt.mbaddr).1 true) := by
  conv => lhs; fun; delta execMailboxWrite
  generalize boxEcc s s.mgmt.mbaddr = p at h ⊢
  obtain ⟨s1, b⟩ := p
  obtain rfl : b = false := h
  rfl

/-- Any other read ends with its value, or fails where the address has none. -/
theorem execMailboxRead_good (he : boxEcc s s.mgmt.mbaddr = (s, true)) : execMailboxRead s = .next ((boxRead s s.mgmt.mbaddr).elim (boxDone s true)
    fun v => boxDone { drawn s with mgmt := { s.mgmt with mbdata := w64 v } } false) := by
  conv => lhs; fun; delta execMailboxRead
  obtain ⟨read, hr⟩ : ∃ f, f = boxRead := exists_eq
  rw [he, ← hr]
  dsimp only
  cases read s s.mgmt.mbaddr <;> rfl
/-- Any other write ends with what it has written, or fails where there is nothing to write to. -/
theorem execMailboxWrite_good (he : boxEcc s s.mgmt.mbaddr = (s, true)) : execMailboxWrite s =
    .next ((boxWrite s s.mgmt.mbaddr s.mgmt.mbdata.toNat).elim (boxDone s true) fun s1 => boxDone s1 false) := by
  conv => lhs; fun; delta execMailboxWrite
  obtain ⟨write, hw⟩ : ∃ f, f = boxWrite := exists_eq
  rw [he, ← hw]
  dsimp only
  cases write s s.mgmt.mbaddr s.mgmt.mbdata.toNat <;> rfl

/-- A read that finds a value leaves it in MBDATA. -/
theorem mailboxRead_value {v : Nat} (he : boxEcc s s.mgmt.mbaddr = (s, true)) (hr : boxRead s s.mgmt.mbaddr = some v) :
    ∃ s', exec .mailboxRead s = .next s' ∧ SameBytes s s' ∧ s'.mgmt = { s.mgmt with mbbusy := false, mbfail := false, mbdata := w64 v } := by
  have hx : exec .mailboxRead s = .next _ := execMailboxRead_good he
  rw [hr, Option.elim_some] at hx
  exact ⟨_, hx, fun _ => rfl, rfl⟩
/-- A write ends with the state that it has written. -/
theorem mailboxWrite_written {s1 : State} (he : boxEcc s s.mgmt.mbaddr = (s, true))
    (hw : boxWrite s s.mgmt.mbaddr s.mgmt.mbdata.toNat = some s1) : exec .mailboxWrite s = .next (boxDone s1 false) := by
  have hx : exec .mailboxWrite s = .next _ := execMailboxWrite_good he
  rwa [hw, Option.elim_some] at hx

/-- A write of memory, in a pool over the resident windows. -/
theorem mailboxWrite_mem {a : Nat} (h : boxOf s s.mgmt.mbaddr = .mem a) (he : boxEcc s s.mgmt.mbaddr = (s, true)) :
    ∃ s', exec .mailboxWrite s = .next s' ∧ rdMem s' ⟨.dev, a⟩ 8 = leBytes 8 s.mgmt.mbdata.toNat
      ∧ SameBytesBut (((poolCore a).map (rfView s)).getD s) s' ⟨.dev, a⟩ 8 ∧ s'.mgmt = { s.mgmt with mbbusy := false, mbfail := false } := by
  obtain ⟨s1, hw, hm, hs⟩ := boxWrite_mem h s.mgmt.mbdata.toNat
  have hl : (leBytes 8 s.mgmt.mbdata.toNat).length = 8 := length_leBytes 8 _
  refine ⟨_, mailboxWrite_written he hw, ?_, fun q hq => ?_, by rw [boxDone, hm]⟩
  · have hread := rdMem_wrMem_same (((poolCore a).map (rfView s)).getD s) ⟨.dev, a⟩ (leBytes 8 s.mgmt.mbdata.toNat)
    rw [hl] at hread
    exact (hs.rdMem _ _).trans hread
  · exact (hs.sameBytes q).trans (sameBytesBut_wrMem _ ⟨.dev, a⟩ _ q (hl.symm ▸ hq))

/-- What a word of an engine's SRAM is written with, the next read of it gives. -/
theorem mailbox_sram {d o : Nat} (h : boxOf s s.mgmt.mbaddr = .sram d o) : ∃ s', exec .mailboxWrite s = .next s'
    ∧ sramRead s' d o = s.mgmt.mbdata.toNat ∧ ∃ t, exec .mailboxRead s' = .next t ∧ t.mgmt.mbdata = s.mgmt.mbdata := by
  have hm := sramWrite_mgmt s d o s.mgmt.mbdata.toNat
  have hv := sramRead_sramWrite_same s d o s.mgmt.mbdata.toNat
  have hw := mailboxWrite_written (boxEcc_notMem (by simp [h])) (boxWrite_sram h _)
  rw [w64_toNat] at hv
  generalize sramWrite s d o s.mgmt.mbdata.toNat = s1 at hm hv hw
  have hb : boxOf (boxDone s1 false) (boxDone s1 false).mgmt.mbaddr = .sram d o := by
    rw [show (boxDone s1 false).mgmt.mbaddr = s.mgmt.mbaddr from congrArg (·.mbaddr) hm, boxOf_congr (s' := boxDone s1 false) (congrArg (·.dramGib) hm), h]
  obtain ⟨t, hr, -, ht⟩ := mailboxRead_value (boxEcc_notMem (by simp [hb])) (boxRead_sram hb)
  refine ⟨_, hw, hv, t, hr, ?_⟩
  rw [ht]
  exact (congrArg w64 hv).trans (w64_toNat _)

/-- An uncorrectable error is logged, and nothing is read or written (DEDUCED, log 49). -/
theorem mailbox_uncorrectable {a : Nat} (h : boxOf s s.mgmt.mbaddr = .mem a) (h2 : 2 ≤ eccOf s a 8) :
    ∃ s', Logged s s' ∧ exec .mailboxRead s = .next (boxDone s' true) ∧ exec .mailboxWrite s = .next (boxDone s' true) := by
  have hbad : (boxEcc s s.mgmt.mbaddr).2 = false := by
    rw [boxEcc_mem h]
    exact eccLog_uncorrectable h2 0
  refine ⟨_, ?_, execMailboxRead_error hbad, execMailboxWrite_error hbad⟩
  rw [boxEcc_mem h]
  exact logged_eccLog _ _ _ _

/-- At an unpopulated address both commands fail. -/
theorem mailbox_nothing (h : boxOf s s.mgmt.mbaddr = .nothing) :
    exec .mailboxRead s = .next (boxDone s true) ∧ exec .mailboxWrite s = .next (boxDone s true) := by
  have he : boxEcc s s.mgmt.mbaddr = (s, true) := boxEcc_notMem (by simp [h])
  have hr : exec .mailboxRead s = .next _ := execMailboxRead_good he
  have hw : exec .mailboxWrite s = .next _ := execMailboxWrite_good he
  rw [boxRead_nothing h] at hr
  rw [boxWrite_nothing h] at hw
  exact ⟨hr, hw⟩
end

theorem mailboxRule : MailboxRule := by
  intro s
  refine ⟨fun a h hg => ?_, fun a h h2 => ?_, fun d o h => mailbox_sram h, fun hn hg => ⟨?_, ?_⟩, fun x h => ?_, mailbox_nothing⟩
  · have he : boxEcc s s.mgmt.mbaddr = (s, true) := (boxEcc_mem h).trans (eccLog_good hg 0)
    exact ⟨mailboxRead_value he (boxRead_mem h), mailboxWrite_mem h he⟩
  · obtain ⟨s', hl, hr, hw⟩ := mailbox_uncorrectable h h2
    exact ⟨⟨_, hr, rfl, hl.mbdata, hl.mem⟩, _, hw, rfl, hl.mem⟩
  · obtain ⟨v, hv⟩ := boxRead_isSome hn
    obtain ⟨s', hx, hs, hm⟩ := mailboxRead_value (boxEcc_good hg) hv
    exact ⟨s', hx, hs, by rw [hm], by rw [hm]⟩
  · obtain ⟨s1, h1⟩ := boxWrite_isSome hn s.mgmt.mbdata.toNat
    exact ⟨_, mailboxWrite_written (boxEcc_good hg) h1, rfl, rfl⟩
  · obtain ⟨s', hx, hs, hm⟩ := mailboxRead_value (boxEcc_notMem (by simp [h])) (boxRead_special h)
    exact ⟨s', hx, by rw [hm], hs⟩

/-- Settles O50: an invalidation by what it drops as it ends, the mailbox by what its address names, a register write by the rule of its register. -/
theorem managementAccesses : Obligations.ManagementAccesses := ⟨invalidationsRule, mailboxRule, registerWritesRule⟩

end Sys2Proof.Machine
end

section
/-! Exact values of floating-point codes: sums, products, and the code of a number on the grid of a format. -/

set_option Elab.async false

namespace Sys2Proof.Machine

open Safety

/-- The sign of a value as a factor. -/
def sgn (neg : Bool) : ℚ := if neg then -1 else 1

@[simp] theorem sgn_false : sgn false = 1 := rfl
@[simp] theorem sgn_true : sgn true = -1 := rfl
theorem sgn_not (n : Bool) : sgn (!n) = -sgn n := by cases n <;> simp
theorem sgn_bne (a b : Bool) : sgn (a != b) = sgn a * sgn b := by cases a <;> cases b <;> simp
theorem sgn_mul_self (n : Bool) : sgn n * sgn n = 1 := by cases n <;> simp

theorem ratOf_num (n : Bool) (m : Nat) (e : Int) : ratOf (.num n m e) = sgn n * m * (2 : ℚ) ^ e := rfl

/-- A number written at a lower exponent. -/
theorem mul_two_zpow_lower (m : Nat) {e q : Int} (h : q ≤ e) : ((m * 2 ^ (e - q).toNat : Nat) : ℚ) * (2 : ℚ) ^ q = m * (2 : ℚ) ^ e := by
  rw [Nat.cast_mul, Nat.cast_pow, Nat.cast_ofNat, ← zpow_natCast, mul_assoc, ← zpow_add₀ (by norm_num)]
  congr 2
  omega

/-- The value of a signed sum of magnitudes. -/
theorem ratOf_ofInt (z e : Int) : ratOf (.num (z < 0) z.natAbs e) = z * (2 : ℚ) ^ e := by
  rw [ratOf_num, Nat.cast_natAbs]
  by_cases h : z < 0
  · simp [h, abs_of_neg]
  · simp [h, abs_of_nonneg (not_lt.1 h)]

theorem ratOf_fvNeg (n : Bool) (m : Nat) (e : Int) : ratOf (fvNeg (.num n m e)) = -ratOf (.num n m e) := by
  simp [fvNeg, ratOf_num, sgn_not]

theorem ratOf_fvMul (n n' : Bool) (m m' : Nat) (e e' : Int) :
    ratOf (fvMul (.num n m e) (.num n' m' e')) = ratOf (.num n m e) * ratOf (.num n' m' e') := by
  simp only [fvMul, ratOf_num, sgn_bne, Nat.cast_mul, zpow_add₀ (two_ne_zero' ℚ)]
  ring

theorem ratOf_num_neg_iff (n : Bool) (m : Nat) (e : Int) : ratOf (.num n m e) < 0 ↔ n = true ∧ m ≠ 0 := by
  have h2 : (0 : ℚ) < 2 ^ e := zpow_pos two_pos e
  rw [ratOf_num, ← neg_pos, ← neg_mul, mul_pos_iff_of_pos_right h2]
  cases n <;> simp [Nat.pos_iff_ne_zero]

theorem fvAdd_num (n n' : Bool) (m m' : Nat) (e e' : Int) : ∃ k j i, fvAdd (.num n m e) (.num n' m' e') = .num k j i := by
  simp only [fvAdd]
  split <;> exact ⟨_, _, _, rfl⟩

theorem ratOf_fvAdd (n n' : Bool) (m m' : Nat) (e e' : Int) :
    ratOf (fvAdd (.num n m e) (.num n' m' e')) = ratOf (.num n m e) + ratOf (.num n' m' e') := by
  by_cases h : m = 0 ∧ m' = 0
  · simp [fvAdd, ratOf_num, h]
  · have h1 := mul_two_zpow_lower m (min_le_left e e')
    have h2 := mul_two_zpow_lower m' (min_le_right e e')
    simp only [fvAdd, if_neg h]
    rw [ratOf_ofInt, ratOf_num, ratOf_num, mul_assoc, mul_assoc, ← h1, ← h2]
    cases n <;> cases n' <;> simp <;> ring

@[simp] theorem fvAdd_nan_left (v : FV) : fvAdd .nan v = .nan := rfl
@[simp] theorem fvAdd_nan_right (v : FV) : fvAdd v .nan = .nan := by cases v <;> rfl
@[simp] theorem fvMul_nan_left (v : FV) : fvMul .nan v = .nan := rfl
theorem roundF_nan (rm : RMode) (b : Nat) : roundF 6 rm b .nan = canonNan 6 := rfl

theorem roundMag_rne_nearest (neg : Bool) (m sh b : Nat) : let r := roundMag .rne neg m sh b
    2 * (r * 2 ^ sh) ≤ 2 * m + 2 ^ sh ∧ 2 * m ≤ 2 * (r * 2 ^ sh) + 2 ^ sh ∧ (2 * (m % 2 ^ sh) = 2 ^ sh → r % 2 = 0) := by
  have hd := Nat.div_add_mod' m (2 ^ sh)
  have hlt := Nat.mod_lt m (Nat.two_pow_pos sh)
  have hs : (m / 2 ^ sh + 1) * 2 ^ sh = m / 2 ^ sh * 2 ^ sh + 2 ^ sh := Nat.succ_mul _ _
  simp only [roundMag]
  split
  · omega
  · split <;> omega

/-- R128, R130, R287, R288. -/
theorem exactArithmeticRule : ExactArithmeticRule := by
  refine ⟨?_, roundMag_rne_nearest, fun a ha b => ?_, ?_⟩
  · rintro _ _ n m e n' m' e' rfl rfl
    exact ⟨ratOf_fvAdd .., ratOf_fvMul .., ratOf_fvNeg ..⟩
  · have h6 : fpVal 6 a = .nan := by simpa [isNan32, f32] using ha
    simp [fAdd, fMul, fFma, fRcp, fRsq, fExp2, fLog2, fTanh, f32, h6, roundF_nan, canonNan]
  · decide

end Sys2Proof.Machine
end

section
/-! Rounding: the integer that a quotient is rounded to, and the grid of a format. -/

set_option Elab.async false

namespace Sys2Proof.Machine

open Safety

/-! ### Rounding to an integer -/

/-- Rounding scales with the unit. -/
theorem rounds_scale {rm : RMode} {b : Nat} {z t u : ℚ} (hu : 0 < u) (h : Rounds rm b 1 z t) : Rounds rm b u (u * z) (u * t) := by
  obtain ⟨k, rfl, h⟩ := h
  refine ⟨k, by rw [one_mul], ?_⟩
  rw [one_mul] at h ⊢
  cases rm
  case rne =>
    rw [← mul_sub, abs_mul, abs_of_pos hu]
    exact ⟨by nlinarith [h.1], fun he => h.2 (mul_left_cancel₀ hu.ne' (by linarith))⟩
  case rz =>
    rw [abs_mul, abs_mul, abs_of_pos hu]
    exact ⟨by nlinarith [h.1], by nlinarith [h.2.1], by nlinarith [h.2.2, mul_nonneg (mul_pos hu hu).le h.2.2]⟩
  case rd => exact ⟨by nlinarith [h.1], by nlinarith [h.2]⟩
  case ru => exact ⟨by nlinarith [h.1], by nlinarith [h.2]⟩
  case sr => simpa [mul_div_cancel_left₀ _ hu.ne'] using h

/-- A multiple of the unit is rounded to itself. -/
theorem rounds_intCast (rm : RMode) (b : Nat) (k : ℤ) : Rounds rm b 1 k k := by
  refine ⟨k, (one_mul _).symm, ?_⟩
  cases rm <;> simp [mul_self_nonneg]

/-- What is rounded moves by less than the unit. -/
theorem rounds_abs_sub_lt {rm : RMode} {b : Nat} {u y t : ℚ} (hu : 0 < u) (h : Rounds rm b u y t) : |y - t| < u := by
  obtain ⟨k, rfl, h⟩ := h
  cases rm
  case rne => linarith [h.1]
  case rz =>
    obtain ⟨h1, h2, h3⟩ := h
    rcases le_total 0 y with hy | hy <;> rcases le_total 0 (u * k : ℚ) with hk | hk <;> simp only [abs_of_nonneg, abs_of_nonpos, hy, hk] at h1 h2 <;>
      rw [abs_lt] <;> constructor <;> nlinarith
  case rd => rw [abs_lt]; constructor <;> linarith [h.1, h.2]
  case ru => rw [abs_lt]; constructor <;> linarith [h.1, h.2]
  case sr =>
    have hy : y = u * (y / u) := (mul_div_cancel₀ _ hu.ne').symm
    have h0 := Int.floor_le (y / u)
    have h1 := Int.lt_floor_add_one (y / u)
    have hz : |y / u - k| < 1 := by
      simp only at h
      rw [h, abs_lt]
      split
      next hb =>
        have : (0 : ℚ) ≤ b := b.cast_nonneg
        push_cast
        constructor <;> linarith
      next => push_cast; constructor <;> linarith
    calc |y - u * k| = u * |y / u - k| := by rw [← abs_of_pos hu, ← abs_mul, abs_of_pos hu, mul_sub, ← hy]
      _ < u := by nlinarith

theorem abs_sgn (neg : Bool) : |sgn neg| = 1 := by cases neg <;> simp

/-- A number between n and n + 1 is rounded to n or n + 1, in each mode by what the fraction is (R8, R130). -/
theorem rounds_between {rm : RMode} {neg up : Bool} {b n : Nat} {f : ℚ} (h0 : 0 < f) (h1 : f < 1)
    (hup : up = true ↔ match rm with
      | .rne => 1 < 2 * f ∨ 2 * f = 1 ∧ n % 2 = 1
      | .rz => False
      | .rd => neg = true
      | .ru => neg = false
      | .sr => if neg then (1 - f) * 65536 ≤ b else b < f * 65536) :
    Rounds rm b 1 (sgn neg * (n + f)) (sgn neg * (n + up.toNat : Nat)) := by
  have hn : (0 : ℚ) ≤ n := n.cast_nonneg
  refine ⟨if neg then -(n + up.toNat : Nat) else (n + up.toNat : Nat), by cases neg <;> simp, ?_⟩
  rw [div_one]
  cases rm <;> simp only at hup ⊢
  case rne =>
    have hd : |sgn neg * (n + f) - sgn neg * (n + up.toNat : Nat)| = |f - up.toNat| := by
      rw [← mul_sub, abs_mul, abs_sgn, one_mul, Nat.cast_add, add_sub_add_left_eq_sub]
    rw [hd]
    cases up
    · simp only [Bool.false_eq_true, false_iff, not_or, not_lt, not_and, Bool.toNat_false, Nat.cast_zero, sub_zero, abs_of_pos h0, add_zero] at hup ⊢
      exact ⟨hup.1, fun he => by have := hup.2 he; split <;> omega⟩
    · simp only [true_iff, Bool.toNat_true, Nat.cast_one, abs_sub_comm f, abs_of_pos (sub_pos.2 h1)] at hup ⊢
      refine ⟨by rcases hup with h | h <;> linarith, fun he => ?_⟩
      rcases hup with h | h
      · linarith
      · split <;> omega
  case rz =>
    obtain rfl : up = false := by simpa using hup
    have hs : (sgn neg * n) * (sgn neg * (n + f)) = n * (n + f) := by rw [mul_mul_mul_comm, sgn_mul_self, one_mul]
    simp only [Bool.toNat_false, add_zero, hs, abs_mul, abs_sgn, one_mul, abs_of_nonneg hn, abs_of_nonneg (add_nonneg hn h0.le)]
    exact ⟨by linarith, by linarith, by positivity⟩
  case rd =>
    obtain rfl : up = neg := by rwa [Bool.eq_iff_iff]
    cases up <;> simp <;> constructor <;> linarith
  case ru =>
    obtain rfl : up = !neg := by cases neg <;> simpa using hup
    cases neg <;> simp <;> constructor <;> linarith
  case sr =>
    cases neg
    · have hf : ⌊(n : ℚ) + f⌋ = n := Int.floor_eq_iff.2 ⟨by simpa using h0.le, by simpa using h1⟩
      simp only [Bool.false_eq_true, if_false, sgn_false, one_mul, hf, Int.cast_natCast, add_sub_cancel_left] at hup ⊢
      simp only [← hup]
      cases up <;> simp
    · have hf : ⌊-((n : ℚ) + f)⌋ = -(n + 1) := Int.floor_eq_iff.2 ⟨by push_cast; linarith, by push_cast; linarith⟩
      have he : -((n : ℚ) + f) - (-(n + 1) : ℤ) = 1 - f := by push_cast; ring
      simp only [if_true, sgn_true, neg_one_mul, hf, he] at hup ⊢
      rw [← not_lt] at hup
      cases up <;> simp_all

/-- Whether a mode takes the integer n + 1 for the number n + r / 2^sh, whose fraction is not 0. -/
def takesNext (rm : RMode) (neg : Bool) (n r sh b : Nat) : Bool :=
  match rm with
  | .rne => decide (2 ^ sh < 2 * r ∨ 2 * r = 2 ^ sh ∧ n % 2 = 1)
  | .rz => false
  | .rd => neg
  | .ru => !neg
  | .sr => if neg then decide ((2 ^ sh - r) * 65536 ≤ b * 2 ^ sh) else decide (b * 2 ^ sh < r * 65536)

theorem roundMag_eq (rm : RMode) (neg : Bool) (m sh b : Nat) : roundMag rm neg m sh b
    = m / 2 ^ sh + (decide (m % 2 ^ sh ≠ 0) && takesNext rm neg (m / 2 ^ sh) (m % 2 ^ sh) sh b).toNat := by
  have hup (n : Nat) (c : Prop) [Decidable c] : (if c then n + 1 else n) = n + (decide c).toNat := by split <;> simp [*]
  have hdown (n : Nat) (c : Prop) [Decidable c] : (if c then n else n + 1) = n + (decide ¬c).toNat := by split <;> simp [*]
  unfold roundMag takesNext
  by_cases hr : m % 2 ^ sh = 0
  · simp [hr]
  · cases rm <;> simp only [hr, hup, hdown, if_false, decide_not, ne_eq, decide_false, Bool.not_false, Bool.true_and, Bool.decide_eq_true, not_lt, gt_iff_lt,
      Bool.toNat_false, add_zero]
    case sr => cases neg <;> simp only [Bool.false_eq_true, if_true, if_false]

/-- A quotient of magnitudes, as its sign has it, is rounded to an integer in each mode (R8, R130). -/
theorem rounds_roundMag (rm : RMode) (neg : Bool) (m sh b : Nat) :
    Rounds rm b 1 (sgn neg * (m / 2 ^ sh)) (sgn neg * roundMag rm neg m sh b) := by
  have hp : (0 : ℚ) < 2 ^ sh := by positivity
  have hm : (m / 2 ^ sh : Nat) * 2 ^ sh + (m % 2 ^ sh : Nat) = (m : ℚ) := mod_cast Nat.div_add_mod' m (2 ^ sh)
  have hlt := Nat.mod_lt m (Nat.two_pow_pos sh)
  have hq : (m : ℚ) / 2 ^ sh = (m / 2 ^ sh : Nat) + (m % 2 ^ sh : Nat) / 2 ^ sh := by
    rw [div_eq_iff hp.ne', add_mul, div_mul_cancel₀ _ hp.ne', hm]
  rw [hq, roundMag_eq]
  generalize m / 2 ^ sh = n at *
  generalize m % 2 ^ sh = r at *
  by_cases hr : r = 0
  · simpa [hr, sgn] using rounds_intCast rm b (if neg then -n else n)
  · have h0 : (0 : ℚ) < r := mod_cast Nat.pos_of_ne_zero hr
    have h1 : (r : ℚ) < 2 ^ sh := mod_cast hlt
    refine rounds_between (div_pos h0 hp) ((div_lt_one hp).2 h1) ?_
    have hc : 1 - (r : ℚ) / 2 ^ sh = (2 ^ sh - r : Nat) / 2 ^ sh := by
      rw [Nat.cast_sub hlt.le, sub_div, Nat.cast_pow, Nat.cast_ofNat, div_self hp.ne']
    simp only [hr, hc, ne_eq, not_false_eq_true, decide_true, Bool.true_and, takesNext, ← mul_div_assoc, mul_comm _ (65536 : ℚ), lt_div_iff₀ hp, div_eq_iff hp.ne', div_le_iff₀ hp, one_mul]
    norm_cast
    cases rm <;> cases neg <;> simp [mul_comm]

/-! ### The grid of a format -/

/-- Below half of 2^-16 all numbers are rounded alike. -/
theorem roundMag_tiny {rm : RMode} {neg : Bool} {m sh b : Nat} (hm : m ≠ 0) (hb : b < 65536) (h : m * 2 ^ 17 ≤ 2 ^ sh) :
    roundMag rm neg m sh b = roundMag rm neg 1 17 b := by
  have hlt : m < 2 ^ sh := by omega
  have hd : m / 2 ^ sh = 0 := Nat.div_eq_of_lt hlt
  rw [roundMag_eq, roundMag_eq, hd, Nat.mod_eq_of_lt hlt]
  unfold takesNext
  have h2 : b * 2 ^ sh ≤ 65535 * 2 ^ sh := Nat.mul_le_mul_right _ (by omega)
  have h3 : b ≠ 0 → 2 ^ sh ≤ b * 2 ^ sh := fun hb => Nat.le_mul_of_pos_left _ (by omega)
  generalize 2 ^ sh = p at *
  congr 3
  · simp [hm]
  · cases rm <;> simp
    case rne => omega
    case sr =>
      by_cases hb0 : b = 0
      · cases neg <;> simp [hb0] <;> omega
      · have := h3 hb0
        cases neg <;> simp <;> omega

/-- A magnitude m · 2^e is rounded to an integer; the cap on the shift loses nothing. -/
theorem rounds_roundInt {rm : RMode} {neg : Bool} {m b : Nat} {e : Int} (hm : m ≠ 0) (hb : b < 65536) :
    Rounds rm b 1 (sgn neg * (m * (2 : ℚ) ^ e)) (sgn neg * roundInt rm neg m e b) := by
  unfold roundInt
  split
  next he =>
    obtain ⟨n, rfl⟩ := Int.eq_ofNat_of_zero_le he
    simpa [sgn] using rounds_intCast rm b (if neg then -(m * 2 ^ n) else m * 2 ^ n)
  next he =>
    have hz : (m : ℚ) * (2 : ℚ) ^ e = m / 2 ^ (-e).toNat := by
      rw [div_eq_mul_inv, ← zpow_natCast, ← zpow_neg]
      congr 2
      omega
    have hlog : m < 2 ^ (Nat.log2 m + 1) := Nat.lt_log2_self
    have hbig : ∀ k, 18 + Nat.log2 m ≤ k → m * 2 ^ 17 ≤ 2 ^ k := fun k hk =>
      calc m * 2 ^ 17 ≤ 2 ^ (Nat.log2 m + 1) * 2 ^ 17 := Nat.mul_le_mul_right _ hlog.le
        _ = 2 ^ (18 + Nat.log2 m) := by rw [← pow_add]; congr 1; omega
        _ ≤ 2 ^ k := Nat.pow_le_pow_right two_pos hk
    have hcut : (if (-e).toNat > 4096 + Nat.log2 m then roundMag rm neg m (4096 + Nat.log2 m) b else roundMag rm neg m (-e).toNat b)
        = roundMag rm neg m (-e).toNat b := by
      split
      · rw [roundMag_tiny hm hb (hbig _ (by omega)), roundMag_tiny hm hb (hbig _ (by omega))]
      · rfl
    rw [hz, hcut]
    exact rounds_roundMag ..

end Sys2Proof.Machine
end

section
/-! The grid of a format, and the codes of numbers on it. -/

set_option Elab.async false

namespace Sys2Proof.Machine

open Safety

/-- The exponent of the grid of a format about m · 2^e. -/
def gridExp (fb bias m : Nat) (e : Int) : Int := max ((Nat.log2 m : Nat) + e - fb) (1 - bias - fb)

theorem roundGrid_eq (fb bias : Nat) (rm : RMode) (neg : Bool) (m : Nat) (e : Int) (b : Nat) :
    roundGrid fb bias rm neg m e b = (roundInt rm neg m (e - gridExp fb bias m e) b, gridExp fb bias m e) := by
  simp only [roundGrid, ← gridExp.eq_1]
  split
  next h => exact Prod.ext (if_pos (show 0 ≤ e - gridExp fb bias m e from sub_nonneg.2 h)).symm rfl
  next => rfl

theorem two_zpow_pos (e : Int) : (0 : ℚ) < 2 ^ e := zpow_pos two_pos e

theorem abs_ratOf_num (neg : Bool) (m : Nat) (e : Int) : |ratOf (.num neg m e)| = m * (2 : ℚ) ^ e := by
  rw [ratOf_num, abs_mul, abs_mul, abs_sgn, one_mul, Nat.abs_cast, abs_of_pos (two_zpow_pos e)]

/-- A number lies between two neighbouring powers of 2. -/
theorem two_zpow_log2 {m : Nat} (hm : m ≠ 0) (e : Int) :
    (2 : ℚ) ^ ((Nat.log2 m : Nat) + e) ≤ m * (2 : ℚ) ^ e ∧ m * (2 : ℚ) ^ e < (2 : ℚ) ^ ((Nat.log2 m : Nat) + e + 1) := by
  have hl : ((2 ^ Nat.log2 m : Nat) : ℚ) ≤ m := mod_cast Nat.log2_self_le hm
  have hh : (m : ℚ) < (2 ^ (Nat.log2 m + 1) : Nat) := mod_cast Nat.lt_log2_self
  push_cast at hl hh
  constructor
  · rw [zpow_add₀ two_ne_zero, zpow_natCast]
    exact mul_le_mul_of_nonneg_right hl (two_zpow_pos e).le
  · rw [add_right_comm, zpow_add₀ two_ne_zero, ← Nat.cast_succ, zpow_natCast]
    exact mul_lt_mul_of_pos_right hh (two_zpow_pos e)

theorem ulpOf_gridExp (fb bias : Nat) (neg : Bool) {m : Nat} (e : Int) (hm : m ≠ 0) :
    UlpOf fb bias (ratOf (.num neg m e)) ((2 : ℚ) ^ gridExp fb bias m e) := by
  obtain ⟨hl, hh⟩ := two_zpow_log2 hm e
  exact ⟨(Nat.log2 m : Nat) + e, by rwa [abs_ratOf_num], by rwa [abs_ratOf_num], rfl⟩

/-- What a number is rounded to on the grid of a format, as a multiple of the distance of neighbouring values there. -/
def gridMul (fb bias : Nat) (rm : RMode) (neg : Bool) (m : Nat) (e : Int) (b : Nat) : Nat :=
  roundInt rm neg m (e - gridExp fb bias m e) b

section
variable {fb bias m b : Nat} {rm : RMode} {neg : Bool} {e : Int}

theorem rounds_gridMul (hm : m ≠ 0) (hb : b < 65536) :
    Rounds rm b ((2 : ℚ) ^ gridExp fb bias m e) (ratOf (.num neg m e)) (ratOf (.num neg (gridMul fb bias rm neg m e b) (gridExp fb bias m e))) := by
  have h := rounds_scale (two_zpow_pos (gridExp fb bias m e)) (rounds_roundInt (rm := rm) (neg := neg) (e := e - gridExp fb bias m e) hm hb)
  have he : (2 : ℚ) ^ gridExp fb bias m e * (sgn neg * (m * 2 ^ (e - gridExp fb bias m e))) = ratOf (.num neg m e) := by
    rw [ratOf_num, zpow_sub₀ two_ne_zero]
    field_simp
  rw [he] at h
  rwa [ratOf_num _ (gridMul ..), mul_comm]

theorem gridMul_sub_lt (hm : m ≠ 0) (hb : b < 65536) :
    |(m : ℚ) * 2 ^ e - gridMul fb bias rm neg m e b * (2 : ℚ) ^ gridExp fb bias m e| < (2 : ℚ) ^ gridExp fb bias m e := by
  have h := rounds_abs_sub_lt (two_zpow_pos _) (rounds_gridMul (rm := rm) (neg := neg) (fb := fb) (bias := bias) (e := e) hm hb)
  rwa [ratOf_num, ratOf_num, mul_assoc, mul_assoc, ← mul_sub, abs_mul, abs_sgn, one_mul] at h

/-- Rounding does not pass a multiple of the unit. -/
theorem gridMul_le (hm : m ≠ 0) (hb : b < 65536) {N : Nat} (h : (m : ℚ) * 2 ^ e ≤ N * (2 : ℚ) ^ gridExp fb bias m e) :
    gridMul fb bias rm neg m e b ≤ N := by
  have hlt := (abs_lt.1 (gridMul_sub_lt (rm := rm) (neg := neg) (fb := fb) (bias := bias) (e := e) hm hb)).1
  have hu := two_zpow_pos (gridExp fb bias m e)
  refine Nat.le_of_lt_succ (Nat.cast_lt (α := ℚ).1 (lt_of_mul_lt_mul_right ?_ hu.le))
  push_cast
  linarith

theorem le_gridMul (hm : m ≠ 0) (hb : b < 65536) {N : Nat} (h : N * (2 : ℚ) ^ gridExp fb bias m e ≤ (m : ℚ) * 2 ^ e) :
    N ≤ gridMul fb bias rm neg m e b := by
  have hlt := (abs_lt.1 (gridMul_sub_lt (rm := rm) (neg := neg) (fb := fb) (bias := bias) (e := e) hm hb)).2
  have hu := two_zpow_pos (gridExp fb bias m e)
  refine Nat.le_of_lt_succ (Nat.cast_lt (α := ℚ).1 (lt_of_mul_lt_mul_right ?_ hu.le))
  push_cast
  linarith

theorem gridMul_le_two_pow (hm : m ≠ 0) (hb : b < 65536) : gridMul fb bias rm neg m e b ≤ 2 ^ (fb + 1) := by
  refine gridMul_le hm hb ((two_zpow_log2 hm e).2.le.trans ?_)
  rw [Nat.cast_pow, Nat.cast_ofNat, ← zpow_natCast, ← zpow_add₀ two_ne_zero]
  refine zpow_le_zpow_right₀ one_le_two ?_
  have : (Nat.log2 m : Nat) + e - fb ≤ gridExp fb bias m e := le_max_left ..
  push_cast
  omega

/-- A significand below 2^fb is on the grid of the subnormal numbers. -/
theorem gridExp_of_gridMul_lt (hm : m ≠ 0) (hb : b < 65536) (h : gridMul fb bias rm neg m e b < 2 ^ fb) :
    gridExp fb bias m e = 1 - bias - fb := by
  by_contra hne
  have hq : gridExp fb bias m e = (Nat.log2 m : Nat) + e - fb := (max_choice _ _).resolve_right hne
  refine absurd (le_gridMul hm hb ?_) h.not_ge
  rw [hq, Nat.cast_pow, Nat.cast_ofNat, ← zpow_natCast, ← zpow_add₀ two_ne_zero, add_sub_cancel]
  exact (two_zpow_log2 hm e).1
end

/-! ### Codes -/

/-- The magnitude that the exponent and fraction fields of a code stand for in a format, were every exponent finite (R127). -/
def codeMag (fb bias c : Nat) : ℚ :=
  if c / 2 ^ fb = 0 then (c % 2 ^ fb : Nat) * (2 : ℚ) ^ (1 - (bias : ℤ) - fb)
  else (2 ^ fb + (c % 2 ^ fb : Nat)) * (2 : ℚ) ^ ((c / 2 ^ fb : Nat) - (bias : ℤ) - fb)

theorem codeMag_of_lt {fb c : Nat} (bias : Nat) (h : c < 2 ^ fb) : codeMag fb bias c = c * (2 : ℚ) ^ (1 - (bias : ℤ) - fb) := by
  rw [codeMag, if_pos (Nat.div_eq_of_lt h), Nat.mod_eq_of_lt h]

theorem codeMag_fields {fb bias E F : Nat} (hE : E ≠ 0) (hF : F < 2 ^ fb) :
    codeMag fb bias (E * 2 ^ fb + F) = (2 ^ fb + F) * (2 : ℚ) ^ (E - (bias : ℤ) - fb) := by
  have hp := Nat.two_pow_pos fb
  have hd : (E * 2 ^ fb + F) / 2 ^ fb = E := by rw [mul_comm, Nat.mul_add_div hp, Nat.div_eq_of_lt hF, add_zero]
  rw [codeMag, hd, if_neg hE, Nat.mul_add_mod', Nat.mod_eq_of_lt hF]

/-- The code of a rounded magnitude stands for it. -/
theorem codeMag_gridCode {fb bias n : Nat} {q : Int} (hq : 1 - bias - fb ≤ q) (hn : n ≤ 2 ^ (fb + 1)) (hsub : n < 2 ^ fb → q = 1 - bias - fb) :
    codeMag fb bias (gridCode fb bias n q) = n * (2 : ℚ) ^ q := by
  unfold gridCode
  have hs : 2 ^ (fb + 1) = 2 * 2 ^ fb := pow_succ' ..
  have hp := Nat.two_pow_pos fb
  split
  next h => rw [codeMag_of_lt bias h, hsub h]
  split
  next h1 h2 =>
    rw [codeMag_fields (by omega) (by omega), Int.toNat_of_nonneg (by omega), Nat.cast_sub (not_lt.1 h1)]
    push_cast
    congr 2 <;> ring
  next h1 h2 =>
    obtain rfl : n = 2 * 2 ^ fb := by omega
    rw [codeMag_fields (by omega) (by omega), Int.toNat_of_nonneg (by omega), Nat.mul_div_cancel_left _ two_pos, Nat.sub_self]
    have he : q + 1 + fb + bias - bias - fb = q + 1 := by ring
    rw [he, zpow_add_one₀ two_ne_zero]
    push_cast
    ring

theorem codeMag_lt_succ (fb bias c : Nat) : codeMag fb bias c < codeMag fb bias (c + 1) := by
  have hp := Nat.two_pow_pos fb
  have hc : c = c / 2 ^ fb * 2 ^ fb + c % 2 ^ fb := (Nat.div_add_mod' c _).symm
  have hF := Nat.mod_lt c hp
  generalize c / 2 ^ fb = E at *
  generalize c % 2 ^ fb = F at *
  subst hc
  have hu (k : ℤ) := two_zpow_pos k
  by_cases hlast : F + 1 < 2 ^ fb
  · by_cases hE : E = 0
    · subst hE
      rw [Nat.zero_mul, zero_add, codeMag_of_lt bias hF, codeMag_of_lt bias hlast]
      exact mul_lt_mul_of_pos_right (mod_cast F.lt_succ_self) (hu _)
    · rw [add_assoc, codeMag_fields hE hF, codeMag_fields hE hlast]
      exact mul_lt_mul_of_pos_right (by push_cast; linarith) (hu _)
  · have hF1 : ((F : Nat) : ℚ) = 2 ^ fb - 1 := by
      rw [eq_sub_iff_add_eq]
      exact_mod_cast (by omega : F + 1 = 2 ^ fb)
    have hn : E * 2 ^ fb + F + 1 = (E + 1) * 2 ^ fb + 0 := by rw [Nat.succ_mul]; omega
    rw [hn, codeMag_fields E.succ_ne_zero hp]
    by_cases hE : E = 0
    · subst hE
      rw [Nat.zero_mul, zero_add, codeMag_of_lt bias hF, hF1]
      push_cast
      exact mul_lt_mul_of_pos_right (by linarith) (hu _)
    · have he : ((E + 1 : Nat) : ℤ) - bias - fb = E - bias - fb + 1 := by push_cast; ring
      rw [codeMag_fields hE hF, he, zpow_add_one₀ two_ne_zero, hF1]
      push_cast
      nlinarith [hu (E - bias - fb)]

theorem codeMag_strictMono (fb bias : Nat) : StrictMono (codeMag fb bias) := strictMono_nat_of_lt_succ (codeMag_lt_succ fb bias)

end Sys2Proof.Machine
end

section
/-! Codes of the five floating-point formats, and the rounding of a number to one of them. -/

set_option Elab.async false

namespace Sys2Proof.Machine

open Safety

/-- The floating-point formats are those of R127. -/
theorem fpInfo_cases {f eb fb bias : Nat} (h : fpInfo f = some (eb, fb, bias)) :
    (f = 6 ∧ eb = 8 ∧ fb = 23 ∧ bias = 127) ∨ (f = 7 ∧ eb = 8 ∧ fb = 7 ∧ bias = 127) ∨ (f = 8 ∧ eb = 5 ∧ fb = 10 ∧ bias = 15)
      ∨ (f = 9 ∧ eb = 4 ∧ fb = 3 ∧ bias = 7) ∨ (f = 10 ∧ eb = 5 ∧ fb = 2 ∧ bias = 15) := by
  unfold fpInfo at h
  split at h <;> simp_all

theorem isFinite_num {f c m : Nat} {neg : Bool} {e : Int} (h : fpVal f c = .num neg m e) : IsFinite f c neg (sgn neg * m * (2 : ℚ) ^ e) :=
  ⟨m, e, h, by rw [h, ratOf_num]⟩

theorem bit_eq_testBit (c i : Nat) : bit c i = c.testBit i := by
  rw [Nat.testBit_eq_decide_div_mod_eq]
  rfl

section
variable {f eb fb bias : Nat} (hf : fpInfo f = some (eb, fb, bias)) {c : Nat}
include hf

/-- What a code stands for, by its three fields (R127). -/
theorem fpVal_eq : fpVal f c = if f = 9 ∧ c / 2 ^ fb % 2 ^ eb = 15 ∧ c % 2 ^ fb = 7 then .nan
    else if f ≠ 9 ∧ c / 2 ^ fb % 2 ^ eb = 2 ^ eb - 1 then (if c % 2 ^ fb = 0 then .inf (c.testBit (eb + fb)) else .nan)
    else if c / 2 ^ fb % 2 ^ eb = 0 then .num (c.testBit (eb + fb)) (c % 2 ^ fb) (1 - bias - fb)
    else .num (c.testBit (eb + fb)) (c % 2 ^ fb + 2 ^ fb) ((c / 2 ^ fb % 2 ^ eb : Nat) - bias - fb) := by
  have hb : eb + fb - 1 + 1 - fb = eb := by rcases fpInfo_cases hf with h | h | h | h | h <;> omega
  simp only [fpVal, hf, bits, hb, bit_eq_testBit]

theorem two_le_ebits : 2 ≤ eb := by rcases fpInfo_cases hf with h | h | h | h | h <;> omega

theorem isFinite_subnormal (hE : c / 2 ^ fb % 2 ^ eb = 0) :
    IsFinite f c (c.testBit (eb + fb)) (sgn (c.testBit (eb + fb)) * (c % 2 ^ fb : Nat) * (2 : ℚ) ^ (1 - (bias : ℤ) - fb)) := by
  refine isFinite_num ((fpVal_eq hf).trans ?_)
  have h2 := Nat.pow_le_pow_right two_pos (two_le_ebits hf)
  rw [hE, if_neg (by omega), if_neg (by omega), if_pos rfl]

theorem isFinite_normal (hE : 0 < c / 2 ^ fb % 2 ^ eb) (hfin : c / 2 ^ fb % 2 ^ eb < 2 ^ eb - 1 ∨ f = 9 ∧ c % 2 ^ fb < 7) :
    IsFinite f c (c.testBit (eb + fb))
      (sgn (c.testBit (eb + fb)) * (2 ^ fb + (c % 2 ^ fb : Nat)) * (2 : ℚ) ^ ((c / 2 ^ fb % 2 ^ eb : Nat) - (bias : ℤ) - fb)) := by
  have h9 : f = 9 → eb = 4 := by rcases fpInfo_cases hf with h | h | h | h | h <;> omega
  have h15 : ¬(f = 9 ∧ c / 2 ^ fb % 2 ^ eb = 15 ∧ c % 2 ^ fb = 7) := by
    rintro ⟨hf9, h1, h2⟩
    rw [h1, h9 hf9] at hfin
    omega
  have h := isFinite_num (((fpVal_eq hf).trans (if_neg h15)).trans (((if_neg (by omega)).trans (if_neg hE.ne'))))
  simpa [add_comm] using h

theorem fpVal_nan (hE : c / 2 ^ fb % 2 ^ eb = 2 ^ eb - 1) (hF : f ≠ 9 ∧ c % 2 ^ fb ≠ 0 ∨ f = 9 ∧ c % 2 ^ fb = 7) : fpVal f c = .nan := by
  have h9 : f = 9 → eb = 4 := by rcases fpInfo_cases hf with h | h | h | h | h <;> omega
  rw [fpVal_eq hf]
  rcases hF with ⟨hf9, hF⟩ | ⟨hf9, hF⟩
  · simp [hf9, hE, hF]
  · exact if_pos ⟨hf9, hE.trans (by simp [h9 hf9]), hF⟩

theorem fpVal_inf (hE : c / 2 ^ fb % 2 ^ eb = 2 ^ eb - 1) (hf9 : f ≠ 9) (hF : c % 2 ^ fb = 0) : fpVal f c = .inf (c.testBit (eb + fb)) := by
  rw [fpVal_eq hf]
  simp [hf9, hE, hF]

/-! ### Codes up to the greatest finite one -/

theorem maxCode_fields (hc : c ≤ maxCode f) : c < 2 ^ (eb + fb) ∧ (c / 2 ^ fb < 2 ^ eb - 1 ∨ f = 9 ∧ c % 2 ^ fb < 7) := by
  rcases fpInfo_cases hf with ⟨rfl, rfl, rfl, rfl⟩ | ⟨rfl, rfl, rfl, rfl⟩ | ⟨rfl, rfl, rfl, rfl⟩ | ⟨rfl, rfl, rfl, rfl⟩ | ⟨rfl, rfl, rfl, rfl⟩ <;>
    simp only [maxCode] at hc <;> omega

/-- A sign and a code up to the greatest finite one make a finite code. -/
theorem isFinite_signBit_add (neg : Bool) (hc : c ≤ maxCode f) : IsFinite f (signBit f neg + c) neg (sgn neg * codeMag fb bias c) := by
  obtain ⟨hlt, hfin⟩ := maxCode_fields hf hc
  have hs : signBit f neg = 2 ^ (eb + fb) * neg.toNat := by simp only [signBit, hf]; cases neg <;> simp
  have hpow : 2 ^ (eb + fb) = 2 ^ fb * 2 ^ eb := by rw [Nat.add_comm, pow_add]
  have hbit : (signBit f neg + c).testBit (eb + fb) = neg := by
    rw [hs, Nat.testBit_eq_decide_div_mod_eq, Nat.mul_add_div (Nat.two_pow_pos _), Nat.div_eq_of_lt hlt]
    cases neg <;> rfl
  have hE : (signBit f neg + c) / 2 ^ fb % 2 ^ eb = c / 2 ^ fb := by
    rw [hs, hpow, mul_assoc, Nat.mul_add_div (Nat.two_pow_pos _), Nat.mul_add_mod, Nat.mod_eq_of_lt (Nat.div_lt_of_lt_mul (hpow ▸ hlt))]
  have hF : (signBit f neg + c) % 2 ^ fb = c % 2 ^ fb := by rw [hs, hpow, mul_assoc, Nat.mul_add_mod]
  unfold codeMag
  split
  next h0 =>
    have h := isFinite_subnormal hf (hE.trans h0)
    rwa [hbit, hF, mul_assoc] at h
  next h0 =>
    have h := isFinite_normal hf (hE ▸ Nat.pos_of_ne_zero h0) (hE.symm ▸ hF.symm ▸ hfin)
    rwa [hbit, hF, hE, mul_assoc] at h

theorem ratOf_maxCode : ratOf (fpVal f (maxCode f)) = codeMag fb bias (maxCode f) := by
  obtain ⟨m, e, -, h⟩ := isFinite_signBit_add hf false le_rfl
  have hs : signBit f false = 0 := by simp [signBit, hf]
  rwa [hs, zero_add, sgn_false, one_mul] at h

theorem fpVal_infCode (neg : Bool) (h9 : f ≠ 9) : fpVal f (infCode f neg) = .inf neg := by
  rcases fpInfo_cases hf with ⟨rfl, -⟩ | ⟨rfl, -⟩ | ⟨rfl, -⟩ | ⟨rfl, -⟩ | ⟨rfl, -⟩
  case inr.inr.inr.inl => exact absurd rfl h9
  all_goals cases neg <;> rfl
end

theorem aboveMax_iff {f eb fb bias : Nat} (hf : fpInfo f = some (eb, fb, bias)) (m : Nat) (e : Int) :
    aboveMax f m e = true ↔ ratOf (fpVal f (maxCode f)) < m * (2 : ℚ) ^ e := by
  obtain ⟨mm, me, h, -⟩ := isFinite_signBit_add hf false le_rfl
  have hs : signBit f false = 0 := by simp [signBit, hf]
  rw [hs, zero_add] at h
  simp only [aboveMax, h, ratOf_num, sgn_false, one_mul]
  split
  next hle => rw [← mul_two_zpow_lower m hle, mul_lt_mul_iff_left₀ (two_zpow_pos me), Nat.cast_lt, decide_eq_true_iff]
  next hle => rw [← mul_two_zpow_lower mm (not_le.1 hle).le, mul_lt_mul_iff_left₀ (two_zpow_pos e), Nat.cast_lt, decide_eq_true_iff]

/-- Rounding does not pass a number that is on a grid of the format. -/
theorem grid_le_gridMul {fb bias m b N : Nat} {rm : RMode} {neg : Bool} {e Q : Int} (hm : m ≠ 0) (hb : b < 65536) (hN : N ≤ 2 ^ (fb + 1))
    (hQ : 1 - bias - fb ≤ Q) (h : N * (2 : ℚ) ^ Q ≤ m * (2 : ℚ) ^ e) :
    N * (2 : ℚ) ^ Q ≤ gridMul fb bias rm neg m e b * (2 : ℚ) ^ gridExp fb bias m e := by
  have hu := two_zpow_pos (gridExp fb bias m e)
  by_cases hq : gridExp fb bias m e ≤ Q
  · rw [← mul_two_zpow_lower N hq] at h ⊢
    exact mul_le_mul_of_nonneg_right (mod_cast le_gridMul hm hb h) hu.le
  · have hk : gridExp fb bias m e = (Nat.log2 m : Nat) + e - fb := (max_choice _ _).resolve_right fun h => by unfold gridExp at hq; omega
    have hn : 2 ^ fb ≤ gridMul fb bias rm neg m e b := by
      refine le_gridMul hm hb ?_
      rw [hk, Nat.cast_pow, Nat.cast_ofNat, ← zpow_natCast, ← zpow_add₀ two_ne_zero, add_sub_cancel]
      exact (two_zpow_log2 hm e).1
    calc N * (2 : ℚ) ^ Q ≤ 2 ^ (fb + 1) * (2 : ℚ) ^ Q := mul_le_mul_of_nonneg_right (mod_cast hN) (two_zpow_pos Q).le
      _ = 2 ^ fb * (2 : ℚ) ^ (Q + 1) := by rw [zpow_add_one₀ two_ne_zero]; ring
      _ ≤ 2 ^ fb * (2 : ℚ) ^ gridExp fb bias m e := mul_le_mul_of_nonneg_left (zpow_le_zpow_right₀ one_le_two (by omega)) (by positivity)
      _ ≤ _ := mul_le_mul_of_nonneg_right (mod_cast hn) hu.le

/-- The modes that keep a number beyond the greatest finite value finite (R131). -/
def saturates (rm : RMode) (neg : Bool) : Prop := rm = .rz ∨ rm = .rd ∧ neg = false ∨ rm = .ru ∧ neg = true

/-- Of a number that stays in its format, or whose mode keeps it finite. -/
theorem roundF_num {f eb fb bias b m : Nat} {rm : RMode} {neg : Bool} {e : Int} (hf : fpInfo f = some (eb, fb, bias)) (hm : m ≠ 0) :
    let c := gridCode fb bias (gridMul fb bias rm neg m e b) (gridExp fb bias m e)
    let beyond := rm = .sr ∧ f ≠ 9 ∧ ratOf (fpVal f (maxCode f)) < m * (2 : ℚ) ^ e
    (¬beyond → c ≤ maxCode f → roundF f rm b (.num neg m e) = signBit f neg + c)
    ∧ (¬beyond → ¬c ≤ maxCode f → f = 9 ∨ saturates rm neg → roundF f rm b (.num neg m e) = signBit f neg + maxCode f)
    ∧ (beyond ∨ ¬c ≤ maxCode f ∧ ¬(f = 9 ∨ saturates rm neg) → roundF f rm b (.num neg m e) = infCode f neg) := by
  have hsat : (!match rm with | .rne => true | .rz => false | .rd => neg | .ru => !neg | .sr => true) = true ↔ saturates rm neg := by
    cases rm <;> cases neg <;> simp [saturates]
  simp only [roundF, hf, if_neg hm, roundGrid_eq, ← gridMul.eq_1, aboveMax_iff hf]
  refine ⟨fun h1 h2 => (if_neg h1).trans (if_pos h2), fun h1 h2 h3 => (if_neg h1).trans ((if_neg h2).trans (if_pos (h3.imp_right hsat.2))), fun h => ?_⟩
  split_ifs with h1 h2 h3
  · rfl
  · exact absurd h2 (h.resolve_left h1).1
  · exact absurd (h3.imp_right hsat.1) (h.resolve_left h1).2
  · rfl

/-- The code of the rounded magnitude stands for it, so it is in range exactly where the magnitude is. -/
theorem codeMag_gridMul {fb bias b m : Nat} (rm : RMode) (neg : Bool) (e : Int) (hm : m ≠ 0) (hb : b < 65536) :
    codeMag fb bias (gridCode fb bias (gridMul fb bias rm neg m e b) (gridExp fb bias m e))
      = gridMul fb bias rm neg m e b * (2 : ℚ) ^ gridExp fb bias m e :=
  codeMag_gridCode (le_max_right ..) (gridMul_le_two_pow hm hb) (gridExp_of_gridMul_lt hm hb)

/-- A number beyond the greatest value of FP8E4M3 is rounded to it at least. -/
theorem ratOf_maxCode_le_of_e4m3 {b m : Nat} {rm : RMode} {neg : Bool} {e : Int} (hm : m ≠ 0) (hb : b < 65536)
    (h : ratOf (fpVal 9 (maxCode 9)) ≤ m * (2 : ℚ) ^ e) : ratOf (fpVal 9 (maxCode 9)) ≤ gridMul 3 7 rm neg m e b * (2 : ℚ) ^ gridExp 3 7 m e := by
  have htop : ratOf (fpVal 9 (maxCode 9)) = (14 : Nat) * (2 : ℚ) ^ (5 : ℤ) := by
    rw [show fpVal 9 (maxCode 9) = .num false 14 5 by rfl, ratOf_num, sgn_false, one_mul]
  rw [htop] at h ⊢
  exact grid_le_gridMul hm hb (by norm_num) (by norm_num) h

/-- A number that is not 0 is rounded to a format as R130 and R131 say. -/
theorem roundsTo_roundF {f b m : Nat} (rm : RMode) (neg : Bool) (e : Int) (hf : isFp f = true) (hm : m ≠ 0) (hb : b < 65536) :
    RoundsTo f rm b (ratOf (.num neg m e)) (roundF f rm b (.num neg m e)) := by
  obtain ⟨⟨eb, fb, bias⟩, hi⟩ := Option.isSome_iff_exists.1 hf
  refine ⟨eb, fb, bias, _, _, hi, ulpOf_gridExp fb bias neg e hm, rounds_gridMul hm hb, ?_⟩
  have hneg : decide (ratOf (.num neg m e) < 0) = neg := by simp [ratOf_num_neg_iff, hm]
  have hc := codeMag_gridMul (fb := fb) (bias := bias) rm neg e hm hb
  obtain ⟨hin, hsat, hinf⟩ := roundF_num (b := b) (rm := rm) (neg := neg) (e := e) hi hm
  have hfin : ∀ c ≤ maxCode f, IsFinite f (signBit f neg + c) neg (sgn neg * codeMag fb bias c) := fun c h => isFinite_signBit_add hi neg h
  have htop := ratOf_maxCode hi
  simp only [hneg, abs_ratOf_num]
  rw [← hc, ratOf_num, mul_assoc, ← hc, htop, (codeMag_strictMono fb bias).le_iff_le, (codeMag_strictMono fb bias).lt_iff_lt]
  have h9 : f = 9 → codeMag fb bias (maxCode f) < m * 2 ^ e → maxCode f ≤ gridCode fb bias (gridMul fb bias rm neg m e b) (gridExp fb bias m e) := by
    rintro rfl h
    obtain ⟨rfl, rfl, rfl⟩ : eb = 4 ∧ fb = 3 ∧ bias = 7 := by simpa [fpInfo, eq_comm] using hi
    rw [← (codeMag_strictMono 3 7).le_iff_le, hc, ← htop]
    exact ratOf_maxCode_le_of_e4m3 hm hb (htop ▸ h.le)
  rw [htop] at hin hsat hinf
  generalize gridCode fb bias (gridMul fb bias rm neg m e b) (gridExp fb bias m e) = c at *
  constructor
  · intro hle hsr
    rw [hin (fun h => (hsr h.1).not_gt h.2.2) hle]
    exact hfin c hle
  · intro hbig
    have htopf : IsFinite f (signBit f neg + maxCode f) neg (if neg = true then -codeMag fb bias (maxCode f) else codeMag fb bias (maxCode f)) := by
      have h := hfin _ le_rfl
      cases neg <;> simpa using h
    split
    next hs =>
      have hnb : ¬(rm = .sr ∧ f ≠ 9 ∧ codeMag fb bias (maxCode f) < m * 2 ^ e) := by
        rintro ⟨rfl, hn, -⟩
        simp [hn] at hs
      by_cases hcm : c ≤ maxCode f
      · obtain ⟨hsr, habove⟩ := hbig.resolve_left hcm.not_gt
        have hf9 : f = 9 := of_not_not fun hn => hnb ⟨hsr, hn, habove⟩
        rw [hin hnb hcm, le_antisymm hcm (h9 hf9 habove)]
        exact htopf
      · rw [hsat hnb hcm hs]
        exact htopf
    next hs =>
      have hn : f ≠ 9 := fun h => hs (.inl h)
      rw [hinf (hbig.symm.imp (fun h => ⟨h.1, hn, h.2⟩) fun h => ⟨h.not_ge, hs⟩)]
      exact fpVal_infCode hi neg hn

theorem roundingRule : RoundingRule := by
  refine ⟨fun f c eb fb bias hf _ => ⟨fun hE => isFinite_subnormal hf hE, fun hE hfin => isFinite_normal hf hE hfin, fpVal_nan hf, fpVal_inf hf⟩,
    fun f b m rm neg e hf hm hb => roundsTo_roundF rm neg e hf hm hb⟩

end Sys2Proof.Machine
end

section
/-! FMIN, FMAX, FRCP and FRSQ. -/

set_option Elab.async false

namespace Sys2Proof.Machine

open Safety

/-! ### The order of values -/

theorem fvLt_num_iff (n n' : Bool) (m m' : Nat) (e e' : Int) :
    fvLt (.num n m e) (.num n' m' e') = true ↔ ratOf (.num n m e) < ratOf (.num n' m' e') := by
  obtain ⟨k, j, i, h⟩ := fvAdd_num n (!n') m m' e e'
  have hv := ratOf_fvAdd n (!n') m m' e e'
  have hneg : ratOf (.num (!n') m' e') = -ratOf (.num n' m' e') := ratOf_fvNeg n' m' e'
  rw [h, hneg, ← sub_eq_add_neg] at hv
  rw [← sub_neg, ← hv, ratOf_num_neg_iff]
  simp [fvLt, h]

theorem fvLt_asymm : ∀ {v w : FV}, fvLt v w = true → fvLt w v = false
  | .nan, _, h => by simp [fvLt] at h
  | .inf _, .nan, h => by simp [fvLt]
  | .num .., .nan, h => by simp [fvLt] at h
  | .inf a, .inf b, h => by revert h; cases a <;> cases b <;> simp [fvLt]
  | .inf a, .num .., h => by simpa [fvLt] using h
  | .num .., .inf b, h => by simpa [fvLt] using h
  | .num n m e, .num n' m' e', h => by
    rw [← Bool.not_eq_true, fvLt_num_iff]
    exact not_lt.2 ((fvLt_num_iff ..).1 h).le

/-- One code lies below another, with -0 below +0 (R288). -/
def codeBelow (x y : Nat) : Prop :=
  match f32 x, f32 y with
  | .inf n, .inf n' => n = true ∧ n' = false
  | .inf n, _ => n = true
  | _, .inf n' => n' = false
  | v, v' => ratOf v < ratOf v' ∨ ratOf v = ratOf v' ∧ x.testBit 31 = true ∧ y.testBit 31 = false

theorem fvLt_or_zeros_of_codeBelow {x y : Nat} (hx : f32 x ≠ .nan) (hy : f32 y ≠ .nan) (h : codeBelow x y) :
    fvLt (f32 x) (f32 y) = true ∨ fvLt (f32 y) (f32 x) = false ∧ bit x 31 = true ∧ bit y 31 = false := by
  unfold codeBelow at h
  rw [bit_eq_testBit, bit_eq_testBit]
  generalize f32 x = v at *
  generalize f32 y = w at *
  rcases v with _ | n | ⟨n, m, e⟩ <;> rcases w with _ | n' | ⟨n', m', e'⟩
  all_goals try contradiction
  case inf.inf | inf.num | num.inf => left; simpa [fvLt] using h
  case num.num =>
    rw [← Bool.not_eq_true, fvLt_num_iff, fvLt_num_iff, not_lt]
    exact h.imp_right fun ⟨he, hs⟩ => ⟨he.le, hs⟩

theorem f32_ne_nan {a : Nat} (h : isNan32 a = false) : f32 a ≠ .nan := by simpa [isNan32] using h

/-- Of two codes that are no NaN, FMIN and FMAX give one each, and the greater one does not lie below the lesser one. -/
theorem fMinMax_cases {a b : Nat} (ha : isNan32 a = false) (hb : isNan32 b = false) :
    (fMinMax false a b = a ∧ fMinMax true a b = b ∧ ¬codeBelow b a) ∨ (fMinMax false a b = b ∧ fMinMax true a b = a ∧ ¬codeBelow a b) := by
  have hna := f32_ne_nan ha
  have hnb := f32_ne_nan hb
  simp only [fMinMax, ha, hb, Bool.false_and, Bool.false_eq_true, if_false]
  cases hL : fvLt (f32 a) (f32 b) || fvEq (f32 a) (f32 b) && bit a 31
  · refine .inr ⟨rfl, rfl, fun h => ?_⟩
    rcases fvLt_or_zeros_of_codeBelow hna hnb h with h | ⟨h, ha', hb'⟩
    · simp [h] at hL
    · cases hlt : fvLt (f32 a) (f32 b) <;> simp [fvEq, hna, hnb, hlt, h, ha'] at hL
  · refine .inl ⟨rfl, rfl, fun h => ?_⟩
    rcases fvLt_or_zeros_of_codeBelow hnb hna h with h | ⟨h, hb', ha'⟩
    · simp [fvEq, h, fvLt_asymm h] at hL
    · simp [h, ha'] at hL

theorem codeBelow_irrefl {a : Nat} (ha : isNan32 a = false) : ¬codeBelow a a := fun h => by
  rcases fvLt_or_zeros_of_codeBelow (f32_ne_nan ha) (f32_ne_nan ha) h with h | ⟨-, h, h'⟩
  · exact absurd (fvLt_asymm h) (by simp [h])
  · simp [h] at h'

theorem minMax_extremal {a b : Nat} (ha : isNan32 a = false) (hb : isNan32 b = false) :
    let lo := fMinMax false a b
    let hi := fMinMax true a b
    (lo = a ∨ lo = b) ∧ ¬codeBelow a lo ∧ ¬codeBelow b lo ∧ (hi = a ∨ hi = b) ∧ ¬codeBelow hi a ∧ ¬codeBelow hi b := by
  have haa := codeBelow_irrefl ha
  have hbb := codeBelow_irrefl hb
  rcases fMinMax_cases ha hb with ⟨hlo, hhi, h⟩ | ⟨hlo, hhi, h⟩
  · exact ⟨.inl hlo, by rwa [hlo], by rwa [hlo], .inr hhi, by rwa [hhi], by rwa [hhi]⟩
  · exact ⟨.inr hlo, by rwa [hlo], by rwa [hlo], .inl hhi, by rwa [hhi], by rwa [hhi]⟩

theorem fMinMax_nan_left {a b : Nat} (mx : Bool) (ha : isNan32 a = true) (hb : isNan32 b = false) : fMinMax mx a b = b := by
  simp [fMinMax, ha, hb]

theorem fMinMax_nan_right {a b : Nat} (mx : Bool) (ha : isNan32 a = false) (hb : isNan32 b = true) : fMinMax mx a b = a := by
  simp [fMinMax, ha, hb]

theorem fMinMax_nans {a b : Nat} (mx : Bool) (ha : isNan32 a = true) (hb : isNan32 b = true) : fMinMax mx a b = 0x7FC00000 := by
  simp [fMinMax, ha, hb, canonNan]

/-! ### Approximations that round alike -/

/-- Two numbers lie alike to every multiple of v. -/
def Alike (v x x' : ℚ) : Prop := ∀ j : ℤ, (j * v ≤ x ↔ j * v ≤ x') ∧ (x ≤ j * v ↔ x' ≤ j * v)

/-- A number between two neighbouring multiples of v lies as their middle does. -/
theorem alike_middle {v x : ℚ} {q : ℤ} (hv : 0 < v) (h0 : q * v < x) (h1 : x < (q + 1) * v) : Alike v x ((q + 1 / 2) * v) := by
  intro j
  rcases le_or_gt j q with hj | hj
  · have hj' : (j : ℚ) ≤ q := mod_cast hj
    have h : (j : ℚ) * v ≤ q * v := mul_le_mul_of_nonneg_right hj' hv.le
    exact ⟨iff_of_true (by linarith) (by linarith), iff_of_false (by linarith) (by linarith)⟩
  · have hj' : (q + 1 : ℚ) ≤ j := mod_cast hj
    have h : ((q + 1 : ℚ)) * v ≤ j * v := mul_le_mul_of_nonneg_right hj' hv.le
    exact ⟨iff_of_false (by linarith) (by linarith), iff_of_true (by linarith) (by linarith)⟩

/-- Numbers that lie alike to the multiples of v round alike to nearest, where half a unit is a multiple of v. -/
theorem rounds_rne_of_alike {v x x' u t : ℚ} {b : Nat} {neg : Bool} {N : ℤ} (h : Alike v x x') (hu : u = 2 * (N * v))
    (hr : Rounds .rne b u (sgn neg * x') t) : Rounds .rne b u (sgn neg * x) t := by
  obtain ⟨k, ht, hle, heq⟩ := hr
  obtain ⟨k', hk⟩ : ∃ k' : ℤ, t = sgn neg * (u * k') := ⟨if neg then -k else k, by cases neg <;> simp [ht]⟩
  have hd (z : ℚ) : |sgn neg * z - t| = |z - 2 * k' * N * v| := by
    rw [hk, ← mul_sub, abs_mul, abs_sgn, one_mul, hu]
    congr 1
    ring
  have hlo := h ((2 * k' - 1) * N)
  have hhi := h ((2 * k' + 1) * N)
  push_cast at hlo hhi
  rw [hd] at hle heq
  have hiff (z : ℚ) : 2 * |z - 2 * k' * N * v| ≤ u ↔ (2 * k' - 1) * N * v ≤ z ∧ z ≤ (2 * k' + 1) * N * v := by
    rw [← le_div_iff₀' two_pos, abs_le, hu]
    constructor <;> rintro ⟨h1, h2⟩ <;> constructor <;> linarith
  have hxx : 2 * |x - 2 * k' * N * v| = u → x' = x := fun he => by
    rcases abs_choice (x - 2 * k' * N * v) with ha | ha
    · have hx : x = (2 * k' + 1) * N * v := by rw [ha, hu] at he; linarith
      rw [hx] at hhi ⊢
      exact le_antisymm (hhi.2.1 le_rfl) (hhi.1.1 le_rfl)
    · have hx : x = (2 * k' - 1) * N * v := by rw [ha, hu] at he; linarith
      rw [hx] at hlo ⊢
      exact le_antisymm (hlo.2.1 le_rfl) (hlo.1.1 le_rfl)
  refine ⟨k, ht, ?_, fun he => heq (by rw [hd] at he; rw [hxx he]; exact he)⟩
  rw [hd]
  rw [hiff] at hle ⊢
  exact ⟨hlo.1.2 hle.1, hhi.2.2 hle.2⟩

theorem two_zpow_multiple {w k : ℤ} (h : w ≤ k) : ∃ N : ℕ, (2 : ℚ) ^ k = N * (2 : ℚ) ^ w :=
  ⟨2 ^ (k - w).toNat, by simpa using (mul_two_zpow_lower 1 h).symm⟩

theorem sgn_mul_neg_iff {neg : Bool} {x : ℚ} (hx : 0 < x) : sgn neg * x < 0 ↔ neg = true := by
  cases neg <;> simp [hx, hx.le]

theorem abs_sgn_mul {neg : Bool} {x : ℚ} (hx : 0 < x) : |sgn neg * x| = x := by rw [abs_mul, abs_sgn, one_mul, abs_of_pos hx]

/-- Numbers that lie alike to a grid finer than a format's round to the same code. -/
theorem roundsTo_rne_of_alike {f eb fb bias b c : Nat} {w : ℤ} {x x' : ℚ} {neg : Bool} (hf : fpInfo f = some (eb, fb, bias)) (hx : 0 < x) (hx' : 0 < x')
    (h : Alike (2 ^ w) x x') (hw : (2 : ℚ) ^ (w + fb + 1) ≤ x') (hr : RoundsTo f .rne b (sgn neg * x') c) : RoundsTo f .rne b (sgn neg * x) c := by
  obtain ⟨eb', fb', bias', u, t, hf', ⟨k, hl, hh, hu⟩, hround, hfin, hover⟩ := hr
  obtain ⟨rfl, rfl, rfl⟩ : eb = eb' ∧ fb = fb' ∧ bias = bias' := by simpa [hf] using hf'
  rw [abs_sgn_mul hx'] at hl hh
  have hwk : w + fb + 1 < k + 1 := (zpow_lt_zpow_iff_right₀ one_lt_two).1 (hw.trans_lt hh)
  obtain ⟨j, hj⟩ := two_zpow_multiple (w := w) (k := k) (by omega)
  obtain ⟨j', hj'⟩ := two_zpow_multiple (w := w) (k := k + 1) (by omega)
  obtain ⟨N, hN⟩ := two_zpow_multiple (w := w) (k := max (k - fb) (1 - bias - fb) - 1) (by omega)
  refine ⟨eb, fb, bias, u, t, hf, ⟨k, ?_, ?_, hu⟩, rounds_rne_of_alike (N := N) h ?_ hround, fun h1 _ => ?_, fun h1 => ?_⟩
  · rw [abs_sgn_mul hx, hj]
    exact_mod_cast (h j).1.2 (by rw [hj] at hl; exact_mod_cast hl)
  · rw [abs_sgn_mul hx, hj', ← not_le]
    rw [hj', ← not_le] at hh
    exact fun hc => hh (by exact_mod_cast (h j').1.1 (by exact_mod_cast hc))
  · rw [hu, Int.cast_natCast, ← hN, zpow_sub_one₀ two_ne_zero]
    ring
  · simp only [sgn_mul_neg_iff hx, sgn_mul_neg_iff hx'] at hfin ⊢
    exact hfin h1 (fun h => by simp at h)
  · simp only [sgn_mul_neg_iff hx, sgn_mul_neg_iff hx'] at hover ⊢
    exact hover (h1.imp_right fun h => by simp at h)

/-! ### FRCP and FRSQ -/

theorem f32_num_bounds {a m : Nat} {n : Bool} {e : Int} (h : f32 a = .num n m e) : m < 2 ^ 24 ∧ -149 ≤ e ∧ e ≤ 104 := by
  have hF := Nat.mod_lt a (show 0 < 2 ^ 23 by norm_num)
  have hE := Nat.mod_lt (a / 2 ^ 23) (show 0 < 2 ^ 8 by norm_num)
  rw [f32, fpVal_eq (f := 6) rfl] at h
  split_ifs at h with h1 h2 h3 h4
  · obtain ⟨-, rfl, rfl⟩ := FV.num.inj h
    omega
  · obtain ⟨-, rfl, rfl⟩ := FV.num.inj h
    omega

/-- A quotient of integers, from its whole part and a bit that tells whether something is left, lies as the exact one does. -/
theorem alike_quotient {m M : Nat} (hm : m ≠ 0) {v : ℚ} (hv : 0 < v) :
    Alike v ((M : ℚ) / m * v) (((2 * (M / m) + (if M % m = 0 then 0 else 1) : Nat) : ℚ) / 2 * v) := by
  have hmq : (0 : ℚ) < m := mod_cast Nat.pos_of_ne_zero hm
  have hM : (M : ℚ) = (M / m : Nat) * m + (M % m : Nat) := mod_cast (Nat.div_add_mod' M m).symm
  have hlt : ((M % m : Nat) : ℚ) < m := mod_cast Nat.mod_lt M (Nat.pos_of_ne_zero hm)
  split
  next h =>
    have : (M : ℚ) / m = (2 * (M / m) + 0 : Nat) / 2 := by
      rw [div_eq_iff hmq.ne', hM, h]
      push_cast
      ring
    exact fun j => by rw [this]; simp
  next h =>
    have h0 : (0 : ℚ) < (M % m : Nat) := mod_cast Nat.pos_of_ne_zero h
    generalize M / m = q at *
    have hmid : ((2 * q + 1 : Nat) : ℚ) / 2 = (q : ℤ) + 1 / 2 := by push_cast; ring
    rw [hmid]
    refine alike_middle hv (mul_lt_mul_of_pos_right ?_ hv) (mul_lt_mul_of_pos_right ?_ hv) <;> rw [Int.cast_natCast]
    · rw [lt_div_iff₀ hmq]
      linarith
    · rw [div_lt_iff₀ hmq]
      linarith

/-- FRCP rounds the exact reciprocal. -/
theorem roundsTo_fRcp {a m : Nat} {n : Bool} {e : Int} (h : f32 a = .num n m e) (hm : m ≠ 0) : RoundsTo 6 .rne 0 (ratOf (f32 a))⁻¹ (fRcp a) := by
  obtain ⟨hlt, -, -⟩ := f32_num_bounds h
  have hmq : (0 : ℚ) < m := mod_cast Nat.pos_of_ne_zero hm
  have hu := two_zpow_pos (-e - 128)
  have hq : 2 ^ 104 ≤ 2 ^ 128 / m := (Nat.le_div_iff_mul_le (Nat.pos_of_ne_zero hm)).2 (by
    calc 2 ^ 104 * m ≤ 2 ^ 104 * 2 ^ 24 := Nat.mul_le_mul_left _ hlt.le
      _ = 2 ^ 128 := by norm_num)
  have hx : (ratOf (f32 a))⁻¹ = sgn n * (((2 ^ 128 : Nat) : ℚ) / m * 2 ^ (-e - 128)) := by
    rw [h, ratOf_num, mul_inv, mul_inv, show (sgn n)⁻¹ = sgn n by cases n <;> norm_num, ← zpow_neg, zpow_sub₀ two_ne_zero]
    field_simp
    norm_num
  have hs := alike_quotient (M := 2 ^ 128) hm hu
  have hc : fRcp a = roundF 6 .rne 0 (.num n (2 * (2 ^ 128 / m) + (if 2 ^ 128 % m = 0 then 0 else 1)) (-e - 129)) := by
    simp only [fRcp, h, if_neg hm]
  generalize hk : 2 * (2 ^ 128 / m) + (if 2 ^ 128 % m = 0 then 0 else 1) = k at *
  have hk2 : 2 ^ 105 ≤ k := by omega
  have hr := roundsTo_roundF (f := 6) (m := k) .rne n (-e - 129) rfl (by omega) (b := 0) (by norm_num)
  have hx' : ratOf (.num n k (-e - 129)) = sgn n * (k / 2 * 2 ^ (-e - 128)) := by
    rw [ratOf_num, show -e - 128 = -e - 129 + 1 by ring, zpow_add_one₀ two_ne_zero]
    ring
  rw [hx'] at hr
  have hk3 : (2 : ℚ) ^ 24 ≤ k / 2 := by
    rw [le_div_iff₀ two_pos]
    exact_mod_cast (show 2 ^ 24 * 2 ≤ 2 ^ 105 by norm_num).trans hk2
  rw [hx, hc]
  refine roundsTo_rne_of_alike (f := 6) (fb := 23) rfl (by positivity) (by positivity) hs ?_ hr
  rw [show -e - 128 + (23 : Nat) + 1 = -e - 128 + 24 by norm_num; ring, zpow_add₀ two_ne_zero, mul_comm]
  exact mul_le_mul_of_nonneg_right (mod_cast hk3) hu.le

/-! The integer square root -/

theorem isqrtGo_spec : ∀ (n x r : Nat), r * r ≤ x → x < (r + 2 ^ n) * (r + 2 ^ n) →
    isqrtGo n x r * isqrtGo n x r ≤ x ∧ x < (isqrtGo n x r + 1) * (isqrtGo n x r + 1)
  | 0, x, r, h0, h1 => ⟨h0, h1⟩
  | n + 1, x, r, h0, h1 => by
    simp only [isqrtGo]
    have hp : r + 2 ^ (n + 1) = r + 2 ^ n + 2 ^ n := by rw [pow_succ]; omega
    rw [hp] at h1
    split
    next h => exact isqrtGo_spec n x _ h h1
    next h => exact isqrtGo_spec n x r h0 (not_le.1 h)

theorem isqrt_spec (x : Nat) : isqrt x * isqrt x ≤ x ∧ x < (isqrt x + 1) * (isqrt x + 1) := by
  refine isqrtGo_spec _ _ _ (Nat.zero_le _) ?_
  rw [zero_add, ← pow_add]
  exact Nat.lt_log2_self.trans_le (Nat.pow_le_pow_right two_pos (by omega))

/-- The whole part of the root of 2^256 / m, and whether it is the root itself: they tell what a number's square does. -/
theorem isqrt_quotient {m : Nat} (hm : 0 < m) (j : Nat) : let s := isqrt (2 ^ 256 / m)
    (j * j * m ≤ 2 ^ 256 ↔ 2 * j ≤ 2 * s + (if s * s * m = 2 ^ 256 then 0 else 1))
    ∧ (2 ^ 256 ≤ j * j * m ↔ 2 * s + (if s * s * m = 2 ^ 256 then 0 else 1) ≤ 2 * j) := by
  intro s
  obtain ⟨h0, h1⟩ : s * s ≤ 2 ^ 256 / m ∧ 2 ^ 256 / m < (s + 1) * (s + 1) := isqrt_spec _
  rw [Nat.le_div_iff_mul_le hm] at h0
  rw [Nat.div_lt_iff_lt_mul hm] at h1
  clear_value s
  generalize 2 ^ 256 = B at *
  have hmono {i k : Nat} (h : i ≤ k) : i * i * m ≤ k * k * m := Nat.mul_le_mul_right _ (Nat.mul_le_mul h h)
  rcases lt_trichotomy j s with h | rfl | h
  · have h2 := hmono (show j + 1 ≤ s from h)
    have h3 : j * j * m < (j + 1) * (j + 1) * m := Nat.mul_lt_mul_of_pos_right (by nlinarith) hm
    exact ⟨iff_of_true (by omega) (by omega), iff_of_false (by omega) (by omega)⟩
  · split <;> omega
  · have h2 := hmono (show s + 1 ≤ j from h)
    exact ⟨iff_of_false (by omega) (by split <;> omega), iff_of_true (by omega) (by split <;> omega)⟩

/-- FRSQ of a number greater than 0: with an even exponent, it rounds the root of the significand. -/
theorem fRsq_num {a m : Nat} {e : Int} (h : f32 a = .num false m e) (hm : m ≠ 0) :
    ∃ (m2 : Nat) (g : Int), 0 < m2 ∧ m2 < 2 ^ 25 ∧ -75 ≤ g ∧ g ≤ 52 ∧ ratOf (f32 a) = m2 * ((2 : ℚ) ^ g) ^ 2 ∧
      let s := isqrt (2 ^ 256 / m2)
      fRsq a = roundF 6 .rne 0 (.num false (2 * s + (if s * s * m2 = 2 ^ 256 then 0 else 1)) (-g - 129)) := by
  obtain ⟨hlt, hlo, hhi⟩ := f32_num_bounds h
  simp only [fRsq, h, if_neg hm, Bool.false_eq_true, if_false, ratOf_num, sgn_false, one_mul, ← zpow_natCast, ← zpow_mul]
  by_cases he : e % 2 = 0
  · refine ⟨m, e / 2, by omega, by omega, by omega, by omega, ?_, ?_⟩
    · congr 2
      push_cast
      omega
    · simp only [if_pos he]
      congr 2
      omega
  · refine ⟨2 * m, (e - 1) / 2, by omega, by omega, by omega, by omega, ?_, ?_⟩
    · rw [show (e - 1) / 2 * (2 : Nat) = e - 1 by push_cast; omega, zpow_sub_one₀ two_ne_zero]
      push_cast
      ring
    · simp only [if_neg he]
      congr 2
      omega

/-- A number lies to the multiples of v as the reciprocal root of x does, which their squares tell. -/
def AlikeRoot (v x y : ℚ) : Prop := ∀ j : ℕ, ((j * v) ^ 2 * x ≤ 1 ↔ j * v ≤ y) ∧ (1 ≤ (j * v) ^ 2 * x ↔ y ≤ j * v)

theorem fRsq_alike {a m : Nat} {e : Int} (h : f32 a = .num false m e) (hm : m ≠ 0) : ∃ (z : Nat) (g : Int), -75 ≤ g ∧ g ≤ 52
    ∧ 2 ^ 116 ≤ z ∧ z ≤ 2 ^ 129 ∧ fRsq a = roundF 6 .rne 0 (.num false z (-g - 129)) ∧ AlikeRoot (2 ^ (-g - 128)) (ratOf (f32 a)) (ratOf (.num false z (-g - 129))) := by
  obtain ⟨m2, g, hm2, hlt, hg0, hg1, hx, hc⟩ := fRsq_num h hm
  have hroot := isqrt_quotient hm2
  simp only at hroot hc
  generalize 2 * isqrt (2 ^ 256 / m2) + (if isqrt (2 ^ 256 / m2) * isqrt (2 ^ 256 / m2) * m2 = 2 ^ 256 then 0 else 1) = z at hroot hc
  have hlo := (hroot (2 ^ 115)).1.1 (by omega)
  have hhi := (hroot (2 ^ 128)).2.1 (by omega)
  refine ⟨z, g, hg0, hg1, by omega, by omega, hc, fun j => ?_⟩
  have hv := two_zpow_pos (-g - 128)
  have hB : (0 : ℚ) < (2 ^ 256 : Nat) := by norm_num
  have hsq : (j * (2 : ℚ) ^ (-g - 128)) ^ 2 * ratOf (f32 a) = (j * j * m2 : Nat) / (2 ^ 256 : Nat) := by
    rw [hx, zpow_sub₀ two_ne_zero, zpow_neg]
    field_simp
    push_cast
    ring
  have hy : ratOf (.num false z (-g - 129)) = z / 2 * (2 : ℚ) ^ (-g - 128) := by
    rw [ratOf_num, show -g - 128 = -g - 129 + 1 by ring, zpow_add_one₀ two_ne_zero, sgn_false]
    ring
  obtain ⟨h1, h2⟩ := hroot j
  rw [hsq, hy, div_le_one hB, one_le_div hB, Nat.cast_le, Nat.cast_le, h1, h2, mul_le_mul_iff_left₀ hv, mul_le_mul_iff_left₀ hv, le_div_iff₀ two_pos,
    div_le_iff₀ two_pos, mul_comm 2 j]
  exact ⟨by exact_mod_cast Iff.rfl, by exact_mod_cast Iff.rfl⟩

/-- FRSQ is the nearest value to the exact root. -/
theorem fRsq_nearest {a m : Nat} {e : Int} (h : f32 a = .num false m e) (hm : m ≠ 0) :
    ∃ (q u : ℚ) (k n : ℤ), IsFinite 6 (fRsq a) false q ∧ ((2 : ℚ) ^ k) ^ 2 * ratOf (f32 a) ≤ 1 ∧ 1 < ((2 : ℚ) ^ (k + 1)) ^ 2 * ratOf (f32 a)
      ∧ u = (2 : ℚ) ^ (k - 23) ∧ q = u * n ∧ (2 * q - u) ^ 2 * ratOf (f32 a) ≤ 4 ∧ 4 ≤ (2 * q + u) ^ 2 * ratOf (f32 a) := by
  obtain ⟨z, g, hg0, hg1, hz0, hz1, hc, halike⟩ := fRsq_alike h hm
  rw [hc]
  generalize ratOf (f32 a) = x at *
  obtain ⟨eb, fb, bias, u, t, hf, ⟨k, hk0, hk1, hu⟩, ⟨n, ht, hnear, -⟩, hfin, -⟩ :=
    roundsTo_roundF (f := 6) (m := z) .rne false (-g - 129) rfl (by omega) (b := 0) (by norm_num)
  obtain ⟨rfl, rfl, rfl⟩ : eb = 8 ∧ fb = 23 ∧ bias = 127 := by simpa [fpInfo, eq_comm] using hf
  rw [abs_ratOf_num] at hk0 hk1
  have hy : ratOf (.num false z (-g - 129)) = z * 2 ^ (-g - 129) := by rw [ratOf_num, sgn_false, one_mul]
  simp only [hy] at *
  have hzq0 : (2 : ℚ) ^ (116 : ℤ) ≤ z := mod_cast hz0
  have hzq1 : (z : ℚ) ≤ (2 : ℚ) ^ (129 : ℤ) := mod_cast hz1
  have hw := two_zpow_pos (-g - 129)
  have hklo : -g - 13 < k + 1 := (zpow_lt_zpow_iff_right₀ one_lt_two).1 <| lt_of_le_of_lt (by
    rw [show -g - 13 = 116 + (-g - 129) by ring, zpow_add₀ two_ne_zero]
    exact mul_le_mul_of_nonneg_right hzq0 hw.le) hk1
  have hkhi : k ≤ -g := (zpow_le_zpow_iff_right₀ one_lt_two).1 <| hk0.trans (by
    rw [show -g = 129 + (-g - 129) by ring, zpow_add₀ two_ne_zero, show 129 + (-g - 129) - 129 = -g - 129 by ring]
    exact mul_le_mul_of_nonneg_right hzq1 hw.le)
  have hu' : u = 2 ^ (k - 23) := by rw [hu]; congr 1; omega
  obtain ⟨j, hj⟩ := two_zpow_multiple (w := -g - 128) (k := k) (by omega)
  obtain ⟨j', hj'⟩ := two_zpow_multiple (w := -g - 128) (k := k + 1) (by omega)
  obtain ⟨N, hN⟩ := two_zpow_multiple (w := -g - 128) (k := k - 24) (by omega)
  have huN : u = 2 * (N * 2 ^ (-g - 128)) := by rw [hu', ← hN, show k - 23 = k - 24 + 1 by ring, zpow_add_one₀ two_ne_zero]; ring
  have hku : (2 : ℚ) ^ k = 2 ^ 23 * u := by rw [hu', zpow_sub₀ two_ne_zero]; norm_num; ring
  have hupos : 0 < u := hu' ▸ two_zpow_pos _
  obtain ⟨hnlo, hnhi⟩ := abs_le.1 ((le_div_iff₀' two_pos).2 hnear)
  have hn : 0 < n := by
    have : (0 : ℚ) < u * n := by rw [← ht]; linarith
    exact_mod_cast (mul_pos_iff_of_pos_left hupos).1 this
  have htpos : 0 < t := by rw [ht]; exact mul_pos hupos (mod_cast hn)
  obtain ⟨i, hi⟩ : ∃ i : ℕ, n = i + 1 := ⟨(n - 1).toNat, by omega⟩
  have hbelow := halike ((2 * i + 1) * N)
  have habove := halike ((2 * i + 3) * N)
  have ht2 : t = 2 * (N * 2 ^ (-g - 128)) * (i + 1) := by rw [ht, huN, hi]; push_cast; ring
  refine ⟨t, u, k, n, ?_, ?_, ?_, hu', ht, ?_, ?_⟩
  · have htop : t ≤ ratOf (fpVal 6 (maxCode 6)) := by
      have h53 : (2 : ℚ) ^ (k + 1) ≤ 2 ^ (76 : ℤ) := zpow_le_zpow_right₀ one_le_two (by omega)
      have hmax : ratOf (fpVal 6 (maxCode 6)) = 16777215 * (2 : ℚ) ^ (104 : ℤ) := by
        rw [show fpVal 6 (maxCode 6) = .num false 16777215 104 by rfl, ratOf_num, sgn_false, one_mul]
        rfl
      rw [hmax]
      rw [zpow_add_one₀ two_ne_zero] at h53 hk1
      norm_num at h53 ⊢
      linarith
    have hpos : ¬(z : ℚ) * 2 ^ (-g - 129) < 0 := not_lt.2 (by positivity)
    simpa [hpos] using hfin (by rwa [abs_of_pos htpos]) (by simp)
  · rw [hj]
    exact (halike j).1.2 (hj ▸ hk0)
  · rw [hj', ← not_le]
    exact fun hc => hk1.not_ge (hj' ▸ (halike j').1.1 hc)
  · have h1 := hbelow.1.2 (by push_cast; linarith)
    rw [ht2, huN]
    push_cast at h1
    linarith
  · have h1 := habove.2.2 (by push_cast; linarith)
    rw [ht2, huN]
    push_cast at h1
    linarith

theorem roundedFunctionsRule : RoundedFunctionsRule := by
  refine ⟨fun a b _ _ => ⟨fun ha hb => ⟨fMinMax_nans _ ha hb, fMinMax_nans _ ha hb⟩, fun ha hb => ⟨fMinMax_nan_left _ ha hb, fMinMax_nan_left _ ha hb⟩,
    fun ha hb => ⟨fMinMax_nan_right _ ha hb, fMinMax_nan_right _ ha hb⟩, fun ha hb => minMax_extremal ha hb⟩, fun a n m e h hm => roundsTo_fRcp h hm,
    fun a m e h hm => fRsq_nearest h hm, fun a m e h hm => ?_⟩
  simp [fRsq, h, hm, canonNan]

/-- Settles O34: sums and products are exact, the code of a number stands for its rounding on the grid of the format, and what FRCP and FRSQ round lies to every
half unit as the exact quotient or root does. -/
theorem exactArithmetic : Obligations.ExactArithmetic := ⟨exactArithmeticRule, roundingRule, roundedFunctionsRule⟩

end Sys2Proof.Machine
end

section
/-! The caravan: which access a slot of a channel serves. -/

set_option Elab.async false

namespace Sys2Proof.Machine

open Safety

/-! ## The caravan (R120, R121) -/

/-- An access waits for a slot of a channel, and the way there and back is open. -/
def waitsHere (s : State) (ch : Nat) (a : Access) : Bool :=
  channelOf a.pa == ch && !a.served && !pathDown s (.core a.core) (.die (ch / 4)) && !pathDown s (.die (ch / 4)) (.core a.core)

/-- A slot has served an access: its data comes after L_ctl + L_noc. -/
def slotServes (s : State) (ch : Nat) (a : Access) : State :=
  schedule { s with
    dram := s.dram.map fun x => if x.id = a.id then { x with served := true } else x
    served := tput s.served 0 a.cluster (tget s.served 0 a.cluster + 256) }
    .tick (ticks s + Config.lCtl + lNoc a.core a.pa) (.row .caravanSlot { ix := ch, val := a.id, flag := true })

theorem find?_and {α : Type} (p q : α → Bool) (l : List α) : (l.find? fun a => p a && q a) = (l.filter p).find? q := by
  rw [List.find?_filter]
  congr 1
  funext a
  rw [Bool.decide_and, Bool.decide_eq_true, Bool.decide_eq_true]

/-- The oldest access of the reservation that owns a slot. -/
def ownersPick (s : State) (ch j : Nat) : Option Access :=
  let m := (tget s.slots 0 (256 * ch + j)).toNat
  if m.testBit 15 = true ∧ m % 256 ≠ 0 then s.dram.find? fun a => waitsHere s ch a && a.rid == m % 256 else none

theorem slotPick_eq (s : State) (ch j : Nat) :
    slotPick s ch j = (ownersPick s ch j).or (s.dram.find? fun a => waitsHere s ch a && (a.rid == 0 && fits s a)) := by
  have hown : ownersPick s ch j = if bit (tget s.slots 0 (256 * ch + j)).toNat 15 ∧ (tget s.slots 0 (256 * ch + j)).toNat % 256 ≠ 0 then
      (s.dram.filter (waitsHere s ch)).find? fun a => a.rid == (tget s.slots 0 (256 * ch + j)).toNat % 256 else none := by
    simp only [ownersPick, find?_and, bit_eq_testBit]
  rw [find?_and, hown]
  unfold slotPick
  dsimp only
  split
  next a h => exact (congrArg (Option.or · _) h).symm
  next h => exact (congrArg (Option.or · _) h).symm

section
variable {s : State} {ch : Nat}

theorem execCaravanSlot_serves (hf : s.cur.flag = false) (hj : ticks s % 256 % 32 ≠ 31) {a : Access} (ha : slotPick s s.cur.ix (ticks s % 256) = some a) :
    exec .caravanSlot s = .next (slotServes s s.cur.ix a) := by
  change execCaravanSlot s = _
  unfold execCaravanSlot
  simp only [hf, hj, ha, Bool.false_eq_true, if_false]
  rfl

theorem execCaravanSlot_idle (hf : s.cur.flag = false) (h : ticks s % 256 % 32 = 31 ∨ slotPick s s.cur.ix (ticks s % 256) = none) :
    exec .caravanSlot s = .next s := by
  change execCaravanSlot s = _
  unfold execCaravanSlot
  simp only [hf, Bool.false_eq_true, if_false]
  split
  · rfl
  · next hj => simp only [h.resolve_left hj]

theorem caravanRule (hf : s.cur.flag = false) :
    let j := s.tb.ticks % 256
    let m := (tget s.slots 0 (256 * s.cur.ix + j)).toNat
    let chan : End := .die (s.cur.ix / 4)
    let here (a : Access) : Bool :=
      channelOf a.pa == s.cur.ix && !a.served && !pathDown s (.core a.core) chan && !pathDown s chan (.core a.core)
    let serves (a : Access) (s' : State) : Prop := s'.dram = s.dram.map (fun (x : Access) => if x.id = a.id then { x with served := true } else x)
      ∧ tget s'.served 0 a.cluster = tget s.served 0 a.cluster + 256 ∧ SameBytes s s' ∧ s'.threads = s.threads
      ∧ s'.agenda = s.agenda ++ [⟨.tick, s.tb.ticks + Config.lCtl + lNoc a.core a.pa, .row .caravanSlot { ix := s.cur.ix, val := a.id, flag := true }⟩]
    (j % 32 = 31 → exec .caravanSlot s = .next s)
    ∧ (j % 32 ≠ 31 → m.testBit 15 = true → m % 256 ≠ 0 → ∀ a, s.dram.find? (fun a => here a && a.rid == m % 256) = some a →
        ∃ s', exec .caravanSlot s = .next s' ∧ serves a s')
    ∧ (j % 32 ≠ 31 → (m.testBit 15 = false ∨ m % 256 = 0 ∨ s.dram.find? (fun a => here a && a.rid == m % 256) = none) →
        ∀ a, s.dram.find? (fun a => here a && (a.rid == 0 && fits s a)) = some a → ∃ s', exec .caravanSlot s = .next s' ∧ serves a s')
    ∧ (s.dram = [] → exec .caravanSlot s = .next s) := by
  intro j m chan here serves
  have hserves (a : Access) : serves a (slotServes s s.cur.ix a) :=
    ⟨rfl, by simp [slotServes, schedule], SameMem.sameBytes ⟨rfl, rfl, rfl⟩, rfl, rfl⟩
  have hpick := slotPick_eq s s.cur.ix j
  refine ⟨fun h => execCaravanSlot_idle hf (.inl h), fun hj hb hm a ha => ?_, fun hj hown a ha => ?_, fun hd => ?_⟩
  · have hown : ownersPick s s.cur.ix j = some a := (if_pos ⟨hb, hm⟩).trans ha
    exact ⟨_, execCaravanSlot_serves hf hj (by rw [hown] at hpick; exact hpick), hserves a⟩
  · have hnone : ownersPick s s.cur.ix j = none := by
      unfold ownersPick
      dsimp only
      split
      next h => exact (hown.resolve_left (by rw [Bool.not_eq_false]; exact h.1)).resolve_left h.2
      next => rfl
    exact ⟨_, execCaravanSlot_serves hf hj (by rw [hnone] at hpick; exact hpick.trans ha), hserves a⟩
  · refine execCaravanSlot_idle hf (.inr ?_)
    rw [show ticks s % 256 = j from rfl, hpick]
    simp [ownersPick, hd]
end

end Sys2Proof.Machine
end

section
/-! Completion of a copy command: residency, pending bytes, the notice to its object, and the release of its journal entry. -/

set_option Elab.async false

namespace Sys2Proof.Machine

open Safety

/-! ## Tables and folds -/

theorem mem_tins {α : Type} {t : Tab α} {k : Nat} {v : α} {x : Nat × α} (h : x ∈ tins t k v) : x ∈ t ∨ x = (k, v) := by
  induction t with
  | nil => exact .inr (List.mem_singleton.1 h)
  | cons p r ih =>
    obtain ⟨a, w⟩ := p
    unfold tins at h
    split_ifs at h
    · rcases List.mem_cons.1 h with rfl | h
      · exact .inl (List.mem_cons_self ..)
      · exact (ih h).imp_left (List.mem_cons_of_mem _)
    · exact (List.mem_cons.1 h).symm.imp_left (List.mem_cons_of_mem _)
    · exact (List.mem_cons.1 h).symm

theorem mem_tput {α : Type} [DecidableEq α] {t : Tab α} {d : α} {k : Nat} {v : α} {x : Nat × α} (h : x ∈ tput t d k v) : x ∈ t ∨ x = (k, v) := by
  unfold tput at h
  split at h
  · exact .inl (mem_tdel.1 h).1
  · exact mem_tins h

theorem mem_of_tget_ne {α : Type} {t : Tab α} {d : α} {k : Nat} (h : tget t d k ≠ d) : (k, tget t d k) ∈ t := by
  induction t with
  | nil => exact absurd rfl h
  | cons p r ih =>
    obtain ⟨a, w⟩ := p
    unfold tget at h ⊢
    split
    next ha => exact ha ▸ List.mem_cons_self ..
    next ha => exact List.mem_cons_of_mem _ (ih (by rwa [if_neg ha] at h))

theorem mem_nins {l : List Nat} {x y : Nat} : y ∈ nins l x ↔ y = x ∨ y ∈ l := by
  induction l with
  | nil => simp [nins]
  | cons a r ih =>
    unfold nins
    split_ifs with h1 h2
    · simp only [List.mem_cons, ih]
      tauto
    · simp [h2]
    · simp

/-- What one step of a fold brings about and every step keeps holds at its end. -/
theorem foldl_reaches {α β : Type} {f : α → β → α} {P Q : α → Prop} {b : β} (hP : ∀ s c, P s → P (f s c)) (hQ : ∀ s c, Q s → Q (f s c))
    (hb : ∀ s, Q s → P (f s b)) {l : List β} (hl : b ∈ l) {s : α} (hs : Q s) : P (l.foldl f s) := by
  have keep (l : List β) : ∀ s, P s → P (l.foldl f s) := by
    induction l with
    | nil => exact fun s h => h
    | cons c l ih => exact fun s h => ih _ (hP s c h)
  induction l generalizing s with
  | nil => cases hl
  | cons c l ih =>
    rcases List.mem_cons.1 hl with rfl | hl
    · exact keep l _ (hb s hs)
    · exact ih hl (hQ s c hs)

/-! ## Journal entries -/

theorem getCopier_putEntry (s : State) (core : Nat) (e : JEntry) : getCopier (putEntry s core e) core
    = { getCopier s core with journal := (getCopier s core).journal.map fun x => if x.no = e.no then e else x } :=
  (getCopier_setCopier ..).trans (if_pos rfl)

theorem getEntry_no {s : State} {core no : Nat} {e : JEntry} (h : getEntry s core no = some e) : e.no = no := by
  simpa using List.find?_some h

theorem getEntry_mem {s : State} {core no : Nat} {e : JEntry} (h : getEntry s core no = some e) : e ∈ (getCopier s core).journal :=
  List.mem_of_find?_eq_some h

/-- An entry that is put back reads as it was put. -/
theorem getEntry_putEntry {s : State} {core : Nat} {e e' : JEntry} (h : getEntry s core e'.no = some e) : getEntry (putEntry s core e') core e'.no = some e' := by
  have hcond : ((fun y : JEntry => y.no == e'.no) ∘ fun x : JEntry => if x.no = e'.no then e' else x) = fun y => y.no == e'.no := by
    funext y
    by_cases hy : y.no = e'.no <;> simp [hy]
  rw [getEntry, getCopier_putEntry, List.find?_map, hcond]
  change Option.map _ (getEntry s core e'.no) = _
  rw [h, Option.map_some, if_pos (getEntry_no h)]

/-- The entry leaves the journal. -/
theorem journal_filter_putEntry (s : State) (core : Nat) (e : JEntry) :
    (getCopier (putEntry s core e) core).journal.filter (·.no != e.no) = (getCopier s core).journal.filter (·.no != e.no) := by
  rw [getCopier_putEntry]
  induction (getCopier s core).journal with
  | nil => rfl
  | cons x l ih =>
    by_cases hx : x.no = e.no
    · simpa [hx] using ih
    · simpa [hx] using ih

/-- A tile that no other command writes is still so when an entry changes. -/
theorem tileBusy_putEntry {s : State} {core d part tid i : Nat} {e e' : JEntry} (h : getEntry s core e'.no = some e)
    (hb : tileBusy s d part tid i e'.no = false) : tileBusy (putEntry s core e') d part tid i e'.no = false := by
  have hdef : getCopier s core ≠ default := fun hd => by
    have hm := getEntry_mem h
    rw [hd] at hm
    cases hm
  rw [tileBusy, Bool.or_eq_false_iff] at hb ⊢
  refine ⟨?_, hb.2⟩
  obtain ⟨hb, -⟩ := hb
  rw [List.any_eq_false] at hb ⊢
  intro x hx
  rcases mem_tput hx with hx | rfl
  · exact hb x hx
  · have hold := hb _ (mem_of_tget_ne hdef)
    simp only [Bool.not_eq_true, List.any_eq_false] at hold ⊢
    intro y hy
    obtain ⟨z, hz, rfl⟩ := List.mem_map.1 hy
    split
    · simp
    · exact hold z hz

/-! ## Residency and pending bytes -/

/-- Only residency bits are set. -/
def SetsResid (s s' : State) : Prop := ∃ resid, s.resid ⊆ resid ∧ s' = { s with resid := resid }

theorem SetsResid.refl (s : State) : SetsResid s s := ⟨_, List.Subset.refl _, rfl⟩
theorem SetsResid.trans {s t u : State} : SetsResid s t → SetsResid t u → SetsResid s u := by
  rintro ⟨_, h, rfl⟩ ⟨_, h', rfl⟩
  exact ⟨_, List.Subset.trans h h', rfl⟩

theorem SetsResid.tidOf {s t : State} (h : SetsResid s t) (d part tid : Nat) : tidOf t d part tid = Machine.tidOf s d part tid := by
  obtain ⟨_, -, rfl⟩ := h
  rfl

/-- What decides whether a tile's bit is set does not change. -/
theorem SetsResid.tileBusy {s t : State} {d part tid i no : Nat} (h : SetsResid s t) :
    tileBusy t d part tid i no = Machine.tileBusy s d part tid i no ∧ t.cycle = s.cycle ∧ t.residAt = s.residAt := by
  obtain ⟨_, -, rfl⟩ := h
  exact ⟨rfl, rfl, rfl⟩

theorem setsResid_resDone (s : State) (core part tid tile except : Nat) : SetsResid s (resDone s core part tid tile except) := by
  unfold resDone resSet
  split
  · exact .refl s
  · split
    · exact .refl s
    · exact ⟨_, fun x hx => mem_nins.2 (.inr hx), rfl⟩

theorem mem_resid_resDone {s : State} {core part tid tile except : Nat} (hb : tileBusy s core part tid tile except = false)
    (hc : (resKey core part tid tile, s.cycle) ∉ s.residAt) : resKey core part tid tile ∈ (resDone s core part tid tile except).resid := by
  rw [resDone, if_neg (by rw [hb]; exact Bool.false_ne_true), resSet, if_neg (by simpa using hc)]
  exact mem_nins.2 (.inl rfl)

/-- The residency that a completion sets on the cores of its destinations. -/
def tilesResident (s : State) (part : Nat) (e : JEntry) : State :=
  e.dests.foldl (fun s d => if (tidOf s d part e.dtid).restrk = true then e.tiles.foldl (fun s t => resDone s d part e.dtid t e.no) s else s) s

theorem setsResid_tiles (s : State) (d part : Nat) (e : JEntry) : SetsResid s (e.tiles.foldl (fun s t => resDone s d part e.dtid t e.no) s) :=
  foldl_rel (R := SetsResid) .refl .trans (fun _ _ => setsResid_resDone ..) _ _

theorem setsResid_tilesResident (s : State) (part : Nat) (e : JEntry) : SetsResid s (tilesResident s part e) := by
  refine foldl_rel (R := SetsResid) .refl .trans (fun s d => ?_) _ _
  split
  · exact setsResid_tiles s d part e
  · exact .refl s

theorem mem_resid_tilesResident {s : State} {d part i : Nat} {e : JEntry} (hd : d ∈ e.dests) (hr : (tidOf s d part e.dtid).restrk = true) (hi : i ∈ e.tiles)
    (hb : tileBusy s d part e.dtid i e.no = false) (hc : (resKey d part e.dtid i, s.cycle) ∉ s.residAt) :
    resKey d part e.dtid i ∈ (tilesResident s part e).resid := by
  have hkeep {t u : State} (h : SetsResid t u) (hm : resKey d part e.dtid i ∈ t.resid) : resKey d part e.dtid i ∈ u.resid := by
    obtain ⟨_, hs, rfl⟩ := h
    exact hs hm
  refine foldl_reaches (P := fun t => resKey d part e.dtid i ∈ t.resid) (Q := SetsResid s) (b := d) (fun t c => ?_) (fun t c ht => ht.trans ?_) (fun t ht => ?_) hd (.refl s)
  · split
    · exact hkeep (setsResid_tiles ..)
    · exact id
  · split
    · exact setsResid_tiles ..
    · exact .refl t
  · rw [if_pos (by rw [ht.tidOf]; exact hr)]
    refine foldl_reaches (P := fun t => resKey d part e.dtid i ∈ t.resid) (Q := SetsResid s) (b := i) (fun t c => hkeep (setsResid_resDone ..))
      (fun t c ht => ht.trans (setsResid_resDone ..)) (fun t ht => ?_) hi ht
    obtain ⟨hbusy, hcycle, hat⟩ := ht.tileBusy (d := d) (part := part) (tid := e.dtid) (i := i) (no := e.no)
    exact mem_resid_resDone (by rw [hbusy]; exact hb) (by rw [hcycle, hat]; exact hc)

theorem phSub_only (s : State) (k n : Nat) : ∃ phasers todo, phSub s k n = { s with phasers := phasers, todo := todo } := by
  unfold phSub putPh
  dsimp only
  split_ifs <;> exact ⟨_, _, rfl⟩

theorem pending_phSub {s : State} {k : Nat} (n : Nat) (h : (getPh s k).live = true) : (getPh (phSub s k n) k).pending = (getPh s k).pending - n := by
  have hp : getPh (setPh s k { getPh s k with pending := (getPh s k).pending - n }) k = { getPh s k with pending := (getPh s k).pending - n } :=
    (getPh_setPh ..).trans (if_pos rfl)
  unfold phSub putPh
  rw [if_pos h]
  dsimp only
  split
  · exact congrArg Phaser.pending hp
  · exact congrArg Phaser.pending hp

theorem releaseEntry_only (s : State) (core no : Nat) : ∃ todo,
    releaseEntry s core no = { setCopier s core { getCopier s core with journal := (getCopier s core).journal.filter (·.no != no) } with todo := todo } := by
  unfold releaseEntry
  dsimp only
  split <;> exact ⟨_, rfl⟩

theorem journal_releaseEntry (s : State) (core no : Nat) :
    (getCopier (releaseEntry s core no) core).journal = (getCopier s core).journal.filter (·.no != no) := by
  obtain ⟨todo, h⟩ := releaseEntry_only s core no
  rw [h]
  exact congrArg Copier.journal ((getCopier_setCopier ..).trans (if_pos rfl))

end Sys2Proof.Machine
end

section
/-! COPY_COMPLETION and JOURNAL_RELEASE (R199, R203). -/

set_option Elab.async false

namespace Sys2Proof.Machine

open Safety

/-- The entry of a command as its completion leaves it (R199). -/
def performedEntry (c : CC) : JEntry :=
  { c.e with performed := true, sent := c.e.ctr != 0xFFFFFFF, bytes := if c.kind = 5 then c.e.bytes else 0, flags := blockFlags c }

/-- Steps 1 to 3 of a completion (R199): the entry has performed, the tiles are resident, and the bytes are off the phaser. -/
def performedState (s : State) (core : Nat) (r : Run) (e : JEntry) : State :=
  let t := tilesResident (putEntry s core (performedEntry (ccOf s core r e))) r.part e
  if e.phaser = 0xFFF then t else phSub t (4096 * r.scene + e.phaser) e.bytes

section
variable {s : State} {r : Run} {e : JEntry} (hr : runOf s s.cur.core 4 = some r) (he : getEntry s s.cur.core s.cur.ix = some e)
include hr he

section
variable (hp : e.performed = false) (hd : e.discarded = false)
include hp hd

theorem execCopyCompletion_eq (h4 : (ccOf s s.cur.core r e).kind ≠ 4) (h5 : (ccOf s s.cur.core r e).kind ≠ 5) :
    exec .copyCompletion s = .next (if e.ctr = 0xFFFFFFF then releaseEntry (performedState s s.cur.core r e) s.cur.core e.no
      else postNotice (performedState s s.cur.core r e) s.cur.core r.part 57 (2 ^ 28 * r.part + e.ctr) (blockFlags (ccOf s s.cur.core r e)) e.no) := by
  change execCopyCompletion s = _
  unfold execCopyCompletion
  have hlive : ¬ (e.performed = true ∨ e.discarded = true) := by simp [hp, hd]
  simp only [hr, he, hlive, h4, h5, or_false, if_false, ne_eq, not_false_eq_true, true_and]
  rw [performedState, tilesResident, performedEntry, if_neg h5]
  rfl

theorem execCopyCompletion_digest (h5 : (ccOf s s.cur.core r e).kind = 5) :
    exec .copyCompletion s = .next (postNotice (putEntry s s.cur.core (performedEntry (ccOf s s.cur.core r e))) s.cur.core r.part 58 (2 ^ 28 * r.part + e.ctr)
      (digestOf (ccOf s s.cur.core r e)) e.no) := by
  change execCopyCompletion s = _
  unfold execCopyCompletion
  have hid (t : State) : e.dests.foldl (fun s _ => s) t = t := by
    induction e.dests with
    | nil => rfl
    | cons d l ih => exact ih
  have hlive : ¬ (e.performed = true ∨ e.discarded = true) := by simp [hp, hd]
  have h4 : ¬ (5 : Nat) = 4 := by decide
  simp only [hr, he, hlive, h5, h4, or_true, if_false, if_true, ne_eq, not_true_eq_false, false_and, hid]
  rw [performedEntry, if_pos h5]
  rfl

end

omit hr in
theorem execJournalRelease_eq : exec .journalRelease s = .next (releaseEntry s s.cur.core s.cur.ix) := by
  change execJournalRelease s = _
  rw [execJournalRelease, he]
  rfl

end

/-! ## What they bring about -/

theorem syncQ_postNotice (s : State) (core part op k val no : Nat) :
    ∃ q, (postNotice s core part op k val no).syncQ = s.syncQ ++ [q] ∧ q.op = op ∧ q.arg = k ∧ q.val = val := ⟨_, rfl, rfl, rfl, rfl⟩

theorem performedState_only (s : State) (core : Nat) (r : Run) (e : JEntry) : ∃ resid phasers todo,
    performedState s core r e = { putEntry s core (performedEntry (ccOf s core r e)) with resid := resid, phasers := phasers, todo := todo } := by
  unfold performedState
  obtain ⟨resid, -, h⟩ := setsResid_tilesResident (putEntry s core (performedEntry (ccOf s core r e))) r.part e
  dsimp only
  rw [h]
  split
  · exact ⟨_, _, _, rfl⟩
  · obtain ⟨phasers, todo, h'⟩ := phSub_only { putEntry s core (performedEntry (ccOf s core r e)) with resid := resid } (4096 * r.scene + e.phaser) e.bytes
    exact ⟨_, _, _, h'⟩

theorem resid_performedState (s : State) (core : Nat) (r : Run) (e : JEntry) :
    (performedState s core r e).resid = (tilesResident (putEntry s core (performedEntry (ccOf s core r e))) r.part e).resid := by
  unfold performedState
  dsimp only
  split
  · rfl
  · obtain ⟨phasers, todo, h⟩ := phSub_only (tilesResident (putEntry s core (performedEntry (ccOf s core r e))) r.part e) (4096 * r.scene + e.phaser) e.bytes
    rw [h]

theorem mem_resid_performedState {s : State} {core d i : Nat} {r : Run} {e : JEntry} (he : getEntry s core e.no = some e) (hd : d ∈ e.dests)
    (hr : (tidOf s d r.part e.dtid).restrk = true) (hi : i ∈ e.tiles) (hb : tileBusy s d r.part e.dtid i e.no = false)
    (hc : (resKey d r.part e.dtid i, s.cycle) ∉ s.residAt) : resKey d r.part e.dtid i ∈ (performedState s core r e).resid := by
  rw [resid_performedState]
  exact mem_resid_tilesResident hd hr hi (tileBusy_putEntry (e' := performedEntry (ccOf s core r e)) he hb) hc

theorem pending_performedState {s : State} {core : Nat} {r : Run} {e : JEntry} (hp : e.phaser ≠ 0xFFF) (hl : (getPh s (4096 * r.scene + e.phaser)).live = true) :
    (getPh (performedState s core r e) (4096 * r.scene + e.phaser)).pending = (getPh s (4096 * r.scene + e.phaser)).pending - e.bytes := by
  obtain ⟨resid, -, h⟩ := setsResid_tilesResident (putEntry s core (performedEntry (ccOf s core r e))) r.part e
  rw [performedState, if_neg hp, h]
  exact pending_phSub e.bytes hl

/-- Only blocks that a command quantises set flags. -/
theorem blockFlags_eq_zero {c : CC} (h : ¬ (c.kind = 3 ∧ c.x.cvtScale = 2)) : blockFlags c = 0 := by
  rw [blockFlags, blockHeads, if_neg h]
  rfl

section
variable {s : State} {r : Run} {e : JEntry} (hr : runOf s s.cur.core 4 = some r) (he : getEntry s s.cur.core s.cur.ix = some e)
include hr he

theorem completionRule (hp : e.performed = false) (hd : e.discarded = false) (h4 : (ccOf s s.cur.core r e).kind ≠ 4) (h5 : (ccOf s s.cur.core r e).kind ≠ 5) :
    let core := s.cur.core
    let cc := ccOf s core r e
    ∃ s', exec .copyCompletion s = .next s' ∧ SameBytes s s' ∧ s'.threads = s.threads
      ∧ (∀ d ∈ e.dests, (tidOf s d r.part e.dtid).restrk = true → ∀ i ∈ e.tiles,
          tileBusy s d r.part e.dtid i e.no = false → (resKey d r.part e.dtid i, s.cycle) ∉ s.residAt → resKey d r.part e.dtid i ∈ s'.resid)
      ∧ (e.phaser ≠ 0xFFF → (getPh s (4096 * r.scene + e.phaser)).live = true →
          (getPh s' (4096 * r.scene + e.phaser)).pending = (getPh s (4096 * r.scene + e.phaser)).pending - e.bytes)
      ∧ (e.ctr ≠ 0xFFFFFFF → ∃ q, s'.syncQ = s.syncQ ++ [q] ∧ q.op = 57 ∧ q.arg = 2 ^ 28 * r.part + e.ctr ∧ q.val = if cc.kind = 3 ∧ cc.x.cvtScale = 2 then blockFlags cc else 0)
      ∧ (e.ctr = 0xFFFFFFF → (getCopier s' core).journal = (getCopier s core).journal.filter (·.no != e.no)) := by
  intro core cc
  have hno := getEntry_no he
  obtain ⟨resid, phasers, todo, honly⟩ := performedState_only s core r e
  have hres {d i : Nat} := mem_resid_performedState (core := core) (r := r) (d := d) (i := i) (hno ▸ he)
  have hpend := pending_performedState (s := s) (core := core) (r := r) (e := e)
  refine ⟨_, execCopyCompletion_eq hr he hp hd h4 h5, ?_⟩
  by_cases hctr : e.ctr = 0xFFFFFFF
  · rw [if_pos hctr]
    obtain ⟨todo', hrel⟩ := releaseEntry_only (performedState s core r e) core e.no
    have hjournal := journal_releaseEntry (performedState s core r e) core e.no
    rw [hrel] at hjournal ⊢
    refine ⟨SameMem.sameBytes ?_, ?_, fun d h1 h2 i => hres h1 h2, hpend, fun h => absurd hctr h, fun _ => hjournal.trans ?_⟩
    · rw [honly]
      exact ⟨rfl, rfl, rfl⟩
    · rw [honly]
      rfl
    · rw [honly]
      exact journal_filter_putEntry s core (performedEntry cc)
  · rw [if_neg hctr]
    refine ⟨SameMem.sameBytes ?_, ?_, fun d h1 h2 i => hres h1 h2, hpend, fun _ => ?_, fun h => absurd h hctr⟩
    · rw [honly]
      exact ⟨rfl, rfl, rfl⟩
    · rw [honly]
      rfl
    · obtain ⟨q, hq, hop, harg, hval⟩ := syncQ_postNotice (performedState s core r e) core r.part 57 (2 ^ 28 * r.part + e.ctr) (blockFlags cc) e.no
      refine ⟨q, hq.trans (by rw [honly]; rfl), hop, harg, hval.trans ?_⟩
      split
      · rfl
      · next h => exact blockFlags_eq_zero h

theorem digestRule (hp : e.performed = false) (hd : e.discarded = false) (h5 : (ccOf s s.cur.core r e).kind = 5) :
    ∃ s', exec .copyCompletion s = .next s' ∧ SameBytes s s' ∧ s'.threads = s.threads
      ∧ ∃ q, s'.syncQ = s.syncQ ++ [q] ∧ q.op = 58 ∧ q.arg = 2 ^ 28 * r.part + e.ctr ∧ q.val = digestOf (ccOf s s.cur.core r e) :=
  ⟨_, execCopyCompletion_digest hr he hp hd h5, SameMem.sameBytes ⟨rfl, rfl, rfl⟩, rfl, _, rfl, rfl, rfl, rfl⟩

end

theorem journalReleaseRule {s : State} {e : JEntry} (he : getEntry s s.cur.core s.cur.ix = some e) :
    ∃ s', exec .journalRelease s = .next s' ∧ (getCopier s' s.cur.core).journal = (getCopier s s.cur.core).journal.filter (·.no != s.cur.ix)
      ∧ SameBytes s s' ∧ s'.threads = s.threads := by
  obtain ⟨todo, hrel⟩ := releaseEntry_only s s.cur.core s.cur.ix
  refine ⟨_, execJournalRelease_eq he, journal_releaseEntry .., SameMem.sameBytes ?_, ?_⟩
  · rw [hrel]
    exact ⟨rfl, rfl, rfl⟩
  · rw [hrel]
    rfl

end Sys2Proof.Machine
end

section
/-! Fields of bits in memory: a code stored at a bit of a byte is read back, and every other field keeps its code (R110, R299). -/

set_option Elab.async false

namespace Sys2Proof.Machine

open Safety

/-! ## A field of a number -/

/-- The number whose field is set: what lies above the field, the new value, and what lies below. -/
theorem setBits_field (x v lo : Nat) {w : Nat} (hw : 0 < w) :
    setBits x (lo + w - 1) lo v = 2 ^ lo * (2 ^ w * (x / 2 ^ (lo + w)) + v % 2 ^ w) + x % 2 ^ lo := by
  have hhi : lo + w - 1 + 1 - lo = w := by omega
  have hsplit : x = 2 ^ lo * (2 ^ w * (x / 2 ^ (lo + w)) + x / 2 ^ lo % 2 ^ w) + x % 2 ^ lo := by
    rw [Nat.pow_add, ← Nat.div_div_eq_div_mul, Nat.div_add_mod, Nat.div_add_mod]
  have hle : 2 ^ lo * (x / 2 ^ lo % 2 ^ w) ≤ x := (Nat.mul_le_mul_left _ (Nat.mod_le ..)).trans (Nat.mul_div_le ..)
  rw [setBits, bits, hhi, Nat.mul_comm _ (2 ^ lo), Nat.mul_comm _ (2 ^ lo), Nat.mul_add]
  rw [Nat.mul_add] at hsplit
  omega

theorem setBits_get (x v lo : Nat) {w : Nat} (hw : 0 < w) : setBits x (lo + w - 1) lo v / 2 ^ lo % 2 ^ w = v % 2 ^ w := by
  rw [setBits_field x v lo hw, Nat.mul_add_div (Nat.two_pow_pos _), Nat.div_eq_of_lt (Nat.mod_lt _ (Nat.two_pow_pos _)), Nat.add_zero, Nat.mul_add_mod,
    Nat.mod_mod]

/-- What lies above the field stays. -/
theorem setBits_div (x v lo : Nat) {w : Nat} (hw : 0 < w) : setBits x (lo + w - 1) lo v / 2 ^ (lo + w) = x / 2 ^ (lo + w) := by
  rw [setBits_field x v lo hw, Nat.pow_add, ← Nat.div_div_eq_div_mul, Nat.mul_add_div (Nat.two_pow_pos _), Nat.div_eq_of_lt (Nat.mod_lt _ (Nat.two_pow_pos _)),
    Nat.add_zero, Nat.mul_add_div (Nat.two_pow_pos _), Nat.div_eq_of_lt (Nat.mod_lt _ (Nat.two_pow_pos _)), Nat.add_zero]

/-- What lies below the field stays. -/
theorem setBits_mod (x v lo : Nat) {w : Nat} (hw : 0 < w) : setBits x (lo + w - 1) lo v % 2 ^ lo = x % 2 ^ lo := by
  rw [setBits_field x v lo hw, Nat.mul_add_mod, Nat.mod_mod]

theorem div_mod_of_mod_eq {x y n a w : Nat} (h : x % 2 ^ n = y % 2 ^ n) (ha : a + w ≤ n) : x / 2 ^ a % 2 ^ w = y / 2 ^ a % 2 ^ w := by
  have hcut (z : Nat) : z / 2 ^ a % 2 ^ w = z % 2 ^ n % (2 ^ a * 2 ^ w) / 2 ^ a := by
    rw [Nat.mod_mod_of_dvd _ (by rw [← Nat.pow_add]; exact Nat.pow_dvd_pow 2 ha), Nat.mod_mul_right_div_self]
  rw [hcut, hcut, h]

theorem div_eq_of_div_eq {x y n a : Nat} (h : x / 2 ^ n = y / 2 ^ n) (ha : n ≤ a) : x / 2 ^ a = y / 2 ^ a := by
  rw [← Nat.add_sub_cancel' ha, Nat.pow_add, ← Nat.div_div_eq_div_mul, ← Nat.div_div_eq_div_mul, h]

theorem setBits_get_apart (x v : Nat) {a lo w : Nat} (hw : 0 < w) (h : a + w ≤ lo ∨ lo + w ≤ a) :
    setBits x (lo + w - 1) lo v / 2 ^ a % 2 ^ w = x / 2 ^ a % 2 ^ w := by
  rcases h with h | h
  · exact div_mod_of_mod_eq (setBits_mod x v lo hw) h
  · rw [div_eq_of_div_eq (setBits_div x v lo hw) h]

/-! ## A field of memory -/

/-- Bytes that hold a field of w bits. -/
def fieldBytes (w : Nat) : Nat := max 1 (w / 8)
/-- The field of w bits at bit lo of address a. -/
def getField (m : Tab Byte) (w a lo : Nat) : Nat := leNat (rdBytes m a (fieldBytes w)) / 2 ^ lo % 2 ^ w
/-- A memory with a code in such a field: whole bytes, or bits within one. -/
def putField (m : Tab Byte) (w a lo v : Nat) : Tab Byte :=
  if w < 8 then wrBytes m a (leBytes 1 (setBits (leNat (rdBytes m a 1)) (lo + w - 1) lo v)) else wrBytes m a (leBytes (fieldBytes w) v)

theorem fieldBytes_of_lt {w : Nat} (h : w < 8) : fieldBytes w = 1 := by
  rw [fieldBytes, Nat.div_eq_of_lt h]
  rfl

/-- A field lies in the bytes that hold it, and one of whole bytes fills them. -/
def FieldAt (w lo : Nat) : Prop := 0 < w ∧ lo + w ≤ 8 * fieldBytes w ∧ (8 ≤ w → w = 8 * fieldBytes w)

theorem tget_putField (m : Tab Byte) (w a lo v : Nat) {z : Nat} (h : z < a ∨ a + fieldBytes w ≤ z) : tget (putField m w a lo v) 0 z = tget m 0 z := by
  unfold putField
  split
  · next hw =>
    rw [fieldBytes_of_lt hw] at h
    rw [tget_wrBytes, length_leBytes, if_neg (by omega)]
  · rw [tget_wrBytes, length_leBytes, if_neg (by omega)]

section
variable {w lo : Nat} (hf : FieldAt w lo)
include hf

theorem getField_putField_same (m : Tab Byte) (a v : Nat) : getField (putField m w a lo v) w a lo = v % 2 ^ w := by
  obtain ⟨hw, hlo, hfull⟩ := hf
  unfold getField putField
  split
  · next h8 =>
    have hread (l : List Byte) (hl : l.length = 1) : rdBytes (wrBytes m a l) a 1 = l := hl ▸ rdBytes_wrBytes_same m a l
    rw [fieldBytes_of_lt h8] at hlo ⊢
    rw [hread _ (length_leBytes ..), leNat_leBytes, div_mod_of_mod_eq (n := 8) (Nat.mod_mod _ (256 ^ 1)) (by omega), setBits_get _ v lo hw]
  · next h8 =>
    have h8' := hfull (by omega)
    have hread (l : List Byte) (hl : l.length = fieldBytes w) : rdBytes (wrBytes m a l) a (fieldBytes w) = l := hl ▸ rdBytes_wrBytes_same m a l
    obtain rfl : lo = 0 := by omega
    rw [hread _ (length_leBytes ..), leNat_leBytes, Nat.pow_zero, Nat.div_one, show 256 = 2 ^ 8 from rfl, ← Nat.pow_mul, ← h8', Nat.mod_mod]

theorem getField_putField_apart (m : Tab Byte) {a b lo' : Nat} (v : Nat) (hf' : FieldAt w lo') (h : 8 * b + lo' + w ≤ 8 * a + lo ∨ 8 * a + lo + w ≤ 8 * b + lo') :
    getField (putField m w a lo v) w b lo' = getField m w b lo' := by
  obtain ⟨hw, hlo, hfull⟩ := hf
  obtain ⟨-, hlo', -⟩ := hf'
  unfold getField putField
  split
  · next h8 =>
    rw [fieldBytes_of_lt h8] at *
    by_cases hab : b = a
    · subst hab
      have hread (l : List Byte) (hl : l.length = 1) : rdBytes (wrBytes m b l) b 1 = l := hl ▸ rdBytes_wrBytes_same m b l
      rw [hread _ (length_leBytes ..), leNat_leBytes, div_mod_of_mod_eq (n := 8) (Nat.mod_mod _ (256 ^ 1)) (by omega), setBits_get_apart _ v hw (by omega)]
    · rw [rdBytes_wrBytes_apart _ _ _ _ _ (by rw [length_leBytes]; omega)]
  · rw [rdBytes_wrBytes_apart _ _ _ _ _ (by rw [length_leBytes]; omega)]

end

/-! ## Several fields -/

/-- The memory after the codes of a list of positions, each in its field. -/
def putFields (m : Tab Byte) (w : Nat) (a lo v : Nat → Nat) (ks : List Nat) : Tab Byte := ks.foldl (fun m k => putField m w (a k) (lo k) (v k)) m

section
variable {w : Nat} {a lo : Nat → Nat} (v : Nat → Nat)

theorem tget_putFields (m : Tab Byte) {z : Nat} : ∀ {ks : List Nat}, (∀ k ∈ ks, z < a k ∨ a k + fieldBytes w ≤ z) → tget (putFields m w a lo v ks) 0 z = tget m 0 z := by
  intro ks
  induction ks generalizing m with
  | nil => exact fun _ => rfl
  | cons k ks ih =>
    intro h
    have hk := List.forall_mem_cons.1 h
    exact (ih (putField m w (a k) (lo k) (v k)) hk.2).trans (tget_putField m w (a k) (lo k) (v k) hk.1)

theorem getField_putFields_apart (m : Tab Byte) {k : Nat} (hf : FieldAt w (lo k)) {ks : List Nat} (hks : ∀ j ∈ ks, FieldAt w (lo j))
    (h : ∀ j ∈ ks, 8 * a k + lo k + w ≤ 8 * a j + lo j ∨ 8 * a j + lo j + w ≤ 8 * a k + lo k) :
    getField (putFields m w a lo v ks) w (a k) (lo k) = getField m w (a k) (lo k) := by
  induction ks generalizing m with
  | nil => rfl
  | cons j ks ih =>
    obtain ⟨hj, hks⟩ := List.forall_mem_cons.1 hks
    obtain ⟨hjk, h⟩ := List.forall_mem_cons.1 h
    exact (ih (putField m w (a j) (lo j) (v j)) hks h).trans (getField_putField_apart hj m (v j) hf hjk)

/-- Fields that do not overlap each hold their code. -/
theorem getField_putFields (m : Tab Byte) {ks : List Nat} (hnd : ks.Nodup) (hf : ∀ k ∈ ks, FieldAt w (lo k))
    (h : ∀ k ∈ ks, ∀ j ∈ ks, j ≠ k → 8 * a k + lo k + w ≤ 8 * a j + lo j ∨ 8 * a j + lo j + w ≤ 8 * a k + lo k) {k : Nat} (hk : k ∈ ks) :
    getField (putFields m w a lo v ks) w (a k) (lo k) = v k % 2 ^ w := by
  induction ks generalizing m with
  | nil => cases hk
  | cons j ks ih =>
    obtain ⟨hjks, hnd⟩ := List.nodup_cons.1 hnd
    obtain ⟨hj, hf'⟩ := List.forall_mem_cons.1 hf
    rcases List.mem_cons.1 hk with rfl | hk
    · refine (getField_putFields_apart v (putField m w (a k) (lo k) (v k)) hj hf' fun i hi => ?_).trans (getField_putField_same hj m (a k) (v k))
      exact h k (List.mem_cons_self ..) i (List.mem_cons_of_mem _ hi) fun hik => hjks (hik ▸ hi)
    · exact ih (putField m w (a j) (lo j) (v j)) hnd hf' (fun k hk i hi => h k (List.mem_cons_of_mem _ hk) i (List.mem_cons_of_mem _ hi)) hk

end

/-! ## Bytes that are gathered -/

/-- Bytes taken from a memory to their places: where two elements share bytes they bring the same ones, so each place holds its own bytes. -/
theorem tget_gathered {mem : Tab Byte} {n : Nat} {src dst : Nat → Nat} {es : List Nat}
    (hsame : ∀ e ∈ es, ∀ f ∈ es, ∀ i j, i < n → j < n → dst e + i = dst f + j → tget mem 0 (src e + i) = tget mem 0 (src f + j))
    {e i : Nat} (he : e ∈ es) (hi : i < n) : ∀ {l : List Nat} (st : Tab Byte), l ⊆ es → (e ∈ l ∨ tget st 0 (dst e + i) = tget mem 0 (src e + i)) →
      tget (l.foldl (fun st f => wrBytes st (dst f) (rdBytes mem (src f) n)) st) 0 (dst e + i) = tget mem 0 (src e + i) := by
  intro l
  induction l with
  | nil => exact fun st _ h => h.resolve_left List.not_mem_nil
  | cons f l ih =>
    intro st hl h
    refine ih _ (List.Subset.trans (List.subset_cons_self ..) hl) ?_
    by_cases hel : e ∈ l
    · exact .inl hel
    · refine .inr ?_
      rw [tget_wrBytes, length_rdBytes]
      split
      · next hr =>
        have hj : dst e + i - dst f < n := by omega
        rw [List.getD_eq_getElem?_getD, rdBytes_getElem? _ _ _ _ hj]
        exact (hsame e he f (hl (List.mem_cons_self ..)) i _ hi hj (by omega)).symm
      · next hr =>
        rcases h with h | h
        · rcases List.mem_cons.1 h with rfl | h
          · omega
          · exact absurd h hel
        · exact h

theorem rdBytes_gathered {mem : Tab Byte} {n : Nat} {src dst : Nat → Nat} {es : List Nat}
    (hsame : ∀ e ∈ es, ∀ f ∈ es, ∀ i j, i < n → j < n → dst e + i = dst f + j → tget mem 0 (src e + i) = tget mem 0 (src f + j))
    (st : Tab Byte) {e : Nat} (he : e ∈ es) :
    rdBytes (es.foldl (fun st f => wrBytes st (dst f) (rdBytes mem (src f) n)) st) (dst e) n = rdBytes mem (src e) n := by
  apply List.ext_getElem?
  intro i
  by_cases hi : i < n
  · rw [rdBytes_getElem? _ _ _ _ hi, rdBytes_getElem? _ _ _ _ hi, tget_gathered hsame he hi st (List.Subset.refl _) (.inl he)]
  · rw [List.getElem?_eq_none (by simp; omega), List.getElem?_eq_none (by simp; omega)]

end Sys2Proof.Machine
end

section
/-! Transfers by lines (R193, R196 to R198): a transfer that writes, and one that reads, when it is performed. -/

set_option Elab.async false

namespace Sys2Proof.Machine

open Safety

/-! ## Accesses outside device DRAM and the host -/

/-- The place of an element in a pool or a die buffer depends on the cores, the scenes and the owners of die buffers alone. -/
theorem accessOf_near {s s' : State} (hcores : s'.cores = s.cores) (hscenes : s'.scenes = s.scenes) (hdie : s'.dieOwners = s.dieOwners) {t : TidV} (ht : t.space ≤ 2)
    (w : Who) (e disp : Int) (n al : Nat) (elem store : Bool) (ag : Agent) : accessOf s' w t e disp n al elem store ag = accessOf s w t e disp n al elem store ag := by
  have hpw (c : Nat) : pw s' c = pw s c := by unfold pw getCore; rw [hcores]
  have harea (c o n : Nat) (ag : Agent) : areaOk s' c o n ag = areaOk s c o n ag := by unfold areaOk; rw [hpw]
  have howned (c p o n : Nat) : ownedOk s' c p o n = ownedOk s c p o n := by unfold ownedOk getCore; rw [hcores]
  have hcore (sc g l v : Nat) : coreOf s' sc g l v = coreOf s sc g l v := by unfold coreOf getScene; rw [hscenes]
  have hoff (d p o : Nat) : dieOffset s' d p o = dieOffset s d p o := by unfold dieOffset; rw [hdie]
  have hlc : lcBad s' w t = lcBad s w t := by unfold lcBad nlcOf getScene; rw [hscenes]
  have hplace (a : Nat) : placeOf s' w t a n store ag = placeOf s w t a n store ag := by
    unfold placeOf
    simp only [harea, howned, hcore, hoff]
    split
    · rfl
    · rfl
    · rfl
    · omega
    · omega
    · rfl
  unfold accessOf
  simp only [hlc, hplace]
  rfl

/-- A state with other contents of memory and other check bits. -/
def withStored (s : State) (mem : Tab Byte) (ecc : Tab Nat) : State := { s with mem := mem, ecc := ecc }

theorem xferPlace_near (s : State) (mem : Tab Byte) (ecc : Tab Nat) {x : Xfer} (hx : x.t.space ≤ 2) (e : Nat) :
    xferPlace (withStored s mem ecc) x e = xferPlace s x e := by
  unfold xferPlace
  exact accessOf_near (s := s) (s' := withStored s mem ecc) rfl rfl rfl hx ..

/-- An element of a transfer passes its checks: its bit within its byte, and its place. -/
def Reaches (s : State) (x : Xfer) (e lo : Nat) (p : Place) : Prop := ∃ a, xferPlace s x e = .ok (a, lo, p)

theorem Reaches.xferAt {s : State} {x : Xfer} {e lo : Nat} {p : Place} (h : Reaches s x e lo p) : xferAt s x none e = (lo, p) := by
  obtain ⟨a, h⟩ := h
  unfold Machine.xferAt
  rw [h]

theorem Reaches.near {s : State} {x : Xfer} {e lo : Nat} {p : Place} (h : Reaches s x e lo p) (hx : x.t.space ≤ 2) (mem : Tab Byte) (ecc : Tab Nat) :
    Reaches (withStored s mem ecc) x e lo p := by
  obtain ⟨a, h⟩ := h
  exact ⟨a, (xferPlace_near s mem ecc hx e).trans h⟩

/-! ## The checks of a transfer whose elements have places -/

theorem xferFault_none {s : State} {x : Xfer} (h : ∀ e ∈ x.es, ∃ lo p, Reaches s x e lo p) : xferFault s x = none := by
  unfold xferFault
  rw [List.findSome?_eq_none_iff]
  intro e he
  obtain ⟨lo, p, a, hok⟩ := h e he
  rw [hok]

theorem xferFenced_false {s : State} {x : Xfer} (h : ∀ e ∈ x.es, ∃ lo p, Reaches s x e lo p ∧ bankFenced s p (elemBytes x) = false) : xferFenced s x none = false := by
  unfold xferFenced
  rw [List.any_eq_false]
  intro e he
  obtain ⟨lo, p, hok, hf⟩ := h e he
  rw [hok.xferAt, hf]
  exact Bool.false_ne_true

theorem raceNeeds_none {x : Xfer} (h : x.t.shrc = false) (s : State) (c : CC) (u : Nat) : raceNeeds s c x u = none := by
  rw [raceNeeds, h]
  rfl

theorem translated_near {space : Nat} (h : space ≤ 2) (s : State) (core part va : Nat) : translated s core part space va = s := by
  rw [translated, if_neg (by omega), if_neg (by omega)]

theorem unitSize_near {space : Nat} (h : space ≤ 2) : unitSize space = 64 := if_neg (by omega)

/-! ## Check bits -/

theorem foldl_max_eq_zero {α : Type} {f : α → Nat} {l : List α} : l.foldl (fun m b => max m (f b)) 0 = 0 ↔ ∀ b ∈ l, f b = 0 := by
  induction l with
  | nil => simp
  | cons a l ih =>
    have hmono (l : List α) : ∀ n, n ≤ l.foldl (fun m b => max m (f b)) n := by
      induction l with
      | nil => exact fun n => Nat.le_refl n
      | cons b l ih => exact fun n => (Nat.le_max_left n (f b)).trans (ih _)
    rw [List.foldl_cons, List.forall_mem_cons, Nat.zero_max]
    constructor
    · intro h
      have h0 : f a = 0 := Nat.le_zero.1 (h ▸ hmono l (f a))
      rw [h0] at h
      exact ⟨h0, ih.1 h⟩
    · rintro ⟨h0, h⟩
      rw [h0]
      exact ih.2 h

/-- Blocks that are good are read without an entry in the log. -/
theorem eccBlocks_good {s : State} {l : List Nat} (h : ∀ b ∈ l, blockEcc s b = 0) (p : Place) (core : Nat) : eccBlocks s p l core = (s, true) := by
  simp only [eccBlocks, foldl_max_eq_zero.2 h]

theorem holdLines_dev (s : State) (a n : Nat) : holdLines s ⟨.dev, a⟩ n = s := rfl

theorem eccFresh_only (s : State) (p : Place) (n : Nat) : ∃ ecc, eccFresh s p n = { s with ecc := ecc } := by
  unfold eccFresh
  split <;> exact ⟨_, rfl⟩

/-- A transfer that writes a line of good blocks passes; only check bits change. -/
theorem xferEcc_write {s : State} {x : Xfer} {p : Place} (hx : x.t.space ≤ 2) (hst : x.store = true) (hp : p.store = .dev) (hecc : eccOf s (p.addr / 64 * 64) 64 = 0)
    (core : Nat) : ∃ ecc, xferEcc s x p core = (withStored s s.mem ecc, true) := by
  obtain ⟨st, a⟩ := p
  obtain rfl : st = .dev := hp
  have hgood : ∀ b ∈ blocksOf (a / 64 * 64) 64, blockEcc s b = 0 := foldl_max_eq_zero.1 hecc
  have hfresh : ∀ (js : List Nat) (ecc : Tab Nat), ∃ ecc', js.foldl (fun s j => if 256 ≤ blockBits x j then eccFresh s ⟨.dev, a / 64 * 64 + 32 * j⟩ 32 else s)
      (withStored s s.mem ecc) = withStored s s.mem ecc' := by
    intro js
    induction js with
    | nil => exact fun ecc => ⟨ecc, rfl⟩
    | cons j js ih =>
      intro ecc
      rw [List.foldl_cons]
      split
      · obtain ⟨ecc', h⟩ := eccFresh_only (withStored s s.mem ecc) ⟨.dev, a / 64 * 64 + 32 * j⟩ 32
        rw [h]
        exact ih ecc'
      · exact ih ecc
  unfold xferEcc
  rw [unitSize_near hx]
  dsimp only
  rw [holdLines_dev, hst]
  have hcheck := eccBlocks_good (s := s) (l := ((List.range (64 / 32)).filter fun j => blockBits x j != 0 && blockBits x j < 256).map (a / 64 * 64 / 32 + ·))
    (by
      intro b hb
      obtain ⟨j, hj, rfl⟩ := List.mem_map.1 hb
      refine hgood _ (List.mem_map.2 ⟨j, ?_, rfl⟩)
      have hj := List.mem_range.1 (List.mem_filter.1 hj).1
      rw [List.mem_range]
      omega) ⟨.dev, a / 64 * 64⟩ core
  rw [hcheck]
  obtain ⟨ecc, h⟩ := hfresh (List.range (64 / 32)) s.ecc
  exact ⟨ecc, congrArg (·, true) h⟩

/-- A transfer that reads a line of good blocks changes nothing. -/
theorem xferEcc_read {s : State} {x : Xfer} {p : Place} (hx : x.t.space ≤ 2) (hst : x.store = false) (hp : p.store = .dev) (hecc : eccOf s (p.addr / 64 * 64) 64 = 0)
    (core : Nat) : xferEcc s x p core = (s, true) := by
  obtain ⟨st, a⟩ := p
  obtain rfl : st = .dev := hp
  unfold xferEcc
  rw [unitSize_near hx]
  dsimp only
  rw [holdLines_dev, hst]
  exact eccLog_good hecc core

/-! ## After a transfer -/

/-- The command has transfers that have not performed, or neither an index list nor a bad index is left to see to. -/
def GoesOn (c : CC) (e : JEntry) : Prop := e.waiting ++ e.left ≠ [] ∨ e.failAfter = none ∧ (c.kind = 1 → e.idx ≠ [])

theorem settle_only {s : State} {core no : Nat} {r : Run} {e : JEntry} (hr : runOf s core 4 = some r) (he : getEntry s core no = some e)
    (hg : GoesOn (ccOf s core r e) e) : ∃ todo, settle s core no = { s with todo := todo } := by
  unfold settle
  simp only [hr, he]
  split
  · refine foldl_rel (R := fun s s' : State => ∃ todo, s' = { s with todo := todo }) (fun s => ⟨_, rfl⟩) ?_ (fun s u => ⟨_, rfl⟩) _ _
    rintro s t u ⟨_, rfl⟩ ⟨_, rfl⟩
    exact ⟨_, rfl⟩
  · next hdone =>
    obtain ⟨hfail, hidx⟩ := hg.resolve_left (by
      simp only [Bool.not_eq_true', Bool.not_eq_false, Bool.and_eq_true, List.isEmpty_iff] at hdone
      simp [hdone])
    split
    · exact ⟨_, rfl⟩
    · rw [if_neg fun h => hidx h.1 h.2, hfail]
      exact ⟨_, rfl⟩

/-! ## The write of a transfer -/

theorem storeElemAt_eq {s : State} {x : Xfer} {e lo a : Nat} (h : xferAt s x none e = (lo, ⟨.dev, a⟩)) (v : Nat) :
    storeElemAt s x none e v = withStored s (putField s.mem (width x.t.fmt) a lo v) s.ecc := by
  unfold storeElemAt putField
  rw [h]
  dsimp only
  split <;> rfl

/-- The writes of a transfer, each position's code in its field. -/
theorem writeItem_eq {s : State} {c : CC} {x : Xfer} {u : Nat} {el lo : Nat → Nat} {pl : Nat → Place} (hx : x.t.space ≤ 2) (ecc : Tab Nat)
    (hk : ∀ k ∈ itemKs s c u, itemElem s c u k = some (el k) ∧ Reaches s x (el k) (lo k) (pl k) ∧ (pl k).store = .dev) :
    writeItem (withStored s s.mem ecc) c x u none
      = withStored s (putFields s.mem (width x.t.fmt) (fun k => (pl k).addr) lo (itemCode c u) (itemKs s c u)) ecc := by
  have hfold : ∀ (ks : List Nat), ks ⊆ itemKs s c u → ∀ mem : Tab Byte,
      ks.foldl (fun s k => storeElemAt s x none ((itemElem s c u k).getD 0) (itemCode c u k)) (withStored s mem ecc)
        = withStored s (putFields mem (width x.t.fmt) (fun k => (pl k).addr) lo (itemCode c u) ks) ecc := by
    intro ks
    induction ks with
    | nil => exact fun _ _ => rfl
    | cons k ks ih =>
      intro hsub mem
      obtain ⟨hel, hok, hdev⟩ := hk k (hsub (List.mem_cons_self ..))
      have hpl : pl k = ⟨.dev, (pl k).addr⟩ := by rw [← hdev]
      rw [hpl] at hok
      have hel' : (itemElem (withStored s mem ecc) c u k).getD 0 = el k := congrArg (Option.getD · 0) hel
      rw [List.foldl_cons, hel', storeElemAt_eq (hok.near hx mem ecc).xferAt]
      exact ih (List.Subset.trans (List.subset_cons_self ..) hsub) _
  exact hfold (itemKs s c u) (List.Subset.refl _) s.mem

theorem nodup_itemKs (s : State) (c : CC) (u : Nat) : (itemKs s c u).Nodup := by
  unfold itemKs
  refine List.Nodup.filter _ ?_
  split
  · unfold blockHeads
    split
    · exact List.nodup_range.filter _
    · exact List.nodup_nil
  · exact List.nodup_range

end Sys2Proof.Machine
end

section
/-! COPY_LINE_TRANSFER (R193): what a transfer by lines writes, and what one reads. -/

set_option Elab.async false

namespace Sys2Proof.Machine

open Safety

/-! ## A transfer past its checks -/

/-- The entry of a command whose transfer has been written. -/
def writtenEntry (e : JEntry) (u : Nat) : JEntry := { e with left := e.left.filter (· != u), ready := e.ready.filter (·.1 != u) }

section
variable {s t : State} {c : CC} {x : Xfer} {u : Nat} (hf : xferFenced s x none = false) (hecc : xferEcc s x (xferAt s x none (x.es.headD 0)).2 c.core = (t, true))
include hf hecc

theorem transfer_write (hst : x.store = true) :
    transfer s c x u none = settle (putEntry (writeItem t c x u none) c.core (writtenEntry c.e u)) c.core c.e.no := by
  unfold transfer
  simp only [hf, hecc, hst, if_true, Bool.false_eq_true, if_false]
  rfl

theorem transfer_read (hst : x.store = false) :
    transfer s c x u none = settle (putEntry t c.core { c.e with stage := readUnit t x u none c.e.stage, waiting := c.e.waiting.filter (· != u) }) c.core c.e.no := by
  unfold transfer
  simp only [hf, hecc, hst, Bool.false_eq_true, if_false]

end

section
variable {s : State} {core no u : Nat} {r : Run} {e : JEntry} (hr : runOf s core 4 = some r) (he : getEntry s core no = some e)
include hr he

/-- A transfer by lines that still waits, and that no check keeps back. -/
theorem performItem_line (hu : u ∈ e.left ∨ u ∈ e.waiting) (hready : lookup e.ready u = none) (hfault : xferFault s (xferOf s (ccOf s core r e) u) = none)
    (hshrc : (xferOf s (ccOf s core r e) u).t.shrc = false) (hsp : (xferOf s (ccOf s core r e) u).t.space ≤ 2) :
    performItem s core no u none = transfer s (ccOf s core r e) (xferOf s (ccOf s core r e) u) u none := by
  have hin : (!(e.left.contains u || e.waiting.contains u)) = false := by
    simpa only [Bool.not_eq_false', Bool.or_eq_true, List.contains_iff_mem] using hu
  unfold performItem
  simp only [hr, he, hin, Bool.false_eq_true, if_false, Option.none_or, hready, hfault, raceNeeds_none hshrc, translated_near hsp]

end

theorem mem_filter_ne {l : List Nat} {u v : Nat} (hu : u ∈ l) (hv : u ≠ v) : u ∈ l.filter (· != v) := List.mem_filter.2 ⟨hu, by simpa using hv⟩

theorem exec_lineTransfer {s : State} (hf : s.cur.flag = false) : exec .lineTransfer s = .next (performItem s s.cur.core s.cur.ix s.cur.val none) := by
  change execLineTransfer s = _
  rw [execLineTransfer, if_neg (by rw [hf]; exact Bool.false_ne_true)]

/-! ## A transfer that writes -/

theorem xferOf_write {s : State} {c : CC} {u : Nat} (hread : isRead u = false) (hcommit : u ≠ commitItem) :
    xferOf s c u = ⟨ccWho c (destOf c u), (itemTid s c u).2.1, (itemTid s c u).2.2, (itemKs s c u).filterMap (itemElem s c u), pathX, true⟩ := by
  have hcore : (itemTid s c u).1 = destOf c u := by
    unfold itemTid
    rw [if_neg (by rw [hread]; exact Bool.false_ne_true)]
    dsimp only
    split <;> rfl
  unfold xferOf
  rw [if_neg (by rw [hread]; exact Bool.false_ne_true)]
  dsimp only
  rw [if_neg hcommit, hcore]

/-- A position of a transfer has its element, at a place of good memory. -/
def Writes (s : State) (c : CC) (u el k lo : Nat) (p : Place) : Prop :=
  itemElem s c u k = some el ∧ Reaches s (xferOf s c u) el lo p ∧ p.store = .dev ∧ bankFenced s p (elemBytes (xferOf s c u)) = false
    ∧ eccOf s (p.addr / 64 * 64) 64 = 0

/-- Memory after a transfer: the code of each position in its field. -/
def lineWritten (s : State) (c : CC) (u : Nat) (lo : Nat → Nat) (pl : Nat → Place) : Tab Byte :=
  putFields s.mem (width (xferOf s c u).t.fmt) (fun k => (pl k).addr) lo (itemCode c u) (itemKs s c u)

section
variable {s : State} {core no u : Nat} {r : Run} {e : JEntry} (hr : runOf s core 4 = some r) (he : getEntry s core no = some e)
  (hready : lookup e.ready u = none) (hgo : (∃ v ∈ e.waiting ++ e.left, v ≠ u) ∨ e.failAfter = none ∧ ((ccOf s core r e).kind = 1 → e.idx ≠ []))
  (hshrc : (xferOf s (ccOf s core r e) u).t.shrc = false) (hsp : (xferOf s (ccOf s core r e) u).t.space ≤ 2)
include hr he hready hgo hshrc hsp

theorem performItem_writes (hu : u ∈ e.left) (hread : isRead u = false) (hcommit : u ≠ commitItem) (hne : itemKs s (ccOf s core r e) u ≠ [])
    {el lo : Nat → Nat} {pl : Nat → Place} (hk : ∀ k ∈ itemKs s (ccOf s core r e) u, Writes s (ccOf s core r e) u (el k) k (lo k) (pl k)) :
    ∃ ecc copiers todo, performItem s core no u none = 
      { s with mem := lineWritten s (ccOf s core r e) u lo pl, ecc := ecc, copiers := copiers, todo := todo } := by
  have hx := xferOf_write (s := s) (c := ccOf s core r e) hread hcommit
  have hes : (xferOf s (ccOf s core r e) u).es = (itemKs s (ccOf s core r e) u).map el := by
    rw [hx]
    exact List.filterMap_eq_map_iff_forall_eq_some.2 fun k hk' => (hk k hk').1
  have hplace : ∀ i ∈ (xferOf s (ccOf s core r e) u).es, ∃ lo p, Reaches s (xferOf s (ccOf s core r e) u) i lo p
      ∧ bankFenced s p (elemBytes (xferOf s (ccOf s core r e) u)) = false := by
    rw [hes]
    intro i hi
    obtain ⟨k, hk', rfl⟩ := List.mem_map.1 hi
    obtain ⟨-, hok, -, hf, -⟩ := hk k hk'
    exact ⟨_, _, hok, hf⟩
  obtain ⟨k0, ks, hks⟩ := List.exists_cons_of_ne_nil hne
  obtain ⟨-, hok0, hdev0, -, hecc0⟩ := hk k0 (hks ▸ List.mem_cons_self ..)
  have hhead : xferAt s (xferOf s (ccOf s core r e) u) none ((xferOf s (ccOf s core r e) u).es.headD 0) = (lo k0, pl k0) := by
    rw [hes, hks]
    exact hok0.xferAt
  obtain ⟨ecc, hecc⟩ := xferEcc_write (x := xferOf s (ccOf s core r e) u) hsp (by rw [hx]) hdev0 hecc0 core
  have hwrite := writeItem_eq (c := ccOf s core r e) (u := u) hsp ecc fun k hk' => by
    obtain ⟨hel, hok, hdev, -⟩ := hk k hk'
    exact ⟨hel, hok, hdev⟩
  have hput := getEntry_putEntry (s := withStored s (lineWritten s (ccOf s core r e) u lo pl) ecc) (e' := writtenEntry e u) (getEntry_no he ▸ he)
  obtain ⟨todo, hsettle⟩ := settle_only (s := putEntry (withStored s (lineWritten s (ccOf s core r e) u lo pl) ecc) core (writtenEntry e u)) (no := e.no) hr hput (hgo.imp (fun h => by
      obtain ⟨v, hv, hvu⟩ := h
      refine List.ne_nil_of_mem (a := v) (List.mem_append.2 ?_)
      exact (List.mem_append.1 hv).imp id fun h => mem_filter_ne h hvu) id)
  have hrun : performItem s core no u none = settle (putEntry (withStored s (lineWritten s (ccOf s core r e) u lo pl) ecc) core (writtenEntry e u)) core e.no := by
    rw [performItem_line hr he (.inl hu) hready (xferFault_none fun i hi => (hplace i hi).imp fun lo h => h.imp fun p h => h.1) hshrc hsp,
      transfer_write (xferFenced_false hplace) (by rw [hhead]; exact hecc) (by rw [hx]), hwrite]
    rfl
  exact ⟨ecc, _, todo, hrun.trans hsettle⟩

end

/-- Each position's code stands in its field. -/
theorem getField_lineWritten {s : State} {c : CC} {u : Nat} {lo : Nat → Nat} {pl : Nat → Place} (hf : ∀ k ∈ itemKs s c u, FieldAt (width (xferOf s c u).t.fmt) (lo k))
    (hapart : ∀ k ∈ itemKs s c u, ∀ j ∈ itemKs s c u, j ≠ k →
      8 * (pl k).addr + lo k + width (xferOf s c u).t.fmt ≤ 8 * (pl j).addr + lo j ∨ 8 * (pl j).addr + lo j + width (xferOf s c u).t.fmt ≤ 8 * (pl k).addr + lo k)
    {k : Nat} (hk : k ∈ itemKs s c u) :
    getField (lineWritten s c u lo pl) (width (xferOf s c u).t.fmt) (pl k).addr (lo k) = itemCode c u k % 2 ^ width (xferOf s c u).t.fmt :=
  getField_putFields (a := fun k => (pl k).addr) (itemCode c u) s.mem (nodup_itemKs s c u) hf hapart hk

theorem tget_lineWritten {s : State} {c : CC} {u : Nat} (lo : Nat → Nat) {pl : Nat → Place} {z : Nat}
    (h : ∀ k ∈ itemKs s c u, z < (pl k).addr ∨ (pl k).addr + fieldBytes (width (xferOf s c u).t.fmt) ≤ z) :
    tget (lineWritten s c u lo pl) 0 z = tget s.mem 0 z :=
  tget_putFields (a := fun k => (pl k).addr) (lo := lo) (itemCode c u) s.mem h

theorem lineWriteRule {s : State} {r : Run} {e : JEntry} (hr : runOf s s.cur.core 4 = some r) (he : getEntry s s.cur.core s.cur.ix = some e) :
    let core := s.cur.core
    let cc := ccOf s core r e
    let item := s.cur.val
    let t := (itemTid s cc item).2.2
    let dc := e.dests.getD (item / 2 ^ 50 % 64) core
    let w := width t.fmt
    let n := max 1 (w / 8)
    let ks := itemKs s cc item
    let sound (p : Place) : Prop := p.store = .dev ∧ bankFenced s p n = false ∧ eccOf s (p.addr / 64 * 64) 64 = 0
    let local_ : Prop := lookup e.ready item = none ∧ ((∃ u ∈ e.waiting ++ e.left, u ≠ item) ∨ e.failAfter = none ∧ (cc.kind = 1 → e.idx ≠ []))
    let code (k : Nat) : Nat := if isScale item then (blockOf cc k).2.1 else dstCode cc k
    ∀ (pl : Nat → Place) (lo el : Nat → Nat), s.cur.flag = false → item ∈ e.left → isRead item = false → item ≠ commitItem → outside item = false → local_ →
      t.shrc = false → 0 < w → t.space ≤ 2 → ks ≠ [] →
      (∀ k ∈ ks, itemElem s cc item k = some (el k) ∧ (isScale item = false → el k = ccDst cc k)
        ∧ (∃ a, accessOf s (ccWho cc dc) t (el k) 0 n n false true .copy = .ok (a, lo k, pl k)) ∧ sound (pl k)
        ∧ lo k + w ≤ 8 * n ∧ (8 ≤ w → w = 8 * n)
        ∧ ∀ j ∈ ks, j ≠ k → 8 * (pl k).addr + lo k + w ≤ 8 * (pl j).addr + lo j ∨ 8 * (pl j).addr + lo j + w ≤ 8 * (pl k).addr + lo k) →
      ∃ s', exec .lineTransfer s = .next s' ∧ s'.threads = s.threads
        ∧ (∀ k ∈ ks, leNat (rdMem s' (pl k) n) / 2 ^ lo k % 2 ^ w = code k % 2 ^ w)
        ∧ ∀ z : Place, (∀ k ∈ ks, z.store ≠ .dev ∨ z.addr < (pl k).addr ∨ (pl k).addr + n ≤ z.addr) → rdMem s' z 1 = rdMem s z 1 := by
  intro core cc item t dc w n ks sound local_ code pl lo el hflag hleft hread hcommit _ hlocal hshrc hw hsp hne hks
  obtain ⟨hready, hgo⟩ := hlocal
  have hx := xferOf_write (s := s) (c := cc) hread hcommit
  have hxt : (xferOf s cc item).t = t := congrArg Xfer.t hx
  have hreach : ∀ k ∈ ks, Reaches s (xferOf s cc item) (el k) (lo k) (pl k) := by
    rw [hx]
    exact fun k hk => (hks k hk).2.2.1
  have hwrites : ∀ k ∈ ks, Writes s cc item (el k) k (lo k) (pl k) := by
    intro k hk
    obtain ⟨hel, -, -, ⟨hdev, hfence, hecc⟩, -⟩ := hks k hk
    exact ⟨hel, hreach k hk, hdev, by rw [elemBytes, hxt]; exact hfence, hecc⟩
  obtain ⟨ecc, copiers, todo, hrun⟩ := performItem_writes hr he hready hgo (by rw [hxt]; exact hshrc) (by rw [hxt]; exact hsp) hleft hread hcommit hne hwrites
  refine ⟨_, (exec_lineTransfer hflag).trans (congrArg Host.Outcome.next hrun), rfl, fun k hk => ?_, fun z hz => ?_⟩
  · obtain ⟨-, -, -, ⟨hdev, -⟩, -⟩ := hks k hk
    have hmem : rdMem { s with mem := lineWritten s cc item lo pl, ecc := ecc, copiers := copiers, todo := todo } (pl k) n
        = rdBytes (lineWritten s cc item lo pl) (pl k).addr n := by
      unfold rdMem
      rw [hdev]
    have hfield := getField_lineWritten (s := s) (c := cc) (u := item) (lo := lo) (pl := pl)
      (fun k hk => by
        obtain ⟨-, -, -, -, hlo, hfull, -⟩ := hks k hk
        rw [hxt]
        exact ⟨hw, hlo, hfull⟩)
      (fun k hk j hj hjk => by
        obtain ⟨-, -, -, -, -, -, hapart⟩ := hks k hk
        rw [hxt]
        exact hapart j hj hjk) hk
    rw [hxt] at hfield
    rw [hmem]
    exact hfield
  · obtain ⟨st, a⟩ := z
    cases st with
    | dev =>
      refine congrArg (fun b => [b]) (tget_lineWritten lo fun k hk => ?_)
      rw [hxt]
      exact (hz k hk).resolve_left fun h => h rfl
    | host => rfl
    | safety => rfl

end Sys2Proof.Machine
end

section
/-! COPY_LINE_TRANSFER (R193, R196): what a transfer by lines reads into the stage of its command. -/

set_option Elab.async false

namespace Sys2Proof.Machine

open Safety

/-- The entry of a command whose source unit has been read. -/
def readEntry (s : State) (x : Xfer) (e : JEntry) (u : Nat) : JEntry :=
  { e with stage := readUnit s x u none e.stage, waiting := e.waiting.filter (· != u) }

/-- The address of an access is that of its element. -/
theorem address_of_accessOf {s : State} {w : Who} {t : TidV} {e n al : Nat} {elem store : Bool} {ag : Agent} {a lo : Nat} {p : Place}
    (h : accessOf s w t e 0 n al elem store ag = .ok (a, lo, p)) : elemAddr t (unlin t e) = a := by
  unfold accessOf at h
  simp only [Int.add_zero, Int.toNat_natCast] at h
  split at h
  · cases h
  · split_ifs at h
    generalize placeOf s w t (elemAddr t (unlin t e)) n store ag = y at h
    cases y with
    | error c => cases h
    | ok q => exact congrArg Prod.fst (Except.ok.inj h)

theorem store_xferOf_read {s : State} {c : CC} {u : Nat} (h : isRead u = true) : (xferOf s c u).store = false := by
  rw [xferOf, if_pos h]

/-- What is read of a unit, each element at its address behind the unit's tag. -/
theorem rdBytes_readUnit {s : State} {x : Xfer} {u : Nat} {ad lo : Nat → Nat} {pl : Nat → Place} (st : Tab Byte)
    (hok : ∀ e ∈ x.es, xferPlace s x e = .ok (ad e, lo e, pl e) ∧ (pl e).store = .dev
      ∧ ∀ f ∈ x.es, ∀ i j, i < elemBytes x → j < elemBytes x → ad e + i = ad f + j → (pl e).addr + i = (pl f).addr + j)
    {e : Nat} (he : e ∈ x.es) : rdBytes (readUnit s x u none st) (u / 2 ^ 60 * 2 ^ 60 + ad e) (elemBytes x) = rdMem s (pl e) (elemBytes x) := by
  have haddr : ∀ e ∈ x.es, elemAddr x.t (unlin x.t e) = ad e := by
    intro e he
    obtain ⟨h, -⟩ := hok e he
    exact address_of_accessOf h
  have hbytes : ∀ e ∈ x.es, rdMem s (xferAt s x none e).2 (elemBytes x) = rdBytes s.mem (pl e).addr (elemBytes x) := by
    intro e he
    obtain ⟨h, hdev, -⟩ := hok e he
    rw [Reaches.xferAt ⟨_, h⟩, rdMem, hdev]
  have hread : readUnit s x u none st
      = x.es.foldl (fun m e => wrBytes m (u / 2 ^ 60 * 2 ^ 60 + ad e) (rdBytes s.mem (pl e).addr (elemBytes x))) st := by
    unfold readUnit
    exact List.foldl_ext _ _ _ fun m e he => by rw [haddr e he, hbytes e he]
  have hmem : rdMem s (pl e) (elemBytes x) = rdBytes s.mem (pl e).addr (elemBytes x) := by
    rw [rdMem, (hok e he).2.1]
  rw [hread, hmem]
  refine rdBytes_gathered (src := fun e => (pl e).addr) (dst := fun e => u / 2 ^ 60 * 2 ^ 60 + ad e) (fun e he f hf i j hi hj hij => ?_) st he
  obtain ⟨-, -, hsame⟩ := hok e he
  exact congrArg (tget s.mem 0) (hsame f hf i j hi hj (by omega))

section
variable {s : State} {core no u : Nat} {r : Run} {e : JEntry} (hr : runOf s core 4 = some r) (he : getEntry s core no = some e)
  (hready : lookup e.ready u = none) (hgo : (∃ v ∈ e.waiting ++ e.left, v ≠ u) ∨ e.failAfter = none ∧ ((ccOf s core r e).kind = 1 → e.idx ≠ []))
  (hshrc : (xferOf s (ccOf s core r e) u).t.shrc = false) (hsp : (xferOf s (ccOf s core r e) u).t.space ≤ 2)
include hr he hready hgo hshrc hsp

theorem performItem_reads (hu : u ∈ e.waiting) (hread : isRead u = true) (hne : (xferOf s (ccOf s core r e) u).es ≠ [])
    (hes : ∀ i ∈ (xferOf s (ccOf s core r e) u).es, ∃ lo p, Reaches s (xferOf s (ccOf s core r e) u) i lo p ∧ p.store = .dev
      ∧ bankFenced s p (elemBytes (xferOf s (ccOf s core r e) u)) = false ∧ eccOf s (p.addr / 64 * 64) 64 = 0) :
    ∃ todo, performItem s core no u none = { putEntry s core (readEntry s (xferOf s (ccOf s core r e) u) e u) with todo := todo } := by
  have hstore := store_xferOf_read (s := s) (c := ccOf s core r e) hread
  obtain ⟨i0, is, his⟩ := List.exists_cons_of_ne_nil hne
  obtain ⟨lo0, p0, hok0, hdev0, -, hecc0⟩ := hes i0 (his ▸ List.mem_cons_self ..)
  have hhead : xferAt s (xferOf s (ccOf s core r e) u) none ((xferOf s (ccOf s core r e) u).es.headD 0) = (lo0, p0) := by
    rw [his]
    exact hok0.xferAt
  have hecc := xferEcc_read (x := xferOf s (ccOf s core r e) u) hsp hstore hdev0 hecc0 core
  have hrun : performItem s core no u none = settle (putEntry s core (readEntry s (xferOf s (ccOf s core r e) u) e u)) core e.no := by
    rw [performItem_line hr he (.inr hu) hready (xferFault_none fun i hi => (hes i hi).imp fun lo h => h.imp fun p h => h.1) hshrc hsp,
      transfer_read (xferFenced_false fun i hi => ?_) (by rw [hhead]; exact hecc) hstore]
    · rfl
    · obtain ⟨lo, p, hok, -, hf, -⟩ := hes i hi
      exact ⟨lo, p, hok, hf⟩
  have hput := getEntry_putEntry (s := s) (e' := readEntry s (xferOf s (ccOf s core r e) u) e u) (getEntry_no he ▸ he)
  obtain ⟨todo, hsettle⟩ := settle_only (s := putEntry s core (readEntry s (xferOf s (ccOf s core r e) u) e u)) (no := e.no) hr hput (hgo.imp (fun h => by
    obtain ⟨v, hv, hvu⟩ := h
    refine List.ne_nil_of_mem (a := v) (List.mem_append.2 ?_)
    exact (List.mem_append.1 hv).imp (fun h => mem_filter_ne h hvu) id) id)
  exact ⟨todo, hrun.trans hsettle⟩

end

theorem lineReadRule {s : State} {r : Run} {e : JEntry} (hr : runOf s s.cur.core 4 = some r) (he : getEntry s s.cur.core s.cur.ix = some e) :
    let core := s.cur.core
    let cc := ccOf s core r e
    let item := s.cur.val
    let local_ : Prop := lookup e.ready item = none ∧ ((∃ u ∈ e.waiting ++ e.left, u ≠ item) ∨ e.failAfter = none ∧ (cc.kind = 1 → e.idx ≠ []))
    let x := xferOf s cc item
    let m := max 1 (width x.t.fmt / 8)
    ∀ (ad lo : Nat → Nat) (pl : Nat → Place), s.cur.flag = false → item ∈ e.waiting → isRead item = true → outside item = false → local_ →
      x.t.shrc = false → x.t.space ≤ 2 → x.es ≠ [] →
      (∀ el ∈ x.es, xferPlace s x el = .ok (ad el, lo el, pl el) ∧ (pl el).store = .dev ∧ bankFenced s (pl el) m = false
        ∧ eccOf s ((pl el).addr / 64 * 64) 64 = 0
        ∧ ∀ f ∈ x.es, ∀ i j, i < m → j < m → ad el + i = ad f + j → (pl el).addr + i = (pl f).addr + j) →
      ∃ s' e', exec .lineTransfer s = .next s' ∧ SameBytes s s' ∧ s'.threads = s.threads ∧ getEntry s' core e.no = some e'
        ∧ e'.waiting = e.waiting.filter (· != item) ∧ e'.left = e.left
        ∧ ∀ el ∈ x.es, rdBytes e'.stage (item / 2 ^ 60 * 2 ^ 60 + ad el) m = rdMem s (pl el) m := by
  intro core cc item local_ x m ad lo pl hflag hwaiting hread _ hlocal hshrc hsp hne hes
  obtain ⟨hready, hgo⟩ := hlocal
  obtain ⟨todo, hrun⟩ := performItem_reads hr he hready hgo hshrc hsp hwaiting hread hne fun i hi => by
    obtain ⟨hok, hdev, hf, hecc, -⟩ := hes i hi
    exact ⟨_, _, ⟨_, hok⟩, hdev, hf, hecc⟩
  have hput := getEntry_putEntry (s := s) (e' := readEntry s x e item) (getEntry_no he ▸ he)
  refine ⟨_, _, (exec_lineTransfer hflag).trans (congrArg Host.Outcome.next hrun), SameMem.sameBytes ⟨rfl, rfl, rfl⟩, rfl, hput, rfl, rfl, fun i hi => ?_⟩
  refine rdBytes_readUnit (lo := lo) e.stage (fun i hi => ?_) hi
  obtain ⟨hok, hdev, -, -, hsame⟩ := hes i hi
  exact ⟨hok, hdev, hsame⟩

end Sys2Proof.Machine
end

section
/-! A copy command that fails at its issue (R193, R200): what its object is told, or the kill of its block. -/

set_option Elab.async false

namespace Sys2Proof.Machine

open Safety

/-! ## The kill of a copy engine's block (R49, R205) -/

namespace CuesKept

theorem phSub (s : State) (k n : Nat) : CuesKept s (phSub s k n) := by
  obtain ⟨_, _, h⟩ := phSub_only s k n
  rw [h]
  exact .update
theorem dropDone (s : State) (core no k : Nat) : CuesKept s (dropDone s core no k) := by
  unfold Machine.dropDone
  exact .ite (.trans .update (putObj _ _ _)) (.refl s)
theorem cancelEntry (s : State) (core : Nat) (e : JEntry) (scene part : Nat) : CuesKept s (cancelEntry s core e scene part) := by
  unfold Machine.cancelEntry
  extract_lets c s1 s2 s3
  have h3 : CuesKept s s3 := .trans (t := s2) .update (.ite (.refl s2) (phSub _ _ _))
  exact h3.trans (.ite (.refl s3) (.ite (dropDone _ _ _ _) (dropNotice _ _ _ _)))
theorem cancelWhere (s : State) (core : Nat) (p : JEntry → Bool) : CuesKept s (cancelWhere s core p) := by
  unfold Machine.cancelWhere
  split
  · exact .refl s
  · exact .foldl (fun s e => cancelEntry _ _ _ _ _) _ _

end CuesKept

/-- The records of the cycle are still there when the block of a copy engine has been discarded. -/
theorem recs_discardBlock_copier {s : State} {core : Nat} {r : Run} (h : runOf s core 4 = some r) : s.recs ⊆ (discardBlock s core 4).recs := by
  unfold discardBlock
  simp -zeta only [h, if_true]
  extract_lets t0 s1 s2 q s3
  have h1 : CuesKept s s1 := .ite (.logged (logged_queueWith _ _ _ _ _ _ _ _)) (.refl s)
  have h3 : CuesKept s2 s3 := .foldl (fun _ _ => .update) _ _
  exact ((h1.trans (.cancelWhere _ _ _)).trans h3).recs

/-- No record goes, and no other sheet changes, when a cue fails. -/
theorem recs_cueFail (s : State) (core ix t fireN cause variant : Nat) :
    s.recs ⊆ (cueFail s core ix t fireN cause variant).recs ∧ (cueFail s core ix t fireN cause variant).runs = s.runs := by
  by_cases hu : (getCue s (1024 * core + ix)).st = .under
  · unfold cueFail
    extract_lets k q g s1
    rw [if_pos (show q.st = .under from hu)]
    have hlog := logged_queueWith s core q.part { cause := 0x0C6, eng := 6, fatal := true, pos := ix, i0 := ix } q.lc (bits q.word0.toNat 51 40) ix (g.getD 0)
    obtain ⟨-, hrecs, hruns, -⟩ := enterHeld_own (queueWith s core q.part { cause := 0x0C6, eng := 6, fatal := true, pos := ix, i0 := ix } q.lc
      (bits q.word0.toNat 51 40) ix (g.getD 0)) core ix fireN 0
    exact ⟨hrecs ▸ hlog.recs, hruns.trans hlog.runs⟩
  · obtain ⟨-, -, hrecs, hruns, -⟩ := cueFail_own s core ix t fireN cause variant rfl hu
    exact ⟨hrecs ▸ List.Subset.refl _, hruns⟩

/-- A fatal fault of a copy engine's block, in no chorus: its record is made, and its sheet runs nothing. -/
theorem killFatal_copier {s : State} {core : Nat} {r : Run} (h : runOf s core 4 = some r) (hc : r.chorus = false) (w : Why) :
    runOf (killFatal s core 4 w) core 4 = none ∧ ∃ y ∈ (killFatal s core 4 w).recs, y.2.cause = w.cause := by
  have hlog : Logged s (queueFor s core r { w with fatal := true }) := logged_queueWith _ _ _ _ _ _ _ _
  obtain ⟨y, hy, hcause⟩ : ∃ y ∈ (queueFor s core r { w with fatal := true }).recs, y.2.cause = w.cause := mem_recs_queueWith _ _ _ _ _ _ _ _
  have hrun : runOf (queueFor s core r { w with fatal := true }) core 4 = some r := by
    unfold runOf at h ⊢
    rw [hlog.runs, h]
  have hkill : killFatal s core 4 w = cueFail (discardBlock (queueFor s core r { w with fatal := true }) core 4) core r.cue (ticks s + 1) r.fireN w.cause r.variant := by
    unfold killFatal endBlocks
    simp only [h, hrun, hc, Bool.false_and, Bool.false_eq_true, if_false]
  obtain ⟨hrecs, hruns⟩ := recs_cueFail (discardBlock (queueFor s core r { w with fatal := true }) core 4) core r.cue (ticks s + 1) r.fireN w.cause r.variant
  rw [hkill]
  refine ⟨?_, y, hrecs (recs_discardBlock_copier hrun hy), hcause⟩
  have hlife := lifeOf_discardBlock (queueFor s core r { w with fatal := true }) core 4
  simp only [lifeOf, Prod.mk.injEq] at hlife
  obtain ⟨-, -, -, hdel⟩ := hlife
  rw [runOf, hruns, hdel]
  exact lookup_tdel_same _ _

/-! ## A command that fails -/

/-- What a command has done to its engine when its issue fails: the next entry comes next, and it took a number. -/
def Advanced (s t : State) (core : Nat) : Prop :=
  ∃ copiers resid residAt, t = { s with nextId := s.nextId + 1, copiers := copiers, resid := resid, residAt := residAt }
    ∧ (getCopier t core).pos = (getCopier s core).pos + 1 ∧ (getCopier t core).journal = (getCopier s core).journal

/-- Causes of a failing issue name no translation fault and no error of memory. -/
def IssueCause (cause : Nat) : Prop := cause ≠ 0x066 ∧ cause ≠ 0x06D ∧ cause / 32 ≠ 11

/-- The entry of a command that fails before it is issued: with no pending bytes, and without a notice. -/
structure Unissued (s : State) (x : CopyEnt) (e : JEntry) : Prop where
  no : e.no = s.nextId
  ctr : e.ctr = x.ctr
  phaser : e.phaser = 0xFFF
  noticed : e.noticed = false

/-- A command has failed, and its object is told of its issue and of the cause. -/
def toldState (t : State) (core : Nat) (r : Run) (e : JEntry) (cause : Nat) : State :=
  let c := getCopier t core
  let t := setCopier t core { c with journal := c.journal.filter (·.no != e.no) }
  let t := { t with dram := t.dram.filter fun a => !(a.core == core && a.entry == some e.no) }
  postNotice (postNotice t core r.part 56 (2 ^ 28 * r.part + e.ctr) 0 e.no) core r.part 59 (2 ^ 28 * r.part + e.ctr) cause e.no

section
variable {t : State} {core : Nat} {r : Run} {e : JEntry} {cause : Nat} (hcause : IssueCause cause) (hphaser : e.phaser = 0xFFF) (hnotice : e.noticed = false)

section
include hcause hphaser hnotice

theorem copyFail_tells (hctr : e.ctr ≠ 0xFFFFFFF) (i0 i1 i2 : Nat) :
    ∃ todo, copyFail t core r e cause i0 i1 i2 = { toldState t core r e cause with todo := todo } := by
  obtain ⟨h66, h6D, h11⟩ := hcause
  have hkills : copyKills t r.part e cause = false := by
    simp [copyKills, hctr, h66, h6D]
  unfold copyFail
  simp only [hkills, hphaser, h11, hnotice, Bool.false_eq_true, if_false, if_true]
  split
  · exact ⟨_, rfl⟩
  · exact ⟨_, rfl⟩

end

theorem copyFail_kills (hctr : e.ctr = 0xFFFFFFF) (i0 i1 i2 : Nat) :
    ∃ w : Why, w.cause = cause ∧ copyFail t core r e cause i0 i1 i2 = killFatal t core 4 w := by
  have hkills : copyKills t r.part e cause = true := by
    simp [copyKills, hctr]
  unfold copyFail
  simp only [hkills, if_true]
  exact ⟨_, rfl, rfl⟩

end

theorem getCopier_toldState (t : State) (core : Nat) (r : Run) (e : JEntry) (cause : Nat) :
    getCopier (toldState t core r e cause) core = { getCopier t core with journal := (getCopier t core).journal.filter (·.no != e.no) } :=
  (getCopier_setCopier ..).trans (if_pos rfl)

/-- A command that fails at its issue, whatever it had done to its engine before. -/
theorem failsAtIssue {s t : State} {r : Run} {kind : Nat} {x : CopyEnt} {e : JEntry} {cause i0 i1 i2 : Nat} (hc : Considers s r kind x) (ht : Advanced s t s.cur.core)
    (he : Unissued s x e) (hcause : IssueCause cause) (hexec : exec (copyOf kind x) s = .next (copyFail t s.cur.core r e cause i0 i1 i2)) :
    FailsAtIssue s r kind x cause := by
  obtain ⟨hrun, -, -, hjournal⟩ := hc
  obtain ⟨copiers, resid, residAt, rfl, hpos, hj⟩ := ht
  refine ⟨fun hctr => ?_, fun hctr hchorus => ?_⟩
  · obtain ⟨todo, htold⟩ := copyFail_tells (core := s.cur.core) (r := r) (t := { s with nextId := s.nextId + 1, copiers := copiers, resid := resid, residAt := residAt })
      hcause he.phaser he.noticed (he.ctr ▸ hctr) i0 i1 i2
    have hcopier := getCopier_toldState { s with nextId := s.nextId + 1, copiers := copiers, resid := resid, residAt := residAt } s.cur.core r e cause
    refine ⟨_, _, _, hexec.trans (congrArg Host.Outcome.next htold), SameMem.sameBytes ⟨rfl, rfl, rfl⟩, rfl, ?_, ?_, List.append_assoc .., rfl, rfl, ?_⟩
    · exact (congrArg Copier.pos hcopier).trans hpos
    · refine (congrArg Copier.journal hcopier).trans (.trans ?_ hj)
      rw [List.filter_eq_self]
      intro y hy
      have hy' := hjournal y (hj ▸ hy)
      simpa [he.no] using hy'
    · exact congrArg (2 ^ 28 * r.part + ·) he.ctr
  · obtain ⟨w, hw, hkill⟩ := copyFail_kills (core := s.cur.core) (r := r) (cause := cause)
      (t := { s with nextId := s.nextId + 1, copiers := copiers, resid := resid, residAt := residAt }) (he.ctr.trans hctr) i0 i1 i2
    obtain ⟨hnone, y, hy, hy'⟩ := killFatal_copier (s := { s with nextId := s.nextId + 1, copiers := copiers, resid := resid, residAt := residAt }) hrun hchorus w
    exact ⟨_, hexec.trans (congrArg Host.Outcome.next hkill), hnone, y, hy, hy'.trans hw⟩

end Sys2Proof.Machine
end

section
/-! What a translation leaves behind (R117, R439), and what no longer depends on it. -/

set_option Elab.async false

namespace Sys2Proof.Machine

open Safety

/-! ## Translations -/

/-- The TLBs of the cores and of the dies after the translation of an address for a core. -/
def tlbsAfter (s : State) (core part va : Nat) : Tab (List Xlat) × Tab (List Xlat) :=
  let put (x : Xlat) : Tab (List Xlat) := tput s.coreTlb [] core (tlbIn (tget s.coreTlb [] core) coreTlbSize x)
  if (tlbHit (tget s.coreTlb [] core) part va false).isSome then (s.coreTlb, s.dieTlb)
  else match tlbFind s core part va with
    | some x => (put x, s.dieTlb)
    | none => match walkPage s part va with
      | .ok x => (put x, (dieTlbIn s (dieOf core) x).dieTlb)
      | .error _ => (s.coreTlb, s.dieTlb)

/-- Only TLBs take in a translation. -/
theorem tlbFill_eq (s : State) (core part va : Nat) :
    tlbFill s core part va = { s with coreTlb := (tlbsAfter s core part va).1, dieTlb := (tlbsAfter s core part va).2 } := by
  unfold tlbFill tlbsAfter
  by_cases hhit : (tlbHit (tget s.coreTlb [] core) part va false).isSome = true
  · simp only [if_pos hhit]
  · simp only [if_neg hhit]
    cases tlbFind s core part va with
    | some x => dsimp only
    | none =>
      cases walkPage s part va with
      | ok x => dsimp only [dieTlbIn]
      | error c => rfl

theorem mem_blocksOf_line {ea b : Nat} (h : b = ea / 32) : b ∈ blocksOf (ea / 128 * 128) 128 := by
  refine List.mem_map.2 ⟨b - ea / 128 * 128 / 32, List.mem_range.2 ?_, ?_⟩
  · omega
  · omega

/-- A walk that meets good entries makes no entry in the log. -/
theorem walkEcc_clean {s : State} {core part va : Nat}
    (h : ∀ ea ∈ walkReads s va [(39, 1), (30, 2), (21, 3), (12, 4)] ((getPart s part).root * 4096), eccOf s (ea / 128 * 128) 128 = 0) :
    walkEcc s core part va = s := by
  have hfold : ∀ (l : List Nat), (∀ ea ∈ l, eccOf s (ea / 128 * 128) 128 = 0) → l.foldl (fun s ea =>
      let c64 := bit (leNat (rdBytes s.mem ea 8)) 6 && bit (leNat (rdBytes s.mem ea 8)) 5
      (eccBlocks s ⟨.dev, ea⟩ (if c64 then blocksOf (ea / 128 * 128) 128 else [ea / 32]) core).1) s = s := by
    intro l
    induction l with
    | nil => exact fun _ => rfl
    | cons ea l ih =>
      intro h
      obtain ⟨hea, h⟩ := List.forall_mem_cons.1 h
      have hgood : ∀ b ∈ blocksOf (ea / 128 * 128) 128, blockEcc s b = 0 := foldl_max_eq_zero.1 hea
      rw [List.foldl_cons]
      dsimp only
      rw [eccBlocks_good]
      · exact ih h
      · split
        · exact hgood
        · exact fun b hb => hgood b (mem_blocksOf_line (List.mem_singleton.1 hb))
  unfold walkEcc
  split
  · exact hfold _ h
  · rfl

/-- The translation of an address whose walk meets no soft error: the TLBs take it in, and the bytes of the walk count. -/
theorem translated_clean {s : State} {core part va : Nat} (h : WalksClean s core part 3 va) :
    ∃ served, translated s core part 3 va = { tlbFill s core part va with served := served } := by
  unfold translated
  rw [if_pos rfl]
  rw [tlbFill_eq]
  split
  · exact ⟨_, rfl⟩
  · next hhit =>
    rw [walkEcc_clean]
    · exact ⟨_, rfl⟩
    · exact (h rfl).resolve_left hhit

end Sys2Proof.Machine
end

section
/-! What a copy command's transfers depend on: of its journal entry the words, the destinations, the index list and the grants; of the state, neither the
engine's own tables nor what it sends and counts. -/

set_option Elab.async false

namespace Sys2Proof.Machine

open Safety

/-! ## Of the journal entry -/

/-- The part of an entry that tells what its transfers are. -/
def command (e : JEntry) : JEntry :=
  { no := 0, index := 0, words := e.words, bank := 0, dests := e.dests, gen := 0, ctr := 0, phaser := 0, bytes := 0, left := [], waiting := []
    idx := e.idx, granted := e.granted }

/-- What depends on this part of an entry only. -/
theorem ofCommand {α : Type} {f : JEntry → α} (hf : ∀ e, f e = f (command e)) {e e' : JEntry} (h : command e = command e') : f e = f e' := by
  rw [hf e, hf e', h]

section
variable {e e' : JEntry} (h : command e = command e') (s t : State) (core : Nat) (r : Run)
include h

theorem xferOf_command (u : Nat) : xferOf t (ccOf s core r e) u = xferOf t (ccOf s core r e') u :=
  ofCommand (f := fun e => xferOf t (ccOf s core r e) u) (fun _ => rfl) h
theorem raceNeeds_command (x : Xfer) (u : Nat) : raceNeeds t (ccOf s core r e) x u = raceNeeds t (ccOf s core r e') x u :=
  ofCommand (f := fun e => raceNeeds t (ccOf s core r e) x u) (fun _ => rfl) h
theorem itemTid_command (u : Nat) : itemTid t (ccOf s core r e) u = itemTid t (ccOf s core r e') u :=
  ofCommand (f := fun e => itemTid t (ccOf s core r e) u) (fun _ => rfl) h
theorem ccReads_command : ccReads (ccOf s core r e) = ccReads (ccOf s core r e') := ofCommand (f := fun e => ccReads (ccOf s core r e)) (fun _ => rfl) h
theorem ccIndex_command : ccIndex (ccOf s core r e) = ccIndex (ccOf s core r e') := ofCommand (f := fun e => ccIndex (ccOf s core r e)) (fun _ => rfl) h
theorem ccItems_command : ccItems t (ccOf s core r e) = ccItems t (ccOf s core r e') := ofCommand (f := fun e => ccItems t (ccOf s core r e)) (fun _ => rfl) h
theorem destTiles_command : destTiles (ccOf s core r e) = destTiles (ccOf s core r e') := ofCommand (f := fun e => destTiles (ccOf s core r e)) (fun _ => rfl) h
theorem bytesOf_command : bytesOf (ccOf s core r e) = bytesOf (ccOf s core r e') := ofCommand (f := fun e => bytesOf (ccOf s core r e)) (fun _ => rfl) h

end

/-! ## Of the state -/

/-- Only what an engine keeps of its commands, what it sends and what its accesses count has changed, and no phase of a phaser. -/
def Aside (s t : State) : Prop :=
  (∀ k, (getPh t k).phase = (getPh s k).phase) ∧ ∃ todo agenda free nextId served resid residAt copiers dram syncQ phasers,
    t = { s with todo := todo, agenda := agenda, free := free, nextId := nextId, served := served, resid := resid, residAt := residAt, copiers := copiers
                 dram := dram, syncQ := syncQ, phasers := phasers }

theorem Aside.refl (s : State) : Aside s s := ⟨fun _ => rfl, _, _, _, _, _, _, _, _, _, _, _, rfl⟩
theorem Aside.trans {s t u : State} : Aside s t → Aside t u → Aside s u := by
  rintro ⟨h, _, _, _, _, _, _, _, _, _, _, _, rfl⟩ ⟨h', _, _, _, _, _, _, _, _, _, _, _, rfl⟩
  exact ⟨fun k => (h' k).trans (h k), _, _, _, _, _, _, _, _, _, _, _, rfl⟩
/-- An update that leaves the phasers alone. -/
theorem Aside.update {s t : State} (h : ∃ todo agenda free nextId served resid residAt copiers dram syncQ,
    t = { s with todo := todo, agenda := agenda, free := free, nextId := nextId, served := served, resid := resid, residAt := residAt, copiers := copiers
                 dram := dram, syncQ := syncQ }) : Aside s t := by
  obtain ⟨_, _, _, _, _, _, _, _, _, _, rfl⟩ := h
  exact ⟨fun _ => rfl, _, _, _, _, _, _, _, _, _, _, _, rfl⟩

section
variable {s t : State} (h : Aside s t)
include h

theorem Aside.tidOf (core part tid : Nat) : tidOf t core part tid = Machine.tidOf s core part tid := by
  obtain ⟨-, _, _, _, _, _, _, _, _, _, _, _, rfl⟩ := h
  rfl
theorem Aside.runOf (core sheet : Nat) : runOf t core sheet = Machine.runOf s core sheet := by
  obtain ⟨-, _, _, _, _, _, _, _, _, _, _, _, rfl⟩ := h
  rfl
theorem Aside.ccOf (core : Nat) (r : Run) (e : JEntry) : ccOf t core r e = Machine.ccOf s core r e := by
  obtain ⟨-, _, _, _, _, _, _, _, _, _, _, _, rfl⟩ := h
  rfl
theorem Aside.xferOf (c : CC) (u : Nat) : xferOf t c u = Machine.xferOf s c u := by
  obtain ⟨-, _, _, _, _, _, _, _, _, _, _, _, rfl⟩ := h
  rfl
theorem Aside.itemTid (c : CC) (u : Nat) : itemTid t c u = Machine.itemTid s c u := by
  obtain ⟨-, _, _, _, _, _, _, _, _, _, _, _, rfl⟩ := h
  rfl
theorem Aside.ccItems (c : CC) : ccItems t c = Machine.ccItems s c := by
  obtain ⟨-, _, _, _, _, _, _, _, _, _, _, _, rfl⟩ := h
  rfl
theorem Aside.xferPlace (x : Xfer) : xferPlace t x = Machine.xferPlace s x := by
  obtain ⟨-, _, _, _, _, _, _, _, _, _, _, _, rfl⟩ := h
  rfl
theorem Aside.ridOk (rid part ch : Nat) : ridOk t rid part ch = Machine.ridOk s rid part ch := by
  obtain ⟨-, _, _, _, _, _, _, _, _, _, _, _, rfl⟩ := h
  rfl
theorem Aside.walksClean (core part space va : Nat) : WalksClean t core part space va = WalksClean s core part space va := by
  obtain ⟨-, _, _, _, _, _, _, _, _, _, _, _, rfl⟩ := h
  rfl
theorem Aside.xferFault (x : Xfer) : xferFault t x = Machine.xferFault s x := by
  unfold Machine.xferFault
  rw [h.xferPlace]
theorem Aside.raceNeeds (c : CC) (x : Xfer) (u : Nat) : raceNeeds t c x u = Machine.raceNeeds s c x u := by
  obtain ⟨hphase, _, _, _, _, _, _, _, _, _, _, _, rfl⟩ := h
  unfold Machine.raceNeeds raceHeld racePhase
  simp only [hphase]
  rfl

/-- A translation fills the TLBs alike. -/
theorem Aside.tlbFill (core part va : Nat) : Aside (tlbFill s core part va) (tlbFill t core part va) := by
  rw [tlbFill_eq, tlbFill_eq]
  obtain ⟨hphase, _, _, _, _, _, _, _, _, _, _, _, rfl⟩ := h
  exact ⟨hphase, _, _, _, _, _, _, _, _, _, _, _, rfl⟩

end

end Sys2Proof.Machine
end

section
/-! The units of a command that become eligible for the caravan (R120, R193): each once, in ascending address order. -/

set_option Elab.async false

namespace Sys2Proof.Machine

open Safety

/-! ## One unit -/

/-- A state whose TLBs have taken in pages of a partition for a core. -/
def filled (s : State) (core part : Nat) (l : List Nat) : State := l.foldl (fun s a => tlbFill s core part a) s

theorem filled_only (s : State) (core part : Nat) (l : List Nat) : ∃ coreTlb dieTlb, filled s core part l = { s with coreTlb := coreTlb, dieTlb := dieTlb } := by
  refine foldl_rel (R := fun s s' : State => ∃ coreTlb dieTlb, s' = { s with coreTlb := coreTlb, dieTlb := dieTlb }) (fun s => ⟨_, _, rfl⟩) ?_
    (fun s a => ⟨_, _, tlbFill_eq s core part a⟩) l s
  rintro s _ _ ⟨_, _, rfl⟩ ⟨_, _, rfl⟩
  exact ⟨_, _, rfl⟩

/-- An access of a command's unit that waits for the caravan. -/
structure Waits (a : Access) (core no rid : Nat) : Prop where
  core : a.core = core
  entry : a.entry = some no
  rid : a.rid = rid
  served : a.served = false

/-- An access joins those that wait. -/
def joined (t : State) (y : Access) : State := { t with nextId := t.nextId + 1, dram := t.dram ++ [y] }

/-- The unit already waits. -/
def present (t : State) (core no u : Nat) : Bool := t.dram.any fun a => a.core == core && a.entry == some no && a.unit == u

/-- An address that a unit in DRAM of a command names. -/
def Named (s : State) (c : CC) (us : List Nat) (a : Nat) : Prop :=
  ∃ u ∈ inCaravan s c us, ∃ e ∈ (xferOf s c u).es, a = elemAddr (xferOf s c u).t (unlin (xferOf s c u).t e)

section
variable {t : State} {core no u : Nat} {r : Run} {e : JEntry} (hr : runOf t core 4 = some r) (he : getEntry t core no = some e)
include hr he

theorem pushOne_present (hp : present t core no u = true) : pushOne t core no u = t := by
  have hor : (isAsked e u || t.dram.any fun a => a.core == core && a.entry == some no && a.unit == u) = true := by
    rw [Bool.or_eq_true]
    exact .inr hp
  unfold pushOne
  simp only [hr, he, hor, if_true]

/-- A unit that is eligible joins the accesses that wait, and the TLBs take in its page. -/
theorem pushOne_eligible (hasked : e.asked = []) (hel : Eligible t (ccOf t core r e) u) (hp : present t core no u = false) :
    ∃ y served, ∃ i ∈ (xferOf t (ccOf t core r e) u).es, Waits y core no (ccOf t core r e).x.rid ∧ y.unit = u
      ∧ pushOne t core no u
        = joined { tlbFill t core r.part (elemAddr (xferOf t (ccOf t core r e) u).t (unlin (xferOf t (ccOf t core r e) u).t i)) with served := served } y := by
  obtain ⟨hfault, hrace, a, lo, p, hhead, hrid, hclean⟩ := hel
  obtain ⟨i, hi, hplace⟩ := Option.map_eq_some_iff.1 hhead
  obtain ⟨served, htr⟩ := translated_clean hclean
  have hor : (isAsked e u || t.dram.any fun a => a.core == core && a.entry == some no && a.unit == u) = false := by
    rw [Bool.or_eq_false_iff]
    exact ⟨by rw [isAsked, hasked]; rfl, hp⟩
  have haddr := address_of_accessOf hplace
  refine ⟨⟨t.nextId, (xferOf t (ccOf t core r e) u).store, core, some no, none, u, p.addr - a % 256, (ccOf t core r e).x.rid, r.part, clusterOf core, false⟩, served,
    i, List.mem_of_head? hi, ⟨rfl, rfl, rfl, rfl⟩, rfl, ?_⟩
  unfold pushOne
  have hrid' : (!ridOk t (ccOf t core r e).x.rid r.part (channelOf (p.addr - a % 256))) = false := by
    rw [Bool.not_eq_false']
    exact hrid
  simp only [hr, he, hor, Bool.false_eq_true, if_false, hfault, hhead, hrid', hrace]
  rw [haddr]
  exact congrArg (joined · _) htr

end

/-! ## All units, in the order of a list -/

section
variable {s : State} {core no : Nat} {r : Run} {e e' : JEntry} {us : List Nat} (hr : runOf s core 4 = some r) (hcmd : command e' = command e) (hasked : e'.asked = [])

section
include hcmd

theorem xferOf_aside {t : State} {l : List Nat} (h : Aside (filled s core r.part l) t) (u : Nat) : xferOf t (ccOf t core r e') u = xferOf s (ccOf s core r e) u := by
  obtain ⟨_, _, hf⟩ := filled_only s core r.part l
  rw [h.ccOf, h.xferOf, hf]
  exact xferOf_command hcmd ..

/-- A unit that is eligible after the TLBs have taken in some pages is so in every state that differs from that one aside. -/
theorem eligible_aside {t : State} {l : List Nat} {u : Nat} (h : Aside (filled s core r.part l) t) (hel : Eligible (filled s core r.part l) (ccOf s core r e) u) :
    Eligible t (ccOf t core r e') u := by
  obtain ⟨hfault, hrace, a, lo, p, hhead, hrid, hclean⟩ := hel
  have hcc : ccOf t core r e' = ccOf s core r e' := by
    obtain ⟨_, _, hf⟩ := filled_only s core r.part l
    rw [h.ccOf, hf]
    rfl
  have hx : xferOf t (ccOf s core r e') u = xferOf (filled s core r.part l) (ccOf s core r e) u := (h.xferOf ..).trans (xferOf_command hcmd ..)
  have hrid' : (ccOf s core r e').x.rid = (ccOf s core r e).x.rid := ofCommand (f := fun e => (ccOf s core r e).x.rid) (fun _ => rfl) hcmd
  unfold Eligible
  dsimp only
  rw [hcc, hx, hrid', h.xferFault, h.raceNeeds, raceNeeds_command hcmd]
  simp only [h.xferPlace, h.ridOk, h.walksClean]
  exact ⟨hfault, hrace, a, lo, p, hhead, hrid, hclean⟩

end

/-- A state in which some units of a command have become eligible. -/
structure Pushing (s : State) (core no : Nat) (r : Run) (e e' : JEntry) (us l : List Nat) (t : State) : Prop where
  aside : Aside (filled s core r.part l) t
  named : ∀ a ∈ l, Named s (ccOf s core r e) us a
  entry : getEntry t core no = some e'

theorem Pushing.joined {l : List Nat} {t : State} (h : Pushing s core no r e e' us l t) {a : Nat} (ha : Named s (ccOf s core r e) us a) (served : Tab Nat) (y : Access) :
    Pushing s core no r e e' us (l ++ [a]) (joined { tlbFill t core r.part a with served := served } y) := by
  refine ⟨?_, fun b hb => ?_, ?_⟩
  · rw [filled, List.foldl_append]
    exact (h.aside.tlbFill core r.part a).trans (.update ⟨_, _, _, _, _, _, _, _, _, _, rfl⟩)
  · rcases List.mem_append.1 hb with hb | hb
    · exact h.named b hb
    · exact List.mem_singleton.1 hb ▸ ha
  · rw [tlbFill_eq]
    exact h.entry

/-- Accesses have joined those that wait, and the TLBs have taken in their pages. -/
def Pushed (t t' : State) (ys : List Access) : Prop :=
  ∃ nextId served coreTlb dieTlb, t' = { t with nextId := nextId, served := served, dram := t.dram ++ ys, coreTlb := coreTlb, dieTlb := dieTlb }

theorem Pushed.refl (t : State) : Pushed t t [] := ⟨t.nextId, t.served, t.coreTlb, t.dieTlb, by rw [List.append_nil]⟩
theorem Pushed.cons {t t' : State} {part a : Nat} {served : Tab Nat} {y : Access} {ys : List Access}
    (h : Pushed (Machine.joined { tlbFill t core part a with served := served } y) t' ys) : Pushed t t' (y :: ys) := by
  obtain ⟨nextId, served', coreTlb, dieTlb, rfl⟩ := h
  refine ⟨nextId, served', coreTlb, dieTlb, ?_⟩
  rw [tlbFill_eq, List.append_cons]
  rfl

theorem present_joined {t : State} {core no u : Nat} {y : Access} (h : present (Machine.joined t y) core no u = true) : u = y.unit ∨ present t core no u = true := by
  simp only [present, Machine.joined, List.any_append, List.any_cons, List.any_nil, Bool.or_false, Bool.or_eq_true, Bool.and_eq_true, beq_iff_eq] at h
  exact h.symm.imp (fun h => h.2.symm) id

include hr hcmd hasked

theorem foldl_pushOne (hall : AllEligible s (ccOf s core r e) us) {vs : List Nat} : (∀ u ∈ vs, u ∈ inCaravan s (ccOf s core r e) us) → ∀ {l : List Nat} {t : State},
    Pushing s core no r e e' us l t → ∃ ys, Pushed t (vs.foldl (fun t u => pushOne t core no u) t) ys
      ∧ (∀ y ∈ ys, Waits y core no (ccOf s core r e).x.rid) ∧ (ys.map (·.unit)).Sublist vs ∧ ∀ u ∈ vs, u ∈ ys.map (·.unit) ∨ present t core no u = true := by
  induction vs with
  | nil => exact fun _ _ t _ => ⟨[], .refl t, fun y hy => absurd hy List.not_mem_nil, .slnil, fun u hu => absurd hu List.not_mem_nil⟩
  | cons u vs ih =>
    intro hvs l t h
    obtain ⟨hu, hvs⟩ := List.forall_mem_cons.1 hvs
    have hrun : runOf t core 4 = some r := by
      obtain ⟨_, _, hf⟩ := filled_only s core r.part l
      rw [h.aside.runOf, hf]
      exact hr
    by_cases hp : present t core no u = true
    · obtain ⟨ys, hpush, hys, hsub, hin⟩ := ih hvs h
      rw [List.foldl_cons, pushOne_present hrun h.entry hp]
      exact ⟨ys, hpush, hys, hsub.cons u, List.forall_mem_cons.2 ⟨.inr hp, hin⟩⟩
    · obtain ⟨y, served, i, hi, hy, hyu, hpush⟩ :=
        pushOne_eligible hrun h.entry hasked (eligible_aside hcmd h.aside (hall.2 l h.named u hu)) (by simpa using hp)
      have hrid : (ccOf t core r e').x.rid = (ccOf s core r e).x.rid := ofCommand (f := fun e => (ccOf s core r e).x.rid) (fun _ => rfl) hcmd
      rw [hrid] at hy
      rw [xferOf_aside hcmd h.aside] at hi hpush
      obtain ⟨ys, hpushed, hys, hsub, hin⟩ := ih hvs (h.joined (y := y) (served := served) ⟨u, hu, i, hi, rfl⟩)
      rw [List.foldl_cons, hpush]
      refine ⟨y :: ys, hpushed.cons, List.forall_mem_cons.2 ⟨hy, hys⟩, hyu ▸ hsub.cons_cons y.unit, List.forall_mem_cons.2 ⟨.inl ?_, fun v hv => ?_⟩⟩
      · exact hyu ▸ List.mem_cons_self ..
      · rcases hin v hv with hv | hv
        · exact .inl (List.mem_cons_of_mem _ hv)
        · rcases present_joined hv with rfl | hv
          · exact .inl (List.mem_cons_self ..)
          · refine .inr ?_
            rw [tlbFill_eq] at hv
            exact hv

end

end Sys2Proof.Machine
end

section
/-! The transfers of a command start (R193): its entry, and the units that become eligible for the caravan. -/

set_option Elab.async false

namespace Sys2Proof.Machine

open Safety

/-! ## The order of addresses -/

/-- A number takes its place in a list by a measure, behind its equals. -/
def insertOn (f : Nat → Nat) (l : List Nat) (x : Nat) : List Nat := l.takeWhile (f · ≤ f x) ++ [x] ++ l.dropWhile (f · ≤ f x)

theorem insertOn_cons (f : Nat → Nat) (a : Nat) (l : List Nat) (x : Nat) : insertOn f (a :: l) x = if f a ≤ f x then a :: insertOn f l x else x :: a :: l := by
  unfold insertOn
  split
  · next h => simp [h]
  · next h => simp [h]

theorem mem_insertOn {f : Nat → Nat} {l : List Nat} {x y : Nat} : y ∈ insertOn f l x ↔ y = x ∨ y ∈ l := by
  induction l with
  | nil => simp [insertOn]
  | cons a l ih =>
    rw [insertOn_cons]
    split
    · rw [List.mem_cons, ih, List.mem_cons]
      tauto
    · rw [List.mem_cons]

theorem pairwise_insertOn {f : Nat → Nat} {l : List Nat} (x : Nat) (h : l.Pairwise fun a b => f a ≤ f b) : (insertOn f l x).Pairwise fun a b => f a ≤ f b := by
  induction l with
  | nil => exact List.pairwise_singleton ..
  | cons a l ih =>
    obtain ⟨ha, hl⟩ := List.pairwise_cons.1 h
    rw [insertOn_cons]
    split
    · next hle =>
      refine List.pairwise_cons.2 ⟨fun b hb => ?_, ih hl⟩
      rcases mem_insertOn.1 hb with rfl | hb
      · exact hle
      · exact ha b hb
    · next hlt =>
      refine List.pairwise_cons.2 ⟨fun b hb => ?_, h⟩
      rcases List.mem_cons.1 hb with rfl | hb
      · omega
      · exact (Nat.le_of_not_le hlt).trans (ha b hb)

theorem sortOn_eq (f : Nat → Nat) (l : List Nat) : sortOn f l = l.foldl (insertOn f) [] := rfl

theorem mem_sortOn {f : Nat → Nat} {l : List Nat} {y : Nat} : y ∈ sortOn f l ↔ y ∈ l := by
  have hfold (l : List Nat) : ∀ m : List Nat, y ∈ l.foldl (insertOn f) m ↔ y ∈ l ∨ y ∈ m := by
    induction l with
    | nil => simp
    | cons x l ih =>
      intro m
      rw [List.foldl_cons, ih, mem_insertOn, List.mem_cons]
      tauto
  rw [sortOn_eq, hfold]
  simp

theorem pairwise_sortOn (f : Nat → Nat) (l : List Nat) : (sortOn f l).Pairwise fun a b => f a ≤ f b := by
  have hfold (l : List Nat) : ∀ m : List Nat, (m.Pairwise fun a b => f a ≤ f b) → (l.foldl (insertOn f) m).Pairwise fun a b => f a ≤ f b := by
    induction l with
    | nil => exact fun m h => h
    | cons x l ih => exact fun m h => ih _ (pairwise_insertOn x h)
  exact hfold l [] .nil

/-- Units in the order in which they become eligible (R193). -/
def inOrder (us : List Nat) : List Nat := sortOn (fun u => 2 * itemAddr u + b2n (!isRead u)) us

theorem pairwise_inOrder (us : List Nat) : (inOrder us).Pairwise fun a b => itemAddr a ≤ itemAddr b := by
  refine (pairwise_sortOn (fun u => 2 * itemAddr u + b2n (!isRead u)) us).imp fun {a b} h => ?_
  have hb (x : Bool) : b2n x ≤ 1 := by cases x <;> decide
  have ha := hb (!isRead b)
  omega

/-! ## The units of a command -/

section
variable {s t : State} {core no : Nat} {r : Run} {e e' : JEntry} (hr : runOf s core 4 = some r) (ht : Aside s t) (hcmd : command e' = command e)

theorem inCaravan_aside (ht : Aside s t) (hcmd : command e' = command e) (us : List Nat) : inCaravan t (ccOf t core r e') us = inCaravan s (ccOf s core r e) us := by
  unfold inCaravan
  congr 1
  funext u
  rw [ht.ccOf, ht.itemTid, itemTid_command hcmd]

include hr ht hcmd

/-- Every unit in DRAM of a command becomes eligible, in ascending order. -/
theorem pushDram_eligible (he : getEntry t core no = some e') (hasked : e'.asked = []) (hall : AllEligible s (ccOf s core r e) (e'.waiting ++ e'.left))
    (hfresh : ∀ a ∈ t.dram, a.core = core → a.entry ≠ some no) :
    ∃ ys, Pushed t (pushDram t core no) ys ∧ (∀ y ∈ ys, Waits y core no (ccOf s core r e).x.rid)
      ∧ (∀ u, u ∈ ys.map (·.unit) ↔ u ∈ inCaravan s (ccOf s core r e) (e'.waiting ++ e'.left)) ∧ ys.Pairwise fun a b => itemAddr a.unit ≤ itemAddr b.unit := by
  obtain ⟨ys, hpushed, hys, hsub, hin⟩ := foldl_pushOne (us := e'.waiting ++ e'.left) hr hcmd hasked hall
    (vs := inOrder (inCaravan s (ccOf s core r e) (e'.waiting ++ e'.left))) (fun u hu => mem_sortOn.1 hu) (l := []) ⟨ht, fun a ha => absurd ha List.not_mem_nil, he⟩
  have hno : (e'.waiting ++ e'.left).find? outside = none := by
    rw [List.find?_eq_none]
    intro u hu
    rw [hall.1 u hu]
    exact Bool.false_ne_true
  have hpush : pushDram t core no = (inOrder (inCaravan s (ccOf s core r e) (e'.waiting ++ e'.left))).foldl (fun t u => pushOne t core no u) t := by
    rw [← inCaravan_aside ht hcmd]
    unfold pushDram
    simp only [ht.runOf, hr, he, hno]
    rfl
  rw [hpush]
  refine ⟨ys, hpushed, hys, fun u => ⟨fun hu => mem_sortOn.1 (hsub.subset hu), fun hu => (hin u (mem_sortOn.2 hu)).resolve_right fun hp => ?_⟩,
    (List.pairwise_map (R := fun a b => itemAddr a ≤ itemAddr b) (f := Access.unit)).1 ((pairwise_inOrder _).sublist hsub)⟩
  obtain ⟨a, ha, hmatch⟩ := List.any_eq_true.1 hp
  simp only [Bool.and_eq_true, beq_iff_eq] at hmatch
  exact hfresh a ha hmatch.1.1 hmatch.1.2

end

/-! ## The start of the transfers -/

/-- The entry of a command whose transfers start. -/
def startedEntry (e : JEntry) (startAt : Nat) (left waiting : List Nat) : JEntry :=
  { e with startAt := startAt, stage := [], idx := [], failAfter := none, asked := [], granted := [], denied := [], ready := [], discarded := false
           left := left, waiting := waiting }

theorem hostWait_only (s : State) (c : CC) : ∃ agenda free, (hostWait s c).1 = { s with agenda := agenda, free := free } := by
  unfold hostWait
  dsimp only
  split
  · split
    · exact ⟨_, _, rfl⟩
    · exact ⟨_, _, rfl⟩
  · exact ⟨_, _, rfl⟩

theorem Aside.putEntry {s t : State} (h : Aside s t) (core : Nat) (e : JEntry) : Aside s (putEntry t core e) := h.trans (.update ⟨_, _, _, _, _, _, _, _, _, _, rfl⟩)

section
variable {s t : State} {core : Nat} {r : Run} {e e2 : JEntry} (hr : runOf s core 4 = some r) (ht : Aside s t) (he2 : getEntry t core e2.no = some e2)
  (hcmd : command e2 = command e) (hidx : e2.idx = []) (hgranted : e2.granted = [])
include ht hcmd

/-- The start of the transfers of a command, with the entry that they leave. -/
theorem startTransfers_eq (hleft : e.left = if (ccOf s core r e).kind = 1 then [] else ccItems s (ccOf s core r e))
    (hwaiting : e.waiting = if (ccOf s core r e).kind = 1 then ccIndex (ccOf s core r e) else ccReads (ccOf s core r e)) :
    ∃ startAt agenda free, startTransfers t core r e2
      = pushDram (putEntry { t with agenda := agenda, free := free } core (startedEntry e2 startAt e.left e.waiting)) core e2.no := by
  obtain ⟨agenda, free, hwait⟩ := hostWait_only t (ccOf t core r e2)
  have hstart : startTransfers t core r e2 = pushDram (putEntry (hostWait t (ccOf t core r e2)).1 core (startedEntry e2 (hostWait t (ccOf t core r e2)).2
      (if (ccOf t core r e2).kind = 1 then [] else ccItems (hostWait t (ccOf t core r e2)).1 (ccOf t core r e2))
      (if (ccOf t core r e2).kind = 1 then ccIndex (ccOf t core r e2) else ccReads (ccOf t core r e2)))) core e2.no := rfl
  have haside : Aside s { t with agenda := agenda, free := free } := ht.trans (.update ⟨_, _, _, _, _, _, _, _, _, _, rfl⟩)
  have hkind : (ccOf s core r e2).kind = (ccOf s core r e).kind := ofCommand (f := fun e => (ccOf s core r e).kind) (fun _ => rfl) hcmd
  rw [hwait, ht.ccOf, haside.ccItems, hkind, ccItems_command hcmd, ccIndex_command hcmd, ccReads_command hcmd, ← hleft, ← hwaiting] at hstart
  exact ⟨_, agenda, free, hstart⟩

include hr he2 hidx hgranted

theorem startTransfers_eligible (hleft : e.left = if (ccOf s core r e).kind = 1 then [] else ccItems s (ccOf s core r e))
    (hwaiting : e.waiting = if (ccOf s core r e).kind = 1 then ccIndex (ccOf s core r e) else ccReads (ccOf s core r e))
    (hall : AllEligible s (ccOf s core r e) (e.waiting ++ e.left)) (hfresh : ∀ a ∈ t.dram, a.core = core → a.entry ≠ some e2.no) :
    ∃ startAt agenda free ys, Pushed (putEntry { t with agenda := agenda, free := free } core (startedEntry e2 startAt e.left e.waiting)) (startTransfers t core r e2) ys
      ∧ (∀ y ∈ ys, Waits y core e2.no (ccOf s core r e).x.rid)
      ∧ (∀ u, u ∈ ys.map (·.unit) ↔ u ∈ inCaravan s (ccOf s core r e) (e.waiting ++ e.left)) ∧ ys.Pairwise fun a b => itemAddr a.unit ≤ itemAddr b.unit := by
  obtain ⟨startAt, agenda, free, hstart⟩ := startTransfers_eq ht hcmd hleft hwaiting
  have haside : Aside s (putEntry { t with agenda := agenda, free := free } core (startedEntry e2 startAt e.left e.waiting)) :=
    (ht.trans (.update ⟨_, _, _, _, _, _, _, _, _, _, rfl⟩)).putEntry _ _
  have hput : getEntry (putEntry { t with agenda := agenda, free := free } core (startedEntry e2 startAt e.left e.waiting)) core e2.no
      = some (startedEntry e2 startAt e.left e.waiting) :=
    getEntry_putEntry (s := { t with agenda := agenda, free := free }) (e' := startedEntry e2 startAt e.left e.waiting) he2
  have hcmd' : command (startedEntry e2 startAt e.left e.waiting) = command e := by
    rw [← hcmd, command, command, hidx, hgranted]
    rfl
  obtain ⟨ys, hys⟩ := pushDram_eligible hr haside hcmd' hput rfl hall hfresh
  exact ⟨startAt, agenda, free, ys, hstart ▸ hys⟩

end

end Sys2Proof.Machine
end

section
/-! The issue of a copy command (R193): its checks in their order, and what it does once they pass. -/

set_option Elab.async false

namespace Sys2Proof.Machine

open Safety

/-! ## What an issue does to its engine -/

/-- A command has taken its number. -/
def numbered (s : State) : State := { s with nextId := s.nextId + 1 }
/-- The engine goes on to its next entry. -/
def stepped (s : State) (core : Nat) : State := setCopier s core { getCopier s core with pos := (getCopier s core).pos + 1 }
/-- The journal entry of a command as its issue begins. -/
def newEntry (s : State) (core : Nat) (r : Run) (x : CopyEnt) (dests : List Nat) : JEntry :=
  let c := getCopier s core
  { no := s.nextId, slot := freeSlot c, index := c.pos, words := c.sched.getD c.pos [], bank := x.bank, dests := dests, gen := c.gen, ctr := x.ctr, phaser := 0xFFF
    bytes := 0, left := [], waiting := [], part := r.part, dtid := x.dtid }
/-- A command draws from the generator of its engine (R152). -/
def draws (kind : Nat) (x : CopyEnt) (dt : TidV) : Bool := kind == 3 && x.cvtRm == 2 && !(x.cvtScale == 0 && dt.fmt == 0x0F)
/-- The generator steps. -/
def genStepped (s : State) (core : Nat) : State := setCopier s core { getCopier s core with gen := genStep (getCopier s core).gen }
/-- The residency bits of tiles are clear on the cores of destinations (R112). -/
def tilesCleared (s : State) (part dtid : Nat) (dests tiles : List Nat) : State :=
  dests.foldl (fun s d => if (tidOf s d part dtid).restrk then tiles.foldl (fun s t => resClear s (resKey d part dtid t)) s else s) s
/-- The cores that a command writes on. -/
def destsOf (s : State) (core : Nat) (r : Run) (x : CopyEnt) : List Nat :=
  if x.rows ≠ 0 then (castLcs x).map fun l => coreOf s r.scene r.gslot l r.voice else [core]
/-- The phaser that a command's bytes are pending at. -/
def phaserOf (kind : Nat) (x : CopyEnt) (dt : TidV) : Nat := if kind = 5 then x.ph else if x.ph = 0xFFF then dt.phaser else x.ph
/-- The engine once the command has drawn and its tiles are not resident. -/
def begun (s : State) (core : Nat) (r : Run) (kind : Nat) (x : CopyEnt) : State :=
  tilesCleared (if draws kind x (tidOf s core r.part x.dtid) then genStepped (numbered s) core else numbered s) r.part x.dtid (destsOf s core r x)
    (destTiles (ccOf s core r (newEntry s core r x (destsOf s core r x))))

/-- The state in which the command joins the journal. -/
def entered (s : State) (core : Nat) (e : JEntry) : State :=
  stepped (setCopier s core { getCopier s core with journal := (getCopier s core).journal ++ [e] }) core

/-- The bytes of a command are pending at its phaser. -/
def pended (t : State) (scene ph n : Nat) : State :=
  if ph = 0xFFF then t else setPh t (4096 * scene + ph) { getPh t (4096 * scene + ph) with pending := (getPh t (4096 * scene + ph)).pending + n }
/-- The journal entry of a command that has passed its checks. -/
def issuedEntry (s : State) (core : Nat) (r : Run) (kind : Nat) (x : CopyEnt) : JEntry :=
  let e := newEntry s core r x (destsOf s core r x)
  { e with bytes := bytesOf (ccOf s core r e), phaser := phaserOf kind x (tidOf s core r.part x.dtid), tiles := destTiles (ccOf s core r e), noticed := x.ctr != 0xFFFFFFF }
/-- The command stands in the journal, and its object is told. -/
def prepared (s : State) (core : Nat) (r : Run) (kind : Nat) (x : CopyEnt) : State :=
  let e := issuedEntry s core r kind x
  let t := entered (pended (begun s core r kind x) r.scene e.phaser e.bytes) core e
  if x.ctr = 0xFFFFFFF then t else postNotice t core r.part 56 (2 ^ 28 * r.part + x.ctr) 0 e.no

/-- The checks of an issue, in their order. -/
def issueOutcome (s : State) (core : Nat) (r : Run) (kind : Nat) (x : CopyEnt) : State :=
  let c := getCopier s core
  let dt := tidOf s core r.part x.dtid
  let ph := phaserOf kind x dt
  let refused := stepped (numbered s) core
  let e0 := newEntry s core r x [core]
  let e := newEntry s core r x (destsOf s core r x)
  let n := bytesOf (ccOf s core r e)
  let t := begun s core r kind x
  if !copyOk s core r.part kind x then copyFail refused core r e0 0x142 c.pos 0 0
  else if draws kind x dt && !bit (capMask s core) 38 then copyFail refused core r e0 0x13F 38 ((c.sched.getD c.pos []).getD 0 0).toNat 0
  else if x.rows ≠ 0 ∧ (castLcs x).any (nlcOf s r.scene r.gslot ≤ ·) = true then
    copyFail refused core r e0 0x06C (info3 x.dtid dt.space (elemAddr dt (unlin dt (tileElem dt x.w2 (tileExt dt x.w2) 0)))) 0 pathX
  else if ph ≠ 0xFFF ∧ (getPh t (4096 * r.scene + ph)).live = false then copyFail (stepped t core) core r e 0x0E4 ph n 0
  else if ph ≠ 0xFFF ∧ 2 ^ 36 - 1 < (getPh t (4096 * r.scene + ph)).pending + n then copyFail (stepped t core) core r e 0x0E7 ph n 0
  else startTransfers (prepared s core r kind x) core r (issuedEntry s core r kind x)

theorem exec_copyOf {s : State} {r : Run} {kind : Nat} {x : CopyEnt} (hk : kind ≤ 5) (hr : runOf s s.cur.core 4 = some r) :
    exec (copyOf kind x) s = .next (issueOutcome s s.cur.core r kind x) := by
  have hissue : exec (copyOf kind x) s = issueCopy s kind x := by
    interval_cases kind <;> rfl
  rw [hissue]
  unfold issueCopy
  simp only [hr]
  rfl

end Sys2Proof.Machine
end

section
/-! What an issue does, step by step: the checks that it fails, and the state in which its transfers start (R193, R194). -/

set_option Elab.async false

namespace Sys2Proof.Machine

open Safety

/-! ## The engine after a failed check -/

theorem advanced_stepped {s t : State} {core : Nat} (h : ∃ copiers resid residAt, t = { numbered s with copiers := copiers, resid := resid, residAt := residAt })
    (hpos : (getCopier t core).pos = (getCopier s core).pos) (hjournal : (getCopier t core).journal = (getCopier s core).journal) : Advanced s (stepped t core) core := by
  have hc : getCopier (stepped t core) core = { getCopier t core with pos := (getCopier t core).pos + 1 } := (getCopier_setCopier ..).trans (if_pos rfl)
  obtain ⟨_, _, _, rfl⟩ := h
  exact ⟨_, _, _, rfl, (congrArg Copier.pos hc).trans (congrArg (· + 1) hpos), (congrArg Copier.journal hc).trans hjournal⟩

theorem advanced_numbered (s : State) (core : Nat) : Advanced s (stepped (numbered s) core) core := advanced_stepped ⟨_, _, _, rfl⟩ rfl rfl

theorem tilesCleared_only (t : State) (part dtid : Nat) (dests tiles : List Nat) :
    ∃ resid residAt, tilesCleared t part dtid dests tiles = { t with resid := resid, residAt := residAt } := by
  have htrans {s t u : State} : (∃ a b, t = { s with resid := a, residAt := b }) → (∃ a b, u = { t with resid := a, residAt := b }) →
      ∃ a b, u = { s with resid := a, residAt := b } := by
    rintro ⟨_, _, rfl⟩ ⟨_, _, rfl⟩
    exact ⟨_, _, rfl⟩
  refine foldl_rel (R := fun s s' : State => ∃ a b, s' = { s with resid := a, residAt := b }) (fun s => ⟨_, _, rfl⟩) htrans (fun s d => ?_) _ _
  split
  · exact foldl_rel (R := fun s s' : State => ∃ a b, s' = { s with resid := a, residAt := b }) (fun s => ⟨_, _, rfl⟩) htrans (fun s d => ⟨_, _, rfl⟩) _ _
  · exact ⟨_, _, rfl⟩

/-- What an issue has changed when its tiles are no longer resident. -/
theorem begun_only (s : State) (core : Nat) (r : Run) (kind : Nat) (x : CopyEnt) : ∃ copiers resid residAt,
    begun s core r kind x = { numbered s with copiers := copiers, resid := resid, residAt := residAt }
    ∧ getCopier (begun s core r kind x) core
      = { getCopier s core with gen := if draws kind x (tidOf s core r.part x.dtid) then genStep (getCopier s core).gen else (getCopier s core).gen } := by
  obtain ⟨resid, residAt, h⟩ := tilesCleared_only (if draws kind x (tidOf s core r.part x.dtid) then genStepped (numbered s) core else numbered s) r.part x.dtid
    (destsOf s core r x) (destTiles (ccOf s core r (newEntry s core r x (destsOf s core r x))))
  unfold begun
  rw [h]
  split
  · exact ⟨_, _, _, rfl, (getCopier_setCopier ..).trans (if_pos rfl)⟩
  · exact ⟨_, _, _, rfl, rfl⟩

theorem advanced_begun (s : State) (core : Nat) (r : Run) (kind : Nat) (x : CopyEnt) : Advanced s (stepped (begun s core r kind x) core) core := by
  obtain ⟨copiers, resid, residAt, h, hc⟩ := begun_only s core r kind x
  exact advanced_stepped ⟨_, _, _, h⟩ ((congrArg Copier.pos hc).trans rfl) ((congrArg Copier.journal hc).trans rfl)

theorem unissued_newEntry (s : State) (core : Nat) (r : Run) (x : CopyEnt) (dests : List Nat) : Unissued s x (newEntry s core r x dests) := ⟨rfl, rfl, rfl, rfl⟩

/-- The bits that an issue clears are those of its tiles on its destinations. -/
theorem mem_resid_tilesCleared {t : State} {part dtid : Nat} {dests tiles : List Nat} {k : Nat} :
    k ∈ (tilesCleared t part dtid dests tiles).resid
      ↔ k ∈ t.resid ∧ ∀ d ∈ dests, (tidOf t d part dtid).restrk = true → ∀ i ∈ tiles, k ≠ resKey d part dtid i := by
  have htiles (d : Nat) (l : List Nat) : ∀ t : State, k ∈ (l.foldl (fun s i => resClear s (resKey d part dtid i)) t).resid ↔ k ∈ t.resid ∧ ∀ i ∈ l, k ≠ resKey d part dtid i := by
    induction l with
    | nil => simp
    | cons i l ih =>
      intro t
      rw [List.foldl_cons, ih, List.forall_mem_cons]
      simp only [resClear, List.mem_filter, bne_iff_ne, and_assoc]
  have htid (d d' : Nat) (t : State) : tidOf (tiles.foldl (fun s i => resClear s (resKey d part dtid i)) t) d' part dtid = tidOf t d' part dtid :=
    foldl_keeps (p := fun s => tidOf s d' part dtid) (f := fun s i => resClear s (resKey d part dtid i)) (fun s i => rfl) tiles t
  unfold tilesCleared
  induction dests generalizing t with
  | nil => simp
  | cons d l ih =>
    rw [List.foldl_cons, List.forall_mem_cons]
    refine ih.trans ?_
    split
    · next hr =>
      simp only [htiles, htid]
      rw [and_assoc, imp_iff_right hr]
    · next hr => simp [hr]

end Sys2Proof.Machine
end

section
/-! The state in which the transfers of an issued command start (R193, R194). -/

set_option Elab.async false

namespace Sys2Proof.Machine

open Safety

/-! ## The bytes of a command (R194) -/

theorem bytesOf_eq {c : CC} (h : c.kind ≤ 5) : bytesOf c = if c.kind = 1 then (c.st.dim 0 * c.it.dim 0 * width c.dt.fmt + 7) / 8
    else (((if c.kind = 4 then extSize (tileExt c.dt c.x.w2) else ccCount c) * width (if c.kind = 5 then c.st.fmt else c.dt.fmt) + 7) / 8)
      * (if c.kind = 5 then 1 else c.e.dests.length) := by
  obtain ⟨core, r, e, kind, x, st, dt, it, z⟩ := c
  dsimp only at h ⊢
  interval_cases kind
  · rfl
  · rfl
  · rfl
  · rfl
  · rfl
  · exact (Nat.mul_one _).symm

/-! ## What the state keeps -/

section
variable (s : State) (core : Nat) (r : Run) (kind : Nat) (x : CopyEnt)

theorem getPh_congr {s t : State} (h : t.phasers = s.phasers) (k : Nat) : getPh t k = getPh s k := by
  unfold getPh
  rw [h]

/-- Pending bytes are no phase. -/
theorem pended_only (t : State) (scene ph n : Nat) : (∀ k, (getPh (pended t scene ph n) k).phase = (getPh t k).phase)
    ∧ ∃ phasers, pended t scene ph n = { t with phasers := phasers } := by
  unfold pended
  split
  · exact ⟨fun _ => rfl, _, rfl⟩
  · refine ⟨fun k => ?_, _, rfl⟩
    rw [getPh_setPh]
    split
    · next h => rw [h]
    · rfl

theorem pending_pended {t : State} {scene ph : Nat} (n : Nat) (h : ph ≠ 0xFFF) :
    (getPh (pended t scene ph n) (4096 * scene + ph)).pending = (getPh t (4096 * scene + ph)).pending + n := by
  rw [pended, if_neg h]
  exact congrArg Phaser.pending ((getPh_setPh ..).trans (if_pos rfl))

theorem prepared_only : ∃ nextId syncQ, prepared s core r kind x
    = { entered (pended (begun s core r kind x) r.scene (issuedEntry s core r kind x).phaser (issuedEntry s core r kind x).bytes) core (issuedEntry s core r kind x) with
        nextId := nextId, syncQ := syncQ } := by
  unfold prepared
  dsimp only
  split
  · exact ⟨_, _, rfl⟩
  · exact ⟨_, _, rfl⟩

theorem aside_prepared : Aside s (prepared s core r kind x) := by
  obtain ⟨_, _, h⟩ := prepared_only s core r kind x
  obtain ⟨_, _, _, hb, -⟩ := begun_only s core r kind x
  obtain ⟨hphase, _, hp⟩ := pended_only (begun s core r kind x) r.scene (issuedEntry s core r kind x).phaser (issuedEntry s core r kind x).bytes
  rw [h, hp]
  rw [hp] at hphase
  rw [hb] at hphase ⊢
  exact ⟨hphase, _, _, _, _, _, _, _, _, _, _, _, rfl⟩

theorem getCopier_entered (t : State) (core : Nat) (e : JEntry) : getCopier (entered t core e) core
    = { getCopier t core with journal := (getCopier t core).journal ++ [e], pos := (getCopier t core).pos + 1 } := by
  unfold entered stepped
  rw [getCopier_setCopier, if_pos rfl, getCopier_setCopier, if_pos rfl]

theorem getCopier_prepared : getCopier (prepared s core r kind x) core = { getCopier s core with
    journal := (getCopier s core).journal ++ [issuedEntry s core r kind x], pos := (getCopier s core).pos + 1
    gen := if draws kind x (tidOf s core r.part x.dtid) then genStep (getCopier s core).gen else (getCopier s core).gen } := by
  obtain ⟨_, _, h⟩ := prepared_only s core r kind x
  obtain ⟨_, _, _, -, hc⟩ := begun_only s core r kind x
  obtain ⟨-, _, hp⟩ := pended_only (begun s core r kind x) r.scene (issuedEntry s core r kind x).phaser (issuedEntry s core r kind x).bytes
  have hentered := getCopier_entered (pended (begun s core r kind x) r.scene (issuedEntry s core r kind x).phaser (issuedEntry s core r kind x).bytes) core
    (issuedEntry s core r kind x)
  have hcopier : getCopier (pended (begun s core r kind x) r.scene (issuedEntry s core r kind x).phaser (issuedEntry s core r kind x).bytes) core
      = getCopier (begun s core r kind x) core := by
    rw [hp]
    rfl
  rw [hcopier, hc] at hentered
  rw [h]
  exact hentered

theorem dram_prepared : (prepared s core r kind x).dram = s.dram := by
  obtain ⟨_, _, _, hb, -⟩ := begun_only s core r kind x
  obtain ⟨_, _, h⟩ := prepared_only s core r kind x
  obtain ⟨-, _, hp⟩ := pended_only (begun s core r kind x) r.scene (issuedEntry s core r kind x).phaser (issuedEntry s core r kind x).bytes
  rw [h, hp, hb]
  rfl

theorem mem_resid_prepared (k : Nat) : k ∈ (prepared s core r kind x).resid ↔ k ∈ s.resid ∧ ∀ d ∈ destsOf s core r x, (tidOf s d r.part x.dtid).restrk = true →
    ∀ i ∈ destTiles (ccOf s core r (newEntry s core r x (destsOf s core r x))), k ≠ resKey d r.part x.dtid i := by
  obtain ⟨_, _, h⟩ := prepared_only s core r kind x
  obtain ⟨-, _, hp⟩ := pended_only (begun s core r kind x) r.scene (issuedEntry s core r kind x).phaser (issuedEntry s core r kind x).bytes
  have hresid : (prepared s core r kind x).resid = (begun s core r kind x).resid := by
    rw [h, hp]
    rfl
  have hbase : (if draws kind x (tidOf s core r.part x.dtid) then genStepped (numbered s) core else numbered s).resid = s.resid := by
    split <;> rfl
  have htid (d : Nat) : tidOf (if draws kind x (tidOf s core r.part x.dtid) then genStepped (numbered s) core else numbered s) d r.part x.dtid
      = tidOf s d r.part x.dtid := by
    split <;> rfl
  rw [hresid, begun, mem_resid_tilesCleared, hbase]
  simp only [htid]

theorem pending_prepared (h : (issuedEntry s core r kind x).phaser ≠ 0xFFF) :
    (getPh (prepared s core r kind x) (4096 * r.scene + (issuedEntry s core r kind x).phaser)).pending
      = (getPh s (4096 * r.scene + (issuedEntry s core r kind x).phaser)).pending + (issuedEntry s core r kind x).bytes := by
  obtain ⟨_, _, hp⟩ := prepared_only s core r kind x
  obtain ⟨_, _, _, hb, -⟩ := begun_only s core r kind x
  have hpend := pending_pended (t := begun s core r kind x) (scene := r.scene) (issuedEntry s core r kind x).bytes h
  have hprepared : getPh (prepared s core r kind x) (4096 * r.scene + (issuedEntry s core r kind x).phaser)
      = getPh (pended (begun s core r kind x) r.scene (issuedEntry s core r kind x).phaser (issuedEntry s core r kind x).bytes)
        (4096 * r.scene + (issuedEntry s core r kind x).phaser) := getPh_congr (by rw [hp]; rfl) _
  have hbegun : getPh (begun s core r kind x) (4096 * r.scene + (issuedEntry s core r kind x).phaser) = getPh s (4096 * r.scene + (issuedEntry s core r kind x).phaser) :=
    getPh_congr (by rw [hb]; rfl) _
  rw [hprepared, hpend, hbegun]

theorem syncQ_prepared : (x.ctr ≠ 0xFFFFFFF → ∃ q, (prepared s core r kind x).syncQ = s.syncQ ++ [q] ∧ q.op = 56 ∧ q.arg = 2 ^ 28 * r.part + x.ctr)
    ∧ (x.ctr = 0xFFFFFFF → (prepared s core r kind x).syncQ = s.syncQ) := by
  obtain ⟨_, _, _, hb, -⟩ := begun_only s core r kind x
  obtain ⟨-, _, hp⟩ := pended_only (begun s core r kind x) r.scene (issuedEntry s core r kind x).phaser (issuedEntry s core r kind x).bytes
  have hsync : (entered (pended (begun s core r kind x) r.scene (issuedEntry s core r kind x).phaser (issuedEntry s core r kind x).bytes) core
      (issuedEntry s core r kind x)).syncQ = s.syncQ := by
    rw [hp, hb]
    rfl
  refine ⟨fun h => ?_, fun h => ?_⟩
  · obtain ⟨q, hq, hop, harg, -⟩ := syncQ_postNotice (entered (pended (begun s core r kind x) r.scene (issuedEntry s core r kind x).phaser
      (issuedEntry s core r kind x).bytes) core (issuedEntry s core r kind x)) core r.part 56 (2 ^ 28 * r.part + x.ctr) 0 (issuedEntry s core r kind x).no
    unfold prepared
    dsimp only
    rw [if_neg h]
    exact ⟨q, hq.trans (by rw [hsync]), hop, harg⟩
  · unfold prepared
    dsimp only
    rw [if_pos h]
    exact hsync

end

end Sys2Proof.Machine
end

section
/-! The issue of a copy command, from its first check to its transfers (R193). -/

set_option Elab.async false

namespace Sys2Proof.Machine

open Safety

/-! ## The outcome of each check -/

section
variable {s : State} {core : Nat} {r : Run} {kind : Nat} {x : CopyEnt}

/-- The checks of an entry's words, of the generator, and of the gang that a multicast reaches (R179, R195). -/
structure Passes (s : State) (core : Nat) (r : Run) (kind : Nat) (x : CopyEnt) : Prop where
  entry : copyOk s core r.part kind x = true
  generator : draws kind x (tidOf s core r.part x.dtid) = true → bit (capMask s core) 38 = true
  gang : x.rows ≠ 0 → ∀ l ∈ castLcs x, l < nlcOf s r.scene r.gslot

theorem not_badEntry (h : copyOk s core r.part kind x = true) : ¬ (!copyOk s core r.part kind x) = true := by
  rw [h]
  exact Bool.false_ne_true

theorem not_noGenerator (h : draws kind x (tidOf s core r.part x.dtid) = true → bit (capMask s core) 38 = true) :
    ¬ (draws kind x (tidOf s core r.part x.dtid) && !bit (capMask s core) 38) = true := by
  rw [Bool.and_eq_true, Bool.not_eq_true']
  exact fun hn => Bool.false_ne_true (hn.2.symm.trans (h hn.1))

theorem badCast_iff : (x.rows ≠ 0 ∧ (castLcs x).any (nlcOf s r.scene r.gslot ≤ ·) = true) ↔ ¬ (x.rows ≠ 0 → ∀ l ∈ castLcs x, l < nlcOf s r.scene r.gslot) := by
  simp only [List.any_eq_true, decide_eq_true_eq, not_forall, not_lt, exists_prop]

theorem issueOutcome_badEntry (hok : copyOk s core r.part kind x = false) :
    issueOutcome s core r kind x = copyFail (stepped (numbered s) core) core r (newEntry s core r x [core]) 0x142 (getCopier s core).pos 0 0 := by
  unfold issueOutcome
  dsimp only
  rw [if_pos (by rw [hok]; rfl)]

theorem issueOutcome_noGenerator (hok : copyOk s core r.part kind x = true) (hdraws : draws kind x (tidOf s core r.part x.dtid) = true)
    (hcap : bit (capMask s core) 38 = false) : ∃ i1,
    issueOutcome s core r kind x = copyFail (stepped (numbered s) core) core r (newEntry s core r x [core]) 0x13F 38 i1 0 := by
  unfold issueOutcome
  dsimp only
  rw [if_neg (not_badEntry hok), if_pos (by rw [hdraws, hcap]; rfl)]
  exact ⟨_, rfl⟩

theorem issueOutcome_badCast (hok : copyOk s core r.part kind x = true)
    (hcap : draws kind x (tidOf s core r.part x.dtid) = true → bit (capMask s core) 38 = true)
    (hcast : ¬ (x.rows ≠ 0 → ∀ l ∈ castLcs x, l < nlcOf s r.scene r.gslot)) : ∃ i0,
    issueOutcome s core r kind x = copyFail (stepped (numbered s) core) core r (newEntry s core r x [core]) 0x06C i0 0 pathX := by
  unfold issueOutcome
  dsimp only
  rw [if_neg (not_badEntry hok), if_neg (not_noGenerator hcap), if_pos (badCast_iff.2 hcast)]
  exact ⟨_, rfl⟩

theorem getPh_begun (k : Nat) : getPh (begun s core r kind x) k = getPh s k := by
  obtain ⟨_, _, _, hb, -⟩ := begun_only s core r kind x
  exact getPh_congr (by rw [hb]; rfl) k

/-- The phaser's bound, once the other checks have passed (R194). -/
theorem issueOutcome_passes (h : Passes s core r kind x) : issueOutcome s core r kind x =
    let ph := phaserOf kind x (tidOf s core r.part x.dtid)
    let e := newEntry s core r x (destsOf s core r x)
    let n := bytesOf (ccOf s core r e)
    if ph ≠ 0xFFF ∧ (getPh s (4096 * r.scene + ph)).live = false then copyFail (stepped (begun s core r kind x) core) core r e 0x0E4 ph n 0
    else if ph ≠ 0xFFF ∧ 2 ^ 36 - 1 < (getPh s (4096 * r.scene + ph)).pending + n then copyFail (stepped (begun s core r kind x) core) core r e 0x0E7 ph n 0
    else startTransfers (prepared s core r kind x) core r (issuedEntry s core r kind x) := by
  obtain ⟨hok, hcap, hcast⟩ := h
  unfold issueOutcome
  dsimp only
  rw [if_neg (not_badEntry hok), if_neg (not_noGenerator hcap), if_neg (fun h => badCast_iff.1 h hcast), getPh_begun]

end

/-! ## The command that a journal entry holds -/

section
variable {s : State} {r : Run} {kind : Nat} {x : CopyEnt} (hc : Considers s r kind x) {e : JEntry}
  (hwords : e.words = (getCopier s s.cur.core).sched.getD (getCopier s s.cur.core).pos [])
include hc hwords

theorem kind_ccOf : (ccOf s s.cur.core r e).kind = kind := by
  obtain ⟨-, -, hkind, -⟩ := hc
  rw [← hkind, ← hwords]
  rfl

theorem x_ccOf : (ccOf s s.cur.core r e).x = x := by
  obtain ⟨-, hx, -, -⟩ := hc
  rw [← hx, ← hwords]
  rfl

end

theorem command_newEntry {s : State} {core : Nat} {r : Run} {x : CopyEnt} {e : JEntry} (hwords : e.words = (getCopier s core).sched.getD (getCopier s core).pos [])
    (hdests : e.dests = destsOf s core r x) (hidx : e.idx = []) (hgranted : e.granted = []) : command (newEntry s core r x (destsOf s core r x)) = command e := by
  rw [command, command, hwords, hdests, hidx, hgranted]
  rfl

theorem getEntry_prepared {s : State} {core : Nat} (r : Run) (kind : Nat) (x : CopyEnt) (h : ∀ y ∈ (getCopier s core).journal, y.no ≠ s.nextId) :
    getEntry (prepared s core r kind x) core (issuedEntry s core r kind x).no = some (issuedEntry s core r kind x) := by
  have hnone : (getCopier s core).journal.find? (fun y => y.no == (issuedEntry s core r kind x).no) = none := by
    rw [List.find?_eq_none]
    intro y hy
    rw [beq_iff_eq]
    exact h y hy
  rw [getEntry, getCopier_prepared, List.find?_append, hnone, Option.none_or, List.find?_cons_of_pos (by exact beq_self_eq_true _)]

end Sys2Proof.Machine
end

section
/-! The rule of the issue of a copy command (R193): what fails, and what an issued command has brought about. -/

set_option Elab.async false

namespace Sys2Proof.Machine

open Safety

/-! ## An issued command -/

theorem Aside.sameMem {s t : State} (h : Aside s t) : SameMem s t := by
  obtain ⟨-, _, _, _, _, _, _, _, _, _, _, _, rfl⟩ := h
  exact ⟨rfl, rfl, rfl⟩
theorem Aside.threads {s t : State} (h : Aside s t) : t.threads = s.threads := by
  obtain ⟨-, _, _, _, _, _, _, _, _, _, _, _, rfl⟩ := h
  rfl

theorem getCopier_congr {s t : State} (h : t.copiers = s.copiers) (core : Nat) : getCopier t core = getCopier s core := by
  unfold getCopier
  rw [h]

/-- What a state holds after the transfers of a command have started, beside the accesses that wait. -/
structure Started (t t' : State) (core : Nat) (j : JEntry) (ys : List Access) : Prop where
  mem : SameMem t t'
  threads : t'.threads = t.threads
  copier : getCopier t' core = getCopier (putEntry t core j) core
  dram : t'.dram = t.dram ++ ys
  resid : t'.resid = t.resid
  phaser : ∀ k, getPh t' k = getPh t k
  syncQ : t'.syncQ = t.syncQ

theorem started_of_pushed {t t' : State} {core agenda free : _} {j : JEntry} {ys : List Access}
    (h : Pushed (putEntry { t with agenda := agenda, free := free } core j) t' ys) : Started t t' core j ys := by
  obtain ⟨_, _, _, _, rfl⟩ := h
  exact ⟨⟨rfl, rfl, rfl⟩, rfl, getCopier_congr rfl core, rfl, rfl, fun k => getPh_congr rfl k, rfl⟩

/-- The journal in which an entry has been replaced. -/
theorem journal_replaced {l : List JEntry} {e j : JEntry} (hno : j.no = e.no) (h : ∀ y ∈ l, y.no ≠ e.no) :
    (l ++ [e]).map (fun y => if y.no = j.no then j else y) = l ++ [j] := by
  have hl : l.map (fun y => if y.no = j.no then j else y) = l := by
    conv => rhs; rw [← List.map_id l]
    refine List.map_congr_left fun y hy => if_neg ?_
    rw [hno]
    exact h y hy
  rw [List.map_append, hl, List.map_singleton, if_pos hno.symm]

section
variable {s : State} {r : Run} {kind : Nat} {x : CopyEnt} (hk : kind ≤ 5) (hc : Considers s r kind x)
include hk hc

/-! ## The failures -/

theorem fails_badEntry (hok : ¬ copyOk s s.cur.core r.part kind x = true) : FailsAtIssue s r kind x 0x142 :=
  failsAtIssue hc (advanced_numbered s s.cur.core) (unissued_newEntry s s.cur.core r x [s.cur.core]) (by unfold IssueCause; decide)
    ((exec_copyOf hk hc.1).trans (congrArg _ (issueOutcome_badEntry (by simpa using hok))))

theorem fails_noGenerator (hok : copyOk s s.cur.core r.part kind x = true)
    (hcap : ¬ (draws kind x (tidOf s s.cur.core r.part x.dtid) = true → bit (capMask s s.cur.core) 38 = true)) : FailsAtIssue s r kind x 0x13F := by
  rw [Classical.not_imp, Bool.not_eq_true] at hcap
  obtain ⟨i1, h⟩ := issueOutcome_noGenerator hok hcap.1 hcap.2
  exact failsAtIssue hc (advanced_numbered s s.cur.core) (unissued_newEntry s s.cur.core r x [s.cur.core]) (by unfold IssueCause; decide)
    ((exec_copyOf hk hc.1).trans (congrArg _ h))

theorem fails_badCast (hok : copyOk s s.cur.core r.part kind x = true)
    (hcap : draws kind x (tidOf s s.cur.core r.part x.dtid) = true → bit (capMask s s.cur.core) 38 = true)
    (hcast : ¬ (x.rows ≠ 0 → ∀ l ∈ castLcs x, l < nlcOf s r.scene r.gslot)) : FailsAtIssue s r kind x 0x06C := by
  obtain ⟨i0, h⟩ := issueOutcome_badCast hok hcap hcast
  exact failsAtIssue hc (advanced_numbered s s.cur.core) (unissued_newEntry s s.cur.core r x [s.cur.core]) (by unfold IssueCause; decide)
    ((exec_copyOf hk hc.1).trans (congrArg _ h))

section
variable (hp : Passes s s.cur.core r kind x) (hph : phaserOf kind x (tidOf s s.cur.core r.part x.dtid) ≠ 0xFFF)
include hp hph

theorem fails_phaserGone (hlive : (getPh s (4096 * r.scene + phaserOf kind x (tidOf s s.cur.core r.part x.dtid))).live = false) : FailsAtIssue s r kind x 0x0E4 :=
  failsAtIssue hc (advanced_begun s s.cur.core r kind x) (unissued_newEntry s s.cur.core r x (destsOf s s.cur.core r x)) (by unfold IssueCause; decide)
    ((exec_copyOf hk hc.1).trans (congrArg _ ((issueOutcome_passes hp).trans (if_pos ⟨hph, hlive⟩))))

theorem fails_phaserFull (hlive : (getPh s (4096 * r.scene + phaserOf kind x (tidOf s s.cur.core r.part x.dtid))).live = true)
    (hfull : 2 ^ 36 ≤ (getPh s (4096 * r.scene + phaserOf kind x (tidOf s s.cur.core r.part x.dtid))).pending
      + bytesOf (ccOf s s.cur.core r (newEntry s s.cur.core r x (destsOf s s.cur.core r x)))) : FailsAtIssue s r kind x 0x0E7 :=
  failsAtIssue hc (advanced_begun s s.cur.core r kind x) (unissued_newEntry s s.cur.core r x (destsOf s s.cur.core r x)) (by unfold IssueCause; decide)
    ((exec_copyOf hk hc.1).trans (congrArg _ ((issueOutcome_passes hp).trans
      ((if_neg fun h => by rw [hlive] at h; exact Bool.noConfusion h.2).trans (if_pos ⟨hph, by omega⟩)))))

end

end

end Sys2Proof.Machine
end

section
/-! The rules of the issue and of the steps of copy commands, and the obligation on them. -/

set_option Elab.async false

namespace Sys2Proof.Machine

open Safety

section
variable {s : State} {r : Run} {kind : Nat} {x : CopyEnt} (hk : kind ≤ 5) (hc : Considers s r kind x) (hp : Passes s s.cur.core r kind x)
  (hph : phaserOf kind x (tidOf s s.cur.core r.part x.dtid) ≠ 0xFFF →
    (getPh s (4096 * r.scene + phaserOf kind x (tidOf s s.cur.core r.part x.dtid))).live = true
    ∧ (getPh s (4096 * r.scene + phaserOf kind x (tidOf s s.cur.core r.part x.dtid))).pending
      + bytesOf (ccOf s s.cur.core r (newEntry s s.cur.core r x (destsOf s s.cur.core r x))) < 2 ^ 36)
  {e : JEntry} (hwords : e.words = (getCopier s s.cur.core).sched.getD (getCopier s s.cur.core).pos []) (hdests : e.dests = destsOf s s.cur.core r x)
  (hidx : e.idx = []) (hgranted : e.granted = [])
include hk hc hp hph hwords hdests hidx hgranted

/-- A command that passes its checks issues. -/
theorem exec_copyOf_issues (hleft : e.left = if (ccOf s s.cur.core r e).kind = 1 then [] else ccItems s (ccOf s s.cur.core r e))
    (hwaiting : e.waiting = if (ccOf s s.cur.core r e).kind = 1 then ccIndex (ccOf s s.cur.core r e) else ccReads (ccOf s s.cur.core r e))
    (hall : AllEligible s (ccOf s s.cur.core r e) (e.waiting ++ e.left)) (hfresh : ∀ a ∈ s.dram, a.core = s.cur.core → a.entry ≠ some s.nextId) :
    ∃ s' startAt ys, exec (copyOf kind x) s = .next s'
      ∧ Started (prepared s s.cur.core r kind x) s' s.cur.core (startedEntry (issuedEntry s s.cur.core r kind x) startAt e.left e.waiting) ys
      ∧ (∀ y ∈ ys, Waits y s.cur.core s.nextId x.rid)
      ∧ (∀ u, u ∈ ys.map (·.unit) ↔ u ∈ inCaravan s (ccOf s s.cur.core r e) (e.waiting ++ e.left)) ∧ ys.Pairwise fun a b => itemAddr a.unit ≤ itemAddr b.unit := by
  obtain ⟨hr, -, -, hjournal⟩ := id hc
  have hexec := (exec_copyOf hk hr).trans (congrArg Host.Outcome.next ((issueOutcome_passes hp).trans
    ((if_neg fun h => by rw [(hph h.1).1] at h; exact Bool.noConfusion h.2).trans (if_neg fun h => by
      have := (hph h.1).2
      omega))))
  obtain ⟨startAt, agenda, free, ys, hpushed, hys⟩ := startTransfers_eligible hr (aside_prepared s s.cur.core r kind x) (getEntry_prepared r kind x hjournal)
    (command_newEntry hwords hdests hidx hgranted) rfl rfl hleft hwaiting hall (fun a ha => hfresh a (by rwa [dram_prepared] at ha))
  rw [x_ccOf hc hwords] at hys
  exact ⟨_, startAt, ys, hexec, started_of_pushed hpushed, hys⟩

end

/-- The engine after an issue: its command stands in the journal, its position has advanced, and its generator has stepped where the command draws. -/
theorem copier_started {s s' : State} {core : Nat} {r : Run} {kind : Nat} {x : CopyEnt} {startAt : Nat} {left waiting : List Nat} {ys : List Access}
    (hjournal : ∀ y ∈ (getCopier s core).journal, y.no ≠ s.nextId)
    (h : Started (prepared s core r kind x) s' core (startedEntry (issuedEntry s core r kind x) startAt left waiting) ys) :
    getCopier s' core = { getCopier s core with
      journal := (getCopier s core).journal ++ [startedEntry (issuedEntry s core r kind x) startAt left waiting], pos := (getCopier s core).pos + 1
      gen := if draws kind x (tidOf s core r.part x.dtid) then genStep (getCopier s core).gen else (getCopier s core).gen } := by
  have hreplaced := journal_replaced (e := issuedEntry s core r kind x) (j := startedEntry (issuedEntry s core r kind x) startAt left waiting) rfl hjournal
  rw [h.copier, getCopier_putEntry, getCopier_prepared]
  dsimp only
  rw [hreplaced]

theorem draws_iff (kind : Nat) (x : CopyEnt) (dt : TidV) : draws kind x dt = true ↔ kind = 3 ∧ x.cvtRm = 2 ∧ ¬ (x.cvtScale = 0 ∧ dt.fmt = 0x0F) := by
  simp only [draws, Bool.and_eq_true, beq_iff_eq, Bool.not_eq_true', Bool.and_eq_false_iff, beq_eq_false_iff_ne, and_assoc, not_and_or, ne_eq]

theorem copyStepsRule : CopyStepsRule := fun _ _ _ =>
  ⟨fun hr he => ⟨lineWriteRule hr he, lineReadRule hr he, completionRule hr he, digestRule hr he, journalReleaseRule he⟩, caravanRule⟩

theorem copyIssueRule : CopyIssueRule := by
  intro s r kind x hk hc core c dt ph phs sr dests ok drawsOk castOk
  have hsr : draws kind x dt = true ↔ sr := draws_iff kind x dt
  have hdrawsOk : (draws kind x dt = true → bit (capMask s core) 38 = true) ↔ drawsOk := imp_congr hsr Iff.rfl
  refine ⟨fails_badEntry hk hc, fun hok hn => fails_noGenerator hk hc hok (hdrawsOk.not.2 hn), fun hok hd => fails_badCast hk hc hok (hdrawsOk.2 hd), ?_⟩
  intro hok hd hcast e hno hwords hdests hidx hgen hgranted cc n hwaiting hleft
  have hp : Passes s core r kind x := ⟨hok, hdrawsOk.2 hd, hcast⟩
  have hkind : cc.kind = kind := kind_ccOf hc hwords
  have hx : cc.x = x := x_ccOf hc hwords
  have hcmd := command_newEntry hwords hdests hidx hgranted
  have hdt : cc.dt = dt := congrArg (fun y : CopyEnt => tidOf s core r.part y.dtid) hx
  have hlength : cc.e.dests.length = dests.length := congrArg List.length hdests
  have hn : bytesOf (ccOf s core r (newEntry s core r x dests)) = n :=
    (bytesOf_command hcmd s core r).trans ((bytesOf_eq (hkind ▸ hk : cc.kind ≤ 5)).trans (by dsimp only [n]; rw [hkind, hdt, hx, hlength]))
  refine ⟨fails_phaserGone hk hc hp, fun h1 h2 h3 => fails_phaserFull hk hc hp h1 h2 (hn ▸ h3), fun hph hall hfresh => ?_⟩
  obtain ⟨s', startAt, ys, hexec, hstarted, hwaits, hunits, hsorted⟩ := exec_copyOf_issues hk hc hp (fun h => hn ▸ hph h) hwords hdests hidx hgranted
    (by rw [hleft, ← hkind]) (by rw [hwaiting, ← hkind]) hall hfresh
  obtain ⟨-, -, -, hjournal⟩ := hc
  have haside := aside_prepared s core r kind x
  have htiles : destTiles (ccOf s core r (newEntry s core r x dests)) = destTiles cc := destTiles_command hcmd s core r
  refine ⟨s', startedEntry (issuedEntry s core r kind x) startAt e.left e.waiting, hexec, (haside.sameMem.trans hstarted.mem).sameBytes,
    hstarted.threads.trans haside.threads, ?_, rfl, hwords.symm, rfl, rfl, rfl, hn, rfl, rfl, ⟨ys, ?_, hunits, hsorted, fun a ha => ?_⟩, fun k => ?_, fun h => ?_, ?_, ?_⟩
  · rw [copier_started hjournal hstarted, if_congr hsr rfl rfl]
  · rw [hstarted.dram, dram_prepared]
  · obtain ⟨h1, h2, h3, h4⟩ := hwaits a ha
    exact ⟨h2, h1, h4, h3⟩
  · rw [hstarted.resid, mem_resid_prepared]
    rw [show destsOf s core r x = dests from rfl, htiles]
  · rw [hstarted.phaser]
    refine (pending_prepared s core r kind x h).trans ?_
    exact congrArg (phs.pending + ·) hn
  · rw [hstarted.syncQ]
    exact (syncQ_prepared s core r kind x).1
  · rw [hstarted.syncQ]
    exact (syncQ_prepared s core r kind x).2

/-- Settles O42, by the two rules: an issue either fails one of its checks or starts its transfers in ascending order, and each later step of a command, and of
the caravan, does what its row says. -/
theorem copyCommands : Obligations.CopyCommands := ⟨copyIssueRule, copyStepsRule⟩

end Sys2Proof.Machine
end

section
/-! The word of a well-formed instruction decodes to it (R159 to R178), and words written out from the encodings do. -/

set_option Elab.async false

namespace Sys2Proof.Laws

/-- Each constructor of the type has its lemma: here they stand in its order. -/
theorem RoundTrip.all (i : Instr) : Statement i :=
  Instr.rec (motive := Statement)
    add sub mul mulh mulhu andR orR xorR andnR shl shr sar minS maxS minU maxU slt sltu seq popc clz addi andi ori xori shli shri sari slti lis ldd
    ldw std stw srrd srwr br call bc bstS bstC bct jr ret callr kset krd kstart kwait kstop cfgld constw vsel epsel qarm qsel qcancel stage stageset
    tidrd tidwr resclr restst phreg phdrop phsig phwait phsw phqry ctrwait ctrinit ctrrd ctrstat aadd amin amax aminu amaxu aand aor axor axch acas
    afadd fenceP fenceSc fenceD rel acq jobpost timerd timefr tickrd waitt waittCue trap eret endBlock brk staterd illegalWord fetchFault
    recordDelivery debugResume debugAccess eNop eMov eSel ePick ePset eVote3 eDelay eFlag eTrap eIadd eIsub eImul eImulh eImad eIabs eIneg eImin
    eImax eIminu eImaxu eIsat eShl eShr eSar eRol eAnd eOr eXor eAndn eNot ePopc eClz eBfx eBfi eIcmp eFcmp ePand ePor ePnot eFadd eFsub eFmul eFfma
    eFmin eFmax eFabs eFneg eFrcp eFrsq eFexp2 eFlog2 eFtanh eFaddB2 eFmulB2 eFfmaB2 eFaddH2 eFmulH2 eFfmaH2 eCvtRn eCvtRz eCvtRd eCvtRu eCvtSr
    eQmax eScle eQmx eRfwd eRadd eRsub eRmul eRmac eLdp eStp eLdpx eStpx aMode aWpreI aWpreA aWswap aPass aDrain aClr aBind aBindOff weightFetch
    preloadComplete aOperandFetch acAccumulate passComplete aclrZeroWrite drainStart epilogueBeat epilogueStore drainComplete pEend pErd pRrev pSclx
    pCvf pBias pEadd pEmul pEmax pEmin pClmp pRelu pElut pQnt pEst pEbyp pEsum pEsel pEmov pEflg cCopy cGather cFill cCvtcopy cRedcopy cDigest
    lineTransfer caravanSlot copyCompletion journalRelease copyBlockRetirement peerRequest prompterPerform portPerform portReply stallFreeze
    iiBoundary kernelRunEnd tickBoundary heartbeat cueStart slackExpiry deadlineExpiry understudyFire blockRetirement resume sceneChange sceneStop
    recovery jobRecordRead startScene launchGang changeScene stopScene loadScene unloadScene sceneLoadComplete sceneUnloadComplete
    gangLaunchComplete phaseBoundary chorusSignature chorusLagExpiry tbincWrite tbctlWrite tbstepWrite stepApply ptpSync ptpFollowUp ptpPdelay
    ptpAnnounce nonPtpFrame syncTimeout announceTimeout ppsRise ppsFall ppsIn partcfgWrite partwordWrite ptrootWrite tlbinvPage tlbinvPartition
    tlbinvAll tlbinvComplete poolOwnerWrite dieOwnerWrite caravanMapWrite reservationWrite syncAllotWrite ctxWrite thrcfgWrite pwrcapWrite
    registerWrite mailboxRead mailboxWrite wridxWrite rctlWrite hostWindow cxlTimeout cxlLinkDown screqWrite wdkickWrite watchdogExpiry initiateFlr
    flrStop flrDrainEnd flrComplete channelFence capClear retrainStart retrainEnd retrainTimeout budgetPeriod saveStart saveUnit pwrgoodLoss
    powerOff coldReset bootStage syncService cxlTrained cxlSnoop boundaryScan
    i

/-- Settles O57, by the lemma of the instruction's constructor. -/
theorem encodeDecode : Obligations.EncodeDecode := RoundTrip.all

/-- Settles O56, by running the decoders on the seven words. -/
theorem decodeWords : Obligations.DecodeWords := ⟨rfl, rfl, rfl, rfl, rfl, rfl, rfl⟩

end Sys2Proof.Laws
end

section
/-! What decodes is well formed and has the word that it was decoded from (R159 to R178): decoder by decoder, and in each opcode by opcode. -/

set_option Elab.async false

namespace Sys2Proof.Laws

/-! ## An instruction and its word -/

/-- An instruction is well formed and has the word w. -/
def HasWord (x : Instr) (w : Nat) : Prop := x.wf = true ∧ encode x = some w

/-- An instruction that holds only under a condition was read under it. -/
theorem need_eq_some {c : Bool} {i x : Instr} : need c i = some x ↔ c = true ∧ i = x := by
  cases c <;> simp [need]

theorem regs2 {a b : Nat} (ha : a < 32) (hb : b < 32) : (regOk a && regOk b) = true := by simp [ha, hb]
theorem regs3 {d a b : Nat} (hd : d < 32) (ha : a < 32) (hb : b < 32) : (regOk d && regOk a && regOk b) = true := by simp [hd, ha, hb]
/-- A register, and one more field that lies in its range. -/
theorem reg_and {a : Nat} {c : Prop} [Decidable c] (ha : a < 32) (hc : c) : (regOk a && decide c) = true := by simp [ha, hc]
theorem regs2_and {d a : Nat} {c : Prop} [Decidable c] (hd : d < 32) (ha : a < 32) (hc : c) : (regOk d && regOk a && decide c) = true := by
  simp [hd, ha, hc]
/-- A TID that a word may name: one byte, and not 0xFF (R107, R163). -/
theorem tid_lt {imm : Nat} (hi : imm < 65536) (h : ¬ imm / 256 = 255) : imm / 256 < 255 := by omega

/-! ## Codes of fields -/

theorem condCode_of_condOf {n : Nat} {c : Cond} (h : condOf n = some c) : condCode c = n := by
  unfold condOf at h
  split at h <;> cases h <;> rfl
theorem scopeCode_of_scopeOf {n : Nat} {s : Scope} (h : scopeOf n = some s) : scopeCode s = n := by
  unfold scopeOf at h
  split at h <;> cases h <;> rfl
theorem modeCode_of_modeOf {n : Nat} {m : PhMode} (h : modeOf n = some m) : modeCode m = n := by
  unfold modeOf at h
  split at h <;> cases h <;> rfl
theorem bankCode_of_bankOf {n : Nat} {bank : Bank} (h : bankOf n = some bank) : bankCode bank = n := by
  unfold bankOf at h
  split at h <;> cases h <;> rfl
theorem orderCode_orderOf {n : Nat} (h : n < 4) : orderCode (orderOf n) = n := by interval_cases n <;> rfl
theorem planeCode_planeOf {n : Nat} (h : n < 4) : planeCode (planeOf n) = n := by interval_cases n <;> rfl
theorem roundCode_roundOf {n : Nat} (h : n < 4) : roundCode (roundOf n) = n := by interval_cases n <;> rfl
theorem roundOf_ne_sr (n : Nat) : (roundOf n != .sr) = true := by
  unfold roundOf
  split <;> rfl
/-- The k field of an atomic, from its parts. -/
theorem atomK_parts {k : Nat} {s : Scope} (hk : k < 64) (hs : scopeOf (k % 8) = some s) : atomK (k / 32 == 1) (orderOf (k / 8 % 4)) s = k := by
  rw [atomK, orderCode_orderOf (by omega), scopeCode_of_scopeOf hs]
  by_cases h : k / 32 = 1
  · rw [beq_iff_eq.2 h, if_pos rfl]; omega
  · rw [beq_eq_false_iff_ne.2 h, if_neg Bool.false_ne_true]; omega

/-! ## Prompter words -/

section
variable {d a b k fn sub imm : Nat} {x : Instr}

theorem hasWord_of_decAlu (hd : d < 32) (ha : a < 32) (hb : b < 32) (h : decAlu d a b fn = some x) : HasWord x (encRR 0 d a b fn) := by
  unfold decAlu at h
  split at h <;> simp only [need_eq_some, beq_iff_eq, Option.some.injEq, reduceCtorEq] at h
  iterate 19
    subst h
    exact ⟨regs3 hd ha hb, rfl⟩
  iterate 2
    obtain ⟨rfl, rfl⟩ := h
    exact ⟨regs2 hd ha, rfl⟩

theorem hasWord_of_decShift (hd : d < 32) (ha : a < 32) (h : decShift d a imm = some x) : HasWord x (encRI 5 d a imm) := by
  have hw : (regOk d && regOk a && decide (imm % 64 < 64)) = true := regs2_and hd ha (Nat.mod_lt _ (by decide))
  have hi := Nat.div_add_mod imm 64
  unfold decShift at h
  split at h <;> rename_i hs
  iterate 3 exact Option.some.inj h ▸ ⟨hw, congrArg (fun n => some (encRI 5 d a n)) (by omega)⟩
  cases h

theorem hasWord_of_decLink (ha : a < 32) (h : decLink d a b fn = some x) : HasWord x (encRR 0x15 d a b fn) := by
  unfold decLink at h
  split at h <;> simp only [need_eq_some, Bool.and_eq_true, beq_iff_eq, reduceCtorEq] at h
  · obtain ⟨⟨rfl, rfl⟩, rfl⟩ := h
    exact ⟨decide_eq_true ha, rfl⟩
  · obtain ⟨⟨⟨rfl, rfl⟩, rfl⟩, rfl⟩ := h
    exact ⟨rfl, rfl⟩
  · obtain ⟨⟨rfl, rfl⟩, rfl⟩ := h
    exact ⟨decide_eq_true ha, rfl⟩

theorem hasWord_of_decLoop (hd : d < 32) (ha : a < 32) (h : decLoop d a b sub k = some x) : HasWord x (encSY 0x16 d a b sub k) := by
  unfold decLoop at h
  split at h <;> simp only [need_eq_some, Bool.and_eq_true, beq_iff_eq, decide_eq_true_eq, reduceCtorEq] at h
  · obtain ⟨⟨⟨rfl, rfl⟩, hk⟩, rfl⟩ := h
    exact ⟨reg_and ha hk, rfl⟩
  · obtain ⟨⟨⟨rfl, rfl⟩, hk⟩, rfl⟩ := h
    exact ⟨reg_and hd hk, rfl⟩

theorem hasWord_of_decEngine (ha : a < 32) (hb : b < 32) (hk : k < 64) (h : decEngine d a b sub k = some x) :
    HasWord x (encSY 0x18 d a b sub k) := by
  have hs : k % 4 < 4 := Nat.mod_lt _ (by decide)
  have hsmall : k < 4 → k % 4 = k := Nat.mod_eq_of_lt
  unfold decEngine at h
  split at h <;> simp only [need_eq_some, Bool.and_eq_true, beq_iff_eq, decide_eq_true_eq, reduceCtorEq] at h
  · obtain ⟨⟨⟨rfl, rfl⟩, h4⟩, rfl⟩ := h
    exact ⟨reg_and ha hs, congrArg (fun n => some (encSY 0x18 0 a 0 0 n)) (hsmall h4)⟩
  · obtain ⟨⟨⟨⟨rfl, rfl⟩, rfl⟩, h4⟩, rfl⟩ := h
    exact ⟨decide_eq_true hs, congrArg (fun n => some (encSY 0x18 0 0 0 1 n)) (hsmall h4)⟩
  · obtain ⟨⟨⟨⟨rfl, rfl⟩, rfl⟩, h4⟩, rfl⟩ := h
    exact ⟨decide_eq_true hs, congrArg (fun n => some (encSY 0x18 0 0 0 2 n)) (hsmall h4)⟩
  · obtain ⟨⟨rfl, hz⟩, rfl⟩ := h
    refine ⟨regs2_and ha hb hs, congrArg (fun n => some (encSY 0x18 0 a b 3 n)) ?_⟩
    rw [planeCode_planeOf (by omega)]
    omega
  · obtain ⟨⟨rfl, h32⟩, rfl⟩ := h
    refine ⟨?_, congrArg (fun n => some (encSY 0x18 0 a b 4 n)) (by omega)⟩
    change (regOk a && regOk b && decide (k / 4 < 8) && decide (k % 4 < 4)) = true
    rw [regs2_and ha hb (by omega), decide_eq_true hs, Bool.and_true]
  · obtain ⟨⟨⟨rfl, rfl⟩, h4⟩, rfl⟩ := h
    exact ⟨reg_and ha hs, congrArg (fun n => some (encSY 0x18 0 a 0 5 n)) (hsmall h4)⟩
  · obtain ⟨⟨⟨rfl, rfl⟩, h4⟩, rfl⟩ := h
    exact ⟨reg_and ha hs, congrArg (fun n => some (encSY 0x18 0 a 0 6 n)) (hsmall h4)⟩

theorem hasWord_of_decQueue (h : decQueue d a b sub k = some x) : HasWord x (encSY 0x19 d a b sub k) := by
  unfold decQueue at h
  simp only [Option.ite_none_right_eq_some, Bool.and_eq_true, beq_iff_eq] at h
  obtain ⟨⟨⟨rfl, rfl⟩, rfl⟩, h⟩ := h
  split at h <;> simp only [need_eq_some, beq_iff_eq, Option.map_eq_some_iff, reduceCtorEq] at h
  · obtain ⟨rfl, rfl⟩ := h
    exact ⟨rfl, rfl⟩
  iterate 2
    obtain ⟨c, hc, rfl⟩ := h
    exact ⟨rfl, bankCode_of_bankOf hc ▸ rfl⟩

theorem hasWord_of_decStage (ha : a < 32) (h : decStage d a b sub k = some x) : HasWord x (encSY 0x1A d a b sub k) := by
  unfold decStage at h
  split at h <;> simp only [need_eq_some, Bool.and_eq_true, beq_iff_eq, reduceCtorEq] at h
  · obtain ⟨⟨⟨⟨rfl, rfl⟩, rfl⟩, rfl⟩, rfl⟩ := h
    exact ⟨rfl, rfl⟩
  · obtain ⟨⟨⟨rfl, rfl⟩, rfl⟩, rfl⟩ := h
    exact ⟨decide_eq_true ha, rfl⟩

theorem hasWord_of_decTime (hd : d < 32) (ha : a < 32) (h : decTime d a b sub k = some x) : HasWord x (encSY 0x28 d a b sub k) := by
  unfold decTime at h
  split at h <;> simp only [need_eq_some, Option.ite_none_right_eq_some, Bool.and_eq_true, beq_iff_eq, reduceCtorEq] at h
  iterate 3
    obtain ⟨⟨⟨rfl, rfl⟩, rfl⟩, rfl⟩ := h
    exact ⟨decide_eq_true hd, rfl⟩
  obtain ⟨⟨rfl, rfl⟩, h⟩ := h
  split at h <;> cases h <;> exact ⟨decide_eq_true ha, rfl⟩

theorem hasWord_of_decTid (hd : d < 32) (ha : a < 32) (hi : imm < 65536) (h : decTid d a imm = some x) : HasWord x (encRI 0x1B d a imm) := by
  unfold decTid at h
  simp only [Option.ite_none_left_eq_some, beq_iff_eq] at h
  obtain ⟨ht, h⟩ := h
  have ht := tid_lt hi ht
  split at h <;> rename_i hop <;> simp only [need_eq_some, Bool.and_eq_true, beq_iff_eq, decide_eq_true_eq, reduceCtorEq] at h
  · obtain ⟨⟨rfl, hw⟩, rfl⟩ := h
    refine ⟨?_, congrArg (fun n => some (encRI 0x1B d 0 n)) (by omega)⟩
    change (regOk d && decide (imm / 256 < 255) && decide (imm % 16 < 4)) = true
    rw [reg_and hd ht, decide_eq_true hw, Bool.and_true]
  · obtain ⟨hw, rfl⟩ := h
    refine ⟨?_, congrArg (fun n => some (encRI 0x1B d a n)) (by omega)⟩
    change (regOk d && regOk a && decide (imm / 256 < 255) && decide (imm % 16 < 4)) = true
    rw [regs2_and hd ha ht, decide_eq_true hw, Bool.and_true]
  · obtain ⟨⟨rfl, hz⟩, rfl⟩ := h
    exact ⟨reg_and ha ht, congrArg (fun n => some (encRI 0x1B 0 a n)) (by omega)⟩
  · obtain ⟨hz, rfl⟩ := h
    exact ⟨regs2_and hd ha ht, congrArg (fun n => some (encRI 0x1B d a n)) (by omega)⟩

theorem hasWord_of_decPhaser (hd : d < 32) (ha : a < 32) (hb : b < 32) (h : decPhaser d a b sub k = some x) :
    HasWord x (encSY 0x20 d a b sub k) := by
  unfold decPhaser at h
  split at h <;> simp only [need_eq_some, Option.ite_none_right_eq_some, Option.map_eq_some_iff, Bool.and_eq_true, beq_iff_eq, reduceCtorEq] at h
  · obtain ⟨⟨rfl, rfl⟩, m, hm, rfl⟩ := h
    exact ⟨decide_eq_true ha, modeCode_of_modeOf hm ▸ rfl⟩
  iterate 2
    obtain ⟨⟨⟨rfl, rfl⟩, rfl⟩, rfl⟩ := h
    exact ⟨decide_eq_true ha, rfl⟩
  iterate 2
    obtain ⟨⟨rfl, rfl⟩, rfl⟩ := h
    exact ⟨regs2 ha hb, rfl⟩
  obtain ⟨⟨rfl, rfl⟩, rfl⟩ := h
  exact ⟨regs2 hd ha, rfl⟩

theorem hasWord_of_decCounter (hd : d < 32) (ha : a < 32) (hb : b < 32) (h : decCounter d a b sub k = some x) :
    HasWord x (encSY 0x21 d a b sub k) := by
  unfold decCounter at h
  split at h <;> simp only [need_eq_some, Bool.and_eq_true, beq_iff_eq, reduceCtorEq] at h
  · obtain ⟨rfl, rfl⟩ := h
    exact ⟨regs3 hd ha hb, rfl⟩
  · obtain ⟨⟨rfl, rfl⟩, rfl⟩ := h
    exact ⟨regs2 ha hb, rfl⟩
  iterate 2
    obtain ⟨⟨rfl, rfl⟩, rfl⟩ := h
    exact ⟨regs2 hd ha, rfl⟩

theorem hasWord_of_decAtomic (hd : d < 32) (ha : a < 32) (hb : b < 32) (hk : k < 64) (h : decAtomic d a b sub k = some x) :
    HasWord x (encSY 0x22 d a b sub k) := by
  unfold decAtomic at h
  obtain ⟨s, hs, h⟩ := Option.bind_eq_some_iff.1 h
  have hword := congrArg (fun n => some (encSY 0x22 d a b sub n)) (atomK_parts hk hs)
  split at h <;> simp only [need_eq_some, Option.some.injEq, reduceCtorEq, Bool.not_eq_true'] at h
  iterate 10
    subst h
    exact ⟨regs3 hd ha hb, hword⟩
  obtain ⟨hn, rfl⟩ := h
  rw [hn] at hword
  exact ⟨regs3 hd ha hb, hword⟩

theorem hasWord_of_decFence (hi : imm < 65536) (h : decFence d a imm = some x) : HasWord x (encRI 0x23 d a imm) := by
  unfold decFence at h
  split at h <;> simp only [need_eq_some, Option.ite_none_right_eq_some, Option.map_eq_some_iff, Bool.and_eq_true, beq_iff_eq, decide_eq_true_eq,
    reduceCtorEq] at h
  · obtain ⟨⟨⟨⟨rfl, hz⟩, hsrc⟩, hdst⟩, s, hs, rfl⟩ := h
    refine ⟨?_, congrArg (fun n => some (encRI 0x23 0 0 n)) ?_⟩
    · change (decide (0 < imm / 1024) && decide (imm / 1024 < 64) && decide (0 < imm / 16 % 64) && decide (imm / 16 % 64 < 64)) = true
      simp only [Bool.and_eq_true, decide_eq_true_eq]
      omega
    · rw [scopeCode_of_scopeOf hs]
      omega
  iterate 2
    obtain ⟨⟨rfl, rfl⟩, rfl⟩ := h
    exact ⟨rfl, rfl⟩

end

/-- The fields of the format F-RR. -/
theorem encRR_fields (op d a imm : Nat) : encRR op d a (imm / 2 ^ 11) (imm % 2048) = encRI op d a imm := by
  rw [encRR_eq]
  congr 1
  omega
/-- The fields of the format F-SY. -/
theorem encSY_fields (op d a imm : Nat) : encSY op d a (imm / 2 ^ 11) (imm / 64 % 32) (imm % 64) = encRI op d a imm := by
  rw [encSY_eq]
  congr 1
  omega

/-- The offset field of the format F-BR. -/
theorem encRI_off (op d a imm : Nat) : encRI op d a imm = op * 2 ^ 26 + (d * 2 ^ 21 + a * 2 ^ 16 + imm) := by
  unfold encRI
  omega

/-- Well-formedness of the words that name a place of memory by a TID and an offset. -/
theorem mem_wf {d a imm : Nat} (hd : d < 32) (ha : a < 32) (hi : imm < 65536) (ht : imm / 256 ≠ 255) :
    (regOk d && regOk a && decide (imm / 256 < 255) && decide (imm % 256 < 256)) = true := by
  rw [regs2_and hd ha (tid_lt hi ht), decide_eq_true (Nat.mod_lt _ (by decide)), Bool.and_true]

theorem hasWord_of_decodeFields {op d a imm : Nat} {x : Instr} (hd : d < 32) (ha : a < 32) (hi : imm < 65536)
    (h : decodeFields op d a imm = some x) : HasWord x (encRI op d a imm) := by
  have hb : imm / 2 ^ 11 < 32 := by omega
  have hk : imm % 64 < 64 := Nat.mod_lt _ (by decide)
  have hoff : d * 2 ^ 21 + a * 2 ^ 16 + imm < 2 ^ 26 := by omega
  have hplace : imm / 256 * 256 + imm % 256 = imm := by omega
  unfold decodeFields at h
  dsimp only at h
  split at h
  · exact encRR_fields .. ▸ hasWord_of_decAlu hd ha hb h
  iterate 4 exact Option.some.inj h ▸ ⟨regs2_and hd ha hi, rfl⟩
  · exact hasWord_of_decShift hd ha h
  · exact Option.some.inj h ▸ ⟨regs2_and hd ha hi, rfl⟩
  · simp only [need_eq_some, decide_eq_true_eq] at h
    obtain ⟨h4, rfl⟩ := h
    refine ⟨?_, rfl⟩
    change (regOk d && decide (a < 4) && decide (imm < 65536)) = true
    rw [reg_and hd h4, decide_eq_true hi, Bool.and_true]
  iterate 4
    simp only [need_eq_some, bne_iff_ne] at h
    obtain ⟨ht, rfl⟩ := h
    exact ⟨mem_wf hd ha hi ht, congrArg (fun n => some (encRI _ d a n)) hplace⟩
  iterate 2
    simp only [need_eq_some, Bool.and_eq_true, beq_iff_eq] at h
    obtain ⟨⟨⟨rfl, hn⟩, hs⟩, rfl⟩ := h
    exact ⟨Bool.and_eq_true_iff.2 ⟨Bool.and_eq_true_iff.2 ⟨decide_eq_true (by assumption), hn⟩, hs⟩, rfl⟩
  iterate 2 exact Option.some.inj h ▸ ⟨decide_eq_true hoff, congrArg some (encRI_off ..).symm⟩
  · obtain ⟨c, hc, rfl⟩ := Option.map_eq_some_iff.1 h
    exact ⟨reg_and ha hi, condCode_of_condOf hc ▸ rfl⟩
  · split at h <;> cases h <;> exact ⟨reg_and hd hi, rfl⟩
  · simp only [need_eq_some, Bool.and_eq_true, beq_iff_eq] at h
    obtain ⟨⟨rfl, h8⟩, rfl⟩ := h
    exact ⟨Bool.and_eq_true_iff.2 ⟨h8, decide_eq_true hi⟩, rfl⟩
  · exact encRR_fields .. ▸ hasWord_of_decLink ha h
  · exact encSY_fields .. ▸ hasWord_of_decLoop hd ha h
  · exact encSY_fields .. ▸ hasWord_of_decEngine ha hb hk h
  · exact encSY_fields .. ▸ hasWord_of_decQueue h
  · exact encSY_fields .. ▸ hasWord_of_decStage ha h
  · exact hasWord_of_decTid hd ha hi h
  · exact encSY_fields .. ▸ hasWord_of_decPhaser hd ha hb h
  · exact encSY_fields .. ▸ hasWord_of_decCounter hd ha hb h
  · exact encSY_fields .. ▸ hasWord_of_decAtomic hd ha hb hk h
  · exact hasWord_of_decFence hi h
  iterate 2
    simp only [Option.ite_none_right_eq_some, Option.map_eq_some_iff, Bool.and_eq_true, beq_iff_eq] at h
    obtain ⟨⟨rfl, rfl⟩, s, hs, rfl⟩ := h
    exact ⟨rfl, scopeCode_of_scopeOf hs ▸ rfl⟩
  · simp only [need_eq_some, beq_iff_eq] at h
    obtain ⟨rfl, rfl⟩ := h
    exact ⟨regs2 hd ha, rfl⟩
  · exact encSY_fields .. ▸ hasWord_of_decTime hd ha h
  · simp only [need_eq_some, Bool.and_eq_true, beq_iff_eq] at h
    obtain ⟨⟨rfl, rfl⟩, rfl⟩ := h
    exact ⟨decide_eq_true hi, rfl⟩
  iterate 2
    simp only [need_eq_some, beq_iff_eq] at h
    obtain ⟨hz, rfl⟩ := h
    exact ⟨rfl, congrArg some (by rw [encRI_off, hz, Nat.add_zero])⟩
  · simp only [need_eq_some, Bool.and_eq_true, beq_iff_eq] at h
    obtain ⟨⟨rfl, rfl⟩, rfl⟩ := h
    exact ⟨decide_eq_true hi, rfl⟩
  · simp only [need_eq_some, Bool.and_eq_true, beq_iff_eq, decide_eq_true_eq] at h
    obtain ⟨⟨hz, h9⟩, rfl⟩ := h
    have himm : imm / 256 * 256 = imm := Nat.div_mul_cancel (Nat.dvd_of_mod_eq_zero hz)
    exact ⟨regs2_and hd ha h9, congrArg (fun n => some (encRI 0x35 d a n)) himm⟩
  · cases h

theorem hasWord_of_decodePrompter {w : Nat} {x : Instr} (h : decodePrompter w = some x) : HasWord x w := by
  have he : encRI (w / 2 ^ 26) (w / 2 ^ 21 % 32) (w / 2 ^ 16 % 32) (w % 65536) = w := by unfold encRI; omega
  exact he ▸ hasWord_of_decodeFields (by omega) (by omega) (by omega) h

/-! ## Element entries -/

/-- The fields of an entry, put together. -/
theorem encEnt_fields (w : Nat) : encEnt (w / 2 ^ 40) (entOf w) = w := by
  unfold encEnt entOf
  dsimp only
  omega

/-- IMM of an entry that is accepted is legal for the role that its opcode gives it (R171). -/
theorem immOk_of_entOk {opc : Nat} {e : Ent} {f : EInfo} (h : entOk opc e = true) (h0 : opc ≠ 0) (hf : elemInfo opc e.imm = some f) :
    immOk f.role e.imm = true := by
  simp only [entOk, hf, beq_eq_false_iff_ne.2 h0, Bool.false_eq_true, if_false, Bool.and_eq_true] at h
  tauto

/-- IMM tells the two rows of A.WPRE apart (R308). -/
theorem imm_le_of_wpre {e : Ent} (h : entOk 0xA1 e = true) : e.imm ≤ 1 :=
  of_decide_eq_true (immOk_of_entOk h (by decide) rfl)
/-- IMM tells the two rows of A.BIND apart (R308). -/
theorem imm_le_of_bind {e : Ent} (h : entOk 0xA6 e = true) (h4 : e.imm ≠ 4) : e.imm ≤ 3 := by
  have hok := immOk_of_entOk h (by decide) rfl
  dsimp only at hok
  split at hok
  · exact absurd (beq_iff_eq.1 hok) h4
  · exact of_decide_eq_true hok

/-- The opcode of an entry, and the bits of IMM where two rows share an opcode, choose an instruction that keeps both (R171, R308). -/
theorem hasWord_of_elemOf {opc : Nat} {e : Ent} {x : Instr} (hok : entOk opc e = true) (h : elemOf opc e = some x) : HasWord x (encEnt opc e) := by
  have hwf : (entOk opc e && true) = true := (Bool.and_true _).trans hok
  unfold elemOf at h
  split at h
  iterate 80 exact Option.some.inj h ▸ ⟨hwf, rfl⟩
  · split at h <;> rename_i hi <;> obtain rfl := Option.some.inj h
    · exact ⟨Bool.and_eq_true_iff.2 ⟨hok, hi⟩, rfl⟩
    · have h1 := imm_le_of_wpre hok
      have hne := ne_of_beq_false (Bool.eq_false_of_not_eq_true hi)
      have hone : e.imm = 1 := by omega
      exact ⟨Bool.and_eq_true_iff.2 ⟨hok, beq_iff_eq.2 hone⟩, rfl⟩
  · split at h <;> rename_i hi <;> obtain rfl := Option.some.inj h
    · exact ⟨Bool.and_eq_true_iff.2 ⟨hok, hi⟩, rfl⟩
    · have h3 := imm_le_of_bind hok (ne_of_beq_false (Bool.eq_false_of_not_eq_true hi))
      exact ⟨Bool.and_eq_true_iff.2 ⟨hok, decide_eq_true h3⟩, rfl⟩
  · cases h

theorem hasWord_of_decodeElement {w : Nat} {x : Instr} (h : decodeElement w = some x) : HasWord x w := by
  obtain ⟨hok, h⟩ := Option.ite_none_right_eq_some.1 h
  exact encEnt_fields w ▸ hasWord_of_elemOf hok h

/-! ## Epilogue words -/

/-- A choice of two by the lowest bit of a field that has no other. -/
theorem bit_field {n : Nat} (h : n < 2) : (if n == 1 then 1 else 0) = n := by interval_cases n <;> rfl

/-- Format and rounding share the low field of CVF and of QNT (R176). -/
theorem round_field {n : Nat} (h : n < 128) : roundCode (roundOf (n / 32)) * 32 + n % 32 = n := by
  rw [roundCode_roundOf (by omega)]
  omega

section
/-! Well-formedness of two register codes of the epilogue, and of one more field that is in its range. -/
variable {d a : Nat} (hd : d < 16) (ha : a < 16)
include hd ha

theorem codes2 : (decide (d < 16) && decide (a < 16)) = true := by simp [hd, ha]
theorem codes2_and {c : Prop} [Decidable c] (hc : c) : (decide (d < 16) && decide (a < 16) && decide c) = true := by simp [hd, ha, hc]

end

theorem hasWord_of_decodeEpilogue {w : Nat} {x : Instr} (h : decodeEpilogue w = some x) : HasWord x w := by
  have he : encEp (w / 2 ^ 27) (w / 2 ^ 23 % 16) (w / 2 ^ 19 % 16) (w / 2 ^ 15 % 16) (w % 2 ^ 15) = w := by unfold encEp; omega
  have hd : w / 2 ^ 23 % 16 < 16 := Nat.mod_lt _ (by decide)
  have ha : w / 2 ^ 19 % 16 < 16 := Nat.mod_lt _ (by decide)
  have hb : w / 2 ^ 15 % 16 < 16 := Nat.mod_lt _ (by decide)
  unfold decodeEpilogue at h
  dsimp only at h
  rw [← he]
  generalize w / 2 ^ 27 = op, w / 2 ^ 23 % 16 = d, w / 2 ^ 19 % 16 = a, w / 2 ^ 15 % 16 = b, w % 2 ^ 15 = i at h hd ha hb ⊢
  split at h <;> simp only [need_eq_some, Bool.and_eq_true, beq_iff_eq, decide_eq_true_eq, reduceCtorEq] at h
  · obtain ⟨⟨⟨⟨rfl, rfl⟩, rfl⟩, rfl⟩, rfl⟩ := h
    exact ⟨rfl, rfl⟩
  · obtain ⟨⟨⟨rfl, rfl⟩, rfl⟩, rfl⟩ := h
    exact ⟨decide_eq_true hd, rfl⟩
  · obtain ⟨⟨rfl, hi⟩, rfl⟩ := h
    refine ⟨codes2 hd ha, congrArg (fun n => some (encEp 2 d a 0 n)) ?_⟩
    interval_cases i <;> rfl
  · obtain ⟨⟨⟨rfl, h6⟩, h10⟩, rfl⟩ := h
    exact ⟨Bool.and_eq_true_iff.2 ⟨codes2_and hd ha h6, decide_eq_true h10⟩, rfl⟩
  · obtain ⟨⟨⟨rfl, hi⟩, hf⟩, rfl⟩ := h
    refine ⟨Bool.and_eq_true_iff.2 ⟨codes2_and hd ha hf, roundOf_ne_sr _⟩, congrArg (fun n => some (encEp 4 d a 0 n)) ?_⟩
    exact round_field hi
  · obtain ⟨⟨rfl, hi⟩, rfl⟩ := h
    exact ⟨codes2_and hd ha hi, rfl⟩
  iterate 4
    obtain ⟨hi, rfl⟩ := h
    exact ⟨codes2_and hd ha hb, congrArg (fun n => some (encEp _ d a b n)) (bit_field hi)⟩
  · obtain ⟨⟨rfl, hi⟩, rfl⟩ := h
    exact ⟨codes2_and hd ha hi, rfl⟩
  · obtain ⟨⟨rfl, hi⟩, rfl⟩ := h
    exact ⟨codes2 hd ha, congrArg (fun n => some (encEp 0x0B d a 0 n)) (bit_field hi)⟩
  · obtain ⟨⟨rfl, rfl⟩, rfl⟩ := h
    exact ⟨codes2 hd ha, rfl⟩
  · obtain ⟨⟨⟨rfl, hi⟩, hf⟩, rfl⟩ := h
    refine ⟨Bool.and_eq_true_iff.2 ⟨codes2_and hd ha hf, roundOf_ne_sr _⟩, congrArg (fun n => some (encEp 0x0D d a 0 n)) ?_⟩
    exact round_field hi
  · obtain ⟨⟨⟨rfl, rfl⟩, hi⟩, rfl⟩ := h
    exact ⟨Bool.and_eq_true_iff.2 ⟨decide_eq_true ha, decide_eq_true hi⟩, rfl⟩
  · obtain ⟨⟨⟨rfl, rfl⟩, rfl⟩, rfl⟩ := h
    exact ⟨decide_eq_true ha, rfl⟩
  · obtain ⟨⟨rfl, hi⟩, rfl⟩ := h
    exact ⟨codes2 hd ha, congrArg (fun n => some (encEp 0x10 d a 0 n)) (bit_field hi)⟩
  · obtain ⟨hi, rfl⟩ := h
    exact ⟨Bool.and_eq_true_iff.2 ⟨codes2_and hd ha hb, decide_eq_true hi⟩, rfl⟩
  · obtain ⟨⟨rfl, rfl⟩, rfl⟩ := h
    exact ⟨codes2 hd ha, rfl⟩
  · obtain ⟨⟨⟨rfl, rfl⟩, hi⟩, rfl⟩ := h
    exact ⟨Bool.and_eq_true_iff.2 ⟨decide_eq_true ha, decide_eq_true hi⟩, rfl⟩

/-! ## Copy entries -/

/-- The fields of an entry, put together. -/
theorem encCopy_fields (w : Nat) (hw : w < 2 ^ 256) : encCopy (w % 2 ^ 64 / 2 ^ 60)
    (copyEntOf (w % 2 ^ 64) (w / 2 ^ 64 % 2 ^ 64) (w / 2 ^ 128 % 2 ^ 64) (w / 2 ^ 192 % 2 ^ 64)) = w := by
  unfold encCopy copyEntOf
  dsimp only
  omega

theorem hasWord_of_decodeCopy {w : Nat} {x : Instr} (hw : w < 2 ^ 256) (h : decodeCopy w = some x) : HasWord x w := by
  have he := encCopy_fields w hw
  unfold decodeCopy at h
  obtain ⟨hok, h⟩ := Option.ite_none_right_eq_some.1 h
  split at h <;> rename_i hk
  iterate 6
    rw [hk] at he
    exact Option.some.inj h ▸ ⟨hok, congrArg some he⟩
  cases h

/-- Settles O58, decoder by decoder. -/
theorem decodeEncode : Obligations.DecodeEncode := by
  rintro x w (⟨-, h⟩ | ⟨-, h⟩ | ⟨-, h⟩ | ⟨hw, h⟩)
  · exact hasWord_of_decodePrompter h
  · exact hasWord_of_decodeEpilogue h
  · exact hasWord_of_decodeElement h
  · exact hasWord_of_decodeCopy hw h

end Sys2Proof.Laws
end

section
/-! Special registers: what refuses reads and writes of them, and what a write does (R183, R223, R224, R231). -/

set_option Elab.async false

namespace Sys2Proof.Machine

open Safety

section
variable {s : State} {t : Thread} {r : Run} {d a x : Nat} (h : Runs s t r)
include h

/-! ## Refusals -/

theorem srrd_traps_unassigned (hx : srAssigned x = false) : Traps s 0x005 (encRI 0x0C d 0 x) 0 0 false (exec (.srrd d x) s) := by
  change execSrrd d x s = _
  rw [execSrrd, onThread_runs h, if_pos (by rw [hx]; rfl), trapNow]

theorem srwr_traps_unassigned (hx : srAssigned x = false) : Traps s 0x005 (encRI 0x0D 0 a x) 0 0 false (exec (.srwr a x) s) := by
  change execSrwr a x s = _
  rw [execSrwr, onThread_runs h, if_pos (by rw [hx]; rfl), trapNow]

theorem srrd_traps_privileged (hx : srAssigned x = true) (hp : (!t.mode && !srUser x) = true) :
    Traps s 0x004 (encRI 0x0C d 0 x) 0 0 false (exec (.srrd d x) s) := by
  change execSrrd d x s = _
  rw [execSrrd, onThread_runs h, if_neg (by simp [hx]), if_pos hp, trapNow]

theorem srwr_traps_privileged (hx : srAssigned x = true) (hp : (decide (0x400 ≤ x) || !t.mode && !srUser x) = true) :
    Traps s 0x004 (encRI 0x0D 0 a x) 0 0 false (exec (.srwr a x) s) := by
  change execSrwr a x s = _
  rw [execSrwr, onThread_runs h, if_neg (by simp [hx]), if_pos hp, trapNow]

/-! ## Writes -/

/-- In supervisor mode a write of a register below the device range passes its checks. -/
theorem execSrwr_supervisor (hm : t.mode = true) (hx : srAssigned x = true ∧ x < 0x400 ∧ x ≠ 0x130) :
    execSrwr a x s = .next (goOn s (srWrite t x (rdReg t a))) := by
  obtain ⟨hassigned, hlo, hn⟩ := hx
  rw [execSrwr, onThread_runs h, if_neg (by simp [hassigned]), if_neg (by simp [hm, hlo]), if_neg hn]

theorem srwr_passes (hm : t.mode = true) (hx : srAssigned x = true ∧ x < 0x400 ∧ x ≠ 0x130) :
    Safety.Passes s (srWrite t x (rdReg t a)) (exec (.srwr a x) s) := by
  change Safety.Passes _ _ (execSrwr a x s)
  rw [execSrwr_supervisor h hm hx]
  exact becomes_putTh s _

/-- Target 3 of SRSEED names no generator. -/
theorem srwr_seedless (hm : t.mode = true) (h3 : (rdReg t a).toNat / 2 ^ 32 % 4 = 3) : Safety.Passes s t (exec (.srwr a 0x130) s) := by
  have htgt : bits (rdReg t a).toNat 33 32 = 3 := h3
  change Safety.Passes _ _ (execSrwr a 0x130 s)
  rw [execSrwr, onThread_runs h]
  dsimp only
  rw [htgt, if_neg (by decide), if_neg (by simp [hm]), if_pos rfl, if_neg (by omega), if_neg (by decide), if_neg (by decide)]
  exact becomes_putTh s _

end

/-- PRIV takes its fields from the word; a write of DSK = 3 stores 0 (R223). -/
theorem srWrite_priv (t : Thread) (v : W64) : srWrite t 0x111 v = { t with
      skip := v.getLsbD 6, dsk := if v.toNat / 16 % 4 = 3 then 0 else v.toNat / 16 % 4, taken := v.getLsbD 3, ds := v.getLsbD 2,
      pmode := v.getLsbD 1, mode := v.getLsbD 0 } := by
  simp only [srWrite, bit_eq_testBit]
  rfl

theorem specialRefusalsRule : SpecialRefusalsRule := by
  intro s t r d a x h
  refine ⟨fun hx => ⟨⟨_, srrd_traps_unassigned h hx⟩, _, srwr_traps_unassigned h hx⟩, fun hx hm hu => ?_, fun hx hdev => ?_⟩
  · have hp : (!t.mode && !srUser x) = true := by rw [hm, hu]; rfl
    exact ⟨⟨_, srrd_traps_privileged h hx hp⟩, _, srwr_traps_privileged h hx (by rw [hp, Bool.or_true])⟩
  · exact ⟨_, srwr_traps_privileged h hx (by rw [decide_eq_true hdev, Bool.true_or])⟩

theorem specialWritesRule : SpecialWritesRule := by
  intro s t r a h hm v p
  have hpass {x : Nat} (hx : srAssigned x = true ∧ x < 0x400 ∧ x ≠ 0x130) : Safety.Passes s (srWrite t x v) (exec (.srwr a x) s) := srwr_passes h hm hx
  refine ⟨hpass (by decide), hpass (by decide), hpass (by decide), hpass (by decide), hpass (by decide), ?_, ?_, srwr_seedless h hm⟩
  · have hpriv := hpass (x := 0x111) (by decide)
    rwa [srWrite_priv] at hpriv
  · rintro x (rfl | rfl | rfl | rfl | rfl) <;> exact hpass (by decide)

/-- Settles O10, by the check that each refusal fails, and by what a write that passes the checks makes of its thread. -/
theorem specialWrites : Obligations.SpecialWrites := ⟨specialRefusalsRule, specialWritesRule⟩

end Sys2Proof.Machine
end

section
/-! One step: whose turn it is, and the instruction that the agent's word decodes to (R158, R159, R192, R217 to R220, R264, R310). -/

set_option Elab.async false

namespace Sys2Proof.Machine

open Safety

theorem step_todo {s : State} {a : Act} {rest : List Act} (h : s.todo = a :: rest) : step s = runAct { s with todo := rest } a := by
  rw [step, h]

/-- A block that was not pre-empted goes on as it is. -/
theorem resumeRun_running (s : State) (core sheet : Nat) {r : Run} (h : r.frozenAt = none) : resumeRun s core sheet r = s := by
  rw [resumeRun, h]

/-! ## The issue slot of a thread -/

/-- A thread's word runs in the state whose cur names the thread. -/
theorem runWord_of_cur {s0 s : State} {core slot : Nat} (hs : s = { s0 with cur := { core := core, slot := slot } }) (i : Instr) :
    runWord s core slot i = exec i s := by
  rw [runWord, hs]

section
variable {s0 s : State} {core slot : Nat} {t : Thread} {r : Run} (hs : s = { s0 with cur := { core := core, slot := slot } }) (h : Fetches s core slot t r)
include hs h

/-- A thread that nothing holds comes in its slot to its word. -/
theorem threadSlot_fetches : threadSlot s0 core slot = fetchWord s core slot t r := by
  obtain ⟨hr, hrun, ht, hrunning, hhalted, hfrozen, hwait, hck, hrec, -, -⟩ := h
  have hissue : issue s core slot = fetchWord s core slot t r := by
    simp only [issue, hr, resumeRun_running s core slot hrun, hck, hrec, ht, Bool.false_eq_true, if_false, Bool.not_false, if_true]
  have hgoes : goesOn s core slot = fetchWord s core slot t r := by
    rw [goesOn, ht, hissue]
    simp [hrunning, hhalted, hwait, hfrozen]
  rw [threadSlot, ← hs, hr, ht]
  simp [hrunning, hhalted, hfrozen, waitSlot, hwait, hgoes]

/-- A word without a cause of R158 is the instruction that it decodes to. -/
theorem threadSlot_decodes {i : Instr} (hc : wordCause (imageWord s core r t.pc) t.branch.isSome t.mode = none)
    (hi : decodePrompter (imageWord s core r t.pc) = some i) : threadSlot s0 core slot = exec i s := by
  obtain ⟨-, -, -, -, -, -, -, -, -, hpc, hcfg⟩ := id h
  rw [threadSlot_fetches hs h, fetchWord, hpc, hcfg]
  simp only [hc, hi, runWord_of_cur hs, Bool.not_true, Bool.false_eq_true, if_false]

/-- A word with a cause of R158 takes it. -/
theorem threadSlot_illegal (hc : wordCause (imageWord s core r t.pc) t.branch.isSome t.mode ≠ none) :
    threadSlot s0 core slot = exec (.illegalWord (imageWord s core r t.pc)) s := by
  obtain ⟨-, -, -, -, -, -, -, -, -, hpc, hcfg⟩ := id h
  obtain ⟨c, hc⟩ := Option.ne_none_iff_exists'.1 hc
  rw [threadSlot_fetches hs h, fetchWord, hpc, hcfg]
  simp only [hc, runWord_of_cur hs, Bool.not_true, Bool.false_eq_true, if_false]

end

/-! ## The turns of the other agents -/

section
variable {s0 s : State} {core slot row col p k : Nat}

/-- An element of a running region comes to the entry of its slot. -/
theorem elemSlot_decodes (hs : s = { s0 with cur := { core := core, slot := slot, row := row, col := col } }) {g : Region} {w : Nat} {i : Instr}
    (hg : getReg s (thKey core slot) = g) (hw : tget g.opc 0 (entryKey row col k) = w) (hpos : regionPos g = some (p, k))
    (hrun : ∀ r, runOf s core g.starter = some r → r.frozenAt = none) (hbad : planeBad s core slot row col (entryKey row col k) w = false)
    (hi : decodeElement w = some i) : elemSlot s0 core slot row col = exec i s := by
  rw [elemSlot, ← hs]
  cases hq : runOf s core g.starter with
  | none => simp only [hg, hpos, hw, hq, hbad, hi, Bool.false_eq_true, if_false]
  | some r => simp only [hg, hpos, hw, hq, resumeRun_running s core g.starter (hrun r hq), hbad, hi, Bool.false_eq_true, if_false]

/-- The beat in progress comes to the next word of its drain's program. -/
theorem epilogueWord_decodes (hs : s = { s0 with cur := { core := core } }) {id beat : Nat} {d : Drain} {i : Instr}
    (hbeat : (getCore s core).beat = some (id, beat)) (hd : (getCore s core).drains.find? (·.id == id) = some d)
    (hi : decodeEpilogue (d.prog.getD (getCore s core).pcEpi 0) = some i) : epilogueWord s0 core = exec i s := by
  rw [epilogueWord, ← hs]
  simp only [hbeat, hd, hi]

/-- A copy engine whose block goes on comes to the first entry that is not cancelled, if it may issue. -/
theorem copyTry_decodes (hs : s = { s0 with cur := { core := core } }) {r : Run} {c : Copier} {w : List W64} {i : Instr}
    (hc : { getCopier s core with pos := skipCancelled (getCopier s core) } = c) (hw : c.sched.getD c.pos [] = w) (hr : runOf s core 4 = some r)
    (hfire : r.fireN ≤ s.cycle) (hrun : r.frozenAt = none) (hpos : c.pos < c.nent)
    (hmay : mayIssue (setCopier s core c) r c ((w.getD 0 0).toNat / 2 ^ 60)
      (copyEntOf (w.getD 0 0).toNat (w.getD 1 0).toNat (w.getD 2 0).toNat (w.getD 3 0).toNat) = true)
    (hi : decodeCopy (entryWord w) = some i) : copyTry s0 core = exec i (setCopier s core c) := by
  have hgoes : (decide (s.cycle < r.fireN) || runHeld s r) = false := by simp [runHeld, hrun, hfire]
  subst hc hw
  dsimp only at hpos hmay hi
  rw [copyTry, ← hs]
  simp only [hr, hgoes, resumeRun_running s core 4 hrun, Option.getD_some, Nat.not_le.2 hpos, hmay, hi, Bool.not_true, Bool.false_eq_true, if_false]

end

/-- Settles O55: the act at the head of the agenda is run, and each kind of act comes to the word of its agent. -/
theorem stepRunsDecoded : Obligations.StepRunsDecoded := by
  intro s rest s0
  refine ⟨?thread, ?element, ?epilogue, ?copy, ?row⟩
  case thread =>
    intro core slot t r htodo s1 h w
    rw [step_todo htodo]
    exact ⟨fun i => threadSlot_decodes rfl h, threadSlot_illegal rfl h⟩
  case element =>
    intro core slot row col p k i htodo g key hpos hrun hbad hi
    rw [step_todo htodo]
    exact elemSlot_decodes rfl rfl rfl hpos hrun hbad hi
  case epilogue =>
    intro core id beat d i htodo hbeat hd hi
    rw [step_todo htodo]
    exact epilogueWord_decodes rfl hbeat hd hi
  case copy =>
    intro core r i htodo s1 c w hr hfire hrun hpos hmay hi
    rw [step_todo htodo]
    exact copyTry_decodes rfl rfl rfl hr hfire hrun hpos hmay hi
  case row =>
    intro i c htodo
    rw [step_todo htodo]
    refine ⟨fun hp => if_neg ?_, fun hp hi => if_pos ?_⟩
    · rcases hp with hp | rfl <;> simp [*]
    · simp [hp, hi]

end Sys2Proof.Machine
end

section
/-! Requests of a thread to the sync engines, and the service of a request (R208, R250). -/

set_option Elab.async false

namespace Sys2Proof.Machine

open Safety

/-! ## Requests -/

/-- A request joins those on their way, and its thread waits for the reply. -/
theorem requests_sendSync (s : State) (t : Thread) (r : Run) (home op arg val cmp d : Nat) (key : List Nat) :
    Requests s t (getPart s r.part).rt home op arg val cmp d key (.next (sendSync s t r home op arg val cmp d key)) :=
  ⟨_, rfl, rfl, getTh_setTh_self _ _ _, fun _ => rfl, fun _ hk => (getTh_setTh _ _ _ _).trans (if_neg hk)⟩

/-- A release whose accesses have performed holds nothing up. -/
theorem releaseThen_settled {s : State} {t : Thread} {r : Run} (hw : t.wait = .none)
    (hs : settled s s.cur.core (relIds s s.cur.core s.cur.slot r.part) = true) (f : State) : releaseThen s t r f = f := by
  simp only [releaseThen, hw, hs, if_true]

/-! ## Service -/

/-- The state in which a request is served: it has left the queue. -/
def dequeued (s : State) (q : SyncReq) : State := { s with syncQ := s.syncQ.filter (·.id != q.id) }

theorem execSyncService_serves {s : State} {q : SyncReq} (h : nextRequest s s.cur.ix = some q) : exec .syncService s = .next (serve (dequeued s q) q) := by
  change execSyncService s = _
  rw [execSyncService, h]
  rfl

/-- The register that a reply without a cause is for. -/
def replyTo (q : SyncReq) : Option Nat := if q.d = 0 then none else some q.d

section
variable {s s' : State} {q : SyncReq}

/-- A request about no object in DRAM is served without a read of it. -/
theorem readObj_sram (h : objDram s q = none) : readObj s q = s := by
  rw [readObj, h]

section
variable (hd : objDram s q = none)
include hd

/-- A counter operation that waits sends no reply. -/
theorem serve_counter_waits (h8 : 8 ≤ q.op) (h32 : q.op < 32) (hx : counterServe s q = (s', none)) : serve s q = s' := by
  unfold serve
  simp only [readObj_sram hd, if_neg (Nat.not_lt.2 h8), if_pos h32, hx]

/-- Another one replies with its cause or its value. -/
theorem serve_counter_replies {c v : Nat} (h8 : 8 ≤ q.op) (h32 : q.op < 32) (hx : counterServe s q = (s', some (c, v))) :
    serve s q = reply s' q.id q.home (s'.cycle + oneWay q.core q.home) c (w64 v) (if c = 0 then replyTo q else some (q.arg % 2 ^ 28 * 16)) := by
  unfold serve
  simp only [readObj_sram hd, if_neg (Nat.not_lt.2 h8), if_pos h32, hx, hd, Option.isSome_none, Bool.false_and, Bool.false_eq_true, if_false, Nat.add_zero]
  rfl

/-- An atomic replies with the old value. -/
theorem serve_atomic {x : Nat} (h32 : 32 ≤ q.op) (h54 : q.op < 54) (hx : atomicDo s (q.key.getD 0 0) ((q.op - 32) / 2) q.arg q.val q.cmp (bit q.op 0) = (s', x)) :
    serve s q = reply s' q.id q.home (s'.cycle + oneWay q.core q.home) 0 (w64 x) (replyTo q) := by
  have hop : q.op < 48 + 8 ∧ 32 ≤ q.op ∧ (q.op - 32) / 2 < 11 := by omega
  unfold serve
  simp only [readObj_sram hd, if_neg (show ¬ q.op < 8 by omega), if_neg (Nat.not_lt.2 h32), if_pos hop, hx, hd, Option.isSome_none, Bool.false_and,
    Bool.false_eq_true, if_false, if_true, Nat.add_zero]
  rfl

end

/-! ## Objects in SRAM (R202) -/

section
variable {k m : Nat} (hk : objAt s k = some (.sram m))
include hk

theorem getObj_sram : getObj s k = tget s.objs default m := by
  rw [getObj, hk]

theorem setObj_sram (o : SyncObj) : setObj s k o = { s with objs := tput s.objs default m o } := by
  rw [setObj, hk]

theorem getObj_putObj_sram (o : SyncObj) : getObj (putObj s k o) k = o := by
  have hput : objAt (setObj s k o) k = some (.sram m) := (objAt_setObj s k k o).trans hk
  rw [putObj, getObj_wakes (wakes_objWake _ _), getObj_sram hput, setObj_sram hk, tget_tput, if_pos rfl]

theorem sameMem_putObj_sram (o : SyncObj) : SameMem s (putObj s k o) := by
  rw [putObj, setObj_sram hk]
  exact sameMem_objWake _ k

/-- A counter's object in SRAM is read at once. -/
theorem objDram_counter (h8 : 8 ≤ q.op) (h32 : q.op < 32) (harg : q.arg = k) : objDram s q = none := by
  subst harg
  simp only [objDram, if_neg (show ¬ q.op = 64 by omega), if_neg (show ¬ (32 ≤ q.op ∧ q.op < 54) by omega),
    if_neg (show ¬ (q.op < 8 ∨ (61 ≤ q.op ∧ q.op ≠ 64)) by omega), hk]

/-- So is that of an atomic. -/
theorem objDram_atomic (h32 : 32 ≤ q.op) (h54 : q.op < 54) (hkey : 2 ^ 28 * q.key.getD 0 0 + q.arg / 16 = k) : objDram s q = none := by
  subst hkey
  simp only [objDram, if_neg (show ¬ q.op = 64 by omega), if_pos (And.intro h32 h54),
    if_neg (show ¬ (q.op < 8 ∨ (61 ≤ q.op ∧ q.op ≠ 64)) by omega), hk]

end

end

/-- An object for which no thread waits wakes none. -/
theorem objWake_idle {s : State} {k : Nat} (h : ∀ x ∈ s.objWaiters, x.1 ≠ k) : objWake s k = s := by
  have hk (x) (hx : x ∈ s.objWaiters) : (x.1 == k) = false := beq_false_of_ne (h x hx)
  have hready : s.objWaiters.filter (fun w => w.1 == k && ctrDone (getObj s k) w.2.target) = [] :=
    List.filter_eq_nil_iff.2 fun x hx => by simp [hk x hx]
  have hleft : s.objWaiters.filter (fun w => !(w.1 == k && ctrDone (getObj s k) w.2.target)) = s.objWaiters :=
    List.filter_eq_self.2 fun x hx => by simp [hk x hx]
  unfold objWake
  simp only [hready, hleft, List.foldl_nil]

end Sys2Proof.Machine
end

section
/-! Completion counters: their words, and their service (R203, R207, R250). -/

set_option Elab.async false

namespace Sys2Proof.Machine

open Safety

/-! ## Words -/

section
variable {s : State} {t : Thread} {r : Run} (h : Runs s t r) (a op : Nat) (val : Thread → Nat) (d : Nat)
include h

theorem counterOp_requests (hf : objFault s r.part (rdReg t a).toNat 16 = none) :
    Requests s t (getPart s r.part).rt ((rdReg t a).toNat / 2 ^ 30 % 4) op (2 ^ 28 * r.part + (rdReg t a).toNat / 16) (val t) 0 d [] (counterOp s a op val d) := by
  have hx : counterOp s a op val d
      = .next (sendSync s t r (bits (rdReg t a).toNat 31 30) op (2 ^ 28 * r.part + (rdReg t a).toNat / 16) (val t) 0 d []) := by
    simp only [counterOp, onThread_runs h, hf]
  rw [hx]
  exact requests_sendSync ..

theorem counterOp_traps {c : Nat} (hf : objFault s r.part (rdReg t a).toNat 16 = some c) :
    Traps s c (rdReg t a).toNat (val t) 0 false (counterOp s a op val d) := by
  simp only [Traps, counterOp, onThread_runs h, hf, trapNow]

end

/-! Why an address names no object that may be used (R207, R250). -/

section
variable {s : State} {part addr : Nat}

theorem objFault_beyond {al : Nat} (h : 2 ^ 32 ≤ addr) : objFault s part addr al = some 0x0E1 := if_pos h

theorem objFault_misaligned {al : Nat} (h : addr < 2 ^ 32) (ha : addr % al ≠ 0) : objFault s part addr al = some 0x0E0 := by
  rw [objFault, if_neg (Nat.not_le.2 h), if_pos ha]

section
variable (h : addr < 2 ^ 32) (ha : addr % 16 = 0)
include h ha

theorem objFault_none (ho : objAt s (2 ^ 28 * part + addr / 16) = none) : objFault s part addr 16 = some 0x0E1 := by
  rw [objFault, if_neg (Nat.not_le.2 h), if_neg (not_not.2 ha), ho]

theorem objFault_sram {m : Nat} (ho : objAt s (2 ^ 28 * part + addr / 16) = some (.sram m)) : objFault s part addr 16 = none := by
  rw [objFault, if_neg (Nat.not_le.2 h), if_neg (not_not.2 ha), ho]

theorem objFault_dram {m : Nat} (ho : objAt s (2 ^ 28 * part + addr / 16) = some (.dram m)) :
    objFault s part addr 16 = if (getPart s part).rt then some 0x0EB else none := by
  rw [objFault, if_neg (Nat.not_le.2 h), if_neg (not_not.2 ha), ho]

end

end

theorem counterWordsRule : CounterWordsRule := by
  intro s t r d a b h x v k p0
  have hrefused {c : Nat} (hf : objFault s r.part x 16 = some c) : Traps s c x v 0 false (exec (.ctrwait d a b) s) ∧ Traps s c x v 0 false (exec (.ctrinit a b) s)
      ∧ Traps s c x 0 0 false (exec (.ctrrd d a) s) ∧ Traps s c x 0 0 false (exec (.ctrstat d a) s) :=
    ⟨counterOp_traps h a 8 (fun t => (rdReg t b).toNat) d hf, counterOp_traps h a 9 (fun t => (rdReg t b).toNat) 0 hf,
      counterOp_traps h a 10 (fun _ => 0) d hf, counterOp_traps h a 11 (fun _ => 0) d hf⟩
  refine ⟨fun hf => ⟨counterOp_requests h a 8 (fun t => (rdReg t b).toNat) d hf, counterOp_requests h a 9 (fun t => (rdReg t b).toNat) 0 hf,
    counterOp_requests h a 10 (fun _ => 0) d hf, counterOp_requests h a 11 (fun _ => 0) d hf⟩,
    fun hx => hrefused (objFault_beyond hx), fun hx ha => hrefused (objFault_misaligned hx ha), fun hx ha ho => hrefused (objFault_none hx ha ho), ?_, ?_⟩
  · rintro hx ha ⟨m, ho⟩ hrt
    exact hrefused ((objFault_dram hx ha ho).trans (if_pos hrt))
  · rintro hx ha (⟨m, ho⟩ | ⟨⟨m, ho⟩, hrt⟩)
    · exact objFault_sram hx ha ho
    · exact (objFault_dram hx ha ho).trans (if_neg (Bool.not_eq_true _ ▸ hrt))

/-! ## Service -/

section
variable {s : State} {q : SyncReq}

theorem counterServe_reads (h : q.op = 10) : counterServe s q = (s, some (0, (getObj s q.arg).count.toNat)) := by
  simp only [counterServe, h]
theorem counterServe_status (h : q.op = 11) : counterServe s q = (s, some (0, (getObj s q.arg).status.toNat)) := by
  simp only [counterServe, h]
theorem counterServe_done (h : q.op = 8) (hd : ctrDone (getObj s q.arg) q.val = true) :
    counterServe s q = (s, some (0, b2n (ctrFailed (getObj s q.arg) q.val))) := by
  simp only [counterServe, h, hd, if_true]
theorem counterServe_waits (h : q.op = 8) (hd : ctrDone (getObj s q.arg) q.val = false) :
    counterServe s q = ({ s with objWaiters := s.objWaiters ++ [(q.arg, ⟨q.id, q.core, q.t, q.d, q.val⟩)] }, none) := by
  simp only [counterServe, h, hd, Bool.false_eq_true, if_false]
theorem counterServe_busy (h : q.op = 9) (ho : (getObj s q.arg).out ≠ 0) : counterServe s q = (s, some (0x0E3, q.val)) := by
  simp only [counterServe, h, if_pos ho]
theorem counterServe_inits (h : q.op = 9) (ho : (getObj s q.arg).out = 0) :
    counterServe s q = (putObj s q.arg { getObj s q.arg with count := w64 q.val, status := 0, ref := none }, some (0, 0)) := by
  simp only [counterServe, h, if_neg (not_not.2 ho)]

end

theorem counterServiceRule : CounterServiceRule := by
  rintro s q n hq rfl ⟨m, hm⟩ o s0 at1 d
  have hdram (h8 : 8 ≤ q.op) (h32 : q.op < 32) : objDram (dequeued s q) q = none := objDram_counter (s := dequeued s q) hm h8 h32 rfl
  rw [execSyncService_serves hq]
  have hreply {s' : State} {c v : Nat} (h8 : 8 ≤ q.op) (h32 : q.op < 32) (hx : counterServe (dequeued s q) q = (s', some (c, v))) :=
    serve_counter_replies (hdram h8 h32) h8 h32 hx
  refine ⟨fun h => ?_, fun h => ?_, fun h hd => ?_, fun h hd => ?_, fun h ho => ?_, fun h ho => ?_⟩
  · rw [hreply (by omega) (by omega) (counterServe_reads h)]
    rfl
  · rw [hreply (by omega) (by omega) (counterServe_status h)]
    rfl
  · rw [hreply (by omega) (by omega) (counterServe_done h hd)]
    rfl
  · rw [serve_counter_waits (hdram (by omega) (by omega)) (by omega) (by omega) (counterServe_waits h hd)]
    rfl
  · rw [hreply (by omega) (by omega) (counterServe_busy h ho)]
    rfl
  · refine ⟨_, rfl, ?_⟩
    rw [hreply (by omega) (by omega) (counterServe_inits h ho)]
    exact (getObj_putObj_sram (s := dequeued s q) hm _).trans (congrArg (SyncObj.mk (w64 q.val) 0 · none) ho)

/-- Settles O16, by the checks of an object's address, and by what the engine makes of each counter operation. -/
theorem counters : Obligations.Counters := ⟨counterWordsRule, counterServiceRule⟩

end Sys2Proof.Machine
end

section
/-! Atomics: their words, their values, and their service (R155, R202, R208, R212, R251). -/

set_option Elab.async false

namespace Sys2Proof.Machine

open Safety

/-! ## Words -/

theorem exec_atomicWord {sub : Nat} {wide : Bool} (hs : sub ≤ 10) (hw : sub = 10 → wide = false) (d a b : Nat) (o : Order) (sc : Scope) (s : State) :
    exec (atomicWord sub d a b wide o sc) s = atomicOp s sub d a b wide o sc := by
  interval_cases sub
  iterate 10 rfl
  rw [hw rfl]
  rfl

section
variable {s : State} {t : Thread} {r : Run} (h : Runs s t r) (sub d a b : Nat) {wide : Bool} {o : Order} (sc : Scope) (hx : (rdReg t a).toNat < 2 ^ 32)
include h hx

/-- An atomic on an object that it may use is sent, after its release. -/
theorem atomicOp_sends (hc : r.chorus = false) (hw : t.wait = .none) (ha : (rdReg t a).toNat % 16 = 0 ∨ wide = false ∧ (rdReg t a).toNat % 16 = 4)
    (hf : objFault s r.part ((rdReg t a).toNat / 16 * 16) 16 = none)
    (ho : o = .relaxed ∨ o = .acquire ∨ settled s s.cur.core (relIds s s.cur.core s.cur.slot r.part) = true) :
    atomicOp s sub d a b wide o sc = .next (sendSync s t r (bits (rdReg t a).toNat 31 30) (32 + 2 * sub + b2n wide) (rdReg t a).toNat
      ((rdReg t b).toNat % 2 ^ if wide then 64 else 32) (if sub = 9 then (rdReg t d).toNat % 2 ^ (if wide then 64 else 32) else 0) d [r.part]) := by
  have hoff : (!((rdReg t a).toNat % 16 == 0 || (!wide && (rdReg t a).toNat % 16 == 4))) = false := by
    simpa [or_iff_not_imp_left] using ha
  simp only [atomicOp, onThread_runs h, hc, hoff, hf, if_neg (Nat.not_le.2 hx), Bool.false_eq_true, if_false, comparePoint_alone s t hc]
  rcases ho with rfl | rfl | ho
  · rfl
  · rfl
  · rw [releaseThen_settled hw ho, ite_self]

theorem atomicOp_traps (ha : ¬ ((rdReg t a).toNat % 16 = 0 ∨ wide = false ∧ (rdReg t a).toNat % 16 = 4)) :
    Traps s 0x0E0 (rdReg t a).toNat ((rdReg t b).toNat % 2 ^ if wide then 64 else 32) 0 false (atomicOp s sub d a b wide o sc) := by
  have hoff : (!((rdReg t a).toNat % 16 == 0 || (!wide && (rdReg t a).toNat % 16 == 4))) = true := by
    simpa [imp_iff_or_not, or_comm] using ha
  simp only [Traps, atomicOp, onThread_runs h, hoff, if_neg (Nat.not_le.2 hx), if_true, trapNow]

end

theorem atomicWordsRule : AtomicWordsRule := by
  intro s t r sub d a b wide o sc h hsub hwide hc hw x n y c
  rw [exec_atomicWord hsub hwide]
  refine ⟨fun hx ha hf ho => ?_, fun hx ha => atomicOp_traps h sub d a b sc hx ha⟩
  rw [atomicOp_sends h sub d a b sc hx hc hw ha hf ho]
  exact requests_sendSync ..

/-! ## Values -/

/-- The signed number of n bits. -/
theorem sx_eq_toInt {n : Nat} (hn : 0 < n) (v : Nat) : sx n v = (BitVec.ofNat n v).toInt := by
  obtain ⟨m, rfl⟩ := Nat.exists_eq_add_one_of_ne_zero hn.ne'
  rw [sx, BitVec.toInt_eq_toNat_cond, BitVec.toNat_ofNat, Nat.add_sub_cancel, Nat.pow_succ]
  split <;> split <;> omega

theorem atomicValuesRule : AtomicValuesRule := by
  intro n x y c hn hx hy sg
  have hsx (v : Nat) : sx n v = sg v := sx_eq_toInt hn v
  refine ⟨rfl, ?_, ?_, rfl, rfl, fun i => Nat.testBit_and .., fun i => Nat.testBit_or .., fun i => Nat.testBit_xor .., rfl, rfl, rfl⟩
  · simp only [atomicNew, hsx, apply_ite sg, min_def]
  · simp only [atomicNew, hsx, apply_ite sg, max_def]

/-! ## Service -/

/-- A bit of a number after a field of it has been set. -/
theorem testBit_setBits (x v lo i : Nat) {n : Nat} (hn : 0 < n) :
    (setBits x (lo + n - 1) lo v).testBit i = if lo ≤ i ∧ i < lo + n then v.testBit (i - lo) else x.testBit i := by
  rw [setBits_field x v lo hn, Nat.testBit_two_pow_mul_add _ (Nat.mod_lt _ (Nat.two_pow_pos _)), Nat.testBit_two_pow_mul_add _ (Nat.mod_lt _ (Nat.two_pow_pos _)),
    Nat.testBit_mod_two_pow, Nat.testBit_mod_two_pow, Nat.testBit_div_two_pow]
  by_cases hlo : i < lo
  · rw [if_pos hlo, if_neg (by omega), decide_eq_true hlo, Bool.true_and]
  · by_cases hhi : i < lo + n
    · rw [if_neg hlo, if_pos (by omega), if_pos (by omega), decide_eq_true (by omega), Bool.true_and]
    · rw [if_neg hlo, if_neg (by omega), if_neg (by omega), show i - lo - n + (lo + n) = i by omega]

theorem getLsbD_setBits (x : W64) (v lo : Nat) {n i : Nat} (hn : 0 < n) (hi : i < 64) :
    (w64 (setBits x.toNat (lo + n - 1) lo v)).getLsbD i = if lo ≤ i ∧ i < lo + n then v.testBit (i - lo) else x.getLsbD i := by
  rw [w64, BitVec.getLsbD_ofNat, decide_eq_true hi, Bool.true_and, testBit_setBits _ _ _ _ hn]
  rfl

/-- An atomic on an object in SRAM for which no thread waits writes the count, and nothing else. -/
theorem atomicDo_sram {s : State} {part addr m : Nat} (hm : objAt s (2 ^ 28 * part + addr / 16) = some (.sram m))
    (hidle : ∀ x ∈ s.objWaiters, x.1 ≠ 2 ^ 28 * part + addr / 16) (sub y c : Nat) (wide : Bool) :
    let o := tget s.objs default m
    let lo := if wide then 0 else addr % 16 * 8
    let n := if wide then 64 else 32
    let x := bits o.count.toNat (lo + n - 1) lo
    atomicDo s part sub addr y c wide
      = ({ s with objs := tput s.objs default m { o with count := w64 (setBits o.count.toNat (lo + n - 1) lo (atomicNew sub n x y c)) } }, x) := by
  intro o lo n x
  have hput (v : SyncObj) : putObj s (2 ^ 28 * part + addr / 16) v = { s with objs := tput s.objs default m v } := by
    rw [putObj, setObj_sram hm]
    exact objWake_idle hidle
  simp only [atomicDo, hput, getObj_sram hm]
  rfl

theorem atomicServiceRule : AtomicServiceRule := by
  intro s q sub w m hq hsub hw hop haddr k hm hidle o n lo x
  have hn : 0 < n := by unfold n; split <;> decide
  have hdram : objDram (dequeued s q) q = none := objDram_atomic (s := dequeued s q) hm (by omega) (by omega) rfl
  have hx : bits o.count.toNat (lo + n - 1) lo = x := by
    rw [bits, show lo + n - 1 + 1 - lo = n by omega]
  have hdo : atomicDo (dequeued s q) (q.key.getD 0 0) ((q.op - 32) / 2) q.arg q.val q.cmp (bit q.op 0)
      = ({ dequeued s q with objs := tput s.objs default m { o with count := w64 (setBits o.count.toNat (lo + n - 1) lo (atomicNew sub n x q.val q.cmp)) } }, x) := by
    have hwide : bit q.op 0 = decide (w = 1) := by
      rw [bit, hop]
      obtain rfl | rfl : w = 0 ∨ w = 1 := by omega
      · simp
      · simp; omega
    rw [atomicDo_sram (s := dequeued s q) hm hidle, show (q.op - 32) / 2 = sub by omega, hwide, ← hx]
    simp only [decide_eq_true_eq]
    rfl
  refine ⟨{ o with count := w64 (setBits o.count.toNat (lo + n - 1) lo (atomicNew sub n x q.val q.cmp)) }, rfl, fun i hi => getLsbD_setBits _ _ _ hn hi, ?_⟩
  rw [execSyncService_serves hq, serve_atomic hdram (by omega) (by omega) hdo]
  rfl

/-- Settles O17, by the checks of an atomic's address, by its values, and by the field of the count that its service writes. -/
theorem atomics : Obligations.Atomics := ⟨atomicWordsRule, atomicValuesRule, atomicServiceRule⟩

end Sys2Proof.Machine
end

section
/-! A phaser's registration while a boundary is due (R209 to R211). -/

set_option Elab.async false

namespace Sys2Proof.Machine

open Safety

/-! ## A registration that joins the queue of a ready phaser

A registration that waits in the queue changes none of what makes a phaser ready (R210, R211), and the engine stores the phaser with no look at its boundary.
The rule has it stored by `putPh`, which would have a boundary occur although the one that made the phaser ready is due already. -/

/-- A signaller that has signalled its phase. -/
def signaller : Member := { gang := 0, lc := 0, t := 0, mode := .sig, signalled := true }
/-- A phaser that is ready: its only signaller has signalled, and no bytes are pending. -/
def readyPhaser : Phaser := { live := true, members := [signaller] }
/-- Thread 1 registers as a signaller of phaser 0 of scene 0. -/
def registration : SyncReq := { id := 0, core := 0, t := 1, home := 0, p0 := false, op := 0, arg := 0, val := 0, cmp := 0, d := 0, arrive := 0, key := [0, 0, 1] }
/-- The engine of C-die 0 serves the registration in the cycle in which the boundary of the phaser is due. -/
def boundaryDue : State :=
  { State.reset with phasers := [(0, readyPhaser)], syncQ := [registration], todo := [.row .phaseBoundary { ix := 0 }] }

theorem nextRequest_boundaryDue : nextRequest boundaryDue boundaryDue.cur.ix = some registration := by decide +kernel

/-- What is still to do in the cycle after a step. -/
def todoAfter : Out → List Act
  | .next s => s.todo
  | _ => []

/-- The boundary that was due stays the only one. -/
theorem todo_registration : todoAfter (exec .syncService boundaryDue) = [.row .phaseBoundary { ix := 0 }] := by decide +kernel

theorem not_phaserServiceRule : ¬ PhaserServiceRule := by
  intro h
  obtain ⟨-, hlive⟩ := h boundaryDue registration nextRequest_boundaryDue (by decide)
  obtain ⟨-, hnew, -⟩ := hlive rfl
  obtain ⟨-, hroom⟩ := hnew rfl (by decide)
  obtain ⟨-, hjoin⟩ := hroom (by decide)
  obtain ⟨-, hqueued⟩ := hjoin false (by decide +kernel)
  have hexec := hqueued ⟨signaller, by decide, by decide⟩
  have htodo := todo_registration
  rw [hexec] at htodo
  exact absurd (congrArg List.length htodo) (by decide +kernel)

/-- Refutes O15: thread 1 registers at a phaser whose signaller has signalled and whose boundary is due. It joins the queue, and one boundary is due as before,
where the rule has a second one. -/
theorem not_phasers : ¬ Obligations.Phasers := fun h => not_phaserServiceRule h.2.1

end Sys2Proof.Machine
end

section
/-! Cancelled copy commands: what leaves with an entry of the journal (R49, R205). -/

set_option Elab.async false

namespace Sys2Proof.Machine

open Safety

/-! ## What a cancelled command leaves behind -/

/-- The state without an entry of the journal, its DRAM accesses and its pending bytes. -/
def entryDropped (s : State) (core : Nat) (e : JEntry) (scene : Nat) : State :=
  let s := setCopier s core { getCopier s core with journal := (getCopier s core).journal.filter (·.no != e.no) }
  let s := { s with dram := s.dram.filter fun a => !(a.core == core && a.entry == some e.no) }
  if e.phaser = 0xFFF then s else phSub s (4096 * scene + e.phaser) e.bytes

/-- A cancelled command drops its entry, and then takes back its count. -/
theorem cancelEntry_eq (s : State) (core : Nat) (e : JEntry) (scene part : Nat) :
    cancelEntry s core e scene part = if e.ctr = 0xFFFFFFF then entryDropped s core e scene
      else if e.sent then dropDone (entryDropped s core e scene) core e.no (2 ^ 28 * part + e.ctr)
      else dropNotice (entryDropped s core e scene) core e.no (2 ^ 28 * part + e.ctr) := rfl

theorem entryDropped_only (s : State) (core : Nat) (e : JEntry) (scene : Nat) : ∃ phasers todo, entryDropped s core e scene
    = { setCopier s core { getCopier s core with journal := (getCopier s core).journal.filter (·.no != e.no) } with
        dram := s.dram.filter fun a => !(a.core == core && a.entry == some e.no), phasers := phasers, todo := todo } := by
  unfold entryDropped
  dsimp only
  split
  · exact ⟨_, _, rfl⟩
  · exact phSub_only ..

theorem getPh_putPh (s : State) (k j : Nat) (p : Phaser) : getPh (putPh s k p) j = if j = k then p else getPh s j := by
  unfold putPh
  dsimp only
  split <;> exact getPh_setPh ..

theorem getPh_phSub (s : State) (k n j : Nat) :
    getPh (phSub s k n) j = if j = k ∧ (getPh s k).live = true then { getPh s k with pending := (getPh s k).pending - n } else getPh s j := by
  unfold phSub
  dsimp only
  by_cases hl : (getPh s k).live = true
  · rw [if_pos hl, getPh_putPh]
    simp only [hl, and_true]
  · rw [if_neg hl, if_neg fun h => hl h.2]

theorem getPh_entryDropped {s : State} {core scene p : Nat} {e : JEntry} (hp : p < 4095) (hl : (getPh s (4096 * scene + p)).live = true) :
    getPh (entryDropped s core e scene) (4096 * scene + p)
      = { getPh s (4096 * scene + p) with pending := (getPh s (4096 * scene + p)).pending - if e.phaser = p then e.bytes else 0 } := by
  unfold entryDropped
  dsimp only
  by_cases hf : e.phaser = 0xFFF
  · rw [if_pos hf, if_neg (by omega)]
    rfl
  · rw [if_neg hf, getPh_phSub]
    by_cases he : e.phaser = p
    · subst he
      exact (if_pos ⟨rfl, hl⟩).trans (by rw [if_pos rfl]; rfl)
    · rw [if_neg fun h => he (by omega), if_neg he]
      rfl

/-! ## The count that is taken back -/

theorem completes_putObj (s : State) (k : Nat) (o : SyncObj) : Completes s (putObj s k o) :=
  (completes_setObj s k o).trans (wakes_objWake _ k).completes

/-- Messages to the sync engines have gone, and an object may have changed, with the waits for it. -/
def Uncounted (s s' : State) : Prop := ∃ syncQ, Completes { s with syncQ := syncQ } s'

theorem uncounted_dropNotice (s : State) (core no k : Nat) : Uncounted s (dropNotice s core no k) := by
  unfold dropNotice
  split
  · exact ⟨_, (Wakes.refl _).completes⟩
  · exact ⟨_, completes_putObj ..⟩

theorem uncounted_dropDone (s : State) (core no k : Nat) : Uncounted s (dropDone s core no k) := by
  unfold dropDone
  dsimp only
  split
  · exact ⟨_, completes_putObj ..⟩
  · exact ⟨_, (Wakes.refl _).completes⟩

theorem uncounted_cancelEntry (s : State) (core : Nat) (e : JEntry) (scene part : Nat) :
    Uncounted (entryDropped s core e scene) (cancelEntry s core e scene part) := by
  rw [cancelEntry_eq]
  split
  · exact ⟨_, (Wakes.refl _).completes⟩
  · split
    · exact uncounted_dropDone ..
    · exact uncounted_dropNotice ..

theorem objAt_congr {s t : State} (h : t.sync = s.sync) (k : Nat) : objAt t k = objAt s k := by
  unfold objAt
  rw [h]

/-! An object in SRAM whose count is taken back touches no memory. -/

theorem sameMem_dropNotice {s : State} {k m : Nat} (hk : objAt s k = some (.sram m)) (core no : Nat) : SameMem s (dropNotice s core no k) := by
  unfold dropNotice
  split
  · exact ⟨rfl, rfl, rfl⟩
  · exact sameMem_putObj_sram hk _

theorem sameMem_dropDone {s : State} {k m : Nat} (hk : objAt s k = some (.sram m)) (core no : Nat) : SameMem s (dropDone s core no k) := by
  unfold dropDone
  extract_lets mine t
  split
  · exact SameMem.trans (t := t) ⟨rfl, rfl, rfl⟩ (sameMem_putObj_sram ((objAt_congr (s := s) (t := t) rfl k).trans hk) _)
  · exact .refl s

theorem sameMem_cancelEntry {s : State} (core : Nat) {e : JEntry} (scene : Nat) {part : Nat}
    (h : e.ctr = 0xFFFFFFF ∨ ∃ m, objAt s (2 ^ 28 * part + e.ctr) = some (.sram m)) : SameMem s (cancelEntry s core e scene part) := by
  obtain ⟨_, _, hd⟩ := entryDropped_only s core e scene
  have hdrop : SameMem s (entryDropped s core e scene) := by
    rw [hd]
    exact ⟨rfl, rfl, rfl⟩
  rw [cancelEntry_eq]
  rcases h with h | ⟨m, hm⟩
  · rwa [if_pos h]
  · have hat : objAt (entryDropped s core e scene) (2 ^ 28 * part + e.ctr) = some (.sram m) := (objAt_congr (by rw [hd]; rfl) _).trans hm
    split
    · exact hdrop
    · split
      · exact hdrop.trans (sameMem_dropDone hat ..)
      · exact hdrop.trans (sameMem_dropNotice hat ..)

/-- OUT goes down by 1 where the message of the issue has been served. -/
theorem getObj_cancelEntry {s : State} (core : Nat) {e : JEntry} (scene : Nat) {part m : Nat} (hctr : e.ctr ≠ 0xFFFFFFF) (hsent : e.sent = false)
    (hm : objAt s (2 ^ 28 * part + e.ctr) = some (.sram m)) (hq : ∀ q ∈ s.syncQ, q.op ≠ 56) :
    getObj (cancelEntry s core e scene part) (2 ^ 28 * part + e.ctr)
      = { getObj s (2 ^ 28 * part + e.ctr) with out := (getObj s (2 ^ 28 * part + e.ctr)).out - 1 } := by
  obtain ⟨_, _, hd⟩ := entryDropped_only s core e scene
  have hnotice : ¬ (entryDropped s core e scene).syncQ.any (fun q => q.op == 56 && q.t == e.no && q.core == core) = true := by
    rw [hd, List.any_eq_true]
    rintro ⟨q, hmem, hop⟩
    simp only [Bool.and_eq_true, beq_iff_eq] at hop
    exact hq q hmem hop.1.1
  have hat : objAt (entryDropped s core e scene) (2 ^ 28 * part + e.ctr) = some (.sram m) := (objAt_congr (by rw [hd]; rfl) _).trans hm
  have hobj : getObj (entryDropped s core e scene) (2 ^ 28 * part + e.ctr) = getObj s (2 ^ 28 * part + e.ctr) := by
    rw [hd]
    rfl
  rw [cancelEntry_eq, if_neg hctr, if_neg (by rw [hsent]; exact Bool.false_ne_true), dropNotice, if_neg hnotice, getObj_putObj_sram hat, hobj]

/-! ## Several commands -/

/-- Commands of a core's journal have been cancelled: their entries, their accesses and their pending bytes are gone. -/
structure Cancelled (s s' : State) (core scene : Nat) (l : List JEntry) : Prop where
  cur : s'.cur = s.cur
  resid : s'.resid = s.resid
  sync : s'.sync = s.sync
  copier : getCopier s' core = { getCopier s core with journal := (getCopier s core).journal.filter fun x => l.all fun e => x.no != e.no }
  dram : s'.dram = s.dram.filter fun a => !(a.core == core && l.any fun e => a.entry == some e.no)
  pending : ∀ p, p < 4095 → (getPh s (4096 * scene + p)).live = true → getPh s' (4096 * scene + p)
    = { getPh s (4096 * scene + p) with pending := (getPh s (4096 * scene + p)).pending - ((l.filter (·.phaser == p)).map (·.bytes)).sum }

theorem Cancelled.nil (s : State) (core scene : Nat) : Cancelled s s core scene [] where
  cur := rfl
  resid := rfl
  sync := rfl
  copier := by simp
  dram := by simp
  pending _ _ _ := rfl

theorem cancelled_cancelEntry (s : State) (core : Nat) (e : JEntry) (scene part : Nat) : Cancelled s (cancelEntry s core e scene part) core scene [e] := by
  obtain ⟨_, _, hd⟩ := entryDropped_only s core e scene
  have hpending (p : Nat) := getPh_entryDropped (s := s) (core := core) (scene := scene) (p := p) (e := e)
  obtain ⟨_, _, _, _, _, _, _, _, _, _, hu⟩ := uncounted_cancelEntry s core e scene part
  rw [hu]
  rw [hd] at hpending ⊢
  refine ⟨rfl, rfl, rfl, ?_, ?_, fun p hp hl => (hpending p hp hl).trans ?_⟩
  · refine ((getCopier_setCopier ..).trans (if_pos rfl)).trans ?_
    simp
  · simp
  · by_cases he : e.phaser = p <;> simp [he]

theorem Cancelled.cons {s t u : State} {core scene : Nat} {e : JEntry} {l : List JEntry} (h : Cancelled s t core scene [e]) (h' : Cancelled t u core scene l) :
    Cancelled s u core scene (e :: l) where
  cur := h'.cur.trans h.cur
  resid := h'.resid.trans h.resid
  sync := h'.sync.trans h.sync
  copier := by
    rw [h'.copier, h.copier]
    simp [List.filter_filter, Bool.and_comm]
  dram := by
    rw [h'.dram, h.dram, List.filter_filter]
    congr 1
    funext a
    simp [Bool.and_or_distrib_left, Bool.and_comm]
  pending p hp hl := by
    have hone := h.pending p hp hl
    rw [h'.pending p hp (by rw [hone]; exact hl), hone]
    by_cases he : e.phaser = p <;> simp [he, Nat.sub_sub]

/-- The commands of a list are cancelled one after the other. -/
def cancelAll (s : State) (core scene part : Nat) (l : List JEntry) : State := l.foldl (fun s e => cancelEntry s core e scene part) s

theorem cancelled_cancelAll (core scene part : Nat) (l : List JEntry) : ∀ s, Cancelled s (cancelAll s core scene part l) core scene l := by
  induction l with
  | nil => exact fun s => .nil s core scene
  | cons e l ih => exact fun s => (cancelled_cancelEntry s core e scene part).cons (ih _)

theorem sameMem_cancelAll (core scene part : Nat) {l : List JEntry} : ∀ {s : State},
    (∀ e ∈ l, e.ctr = 0xFFFFFFF ∨ ∃ m, objAt s (2 ^ 28 * part + e.ctr) = some (.sram m)) → SameMem s (cancelAll s core scene part l) := by
  induction l with
  | nil => exact fun {s} _ => .refl s
  | cons e l ih =>
    intro s h
    refine (sameMem_cancelEntry core scene (h e (List.mem_cons_self ..))).trans (ih fun x hx => ?_)
    simp only [objAt_congr (cancelled_cancelEntry s core e scene part).sync]
    exact h x (List.mem_cons_of_mem _ hx)

end Sys2Proof.Machine
end

section
/-! Queue banks, the copy stage and cancellation (R191, R204, R205). -/

set_option Elab.async false

namespace Sys2Proof.Machine

open Safety

/-! ## Banks -/

/-- The engine with a bank kept, and with a bank cancelled. -/
def keptBank (c : Copier) : Bank → Copier
  | .a => { c with bankA := .kept }
  | .b => { c with bankB := .kept }
def cancelledBank (c : Copier) : Bank → Copier
  | .a => { c with bankA := .cancelled }
  | .b => { c with bankB := .cancelled }

/-- The code of a bank in the entries of the journal. -/
def bankNo : Bank → Nat
  | .a => 1
  | .b => 2

section
variable (c : Copier) (k : Bank)

@[simp] theorem otherBank_otherBank : otherBank (otherBank k) = k := by cases k <;> rfl
@[simp] theorem bankSt_keptBank : bankSt (keptBank c k) k = .kept := by cases k <;> rfl
@[simp] theorem bankSt_keptBank_other : bankSt (keptBank c k) (otherBank k) = bankSt c (otherBank k) := by cases k <;> rfl
@[simp] theorem journal_keptBank : (keptBank c k).journal = c.journal := by cases k <;> rfl
@[simp] theorem bankSt_cancelledBank : bankSt (cancelledBank c k) k = .cancelled := by cases k <;> rfl
@[simp] theorem bankSt_cancelledBank_other : bankSt (cancelledBank c k) (otherBank k) = bankSt c (otherBank k) := by cases k <;> rfl
@[simp] theorem bankSt_cancelledBank_otherBank : bankSt (cancelledBank c (otherBank k)) k = bankSt c k := by cases k <;> rfl
@[simp] theorem journal_cancelledBank : (cancelledBank c k).journal = c.journal := by cases k <;> rfl

end

theorem getCopier_setCopier_self (s : State) (core : Nat) (c : Copier) : getCopier (setCopier s core c) core = c :=
  (getCopier_setCopier ..).trans (if_pos rfl)

/-- A bank is cancelled with its commands. -/
theorem cancelBank_eq {s : State} {core : Nat} {ce : Run} (h : runOf s core 4 = some ce) (k : Bank) : cancelBank s core k
    = cancelAll (setCopier s core (cancelledBank (getCopier s core) k)) core ce.scene ce.part ((getCopier s core).journal.filter (·.bank == bankNo k)) := by
  have hbank : cancelBank s core k = cancelWhere (setCopier s core (cancelledBank (getCopier s core) k)) core fun e => e.bank == bankNo k := by
    cases k <;> rfl
  have hrun : runOf (setCopier s core (cancelledBank (getCopier s core) k)) core 4 = some ce := h
  rw [hbank, cancelWhere, hrun]
  dsimp only
  rw [getCopier_setCopier_self, journal_cancelledBank]
  rfl

/-! ## Steering -/

section
variable {s : State} {t : Thread} {r : Run} (h : Runs s t r)
include h

theorem steer_goes (hr : copyRuns s s.cur.core r.part = true) (hc : r.chorus = false) (f : State → Copier → State) :
    steer s f = .next (goOn (f s (getCopier s s.cur.core)) t) := by
  simp only [steer, onThread_runs h, hr, hc, Bool.not_false, Bool.and_self, if_true]

theorem steer_traps (hr : copyRuns s s.cur.core r.part = false) (f : State → Copier → State) : Traps s 0x0EA 0 0 0 false (steer s f) := by
  simp only [Traps, steer, onThread_runs h, hr, Bool.false_and, Bool.false_eq_true, if_false, trapNow]

end

/-- A step that moves no cur and touches no memory before the word goes on. -/
theorem done_goOn {s u : State} (hcur : u.cur = s.cur) (hmem : SameMem s u) (t : Thread) :
    getTh (goOn u t) (curKey s) = advance t ∧ SameBytes s (goOn u t) := by
  have hkey : curKey s = curKey u := by rw [curKey, curKey, hcur]
  rw [hkey]
  exact ⟨getTh_goOn u t, (hmem.trans (sameMem_setTh _ _ _)).sameBytes⟩

/-! What each word does to the engine. -/

theorem exec_stage (s : State) : exec .stage s = steer s fun s c => setStage s c (min 255 (c.stage + 1)) := rfl
theorem exec_stageset (a : Nat) (s : State) : exec (.stageset a) s = steer s fun s c => setStage s c ((rdReg (getTh s (curKey s)) a).toNat % 256) := rfl
theorem exec_qarm (s : State) : exec .qarm s = steer s fun s c => setCopier s s.cur.core { c with
    bankA := if c.bankA = .idle then .armed else c.bankA, bankB := if c.bankB = .idle then .armed else c.bankB } := rfl
theorem exec_qcancel (k : Bank) (s : State) :
    exec (.qcancel k) s = steer s fun s c => if bankSt c k = .cancelled then s else cancelBank s s.cur.core k := rfl
theorem exec_qsel (k : Bank) (s : State) : exec (.qsel k) s = steer s fun s c => if bankSt c k = .cancelled then s
    else if bankSt c (otherBank k) = .cancelled then setCopier s s.cur.core (keptBank c k)
    else cancelBank (setCopier s s.cur.core (keptBank c k)) s.cur.core (otherBank k) := by
  cases k <;> rfl

/-- With an empty journal a bank is cancelled, and that is all. -/
theorem cancelBank_idle {s : State} {core : Nat} {ce : Run} (h : runOf s core 4 = some ce) (hj : (getCopier s core).journal = []) (k : Bank) :
    cancelBank s core k = setCopier s core (cancelledBank (getCopier s core) k) := by
  rw [cancelBank_eq h, hj]
  rfl

theorem copySteeringRule : CopySteeringRule := by
  intro s t r a k h core c done
  refine ⟨fun hr hc => ?_, fun hr i hi => ?_⟩
  · have hgoes (f : State → Copier → State) : steer s f = .next (goOn (f s c) t) := steer_goes h hr hc f
    have hself : done (goOn s t) := done_goOn rfl (.refl s) t
    have hdone {u : State} (hcur : u.cur = s.cur) (hmem : SameMem s u) (c' : Copier) : done (goOn (setCopier u core c') t) :=
      done_goOn (u := setCopier u core c') hcur (hmem.trans (sameMem_setCopier ..)) t
    have hset (c' : Copier) : done (goOn (setCopier s core c') t) := hdone rfl (.refl s) c'
    have hget (u : State) (c' : Copier) : getCopier (goOn (setCopier u core c') t) core = c' := getCopier_setCopier_self u core c'
    obtain ⟨-, hth, -⟩ := h
    refine ⟨⟨_, (exec_stage s).trans (hgoes _), hset _, congrArg Copier.stage (hget ..)⟩,
      ⟨_, (exec_stageset a s).trans (hgoes _), hset _, (congrArg Copier.stage (hget ..)).trans (by rw [← hth])⟩,
      ⟨_, (exec_qarm s).trans (hgoes _), hset _, congrArg Copier.bankA (hget ..), congrArg Copier.bankB (hget ..)⟩, fun hk => ?_, fun hj hk => ?_⟩
    · exact ⟨⟨_, (exec_qsel k s).trans ((hgoes _).trans (by rw [if_pos hk])), hself, rfl⟩,
        _, (exec_qcancel k s).trans ((hgoes _).trans (by rw [if_pos hk])), hself, rfl⟩
    · obtain ⟨ce, hce, -⟩ := Option.map_eq_some_iff.1 (beq_iff_eq.1 hr)
      have hcancels : exec (.qcancel k) s = .next (goOn (setCopier s core (cancelledBank c k)) t) := by
        rw [exec_qcancel, hgoes, if_neg hk, cancelBank_idle hce hj]
      refine ⟨?_, _, hcancels, hset _, ?_⟩
      · by_cases ho : bankSt c (otherBank k) = .cancelled
        · refine ⟨goOn (setCopier s core (keptBank c k)) t, ?_, hset _, ?_⟩
          · rw [exec_qsel, hgoes, if_neg hk, if_pos ho]
          · rw [hget]
            simp [ho]
        · have hkept := getCopier_setCopier_self s core (keptBank c k)
          have hother := cancelBank_idle (s := setCopier s core (keptBank c k)) hce (by rw [hkept, journal_keptBank, hj]) (otherBank k)
          refine ⟨goOn (setCopier (setCopier s core (keptBank c k)) core (cancelledBank (keptBank c k) (otherBank k))) t, ?_, hdone (u := setCopier s core (keptBank c k)) rfl (sameMem_setCopier ..) _, ?_⟩
          · rw [exec_qsel, hgoes, if_neg hk, if_neg ho, hother, hkept]
          · rw [hget]
            simp
      · rw [hget]
        simp
  · rcases hi with rfl | rfl | rfl | rfl | rfl
    · exact (exec_stage s).trans (steer_traps h hr _)
    · exact (exec_stageset a s).trans (steer_traps h hr _)
    · exact (exec_qarm s).trans (steer_traps h hr _)
    · exact (exec_qsel k s).trans (steer_traps h hr _)
    · exact (exec_qcancel k s).trans (steer_traps h hr _)

/-! ## Cancellation -/

/-- A steering word that cancels a bank does so to an engine whose bank is cancelled and whose journal is as before. -/
theorem exec_cancels {s : State} {t : Thread} {r ce : Run} {i : Instr} {gone : Bank} (h : Runs s t r) (hce : runOf s s.cur.core 4 = some ce) (hpart : ce.part = r.part)
    (hc : r.chorus = false) (hg : bankSt (getCopier s s.cur.core) gone ≠ .cancelled)
    (hi : i = .qcancel gone ∨ i = .qsel (otherBank gone) ∧ bankSt (getCopier s s.cur.core) (otherBank gone) ≠ .cancelled) :
    ∃ v, (∃ copiers, v = { s with copiers := copiers }) ∧ bankSt (getCopier v s.cur.core) gone = .cancelled
      ∧ (getCopier v s.cur.core).journal = (getCopier s s.cur.core).journal
      ∧ exec i s = .next (goOn (cancelAll v s.cur.core ce.scene r.part ((getCopier s s.cur.core).journal.filter (·.bank == bankNo gone))) t) := by
  have hr : copyRuns s s.cur.core r.part = true := by simp [copyRuns, hce, hpart]
  rcases hi with rfl | ⟨rfl, ho⟩
  · refine ⟨setCopier s s.cur.core (cancelledBank (getCopier s s.cur.core) gone), ⟨_, rfl⟩, ?_, ?_, ?_⟩
    · rw [getCopier_setCopier_self, bankSt_cancelledBank]
    · rw [getCopier_setCopier_self, journal_cancelledBank]
    · rw [exec_qcancel, steer_goes h hr hc, if_neg hg, cancelBank_eq hce, hpart]
  · obtain ⟨c, hkept⟩ : ∃ c, keptBank (getCopier s s.cur.core) (otherBank gone) = c := ⟨_, rfl⟩
    have hjournal : c.journal = (getCopier s s.cur.core).journal := hkept ▸ journal_keptBank ..
    have hcancel := cancelBank_eq (s := setCopier s s.cur.core c) hce gone
    rw [getCopier_setCopier_self, hjournal, hpart] at hcancel
    refine ⟨setCopier (setCopier s s.cur.core c) s.cur.core (cancelledBank c gone), ⟨_, rfl⟩, ?_, ?_, ?_⟩
    · rw [getCopier_setCopier_self, bankSt_cancelledBank]
    · rw [getCopier_setCopier_self, journal_cancelledBank, hjournal]
    · rw [exec_qsel, steer_goes h hr hc, otherBank_otherBank, if_neg ho, if_neg hg, hkept, hcancel]

/-- The entries of a bank are those whose numbers go, where no two entries have one number. -/
theorem filter_cancelled {l : List JEntry} (hl : (l.map (·.no)).Nodup) (b : Nat) :
    (l.filter fun x => (l.filter (·.bank == b)).all fun e => x.no != e.no) = l.filter (·.bank != b) := by
  refine List.filter_congr fun x hx => ?_
  by_cases hb : x.bank = b
  · have hmem : x ∈ l.filter (·.bank == b) := List.mem_filter.2 ⟨hx, beq_iff_eq.2 hb⟩
    rw [bne_eq_false_iff_eq.2 hb, List.all_eq_false]
    exact ⟨x, hmem, by simp⟩
  · rw [bne_iff_ne.2 hb, List.all_eq_true]
    intro e he
    obtain ⟨hel, heb⟩ := List.mem_filter.1 he
    refine bne_iff_ne.2 fun hno => hb ?_
    rw [List.inj_on_of_nodup_map hl hx hel hno]
    exact beq_iff_eq.1 heb

theorem copyCancelsRule : CopyCancelsRule := by
  intro s t r ce i gone h hce hpart hc core c b lost obj hnodup hg hi
  have hb : bankNo gone = b := by cases gone <;> rfl
  obtain ⟨v, hv, hbank, hjournal, hexec⟩ := exec_cancels h hce hpart hc hg hi
  rw [hb] at hexec
  change exec i s = .next (goOn (cancelAll v core ce.scene r.part lost) t) at hexec
  obtain ⟨hcur, hresid, hdram, hmem, hph, hat, hobj, hsyncQ⟩ : v.cur = s.cur ∧ v.resid = s.resid ∧ v.dram = s.dram ∧ SameMem s v ∧ (∀ k, getPh v k = getPh s k)
      ∧ (∀ k, objAt v k = objAt s k) ∧ (∀ k, getObj v k = getObj s k) ∧ v.syncQ = s.syncQ := by
    obtain ⟨_, rfl⟩ := hv
    exact ⟨rfl, rfl, rfl, ⟨rfl, rfl, rfl⟩, fun _ => rfl, fun _ => rfl, fun _ => rfl, rfl⟩
  have hgone := cancelled_cancelAll core ce.scene r.part lost v
  refine ⟨_, hexec, ?_, ?_, ?_, fun a => ?_, hgone.resid.trans hresid, fun p hp hl => ?_, fun hsram => ?_, fun e m he hctr hm hsent hq => ?_⟩
  · rw [show curKey s = curKey (cancelAll v core ce.scene r.part lost) by rw [curKey, curKey, hgone.cur, hcur]]
    exact getTh_goOn ..
  · change bankSt (getCopier (cancelAll v core ce.scene r.part lost) core) gone = _
    rw [hgone.copier]
    cases gone <;> exact hbank
  · change (getCopier (cancelAll v core ce.scene r.part lost) core).journal = _
    rw [hgone.copier]
    exact (congrArg _ hjournal).trans (filter_cancelled hnodup b)
  · change a ∈ (cancelAll v core ce.scene r.part lost).dram ↔ _
    rw [hgone.dram, hdram]
    simp [List.mem_filter, imp_iff_not_or]
  · have hpending := hgone.pending p hp (by rw [hph]; exact hl)
    rw [hph] at hpending
    exact congrArg Phaser.pending hpending
  · simp only [obj, ← hat] at hsram
    exact ((hmem.trans (sameMem_cancelAll core ce.scene r.part hsram)).trans (sameMem_setTh ..)).sameBytes
  · change getObj (cancelAll v core ce.scene r.part lost) (obj e) = _
    rw [← hobj, he]
    rw [← hat] at hm
    rw [← hsyncQ] at hq
    exact getObj_cancelEntry core ce.scene hctr hsent hm hq

/-- Settles O14: a steering word sets the stage or the banks, and cancelling a bank drops its entries one by one. -/
theorem copySteering : Obligations.CopySteering := ⟨copySteeringRule, copyCancelsRule⟩

end Sys2Proof.Machine
end

section
/-! Where a thread goes on after a word, and the loop counters (R232, R236, R239, R259). -/

set_option Elab.async false

namespace Sys2Proof.Machine

open Safety

/-! ## Windows (R236) -/

/-- Clearing registers of the window changes windows only. -/
theorem clearWin_only (n : Nat) : ∀ (t : Thread) (a : Nat), ∃ win, clearWin t a n = { t with win := win } := by
  induction n with
  | zero => exact fun t _ => ⟨t.win, rfl⟩
  | succ n ih =>
    intro t a
    obtain ⟨win, h⟩ := ih (wrReg t (8 + a) 0) (a + 1)
    refine ⟨win, h.trans ?_⟩
    rw [wrReg, if_neg (by omega), if_neg (by omega)]

/-- A call entry changes the depth and windows only. -/
theorem callEntry_only (t : Thread) (link : Nat) : ∃ win, callEntry t link = { t with depth := t.depth + 1, win := win } :=
  clearWin_only 15 (wrReg { t with depth := t.depth + 1 } 16 (w64 link)) 9

/-- What the slot of a call or of a return does to the window. -/
def windowAfter (t : Thread) (b : Branch) : Thread :=
  if b.kind = 1 then callEntry t ((b.addr + 8) % 2 ^ 32) else if b.kind = 2 then callReturn t else t

theorem windowAfter_only (t : Thread) (b : Branch) : ∃ depth win, windowAfter t b = { t with depth := depth, win := win } := by
  unfold windowAfter
  split_ifs
  · exact ⟨_, callEntry_only ..⟩
  · exact ⟨_, _, rfl⟩
  · exact ⟨_, _, rfl⟩

/-! ## After a word -/

theorem advance_none {t : Thread} (h : t.branch = none) : advance t = { t with pc := (t.pc + 4) % 2 ^ 32 } := by
  rw [advance, h]

theorem slotBranch_eret (t : Thread) (b : Branch) : (slotBranch t b).eret = b.eret := by
  unfold slotBranch
  split <;> rfl

/-- After a delay slot the window is the branch's, and the thread stands where the branch leads. -/
theorem advance_some {t : Thread} {b : Branch} (h : t.branch = some b) : advance t = { windowAfter t (slotBranch t b) with
    branch := none, pc := if (slotBranch t b).taken then (slotBranch t b).target else ((slotBranch t b).addr + 8) % 2 ^ 32
    ds := t.ds && !b.eret, skip := t.skip && !b.eret } := by
  obtain ⟨depth, win, hw⟩ := windowAfter_only t (slotBranch t b)
  unfold windowAfter at hw
  rw [advance, h, windowAfter]
  dsimp only
  rw [hw, slotBranch_eret]

/-- Settles O4, by the window that the slot's branch leaves and by where it leads. -/
theorem goingOn : Obligations.GoingOn := by
  refine ⟨fun t h => advance_none h, ?again, ?slot⟩
  case again =>
    intro t b h he
    have hpast : ((t.trappc.toNat + 2 ^ 64 - 4) % 2 ^ 32 + 8) % 2 ^ 32 = (t.trappc.toNat + 4) % 2 ^ 32 := by omega
    rw [advance_some h, he]
    refine ⟨rfl, Bool.and_false _, Bool.and_false _, ?_⟩
    simp only [slotBranch, he, if_true, hpast]
  case slot =>
    intro t b h he t'
    have ht : t' = { windowAfter t b with
        branch := none, pc := if b.taken then b.target else (b.addr + 8) % 2 ^ 32, ds := t.ds && !b.eret, skip := t.skip && !b.eret } := by
      have hb : slotBranch t b = b := by rw [slotBranch, he]; rfl
      rw [show t' = _ from advance_some h, hb]
    have hreg (c : Nat) : rdReg t' c = rdReg (windowAfter t b) c := by rw [ht]; rfl
    have hdepth : t'.depth = (windowAfter t b).depth := by rw [ht]
    have hwin : t'.win = (windowAfter t b).win := by rw [ht]
    refine ⟨by rw [ht], by rw [ht], fun hk => ?jump, fun hk => ?call, fun hk hd => ?ret⟩
    case jump =>
      have hw : windowAfter t b = t := by simp [windowAfter, hk]
      exact ⟨by rw [hdepth, hw], fun c => by rw [hreg, hw]⟩
    case call =>
      have hw : windowAfter t b = callEntry t ((b.addr + 8) % 2 ^ 32) := by rw [windowAfter, if_pos hk]
      refine ⟨by rw [hdepth, hw, callEntry_depth], fun c hc => ?_, fun i hi => ?_⟩
      · rw [hreg, hw]
        exact rdReg_callEntry t _ c hc
      · rw [hwin, hw]
        exact win_callEntry t _ i hi
    case ret =>
      have hw : windowAfter t b = callReturn t := by simp [windowAfter, hk]
      refine ⟨by rw [hdepth, hw, callReturn], by rw [hwin, hw, callReturn], fun c h24 h32 => ?_⟩
      rw [hreg, hw]
      simp only [rdReg, callReturn, if_neg (show ¬ c = 0 by omega), if_neg (show ¬ c < 8 by omega), if_neg (show ¬ c - 16 = 0 by omega),
        if_neg (show ¬ c - 16 < 8 by omega), show 16 * (t.depth - 1) + (c - 8) = 16 * t.depth + (c - 16 - 8) by omega]

/-! ## Loop counters -/

/-- No call entry and no return changes a counter. -/
theorem k_advance (t : Thread) : (advance t).k = t.k := by
  cases h : t.branch with
  | none => rw [advance_none h]
  | some b =>
    obtain ⟨depth, win, hw⟩ := windowAfter_only t (slotBranch t b)
    rw [advance_some h, hw]

/-- Settles O3: KSET and KRD by the register rules, and the counters after a word by those of windows. -/
theorem loopCounters : Obligations.LoopCounters := by
  intro s t r d a k h
  refine ⟨?_, { t with k := tput t.k 0 k (BitVec.ofNat 32 (rdReg t a).toNat) }, fun j => ?_, rfl, ?_, k_advance t⟩
  · change Result s t d _ (execKrd d k s)
    rw [execKrd, onThread_runs h, w64, BitVec.ofNat_toNat]
    exact result_writeBack d _
  · rw [tget_tput, BitVec.ofNat_toNat]
  · change Safety.Passes s _ (execKset a k s)
    rw [execKset, onThread_runs h]
    exact becomes_putTh s _

end Sys2Proof.Machine
end

section
/-! Register and immediate arithmetic (R163, R225, R226). -/

set_option Elab.async false

namespace Sys2Proof.Machine

open Safety

/-! ## Values -/

theorem mul_eq_ofNat (x y : W64) : x * y = BitVec.ofNat 64 (x.toNat * y.toNat) := BitVec.eq_of_toNat_eq (by simp)

theorem shiftLeft_eq_ofNat (x : W64) (n : Nat) : x <<< n = BitVec.ofNat 64 (x.toNat * 2 ^ n) :=
  BitVec.eq_of_toNat_eq (by simp [Nat.shiftLeft_eq])

theorem shiftRight_eq_ofNat (x : W64) (n : Nat) : x >>> n = BitVec.ofNat 64 (x.toNat / 2 ^ n) := by
  rw [← w64_toNat (x >>> n), w64, BitVec.toNat_ushiftRight, Nat.shiftRight_eq_div_pow]

theorem sshiftRight_eq_ofInt (x : W64) (n : Nat) : x.sshiftRight n = BitVec.ofInt 64 (x.toInt / 2 ^ n) := by
  rw [← BitVec.ofInt_toInt (x := x.sshiftRight n), BitVec.toInt_sshiftRight, Int.shiftRight_eq_div_pow]
  norm_cast

theorem flag64_decide (p : Prop) [Decidable p] : flag64 (decide p) = if p then 1 else 0 := by simp [flag64]

/-- POPC counts the bits below its width that are 1. -/
theorem popcount_eq (n : Nat) : ∀ v, popcount n v = (List.range n).countP fun i => v.testBit i := by
  induction n with
  | zero => exact fun _ => rfl
  | succ n ih =>
    intro v
    rw [popcount, ih, List.range_succ_eq_map, List.countP_cons, List.countP_map, Nat.add_comm]
    congr 1
    · exact List.countP_congr fun i _ => by simp [Nat.testBit_succ]
    · rcases Nat.mod_two_eq_zero_or_one v with h | h <;> simp [Nat.testBit_zero, h]

/-- The number of bits up to the highest 1 bit. -/
theorem bitLen_eq (n : Nat) : ∀ v, v < 2 ^ n → bitLen n v = if v = 0 then 0 else v.log2 + 1 := by
  induction n with
  | zero => exact fun v hv => by simp [bitLen, show v = 0 by omega]
  | succ n ih =>
    intro v hv
    rw [bitLen, ih _ (by omega)]
    split_ifs with h0 h1
    · rfl
    · rw [show v = 1 by omega]
      rfl
    · rw [Nat.log2_def v, if_pos (by omega), Nat.add_comm]

theorem sxImm_eq (i : Nat) : sxImm i = (BitVec.ofNat 16 i).signExtend 64 := congrArg (BitVec.ofInt 64) (sx_eq_toInt (by decide) i)

theorem sx_imm_eq (i : Nat) : sx 16 i = ((BitVec.ofNat 16 i).signExtend 64).toInt := by
  rw [sx_eq_toInt (by decide), BitVec.toInt_signExtend_of_le (by decide)]

theorem w64_imm {i : Nat} (hi : i < 2 ^ 16) : w64 i = (BitVec.ofNat 16 i).setWidth 64 := BitVec.eq_of_toNat_eq (by simp [w64]; omega)

/-! ## Words -/

section
variable {s : State} {t : Thread} {r : Run} (h : Runs s t r)
include h

theorem result_of_aluOp {d a b : Nat} (f : W64 → W64 → W64) {v : W64} (hv : f (rdReg t a) (rdReg t b) = v) : Result s t d v (aluOp s d a b f) :=
  hv ▸ result_aluOp h d a b f

theorem result_of_immOp {d a : Nat} (f : W64 → W64) {v : W64} (hv : f (rdReg t a) = v) : Result s t d v (immOp s d a f) :=
  hv ▸ result_immOp h d a f

/-- LIS writes the lane of its register, or the whole of it from lane 0. -/
theorem result_execLis (d lane i : Nat) : Result s t d (if lane = 0 then sxImm i else w64 (setBits (rdReg t d).toNat (16 * lane + 15) (16 * lane) i))
    (execLis d lane i s) := by
  rw [execLis, onThread_runs h]
  exact result_writeBack d _

end

theorem aluTwoSourceRule : AluTwoSourceRule := by
  intro s t r d a b h x y sh
  have hmin : (if x.toInt ≤ y.toInt then x else y) = BitVec.ofInt 64 (min x.toInt y.toInt) := by
    rw [min_def, apply_ite (BitVec.ofInt 64), BitVec.ofInt_toInt, BitVec.ofInt_toInt]
  have hmax : (if x.toInt ≤ y.toInt then y else x) = BitVec.ofInt 64 (max x.toInt y.toInt) := by
    rw [max_def, apply_ite (BitVec.ofInt 64), BitVec.ofInt_toInt, BitVec.ofInt_toInt]
  have hminU : (if x.toNat ≤ y.toNat then x else y) = BitVec.ofNat 64 (min x.toNat y.toNat) := by
    rw [min_def, apply_ite (BitVec.ofNat 64), ← w64, ← w64, w64_toNat, w64_toNat]
  have hmaxU : (if x.toNat ≤ y.toNat then y else x) = BitVec.ofNat 64 (max x.toNat y.toNat) := by
    rw [max_def, apply_ite (BitVec.ofNat 64), ← w64, ← w64, w64_toNat, w64_toNat]
  have hseq : flag64 (x == y) = if x.toNat = y.toNat then 1 else 0 := by
    simp only [flag64, beq_iff_eq, BitVec.toNat_eq]
  exact ⟨result_aluOp h d a b (· + ·), result_aluOp h d a b (· - ·), result_of_aluOp h (· * ·) (mul_eq_ofNat x y),
    result_aluOp h d a b fun x y => BitVec.ofInt 64 (x.toInt * y.toInt / 2 ^ 64),
    result_aluOp h d a b fun x y => BitVec.ofNat 64 (x.toNat * y.toNat / 2 ^ 64),
    result_aluOp h d a b (· &&& ·), result_aluOp h d a b (· ||| ·), result_aluOp h d a b (· ^^^ ·), result_aluOp h d a b fun x y => x &&& ~~~y,
    result_of_aluOp h (fun x y => x <<< sh6 y) (shiftLeft_eq_ofNat x sh), result_of_aluOp h (fun x y => x >>> sh6 y) (shiftRight_eq_ofNat x sh),
    result_of_aluOp h (fun x y => x.sshiftRight (sh6 y)) (sshiftRight_eq_ofInt x sh),
    result_of_aluOp h (fun x y => if x.toInt ≤ y.toInt then x else y) hmin, result_of_aluOp h (fun x y => if x.toInt ≤ y.toInt then y else x) hmax,
    result_of_aluOp h (fun x y => if x.toNat ≤ y.toNat then x else y) hminU, result_of_aluOp h (fun x y => if x.toNat ≤ y.toNat then y else x) hmaxU,
    result_of_aluOp h (fun x y => flag64 (x.toInt < y.toInt)) (flag64_decide _), result_of_aluOp h (fun x y => flag64 (x.toNat < y.toNat)) (flag64_decide _),
    result_of_aluOp h (fun x y => flag64 (x == y)) hseq⟩

theorem aluOneSourceRule : AluOneSourceRule := by
  intro s t r d a h x
  have hpopc : w64 (popcount 64 x.toNat) = BitVec.ofNat 64 ((List.range 64).countP fun i => x.getLsbD i) := by
    rw [popcount_eq]
    rfl
  have hclz : w64 (64 - bitLen 64 x.toNat) = BitVec.ofNat 64 (if x = 0 then 64 else 63 - x.toNat.log2) := by
    have hx : x = 0 ↔ x.toNat = 0 := BitVec.toNat_eq
    rw [bitLen_eq 64 _ x.isLt, w64]
    congr 1
    simp only [hx]
    split_ifs <;> omega
  exact ⟨result_of_immOp h (fun x => w64 (popcount 64 x.toNat)) hpopc, result_of_immOp h (fun x => w64 (64 - bitLen 64 x.toNat)) hclz⟩

/-- Settles O1: each word gives its result to the one rule of the words that write a register. -/
theorem registerArithmetic : Obligations.RegisterArithmetic := ⟨aluTwoSourceRule, aluOneSourceRule⟩

/-- Settles O2: an immediate is extended as its word says, and LIS sets the bits of its lane. -/
theorem aluImmediate : Obligations.AluImmediate := by
  intro s t r d a i n h hi hn x z e
  refine ⟨result_of_immOp h (· + sxImm i) (congrArg (x + ·) (sxImm_eq i)), result_of_immOp h (· &&& w64 i) (congrArg (x &&& ·) (w64_imm hi)),
    result_of_immOp h (· ||| w64 i) (congrArg (x ||| ·) (w64_imm hi)), result_of_immOp h (· ^^^ w64 i) (congrArg (x ^^^ ·) (w64_imm hi)),
    result_of_immOp h (· <<< n) (shiftLeft_eq_ofNat x n), result_of_immOp h (· >>> n) (shiftRight_eq_ofNat x n),
    result_of_immOp h (·.sshiftRight n) (sshiftRight_eq_ofInt x n), result_of_immOp h (fun x => flag64 (x.toInt < sx 16 i)) ?_, ?_,
    fun l h1 h3 => ⟨_, fun j => ?_, result_execLis h d l i⟩⟩
  · rw [sx_imm_eq]
    exact flag64_decide _
  · have hlis := result_execLis h d 0 i
    rw [if_pos rfl, sxImm_eq] at hlis
    exact hlis
  · rw [if_neg (by omega)]
    by_cases hj : j < 64
    · exact getLsbD_setBits _ i (16 * l) (n := 16) (by decide) hj
    · rw [if_neg (by omega), BitVec.getLsbD_of_ge _ _ (by omega), BitVec.getLsbD_of_ge _ _ (by omega)]

end Sys2Proof.Machine
end

section
/-! Branches and status lines (R232 to R235). -/

set_option Elab.async false

namespace Sys2Proof.Machine

open Safety

/-! ## Branches -/

/-- The target of a branch relative to its word. -/
theorem relTarget_eq (t : Thread) (off n : Nat) (hn : 0 < n) : relTarget t.pc off n % 2 ^ 32 = Safety.target t n off := by
  have hoff : (BitVec.ofNat n off).signExtend 32 = BitVec.ofInt 32 (sx n off) := congrArg (BitVec.ofInt 32) (sx_eq_toInt hn off).symm
  have hpc : BitVec.ofNat 32 t.pc = BitVec.ofInt 32 t.pc := (BitVec.ofInt_natCast 32 t.pc).symm
  rw [Safety.target, hoff, hpc, show (4 : BitVec 32) = BitVec.ofInt 32 4 from rfl, ← BitVec.ofInt_mul, ← BitVec.ofInt_add, BitVec.toNat_ofInt, relTarget, tr]
  omega

section
variable {s : State} {t : Thread} {r : Run} (h : Runs s t r) (hb : t.branch = none)
include hb

/-- Outside a delay slot a branch decides, whatever its thread has become by then. -/
theorem branches_branchTo {kind target target' word : Nat} {taken : Bool} (ht : target % 2 ^ 32 = target') :
    Branches s t kind taken target' (.next (branchTo s t kind taken target word)) := by
  rw [branchTo, hb, ht]
  exact becomes_putTh s _

include h

theorem branches_of_onThread (f : Thread → Run → State) {kind target target' word : Nat} {taken : Bool} (hf : f t r = branchTo s t kind taken target word)
    (ht : target % 2 ^ 32 = target') : Branches s t kind taken target' (onThread s f) := by
  rw [onThread_runs h, hf]
  exact branches_branchTo hb ht

theorem branches_execBc (c : Cond) (a off : Nat) : Branches s t 0 (condHolds c (rdReg t a)) (Safety.target t 16 off) (execBc c a off s) :=
  branches_of_onThread h hb _ rfl (relTarget_eq t off 16 (by decide))

/-- BCT counts down to 0 and no further, and is taken while the counter is not there (R233). -/
theorem branches_execBct (k off : Nat) : let v := tget t.k 0 k
    ∃ t1, (∀ j, tget t1.k 0 j = if j = k ∧ v ≠ 0 then v - 1 else tget t.k 0 j) ∧ { t1 with k := t.k } = t
      ∧ Branches s t1 0 (decide (v ≠ 0 ∧ v - 1 ≠ 0)) (Safety.target t 16 off) (execBct k off s) := by
  intro v
  refine ⟨{ t with k := tput t.k 0 k (if v = 0 then v else v - 1) }, fun j => ?_, rfl, ?_⟩
  · rw [tget_tput]
    by_cases hj : j = k
    · subst hj
      by_cases hv : v = 0
      · rw [if_pos rfl, if_pos hv, if_neg (fun hn => hn.2 hv)]
      · rw [if_pos rfl, if_neg hv, if_pos ⟨rfl, hv⟩]
    · rw [if_neg hj, if_neg fun hn => hj hn.1]
  · have htaken : ((if v = 0 then v else v - 1) != 0) = decide (v ≠ 0 ∧ v - 1 ≠ 0) := by
      split
      next hv => simp [hv]
      next hv =>
        rw [bne, Bool.beq_eq_decide_eq, ← decide_not]
        exact decide_eq_decide.2 ⟨fun hn => ⟨hv, hn⟩, And.right⟩
    have hx : execBct k off s = .next (branchTo s { t with k := tput t.k 0 k (if v = 0 then v else v - 1) } 0 ((if v = 0 then v else v - 1) != 0)
        (relTarget t.pc off 16) (encRI 0x14 k 0 off)) := by
      rw [execBct, onThread_runs h, if_neg (by simp [hb])]
    rw [hx, ← htaken]
    exact branches_branchTo (t := { t with k := tput t.k 0 k (if v = 0 then v else v - 1) }) hb (relTarget_eq t off 16 (by decide))

end

theorem branchDecisionsRule : BranchDecisionsRule := by
  intro s t r a k l off h hb x v
  have h16 := relTarget_eq t off 16 (by decide)
  have hbc (c : Cond) {taken : Bool} (hc : condHolds c (rdReg t a) = taken) : Branches s t 0 taken (Safety.target t 16 off) (execBc c a off s) :=
    hc ▸ branches_execBc h hb c a off
  have hx : x = 0 ↔ rdReg t a = 0 := by
    rw [← BitVec.toInt_inj]
    rfl
  refine ⟨branches_of_onThread h hb (fun t _ => branchTo s t 0 true (relTarget t.pc off 26) (0x10 * 2 ^ 26 + off)) rfl (relTarget_eq t off 26 (by decide)),
    hbc .eqz ?_, hbc .nez ?_, hbc .ltz rfl, hbc .gez rfl, hbc .lez rfl, hbc .gtz rfl,
    branches_of_onThread h hb (fun t r => branchTo s t 0 (lineSeen s s.cur.core s.cur.slot r.part l) (relTarget t.pc off 16) (encRI 0x13 l 1 off)) rfl h16,
    branches_of_onThread h hb (fun t r => branchTo s t 0 (!lineSeen s s.cur.core s.cur.slot r.part l) (relTarget t.pc off 16) (encRI 0x13 l 0 off)) rfl h16,
    branches_execBct h hb k off,
    branches_of_onThread h hb (fun t _ => branchTo s t 0 true (rdReg t a).toNat (encRR 0x15 0 a 0 0)) rfl rfl⟩
  · simp only [condHolds, hx, Bool.beq_eq_decide_eq]
  · simp only [condHolds, ne_eq, hx, bne, Bool.beq_eq_decide_eq, decide_not]

/-! ## Status lines -/

/-- The bits of a number that is summed from them. -/
theorem bit_sum (f : Nat → Bool) (n : Nat) : (List.range n).foldl (fun m i => m + b2n (f i) * 2 ^ i) 0 < 2 ^ n
    ∧ ∀ i, i < n → bit ((List.range n).foldl (fun m i => m + b2n (f i) * 2 ^ i) 0) i = f i := by
  induction n with
  | zero => exact ⟨Nat.one_pos, fun i hi => absurd hi (Nat.not_lt_zero i)⟩
  | succ n ih =>
    obtain ⟨hlt, hbits⟩ := ih
    rw [List.range_succ, List.foldl_append, List.foldl_cons, List.foldl_nil]
    generalize (List.range n).foldl (fun m i => m + b2n (f i) * 2 ^ i) 0 = m at hlt hbits
    have hb : b2n (f n) ≤ 1 := by unfold b2n; split <;> decide
    refine ⟨?_, fun i hi => ?_⟩
    · rw [Nat.pow_succ]
      nlinarith [Nat.mul_le_mul_right (2 ^ n) hb]
    · rw [bit_eq_testBit, Nat.add_comm, Nat.mul_comm, Nat.testBit_two_pow_mul_add _ hlt]
      split
      next hi' => rw [← bit_eq_testBit, hbits i hi']
      next hi' =>
        obtain rfl : i = n := by omega
        rw [Nat.sub_self]
        cases f i <;> rfl

theorem bit_statusLines (s : State) (core t part : Nat) {i : Nat} (hi : i < 32) : bit (statusLines s core t part) i = line s core t part i :=
  (bit_sum (line s core t part) 32).2 i hi

theorem portsBusy_eq_false {s : State} {core slot : Nat} :
    portsBusy s core slot = false ↔ ∀ q ∈ s.reqs, ∀ row col, q.core = core → q.asker = .port slot row col → q.done = true := by
  simp only [portsBusy, List.any_eq_false]
  refine forall₂_congr fun q _ => ?_
  cases hq : q.asker <;> simp
  next sl row col =>
    constructor
    · exact fun hn row col hc hs _ _ => hn hc hs
    · exact fun hn hc hs => hn row col hc hs rfl rfl

theorem ridle_iff {s : State} {core slot : Nat} : ridle s core slot = true ↔ (getReg s (thKey core slot)).killed = false
    ∧ (getReg s (thKey core slot)).runs = false ∧ ∀ q ∈ s.reqs, ∀ row col, q.core = core → q.asker = .port slot row col → q.done = true := by
  rw [ridle, Bool.and_eq_true, Bool.and_eq_true, Bool.not_eq_true', Bool.not_eq_true', Bool.not_eq_true', portsBusy_eq_false, and_assoc]

theorem didle_iff {s : State} {core slot : Nat} : didle s core slot = true ↔ (getReg s (thKey core slot)).killed = false
    ∧ ∀ d ∈ (getCore s core).drains, d.slot ≠ slot := by
  simp [didle]

theorem copyRuns_iff {s : State} {core part : Nat} : copyRuns s core part = true ↔ ∃ q, runOf s core 4 = some q ∧ q.part = part := by
  simp [copyRuns]

theorem ceIdle_iff {s : State} {core part : Nat} : ceIdle s core part = true
    ↔ (∀ q, runOf s core 4 = some q → q.part ≠ part) ∨ (getCopier s core).journal = [] := by
  rw [ceIdle, Bool.or_eq_true, Bool.not_eq_true', ← Bool.not_eq_true, copyRuns_iff, List.isEmpty_iff]
  simp

/-- The status lines as they stand (R234). -/
theorem line_iff {s : State} {core t part i : Nat} : line s core t part i = true ↔ LineSet s core t part i := by
  unfold line LineSet
  dsimp only
  split_ifs with h4 h8 e8 e9 h16
  · rw [ridle_iff]
    constructor
    · exact fun hl => .inl ⟨h4, hl⟩
    · rintro (hl | hl | hl | hl | hl)
      · exact hl.2
      all_goals omega
  · rw [didle_iff]
    constructor
    · exact fun hl => .inr (.inl ⟨by omega, h8, hl⟩)
    · rintro (hl | hl | hl | hl | hl)
      · omega
      · exact hl.2.2
      all_goals omega
  · rw [ceIdle_iff]
    constructor
    · exact fun hl => .inr (.inr (.inl ⟨e8, hl⟩))
    · rintro (hl | hl | hl | hl | hl)
      · omega
      · omega
      · exact hl.2
      all_goals omega
  · rw [copyRuns_iff]
    constructor
    · exact fun hl => .inr (.inr (.inr (.inl ⟨e9, hl⟩)))
    · rintro (hl | hl | hl | hl | hl)
      · omega
      · omega
      · omega
      · exact hl.2
      all_goals omega
  · constructor
    · exact fun hl => absurd hl (by decide)
    · rintro (hl | hl | hl | hl | hl) <;> omega
  · constructor
    · exact fun hl => .inr (.inr (.inr (.inr ⟨by omega, hl⟩)))
    · rintro (hl | hl | hl | hl | hl)
      · omega
      · omega
      · omega
      · omega
      · exact hl.2

/-- What the beginning of a cycle notes of a thread (R235, R263). -/
theorem lookup_seenAll (s : State) (core : Nat) {t : Nat} (ht : t < 4) : lookup (seenAll s) (thKey core t) = (runOf s core t).map (seenNow s core t) := by
  unfold seenAll runOf
  generalize s.runs = l
  induction l with
  | nil => rfl
  | cons p l ih =>
    obtain ⟨k, r⟩ := p
    by_cases hk : k = shKey core t
    · have h1 : k % 8 = t ∧ k / 8 = core := by unfold shKey at hk; omega
      obtain ⟨rfl, rfl⟩ := h1
      simp only [List.filterMap_cons, if_pos ht, lookup, if_pos hk, Option.map_some, if_true]
    · have h1 : k % 8 < 4 → thKey (k / 8) (k % 8) ≠ thKey core t := by unfold thKey; unfold shKey at hk; omega
      by_cases h4 : k % 8 < 4
      · simp only [List.filterMap_cons, if_pos h4, lookup, if_neg (h1 h4), if_neg hk, ih]
      · simp only [List.filterMap_cons, if_neg h4, lookup, if_neg hk, ih]

theorem statusLinesRule : StatusLinesRule := by
  intro s core t part i hi
  refine ⟨fun hs => ?_, fun n h hs => ?_, fun r ht hr => ?_, ?_⟩
  · have hl : linesSeen s core t part = statusLines s core t part := by rw [linesSeen, hs, Option.map_none, Option.getD_none]
    rw [lineSeen, hl, bit_statusLines s core t part hi]
    exact line_iff
  · have hl : linesSeen s core t part = n := by rw [linesSeen, hs, Option.map_some, Option.getD_some]
    rw [lineSeen, hl]
  · have hl : linesSeen { s with seen := seenAll s } core t part = statusLines s core t r.part := by
      rw [linesSeen, lookup_seenAll s core ht, hr, Option.map_some, Option.map_some, Option.getD_some, seenNow]
    rw [lineSeen, hl, bit_statusLines s core t r.part hi]
    exact line_iff
  · rintro (hl | hl | hl | hl | hl) <;> omega

/-- Settles O5, by the decision and the target of each branch, and by what each status line says. -/
theorem branchDecisions : Obligations.BranchDecisions := ⟨branchDecisionsRule, statusLinesRule⟩

end Sys2Proof.Machine
end

section
/-! Calls and returns: those whose slices are resident, those that move a slice, and how a slice moves (R158, R236 to R238). -/

set_option Elab.async false

namespace Sys2Proof.Machine

open Safety

/-! ## A slice starts on its way (R237, log 48) -/

/-- The request of a thread's slice at the spill engine. -/
def sliceReq (s : State) (core slot part slice : Nat) (out : Bool) : Req := {
  id := s.nextId, core := core, part := part, asker := .spill slot slice, store := false, place := spillPlace s core slot part slice, bytes := []
  sext := out, notBefore := nOf s core + 2, iter := nOf s core }

/-- The request joins those on their way, with an access of the caravan or without. -/
theorem askSlice_only (s : State) (core slot part slice : Nat) (out : Bool) : ∃ id dram, askSlice s core slot part slice out =
    { s with nextId := id, reqs := s.reqs ++ [sliceReq s core slot part slice out], dram := dram } := by
  unfold askSlice sliceDram
  dsimp only
  split
  · exact ⟨_, _, rfl⟩
  · split
    · exact ⟨_, _, rfl⟩
    · exact ⟨_, _, rfl⟩

/-- A word whose slice starts on its way, when a free number may have been drawn for it. -/
theorem movesSlice_branchTo {s : State} {t : Thread} (r : Run) (hb : t.branch = none) {kind tgt target : Nat} (ht : tgt % 2 ^ 32 = target)
    (free slice n word : Nat) (out : Bool) : MovesSlice s t r slice out n kind target
      (.next (branchTo (askSlice { s with free := free } s.cur.core s.cur.slot r.part slice out) (stall s (20 + n) t) kind true tgt word)) := by
  obtain ⟨id, dram, ha⟩ := askSlice_only { s with free := free } s.cur.core s.cur.slot r.part slice out
  rw [ha, branchTo, if_neg (by rw [show (stall s (20 + n) t).branch = none from hb]; decide), ht]
  refine ⟨_, sliceReq s s.cur.core s.cur.slot r.part slice out, rfl, rfl, rfl, rfl, rfl, rfl, rfl, rfl, SameMem.sameBytes ⟨rfl, rfl, rfl⟩,
    fun k hk => (getTh_setTh _ _ _ _).trans (if_neg hk), (getTh_setTh_self _ _ _).trans ?_⟩
  rw [stall, Nat.add_assoc]

/-! ## Calls -/

section
variable {s : State} {t : Thread} {r : Run} (hb : t.branch = none) (target word : Nat)
include hb

theorem callAt_deepest (hd : t.depth = 4095) : callAt s t r target word = trapNow s 0x006 word 0 0 := by
  simp only [callAt, hb, hd, Option.isSome_none, Bool.false_eq_true, if_false, if_true]

variable (hd : t.depth ≠ 4095)
include hd

theorem callAt_fits (hf : t.depth + 3 - t.winLo ≤ 128 * rfEnd (pw s s.cur.core)) : callAt s t r target word = branchTo s t 1 true target word := by
  simp only [callAt, hb, if_neg hd, if_pos (show t.depth + 3 - t.winLo ≤ shareSlices (pw s s.cur.core) from hf), Option.isSome_none, Bool.false_eq_true,
    if_false]

variable (hf : ¬ t.depth + 3 - t.winLo ≤ shareSlices (pw s s.cur.core))
include hf

theorem callAt_refused (hs : spillTakes s s.cur.core r.part t.winLo = false) : callAt s t r target word = trapNow s 0x006 word 0 0 := by
  simp only [callAt, hb, if_neg hd, if_neg hf, hs, Option.isSome_none, Bool.false_eq_true, if_false, Bool.not_false, if_true]

variable (hs : spillTakes s s.cur.core r.part t.winLo = true)
include hs

theorem callAt_unowned (ho : sliceOwned s s.cur.core s.cur.slot r.part t.winLo = false) :
    callAt s t r target word = trapNow s 0x064 (sliceInfo s s.cur.core s.cur.slot r.part t.winLo) 0 pathE := by
  simp only [callAt, hb, if_neg hd, if_neg hf, hs, ho, Option.isSome_none, Bool.false_eq_true, if_false, Bool.not_true,
    Bool.not_false, if_true]

theorem callAt_spills (ho : sliceOwned s s.cur.core s.cur.slot r.part t.winLo = true) :
    callAt s t r target word = branchTo (askSlice s s.cur.core s.cur.slot r.part t.winLo true) (stall s 20 t) 1 true target word := by
  simp only [callAt, hb, if_neg hd, if_neg hf, hs, ho, Option.isSome_none, Bool.false_eq_true, if_false, Bool.not_true]

end

section
variable {s : State} {t : Thread} {r : Run} (h : Runs s t r)
include h

theorem exec_call_runs (off : Nat) : exec (.call off) s = .next (callAt s t r (relTarget t.pc off 26) (0x11 * 2 ^ 26 + off)) := by
  change execCall off s = _
  rw [execCall, onThread_runs h]

theorem exec_callr_runs (a : Nat) : exec (.callr a) s = .next (callAt s t r (rdReg t a).toNat (0x15 * 2 ^ 26 + a * 65536 + 2)) := by
  change execCallr a s = _
  rw [execCallr, onThread_runs h]
  rfl

/-! ## Returns -/

theorem execRet_empty (hb : t.branch = none) (hd : t.depth = 0) : execRet s = .next (trapNow s 0x007 (0x15 * 2 ^ 26 + 1) 0 0) := by
  simp only [execRet, onThread_runs h, hb, hd, Option.isSome_none, Bool.false_eq_true, if_false, if_true]
  rfl

variable (hb : t.branch = none) (hd : t.depth ≠ 0)
include hb hd

theorem execRet_resident (hw : t.winLo < t.depth) : execRet s = .next (branchTo s t 2 true (rdReg t 16).toNat (0x15 * 2 ^ 26 + 1)) := by
  simp only [execRet, onThread_runs h, hb, if_neg hd, if_pos (show t.winLo ≤ t.depth - 1 by omega), Option.isSome_none, Bool.false_eq_true, if_false]
  rfl

variable (hw : t.depth ≤ t.winLo)
include hw

theorem execRet_unowned (ho : sliceOwned s s.cur.core s.cur.slot r.part (t.depth - 1) = false) :
    execRet s = .next (trapNow s 0x064 (sliceInfo s s.cur.core s.cur.slot r.part (t.depth - 1)) 0 pathE) := by
  simp only [execRet, onThread_runs h, hb, if_neg hd, if_neg (show ¬ t.winLo ≤ t.depth - 1 by omega), ho, Option.isSome_none, Bool.false_eq_true, if_false,
    Bool.not_false, if_true]

theorem execRet_fills (ho : sliceOwned s s.cur.core s.cur.slot r.part (t.depth - 1) = true) :
    ∃ n, execRet s = .next (branchTo (askSlice (drawn s) s.cur.core s.cur.slot r.part (t.depth - 1) false) (stall s (20 + n) t) 2 true (rdReg t 16).toNat
      (0x15 * 2 ^ 26 + 1)) := by
  simp only [execRet, onThread_runs h, hb, if_neg hd, if_neg (show ¬ t.winLo ≤ t.depth - 1 by omega), ho, Option.isSome_none, Bool.false_eq_true, if_false,
    Bool.not_true]
  exact ⟨_, rfl⟩

end

theorem callsAndReturnsRule : CallsAndReturnsRule := by
  intro s t r a off h hb _ _
  refine ⟨fun hd hf => ⟨?_, ?_⟩, fun hd hw => ?_, fun hd => ⟨?_, ?_⟩, fun hd => execRet_empty h hb hd⟩
  · rw [exec_call_runs h, callAt_fits hb _ _ hd hf]
    exact branches_branchTo hb (relTarget_eq t off 26 (by decide))
  · rw [exec_callr_runs h, callAt_fits hb _ _ hd hf]
    exact branches_branchTo hb rfl
  · change Branches s t 2 true _ (execRet s)
    rw [execRet_resident h hb hd hw]
    exact branches_branchTo hb rfl
  · rw [exec_call_runs h, callAt_deepest hb _ _ hd]
    rfl
  · rw [exec_callr_runs h, callAt_deepest hb _ _ hd]
    rfl

theorem callSpillsRule : CallSpillsRule := by
  intro s t r a off h hb _ _ owned info
  refine ⟨fun hd hf => ⟨fun hs ho => ?_, fun hs ho => ?_, fun hs => ?_⟩, fun hd hw => ⟨fun ho => ?_, fun ho => ?_⟩⟩
  · rw [exec_call_runs h, exec_callr_runs h, callAt_spills hb _ _ hd (Nat.not_le.2 hf) hs ho, callAt_spills hb _ _ hd (Nat.not_le.2 hf) hs ho]
    exact ⟨movesSlice_branchTo r hb (relTarget_eq t off 26 (by decide)) s.free _ 0 _ true, movesSlice_branchTo r hb rfl s.free _ 0 _ true⟩
  · have ho' : sliceOwned s s.cur.core s.cur.slot r.part t.winLo = false := Bool.eq_false_iff.2 ho
    rw [exec_call_runs h, exec_callr_runs h, callAt_unowned hb _ _ hd (Nat.not_le.2 hf) hs ho', callAt_unowned hb _ _ hd (Nat.not_le.2 hf) hs ho']
    exact ⟨rfl, rfl⟩
  · rw [exec_call_runs h, exec_callr_runs h, callAt_refused hb _ _ hd (Nat.not_le.2 hf) hs, callAt_refused hb _ _ hd (Nat.not_le.2 hf) hs]
    exact ⟨rfl, rfl⟩
  · obtain ⟨n, hx⟩ := execRet_fills h hb hd hw ho
    refine ⟨n, ?_⟩
    change MovesSlice s t r _ _ _ _ _ (execRet s)
    rw [hx]
    exact movesSlice_branchTo r hb rfl (s.free + 1) _ n _ false
  · exact execRet_unowned h hb hd hw (Bool.eq_false_iff.2 ho)

/-! ## How a slice moves -/

/-- A table after the writes of n places from c on. -/
theorem tget_foldl_tput_from {α : Type} [DecidableEq α] (d : α) (f : Nat → α) (t : Tab α) (c k n : Nat) :
    tget ((List.range n).foldl (fun w i => tput w d (c + i) (f i)) t) d k = if c ≤ k ∧ k < c + n then f (k - c) else tget t d k := by
  induction n with
  | zero => exact (if_neg (by omega)).symm
  | succ n ih =>
    rw [List.range_succ, List.foldl_append, List.foldl_cons, List.foldl_nil, tget_tput, ih]
    by_cases h : k = c + n
    · rw [if_pos h, if_pos (by omega), h, Nat.add_sub_cancel_left]
    · rw [if_neg h]
      exact if_congr (by omega) rfl rfl

/-- Bytes within a range that is read. -/
theorem take_drop_rdBytes (m : Tab Byte) {a i k n : Nat} (h : i + k ≤ n) : ((rdBytes m a n).drop i).take k = rdBytes m (a + i) k := by
  apply List.ext_getElem?
  intro j
  rw [List.getElem?_take]
  split
  next hj => rw [List.getElem?_drop, rdBytes_getElem? _ _ _ _ (by omega), rdBytes_getElem? _ _ _ _ hj, Nat.add_assoc]
  next hj => exact (List.getElem?_eq_none (by rw [length_rdBytes]; omega)).symm

theorem take_drop_rdMem (s : State) (p : Place) {i k n : Nat} (h : i + k ≤ n) : ((rdMem s p n).drop i).take k = rdMem s ⟨p.store, p.addr + i⟩ k := by
  obtain ⟨st, a⟩ := p
  cases st <;> exact take_drop_rdBytes _ h

/-- The bytes of a slice, register by register. -/
theorem sliceBytes_eq (t : Thread) (slice : Nat) :
    (sliceRegs t slice).flatMap (fun w => leBytes 8 w.toNat) = (List.range 16).flatMap fun i => leBytes 8 (tget t.win 0 (16 * slice + i)).toNat := by
  rw [sliceRegs, List.flatMap_map]

theorem length_sliceBytes (t : Thread) (slice : Nat) : ((sliceRegs t slice).flatMap fun w => leBytes 8 w.toNat).length = 128 := by
  rw [List.length_flatMap]
  simp [sliceRegs, Function.comp_def]

/-- The thread whose lowest resident slice has moved out. -/
def spilledThread (t : Thread) : Thread :=
  { t with win := (List.range 16).foldl (fun w i => tput w 0 (16 * t.winLo + i) 0) t.win, winLo := t.winLo + 1 }
theorem spilledThread_winLo (t : Thread) : (spilledThread t).winLo = t.winLo + 1 := rfl
theorem spilledThread_depth (t : Thread) : (spilledThread t).depth = t.depth := by rw [spilledThread]
theorem spilledThread_g (t : Thread) : (spilledThread t).g = t.g := by rw [spilledThread]

theorem threads_wrMem (s : State) (p : Place) (l : List Byte) : (wrMem s p l).threads = s.threads := by
  unfold wrMem
  split <;> rfl
theorem getTh_wrMem (s : State) (p : Place) (l : List Byte) (k : Nat) : getTh (wrMem s p l) k = getTh s k :=
  congrArg (tget · default k) (threads_wrMem s p l)

/-- A slice that moves out stands in its place, and only its thread changes besides (R237). -/
theorem spillOut_own {s : State} {core slot part : Nat} {t : Thread} {p : Place} (ht : getTh s (thKey core slot) = t)
    (hp : spillPlace s core slot part t.winLo = p) :
    rdMem (spillOut s core slot part) p 128 = (List.range 16).flatMap (fun i => leBytes 8 (tget t.win 0 (16 * t.winLo + i)).toNat)
      ∧ SameBytesBut s (spillOut s core slot part) p 128
      ∧ ∀ k, getTh (spillOut s core slot part) k = if k = thKey core slot then spilledThread t else getTh s k := by
  subst ht hp
  have hst := rdMem_wrMem_same s (spillPlace s core slot part (getTh s (thKey core slot)).winLo)
    ((sliceRegs (getTh s (thKey core slot)) (getTh s (thKey core slot)).winLo).flatMap fun w => leBytes 8 w.toNat)
  have hbut := sameBytesBut_wrMem s (spillPlace s core slot part (getTh s (thKey core slot)).winLo)
    ((sliceRegs (getTh s (thKey core slot)) (getTh s (thKey core slot)).winLo).flatMap fun w => leBytes 8 w.toNat)
  rw [length_sliceBytes] at hst hbut
  refine ⟨hst.trans (sliceBytes_eq _ _), hbut, fun k => (getTh_setTh _ _ _ _).trans ?_⟩
  rw [getTh_wrMem]
  rfl

/-- The registers of a slice that its bytes give, and the others. -/
theorem win_sliceFrom (t : Thread) (slice : Nat) (b : List Byte) (j : Nat) : tget (sliceFrom t slice b).win 0 j
    = if 16 * slice ≤ j ∧ j < 16 * slice + 16 then w64 (leNat ((b.drop (8 * (j - 16 * slice))).take 8)) else tget t.win 0 j :=
  tget_foldl_tput_from 0 (fun i => w64 (leNat ((b.drop (8 * i)).take 8))) t.win (16 * slice) j 16

/-- The spill engine's request in its last copy phase moves its slice. -/
theorem exec_prompterPerform_slice {s : State} {q : Req} {slice : Nat} {out : Bool} (h : LastPhase s q slice out) :
    exec .prompterPerform s = .next (moveSlice s q s.cur.slot slice) := by
  obtain ⟨hq, -, hasker, hdone, -, -, hstore, hway⟩ := h
  have hport : portDown s q.place = false := by rw [portDown, hstore]
  have hbehind : behind s q = false := by rw [behind, hasker]
  change execPrompterPerform s = _
  simp only [execPrompterPerform, performById, hq, hdone, hport, hbehind, hway, hasker, Bool.or_self, Bool.false_eq_true, if_false]

/-- A slice that moves out in the last phase of its request, and what its place and its thread then hold (R237). -/
theorem moveSlice_out {s : State} {q : Req} {slot slice : Nat} {t : Thread} {p : Place} (hoff : q.off = 1) (hout : q.sext = true)
    (ht : getTh s (thKey q.core slot) = t) (hp : spillPlace s q.core slot q.part t.winLo = p) :
    rdMem (moveSlice s q slot slice) p 128 = (List.range 16).flatMap (fun i => leBytes 8 (tget t.win 0 (16 * t.winLo + i)).toNat)
      ∧ SameBytesBut s (moveSlice s q slot slice) p 128
      ∧ ∀ k, getTh (moveSlice s q slot slice) k = if k = thKey q.core slot then spilledThread t else getTh s k := by
  obtain ⟨hst, hbut, hth⟩ := spillOut_own (s := dropReq s q.id) ht hp
  have hdrop : SameMem s (dropReq s q.id) := ⟨rfl, rfl, rfl⟩
  rw [moveSlice, if_neg (by rw [hoff]; decide), if_pos hout]
  generalize spillOut (dropReq s q.id) q.core slot q.part = s1 at hst hbut hth ⊢
  obtain ⟨ecc, hecc⟩ := eccFresh_only s1 q.place 128
  have hmem : SameMem s1 { s1 with ecc := ecc } := ⟨rfl, rfl, rfl⟩
  rw [hecc]
  exact ⟨(hmem.rdMem p 128).trans hst, fun x hx => ((hmem.rdMem x 1).trans (hbut x hx)).trans (hdrop.rdMem x 1), hth⟩

/-- A slice that comes back in the last phase of its request, from a place without a soft error (R237). -/
theorem moveSlice_back {s : State} {q : Req} {slot slice : Nat} (hoff : q.off = 1) (hout : q.sext = false) (hstore : q.place.store = .dev)
    (hgood : eccOf s q.place.addr 128 = 0) : moveSlice s q slot slice = fillIn (dropReq s q.id) q.core slot q.part slice := by
  have hlog : eccLog s q.place 128 q.core = (s, true) := by
    generalize q.place = p at hstore hgood ⊢
    obtain ⟨st, a⟩ := p
    cases hstore
    exact eccLog_good hgood _
  rw [moveSlice, if_neg (by rw [hoff]; decide), if_neg (by rw [hout]; decide), hlog]

/-- The registers of a thread whose slice has come back, and all that stays (R237). -/
theorem fillIn_own (s : State) (core slot part slice : Nat) :
    SameMem s (fillIn s core slot part slice) ∧ (∀ k, k ≠ thKey core slot → getTh (fillIn s core slot part slice) k = getTh s k)
      ∧ (∀ j, tget (getTh (fillIn s core slot part slice) (thKey core slot)).win 0 j = if 16 * slice ≤ j ∧ j < 16 * slice + 16
          then w64 (leNat (((rdMem s (spillPlace s core slot part slice) 128).drop (8 * (j - 16 * slice))).take 8))
          else tget (getTh s (thKey core slot)).win 0 j)
      ∧ (getTh (fillIn s core slot part slice) (thKey core slot)).winLo = slice := by
  have hcur : getTh (fillIn s core slot part slice) (thKey core slot)
      = { sliceFrom (getTh s (thKey core slot)) slice (rdMem s (spillPlace s core slot part slice) 128) with winLo := slice } := getTh_setTh_self ..
  refine ⟨⟨rfl, rfl, rfl⟩, fun k hk => (getTh_setTh _ _ _ _).trans (if_neg hk), fun j => ?_, ?_⟩
  · rw [hcur, ← win_sliceFrom]
  · rw [hcur]

/-- The word of a register of the slice that has come back. -/
theorem sliceWord (s : State) (p : Place) (k : Nat) {i : Nat} (hi : i < 16) (v : W64) :
    (if 16 * k ≤ 16 * k + i ∧ 16 * k + i < 16 * k + 16 then w64 (leNat (((rdMem s p 128).drop (8 * (16 * k + i - 16 * k))).take 8)) else v)
      = BitVec.ofNat 64 (leNat (rdMem s ⟨p.store, p.addr + 8 * i⟩ 8)) := by
  rw [if_pos (by omega), Nat.add_sub_cancel_left, take_drop_rdMem _ _ (by omega), w64]

theorem slicesMoveRule : SlicesMoveRule := by
  intro s q t p
  refine ⟨fun h => ?out, fun k h hgood => ?back⟩
  case out =>
    obtain ⟨-, hcore, -, -, hoff, hout, -, -⟩ := id h
    have hkey : thKey q.core s.cur.slot = curKey s := congrArg (thKey · s.cur.slot) hcore
    obtain ⟨hst, hbut, hth⟩ := moveSlice_out (slice := t.winLo) (t := t) (p := p) hoff hout (congrArg (getTh s) hkey)
      (congrArg (spillPlace s · s.cur.slot q.part t.winLo) hcore)
    rw [hkey] at hth
    have hcur := (hth (curKey s)).trans (if_pos rfl)
    rw [exec_prompterPerform_slice h]
    exact ⟨_, rfl, hst, hbut, fun k hk => (hth k).trans (if_neg hk), by rw [hcur, spilledThread_winLo],
      by rw [hcur, spilledThread_depth], by rw [hcur, spilledThread_g]⟩
  case back =>
    obtain ⟨-, hcore, -, -, hoff, hout, hstore, -⟩ := id h
    have hkey : thKey q.core s.cur.slot = curKey s := congrArg (thKey · s.cur.slot) hcore
    have hmove := moveSlice_back (slice := k) (slot := s.cur.slot) hoff hout hstore hgood
    rw [hcore] at hmove
    obtain ⟨hmem, hother, hwin, hlo⟩ := fillIn_own (dropReq s q.id) s.cur.core s.cur.slot q.part k
    rw [exec_prompterPerform_slice h, hmove]
    exact ⟨_, rfl, hmem.sameBytes, hother, fun i hi => (hwin _).trans (sliceWord s _ k hi _), fun j hj => (hwin j).trans (if_neg (by omega)), hlo⟩

/-! ## Transfers in a delay slot -/

/-- In a delay slot a transfer raises 0x003 and does nothing else (R158). -/
theorem branchTo_inSlot {s : State} {t : Thread} (hb : t.branch.isSome = true) (kind : Nat) (taken : Bool) (target word : Nat) :
    branchTo s t kind taken target word = trapNow s 0x003 word 0 0 := by
  rw [branchTo, if_pos hb]

theorem callAt_inSlot {s : State} {t : Thread} (r : Run) (hb : t.branch.isSome = true) (target word : Nat) :
    callAt s t r target word = trapNow s 0x003 word 0 0 := by
  simp only [callAt, if_pos hb]

theorem transferInSlotRule : TransferInSlotRule := by
  intro s t r i h hb hi
  obtain ⟨a, off, l, k, rfl | rfl | ⟨c, rfl⟩ | rfl | rfl | rfl | rfl | rfl | rfl⟩ := hi
  · change ∃ w, Traps s 0x003 w 0 0 false (execBr off s)
    rw [execBr, onThread_runs h]
    exact ⟨_, congrArg _ (branchTo_inSlot hb ..)⟩
  · rw [exec_call_runs h]
    exact ⟨_, congrArg _ (callAt_inSlot r hb ..)⟩
  · change ∃ w, Traps s 0x003 w 0 0 false (execBc c a off s)
    rw [execBc, onThread_runs h]
    exact ⟨_, congrArg _ (branchTo_inSlot hb ..)⟩
  · change ∃ w, Traps s 0x003 w 0 0 false (execBstS l off s)
    rw [execBstS, onThread_runs h]
    exact ⟨_, congrArg _ (branchTo_inSlot hb ..)⟩
  · change ∃ w, Traps s 0x003 w 0 0 false (execBstC l off s)
    rw [execBstC, onThread_runs h]
    exact ⟨_, congrArg _ (branchTo_inSlot hb ..)⟩
  · change ∃ w, Traps s 0x003 w 0 0 false (execBct k off s)
    rw [execBct, onThread_runs h]
    exact ⟨_, congrArg _ (if_pos hb)⟩
  · change ∃ w, Traps s 0x003 w 0 0 false (execJr a s)
    rw [execJr, onThread_runs h]
    exact ⟨_, congrArg _ (branchTo_inSlot hb ..)⟩
  · change ∃ w, Traps s 0x003 w 0 0 false (execRet s)
    rw [execRet, onThread_runs h]
    exact ⟨_, congrArg _ (if_pos hb)⟩
  · rw [exec_callr_runs h]
    exact ⟨_, congrArg _ (callAt_inSlot r hb ..)⟩

/-- Settles O6, by the cases of a call and of a return, by the two ways of a slice, and by the check that every transfer makes first. -/
theorem transfers : Obligations.Transfers := ⟨callsAndReturnsRule, callSpillsRule, slicesMoveRule, transferInSlotRule⟩

end Sys2Proof.Machine
end

section
/-! Loads and stores at issue: what they send, what they ask for, and their faults (R124, R219, R227, R228, R230, R346, R365). -/

set_option Elab.async false

namespace Sys2Proof.Machine

open Safety

/-! ## A request sets out -/

/-- A translation whose walk meets no soft error changes the TLBs and the counts of bytes alone. -/
theorem translated_only {s : State} {core part space va : Nat} (h : WalksClean s core part space va) :
    ∃ coreTlb dieTlb served, translated s core part space va = { s with coreTlb := coreTlb, dieTlb := dieTlb, served := served } := by
  by_cases h3 : space = 3
  · subst h3
    obtain ⟨served, hserved⟩ := translated_clean h
    rw [hserved, tlbFill_eq]
    exact ⟨_, _, _, rfl⟩
  · unfold translated
    rw [if_neg h3]
    split
    · unfold hostFill
      split
      · exact ⟨_, _, _, rfl⟩
      · exact ⟨_, _, _, rfl⟩
    · exact ⟨_, _, _, rfl⟩

/-- A request joins those on their way, with what its space needs to let it perform. -/
theorem launchReq_only (s : State) (q : Req) (space va : Nat) : ∃ n nextId dram agenda free, launchReq s q space va =
    { s with reqs := s.reqs ++ [{ q with notBefore := n }], nextId := nextId, dram := dram, agenda := agenda, free := free } := by
  unfold launchReq
  dsimp only
  split
  · exact ⟨_, _, _, _, _, rfl⟩
  · exact ⟨_, _, _, _, _, rfl⟩
  · exact ⟨q.notBefore, _, _, _, _, rfl⟩
  · exact ⟨q.notBefore, _, _, _, _, rfl⟩
  · exact ⟨q.notBefore, _, _, _, _, rfl⟩

theorem launchReq_cur (s : State) (q : Req) (space va : Nat) : (launchReq s q space va).cur = s.cur := by
  obtain ⟨n, nextId, dram, agenda, free, hl⟩ := launchReq_only s q space va
  rw [hl]

/-- The request of a thread's access of n bytes at an element index and an address (R227). -/
def accessReq (s : State) (t : Thread) (r : Run) (d tid n : Nat) (e : Int) (store sext : Bool) (p : Place) (addr : Nat) : Req :=
  let v := tidOf s s.cur.core r.part tid
  { id := s.nextId, core := s.cur.core, part := r.part, asker := .thread s.cur.slot, store := store, place := p
    bytes := if store then leBytes n (rdReg t d).toNat else [], dst := d, sext := sext, tid := tid, len := n, off := addr - v.base, index := e.toNat
    iter := nOf s s.cur.core, space := v.space, voice := r.chorus && !t.mode }

/-- The thread after an access of it has set out: it waits for its data, or goes on, or waits for room (R219). -/
def afterAccess (t : Thread) (store : Bool) (id out : Nat) : Thread :=
  if store then advance (if 8 ≤ out then { t with wait := .stores } else { t with wait := .none }) else { t with wait := .load id }

/-- An access outside a chorus block, or in supervisor mode, is no voice's. -/
theorem notVoice_of_alone {r : Run} {t : Thread} (h : r.chorus = false ∨ t.mode = true) : (r.chorus && !t.mode) = false := by
  obtain hc | hm := h
  · rw [hc, Bool.false_and]
  · rw [hm, Bool.not_true, Bool.and_false]

section
variable {s : State} {t : Thread} {r : Run} (h : Runs s t r) (d : Nat) {a tid off n : Nat} {store : Bool} (sext : Bool) {p : Place}
include h

/-- An access that every check passes, and that has its grant, sends its request. -/
theorem memAccess_launches (halone : store = true → r.chorus = false ∨ t.mode = true) (hacc : Accesses s t r a tid off n store p true) :
    ∃ coreTlb dieTlb served addr,
      let space := (tidOf s s.cur.core r.part tid).space
      let s1 := launchReq { s with coreTlb := coreTlb, dieTlb := dieTlb, served := served }
        (accessReq s t r d tid n ((rdReg t a).toInt + sx 8 off) store sext p addr) space addr
      memAccess s d a tid off n store sext = .next (putTh s1 (afterAccess t store s.nextId (storesOut s1 s.cur.core s.cur.slot))) := by
  obtain ⟨addr, b, hok, hheld, hclean⟩ := hacc
  obtain ⟨coreTlb, dieTlb, served, htr⟩ := translated_only hclean
  refine ⟨coreTlb, dieTlb, served, addr, ?_⟩
  have huser (hs : store = true) : (r.chorus && !t.mode) = false := notVoice_of_alone (halone hs)
  unfold memAccess
  rw [onThread_runs h]
  dsimp only
  rw [show (whoOf s.cur.core r).core = s.cur.core from rfl, show (whoOf s.cur.core r).part = r.part from rfl, hok]
  dsimp only
  rw [if_neg, htr]
  · cases store with
    | false => rfl
    | true =>
      rw [if_pos rfl, huser rfl]
      simp only [Bool.false_and, Bool.false_eq_true, if_false, if_true, accessReq, afterAccess, goOn, huser rfl, launchReq_cur]
      rfl
  · obtain hr | ⟨e, c, hw⟩ := hheld.1 rfl
    · cases hw : t.wait <;> simp only [pathE, hr, Bool.or_true, Bool.not_true, Bool.false_eq_true, not_false_eq_true]
    · simp only [hw, Bool.not_true, Bool.false_eq_true, not_false_eq_true]

/-- What has set out, and what the thread then does. -/
theorem memAccess_sends (halone : store = true → r.chorus = false ∨ t.mode = true) (hacc : Accesses s t r a tid off n store p true) :
    ∃ s' q, memAccess s d a tid off n store sext = .next s' ∧ Sends s s' q
      ∧ (q.store = store ∧ q.place = p ∧ q.bytes = if store then leBytes n (rdReg t d).toNat else [])
      ∧ (q.len = n ∧ q.sext = sext ∧ q.dst = d)
      ∧ getTh s' (curKey s) = afterAccess t store s.nextId (storesOut s' s.cur.core s.cur.slot) := by
  obtain ⟨coreTlb, dieTlb, served, addr, hexec⟩ := memAccess_launches h d sext halone hacc
  obtain ⟨m, nextId, dram, agenda, free, hl⟩ := launchReq_only { s with coreTlb := coreTlb, dieTlb := dieTlb, served := served }
    (accessReq s t r d tid n ((rdReg t a).toInt + sx 8 off) store sext p addr) (tidOf s s.cur.core r.part tid).space addr
  rw [hexec, hl]
  exact ⟨_, { accessReq s t r d tid n ((rdReg t a).toInt + sx 8 off) store sext p addr with notBefore := m }, rfl,
    ⟨rfl, rfl, rfl, rfl, rfl, SameMem.sameBytes ⟨rfl, rfl, rfl⟩, fun k hk => (getTh_setTh _ _ _ _).trans (if_neg hk)⟩, ⟨rfl, rfl, rfl⟩, ⟨rfl, rfl, rfl⟩,
    getTh_setTh_self ..⟩

end

theorem loadIssueRule : LoadIssueRule := by
  intro s t r d a tid off p h
  refine ⟨fun hacc => ?_, fun hacc => ?_⟩
  · obtain ⟨s', q, hexec, hsends, ⟨hst, hp, -⟩, hlen, hth⟩ := memAccess_sends h d false (fun hs => absurd hs (by decide)) hacc
    exact ⟨s', q, hexec, hsends, hst, hp, hlen.1, hlen.2.1, hlen.2.2, hth⟩
  · obtain ⟨s', q, hexec, hsends, ⟨hst, hp, -⟩, hlen, hth⟩ := memAccess_sends h d true (fun hs => absurd hs (by decide)) hacc
    exact ⟨s', q, hexec, hsends, hst, hp, hlen.1, hlen.2.1, hlen.2.2, hth⟩

theorem storeIssueRule : StoreIssueRule := by
  intro s t r d a tid off p h halone goes
  refine ⟨fun hacc => ?_, fun hacc => ?_⟩
  · obtain ⟨s', q, hexec, hsends, ⟨hst, hp, hbytes⟩, -, hth⟩ := memAccess_sends h d false (fun _ => halone) hacc
    exact ⟨s', q, hexec, hsends, hst, hp, hbytes, hth⟩
  · obtain ⟨s', q, hexec, hsends, ⟨hst, hp, hbytes⟩, -, hth⟩ := memAccess_sends h d false (fun _ => halone) hacc
    exact ⟨s', q, hexec, hsends, hst, hp, hbytes, hth⟩

/-! ## What has no grant -/

/-- The four words of an access. -/
theorem exec_eq_memAccess {d a tid off n : Nat} {st : Bool} {i : Instr} (s : State)
    (hi : i = .ldd d a tid off ∧ n = 8 ∧ st = false ∨ i = .ldw d a tid off ∧ n = 4 ∧ st = false
      ∨ i = .std d a tid off ∧ n = 8 ∧ st = true ∨ i = .stw d a tid off ∧ n = 4 ∧ st = true) :
    ∃ sext, exec i s = memAccess s d a tid off n st sext := by
  obtain ⟨rfl, rfl, rfl⟩ | ⟨rfl, rfl, rfl⟩ | ⟨rfl, rfl, rfl⟩ | ⟨rfl, rfl, rfl⟩ := hi
  · exact ⟨_, rfl⟩
  · exact ⟨_, rfl⟩
  · exact ⟨_, rfl⟩
  · exact ⟨_, rfl⟩

/-- An access that lacks its grant asks for it. -/
theorem memAccess_asks {s : State} {t : Thread} {r : Run} (h : Runs s t r) (d : Nat) {a tid off n : Nat} {store : Bool} (sext : Bool) {p : Place}
    (halone : r.chorus = false ∨ t.mode = true) (hwait : ∀ e c b, t.wait ≠ .raced e c b) {addr b : Nat}
    (hok : accessOf s (whoOf s.cur.core r) (tidOf s s.cur.core r.part tid) ((rdReg t a).toInt + sx 8 off) 0 n n false store .prompter = .ok (addr, b, p))
    (hheld : raceHeld s (whoOf s.cur.core r) (tidOf s s.cur.core r.part tid) tid addr pathE store = false) :
    memAccess s d a tid off n store sext = .next (putTh (askRace s (whoOf s.cur.core r) (tidOf s s.cur.core r.part tid) tid addr pathE store 0 s.cur.slot 0)
      { t with wait := .sync s.nextId }) := by
  have huser : (r.chorus && !t.mode) = false := notVoice_of_alone halone
  unfold memAccess
  rw [onThread_runs h]
  dsimp only
  rw [show (whoOf s.cur.core r).core = s.cur.core from rfl, show (whoOf s.cur.core r).part = r.part from rfl, hok]
  dsimp only
  rw [if_pos]
  cases hw : t.wait
  case raced e c b => exact absurd hw (hwait e c b)
  all_goals simp only [huser, hheld, Bool.false_and, Bool.or_false, Bool.not_false]

theorem accessAsksRule : AccessAsksRule := by
  intro s t r d a tid off n st p i h halone hi hwait hacc home
  obtain ⟨addr, b, hok, hheld, -⟩ := hacc
  obtain ⟨sext, hexec⟩ := exec_eq_memAccess s hi
  have hnone : raceHeld s (whoOf s.cur.core r) (tidOf s s.cur.core r.part tid) tid addr pathE st = false :=
    Bool.eq_false_iff.2 fun hr => absurd (hheld.2 (.inl hr)) (by decide)
  rw [hexec, memAccess_asks h d sext halone hwait hok hnone]
  exact ⟨_, _, rfl, rfl, rfl, rfl, rfl, rfl, rfl, rfl, rfl, SameMem.sameBytes ⟨rfl, rfl, rfl⟩, fun k hk => (getTh_setTh _ _ _ _).trans (if_neg hk),
    getTh_setTh_self ..⟩

theorem lookup_tdel_none {α : Type} {t : Tab α} {k : Nat} (h : lookup t k = none) (j : Nat) : lookup (tdel t j) k = none := by
  induction t with
  | nil => exact h
  | cons p t ih =>
    obtain ⟨a, v⟩ := p
    rw [lookup] at h
    obtain ⟨hne, h⟩ : ¬ a = k ∧ lookup t k = none := by
      split at h
      · cases h
      · exact ⟨‹_›, h⟩
    rw [tdel]
    split
    · exact ih h
    · rw [lookup, if_neg hne]
      exact ih h

/-! ## What the end of a block leaves (R46, R49) -/

/-- No request joins, no record of the cycle goes, and no sheet comes to run a block. -/
structure Ends (s s' : State) : Prop where
  reqs : s'.reqs ⊆ s.reqs
  recs : s.recs ⊆ s'.recs
  runs : ∀ k, lookup s.runs k = none → lookup s'.runs k = none

namespace Ends
variable {s s' t : State}

theorem refl (s : State) : Ends s s := ⟨List.Subset.refl _, List.Subset.refl _, fun _ h => h⟩
theorem trans (h : Ends s t) (k : Ends t s') : Ends s s' :=
  ⟨List.Subset.trans k.reqs h.reqs, List.Subset.trans h.recs k.recs, fun x hx => k.runs x (h.runs x hx)⟩
/-- An update of other fields. -/
theorem update (h : (s'.reqs, s'.recs, s'.runs) = (s.reqs, s.recs, s.runs) := by rfl) : Ends s s' := by
  simp only [Prod.mk.injEq] at h
  obtain ⟨h1, h2, h3⟩ := h
  exact ⟨h1 ▸ List.Subset.refl _, h2 ▸ List.Subset.refl _, fun k hk => h3 ▸ hk⟩
theorem ite {c : Prop} [Decidable c] (hs : Ends t s) (hs' : Ends t s') : Ends t (if c then s else s') := by split <;> assumption
theorem foldl {β : Type} {f : State → β → State} (hf : ∀ s b, Ends s (f s b)) (l : List β) (s : State) : Ends s (l.foldl f s) :=
  foldl_rel .refl .trans hf l s
theorem logged (h : Logged s s') : Ends s s' := by
  obtain ⟨_, _, _, _, _, _, _, hr, -, rfl⟩ := h
  exact ⟨List.Subset.refl _, hr, fun _ hk => hk⟩

theorem dropDue (s : State) (core slot : Nat) : Ends s (dropDue s core slot) := by
  unfold Machine.dropDue
  refine .ite (.refl s) (.foldl (fun s p => .foldl (fun s f => .foldl (fun s d => ?_) _ _) _ _) _ _)
  exact .ite (.ite (.refl s) .update) (.refl s)
theorem guardRecords (s : State) (core slot : Nat) : Ends s (guardRecords s core slot) :=
  .trans (.foldl (fun _ _ => .logged (logged_queueWith _ _ _ _ _ _ _ _)) _ _) .update
theorem dropRequests (s : State) (core slot : Nat) : Ends s (dropRequests s core slot) :=
  ⟨List.filter_subset_self _, List.Subset.refl _, fun _ hk => hk⟩
theorem putObj (s : State) (k : Nat) (o : SyncObj) : Ends s (putObj s k o) := by
  obtain ⟨_, _, _, _, _, _, _, _, _, h⟩ := completes_setObj s k o
  obtain ⟨_, _, _, _, _, _, h'⟩ := wakes_objWake (setObj s k o) k
  rw [Machine.putObj, h', h]
  exact .update
theorem dropNotice (s : State) (core no k : Nat) : Ends s (dropNotice s core no k) := .ite .update (putObj _ _ _)
theorem dropDone (s : State) (core no k : Nat) : Ends s (dropDone s core no k) := by
  unfold Machine.dropDone
  exact .ite (.trans .update (putObj _ _ _)) (.refl s)
theorem dropDrains (s : State) (core slot part : Nat) : Ends s (dropDrains s core slot part) := by
  unfold Machine.dropDrains
  extract_lets c mine gone beat s1 s2
  have h1 : Ends s s1 := .update
  have h2 : Ends s1 s2 := .ite (.refl _) .update
  exact (h1.trans h2).trans (.foldl (fun s d => .ite (.refl s) (dropNotice _ _ _ _)) _ _)
theorem phSub (s : State) (k n : Nat) : Ends s (phSub s k n) := by
  obtain ⟨_, _, h⟩ := phSub_only s k n
  rw [h]
  exact .update
theorem cancelEntry (s : State) (core : Nat) (e : JEntry) (scene part : Nat) : Ends s (cancelEntry s core e scene part) := by
  unfold Machine.cancelEntry
  extract_lets c s1 s2 s3
  have h3 : Ends s s3 := .trans (t := s2) .update (.ite (.refl s2) (phSub _ _ _))
  exact h3.trans (.ite (.refl s3) (.ite (dropDone _ _ _ _) (dropNotice _ _ _ _)))
theorem cancelWhere (s : State) (core : Nat) (p : JEntry → Bool) : Ends s (cancelWhere s core p) := by
  unfold Machine.cancelWhere
  split
  · exact .refl s
  · exact .foldl (fun s e => cancelEntry _ _ _ _ _) _ _
theorem delRun (s : State) (core sheet : Nat) : Ends s (delRun s core sheet) :=
  ⟨List.Subset.refl _, List.Subset.refl _, fun _ hk => lookup_tdel_none hk _⟩
theorem discardBlock (s : State) (core sheet : Nat) : Ends s (discardBlock s core sheet) := by
  unfold Machine.discardBlock
  split
  · exact .refl s
  · extract_lets t0 s1 s2 s3 s4 s5 t s6 s7 s8 q s9
    have h1 : Ends s s1 := .ite (.logged (logged_queueWith _ _ _ _ _ _ _ _)) (.refl s)
    have h2 : Ends s1 s2 := (dropDue _ _ _).trans (guardRecords _ _ _)
    have h3 : Ends s2 s3 := dropRequests _ _ _
    have h4 : Ends s3 s4 := dropDrains _ _ _ _
    clear_value s4
    have h8 : Ends s1 s8 := .ite (cancelWhere _ _ _) (((h2.trans h3).trans h4).trans .update)
    have h9 : Ends s8 s9 := .foldl (fun _ _ => .update) _ _
    exact ((h1.trans h8).trans h9).trans (delRun _ _ _)
theorem enterHeld (s : State) (core ix fireN variant : Nat) : Ends s (enterHeld s core ix fireN variant) := by
  unfold Machine.enterHeld
  extract_lets k q s1 s2
  have h1 : Ends s s1 := .update
  have h2 : Ends s1 s2 := .foldl (fun _ _ => .update) _ _
  exact (h1.trans h2).trans .update
theorem cueFail (s : State) (core ix t fireN cause variant : Nat) : Ends s (cueFail s core ix t fireN cause variant) := by
  unfold Machine.cueFail
  extract_lets k q g s1
  have h1 : Ends s s1 := .update
  exact .ite ((logged (logged_queueWith _ _ _ _ _ _ _ _)).trans (enterHeld _ _ _ _ _))
    (.ite (.trans (t := setCue s k { q with failCause := cause }) .update (enterHeld _ _ _ _ _)) (h1.trans (.ite .update .update)))
theorem cueDone (s : State) (core ix fireN cause : Nat) : Ends s (cueDone s core ix fireN cause) := .update
theorem endVoice (t cause : Nat) (s : State) (k : Nat) : Ends s (endVoice t cause s k) := by
  unfold Machine.endVoice
  extract_lets q sheet run fireN s1
  have h1 : Ends s s1 := .ite (discardBlock _ _ _) (.refl s)
  exact h1.trans (.ite (.refl s1) (.ite (cueFail _ _ _ _ _ _ _) (.ite .update (cueDone _ _ _ _ _))))

end Ends

/-- A fatal fault ends the block of its sheet, with its record (R46, R49). -/
theorem killFatal_ends {s : State} {core sheet : Nat} {r : Run} (h : runOf s core sheet = some r) (w : Why) :
    Ends s (killFatal s core sheet w) ∧ runOf (killFatal s core sheet w) core sheet = none
      ∧ ∃ x ∈ (killFatal s core sheet w).recs, x.2.cause = w.cause := by
  have hlog : Logged s (queueFor s core r { w with fatal := true }) := logged_queueWith _ _ _ _ _ _ _ _
  obtain ⟨x, hx, hcause⟩ : ∃ x ∈ (queueFor s core r { w with fatal := true }).recs, x.2.cause = w.cause := mem_recs_queueWith _ _ _ _ _ _ _ _
  have hrun : runOf (queueFor s core r { w with fatal := true }) core sheet = some r := (congrArg (lookup · _) hlog.runs).trans h
  unfold killFatal
  simp only [h]
  generalize queueFor s core r { w with fatal := true } = s0 at hlog hx hrun
  unfold endBlocks
  simp -zeta only [hrun]
  extract_lets s1 s2
  have h1 : Ends s0 s1 := .discardBlock _ _ _
  have hnone : runOf s1 core sheet = none :=
    (congrArg (fun x : Tab Scene × List (Nat × Launch) × TimeBase × List (Nat × Run) => lookup x.2.2.2 (shKey core sheet)) (lifeOf_discardBlock s0 core sheet)).trans
      (lookup_tdel_same _ _)
  clear_value s1
  have h2 : Ends s1 s2 := .ite (.cueDone _ _ _ _ _) (.cueFail _ _ _ _ _ _ _)
  clear_value s2
  have h3 : Ends s2 (if r.chorus = true then
      setHome (((firingCues s0 r.scene r.lc r.firing).filter (· != 1024 * core + r.cue)).foldl (endVoice (ticks s + 1) w.cause) s2) (homeKey r sheet) {}
    else s2) := .ite (.trans (.foldl (fun _ _ => .endVoice _ _ _ _) _ _) .update) (.refl s2)
  have hends := (h1.trans h2).trans h3
  exact ⟨(Ends.logged hlog).trans hends, (h2.trans h3).runs _ hnone, x, hends.recs hx, hcause⟩

/-- What an access whose walk meets an error leaves behind: TLBs, counts and the event log. -/
theorem logged_translated (s : State) (core part va : Nat) : ∃ coreTlb dieTlb served,
    Logged { s with coreTlb := coreTlb, dieTlb := dieTlb, served := served } (translated s core part 3 va) := by
  unfold translated
  rw [if_pos rfl, tlbFill_eq]
  split
  · exact ⟨_, _, _, .refl _⟩
  · exact ⟨_, _, _, logged_walkEcc _ _ _ _⟩

/-! ## Faults -/

section
variable {s : State} {t : Thread} {r : Run} (h : Runs s t r) (d : Nat) {a tid off n c : Nat} {store : Bool} (sext : Bool)
  (herr : accessOf s (whoOf s.cur.core r) (tidOf s s.cur.core r.part tid) ((rdReg t a).toInt + sx 8 off) 0 n n false store .prompter = .error c)
include h herr

/-- A check that fails raises its cause. -/
theorem memAccess_traps (hfatal : fatalFault s r.part c = false) :
    ∃ i0 i1, memAccess s d a tid off n store sext = .next (trapNow s c i0 i1 pathE) := by
  have hc : c ≠ 0x16C := by
    rintro rfl
    rw [fatalFault, beq_self_eq_true, Bool.or_true] at hfatal
    exact absurd hfatal (by decide)
  unfold memAccess
  rw [onThread_runs h]
  dsimp only
  rw [show (whoOf s.cur.core r).core = s.cur.core from rfl, show (whoOf s.cur.core r).part = r.part from rfl, herr]
  dsimp only
  rw [if_neg hc, if_neg (by rw [hfatal]; decide)]
  exact ⟨_, _, rfl⟩

/-- A check whose failure is fatal kills the block. -/
theorem memAccess_kills (hfatal : fatalFault s r.part c = true) :
    ∃ s1 w, Ends s s1 ∧ runOf s1 s.cur.core s.cur.slot = some r ∧ w.cause = c
      ∧ memAccess s d a tid off n store sext = .next (killFatal s1 s.cur.core s.cur.slot w) := by
  unfold memAccess
  rw [onThread_runs h]
  dsimp only
  rw [show (whoOf s.cur.core r).core = s.cur.core from rfl, show (whoOf s.cur.core r).part = r.part from rfl, herr]
  dsimp only
  by_cases hc : c = 0x16C
  · obtain ⟨coreTlb, dieTlb, served, hlog⟩ := logged_translated s s.cur.core r.part (elemAddr (tidOf s s.cur.core r.part tid)
      (unlin (tidOf s s.cur.core r.part tid) ((rdReg t a).toInt + sx 8 off).toNat))
    rw [if_pos hc]
    exact ⟨_, _, .trans .update (.logged hlog), (congrArg (lookup · _) hlog.runs).trans h.1, rfl, rfl⟩
  · rw [if_neg hc, if_pos hfatal]
    exact ⟨s, _, .refl s, h.1, rfl, rfl⟩

end

theorem accessFaultsRule : AccessFaultsRule := by
  intro s t r d a tid off n c st i h hi herr fatal
  obtain ⟨sext, hexec⟩ := exec_eq_memAccess s hi
  have hfatal : fatal ↔ fatalFault s r.part c = true := by
    simp only [fatal, fatalFault, Bool.or_eq_true, Bool.and_eq_true, beq_iff_eq]
  rw [hexec]
  refine ⟨fun hf => memAccess_traps h d sext herr (Bool.eq_false_iff.2 (hf ∘ hfatal.2)), fun hf => ?_⟩
  obtain ⟨s1, w, hends, hrun, hw, hkill⟩ := memAccess_kills h d sext herr (hfatal.1 hf)
  obtain ⟨hends', hnone, x, hx, hcause⟩ := killFatal_ends hrun w
  rw [hkill]
  refine ⟨_, rfl, hnone, ?_, x, hx, hcause.trans hw⟩
  rw [List.all_eq_true]
  exact fun q hq => List.contains_iff_mem.2 ((hends.trans hends').reqs hq)

/-- Settles O7, by the cases of an access at issue: it goes, it asks for its grant, it traps, or it ends its block. -/
theorem accessIssue : Obligations.AccessIssue := ⟨loadIssueRule, storeIssueRule, accessAsksRule, accessFaultsRule⟩

end Sys2Proof.Machine
end

section
/-! Loads and stores as they perform, return and time out (R219, R229, R230, R427). -/

set_option Elab.async false

namespace Sys2Proof.Machine

open Safety

/-! ## What performing meets (R439) -/

/-- An access of the safety processor's memory enters its lines in the coherency cache, and changes nothing else. -/
theorem holdLines_only (s : State) (p : Place) (n : Nat) : ∃ cacheLines, holdLines s p n = { s with cacheLines := cacheLines } := by
  unfold holdLines
  split
  · exact ⟨_, rfl⟩
  · exact ⟨_, rfl⟩

theorem eccStore_good {s : State} {a n : Nat} (h : eccOf s a n = 0) (core : Nat) : eccStore s ⟨.dev, a⟩ n core = (s, true) :=
  eccBlocks_good (fun b hb => foldl_max_eq_zero.1 h b (List.mem_filter.1 hb).1) _ _

/-- The check of an access that touches no bad block of memory passes. -/
theorem eccAccess_good {s : State} {p : Place} {n : Nat} (h : p.store ≠ .dev ∨ eccOf s p.addr n = 0) (store : Bool) (core : Nat) :
    (if store then eccStore else eccLog) (holdLines s p n) p n core = (holdLines s p n, true) := by
  obtain ⟨st, a⟩ := p
  by_cases hd : st = .dev
  · subst hd
    have hgood : eccOf s a n = 0 := h.resolve_left (not_not_intro rfl)
    rw [holdLines_dev]
    cases store with
    | true => exact eccStore_good hgood core
    | false => exact eccLog_good hgood core
  · cases store with
    | true => exact if_pos hd
    | false => exact if_pos hd

/-- A request of a thread whose turn it is performs. -/
theorem exec_prompterPerform_thread {s : State} {q : Req} {n : Nat} (h : Performs s q n) : exec .prompterPerform s = .next (performThread s q n) := by
  obtain ⟨hq, hasker, hdone, hport, hbehind, hway, -⟩ := h
  change execPrompterPerform s = _
  simp only [execPrompterPerform, performById, hq, hdone, hport, hbehind, hway, hasker, Bool.or_self, Bool.false_eq_true, if_false]

/-! ## Stores -/

/-- A store performs: its bytes are in memory and it has left the list (R230). -/
theorem performThread_store {s : State} {q : Req} {n : Nat} (h : Performs s q n) (hst : q.store = true) (hbits : q.bits = none) (hv : q.voice = false) :
    performThread s q n = dropReq (eccFresh (wrMem (holdLines s q.place q.bytes.length) q.place q.bytes) q.place q.bytes.length) q.id := by
  obtain ⟨-, -, -, -, -, -, hfence, hgood⟩ := h
  rw [hst, if_pos rfl] at hfence hgood
  have hecc := eccAccess_good hgood true q.core
  rw [if_pos rfl] at hecc
  simp only [performThread, hst, if_true, hecc, hfence, hv, Bool.false_and, Bool.false_eq_true, if_false, Bool.not_true, storeReq, hbits]

theorem storePerformsRule : StorePerformsRule := by
  intro s q n h hst hbits hv
  obtain ⟨cacheLines, hhold⟩ := holdLines_only s q.place q.bytes.length
  rw [exec_prompterPerform_thread h, performThread_store h hst hbits hv, hhold]
  have hsame : SameMem s { s with cacheLines := cacheLines } := ⟨rfl, rfl, rfl⟩
  have hwr := rdMem_wrMem_same { s with cacheLines := cacheLines } q.place q.bytes
  have hbut := sameBytesBut_wrMem { s with cacheLines := cacheLines } q.place q.bytes
  have hreqs : (wrMem { s with cacheLines := cacheLines } q.place q.bytes).reqs = s.reqs := by unfold wrMem; split <;> rfl
  have hth := threads_wrMem { s with cacheLines := cacheLines } q.place q.bytes
  generalize wrMem { s with cacheLines := cacheLines } q.place q.bytes = s1 at hwr hbut hreqs hth
  obtain ⟨ecc, hecc⟩ := eccFresh_only s1 q.place q.bytes.length
  have hmem : SameMem s1 (dropReq { s1 with ecc := ecc } q.id) := ⟨rfl, rfl, rfl⟩
  rw [hecc]
  exact ⟨_, rfl, (hmem.rdMem _ _).trans hwr, fun x hx => (hmem.rdMem x 1).trans ((hbut x hx).trans (hsame.rdMem x 1)),
    congrArg (List.filter fun p : Req => p.id != q.id) hreqs, hth⟩

/-! ## Loads -/

/-- A table whose values all pass through a function that keeps the value of an absent key. -/
theorem tget_map {α : Type} {f : α → α} {d : α} (hd : f d = d) (t : Tab α) (k : Nat) : tget (t.map fun p => (p.1, f p.2)) d k = f (tget t d k) := by
  rw [tget_eq_lookup, tget_eq_lookup, lookup_map (fun p => (p.1, f p.2)) fun _ => rfl]
  cases lookup t k with
  | none => exact hd.symm
  | some v => rfl

/-- What a load's data makes of a thread: it has effect on the one that waits for it. -/
def loadedThread (q : Req) (back cause : Nat) (v : W64) (t : Thread) : Thread :=
  if t.wait = .load q.id then { t with wait := .loaded back cause v (if cause = 0 then q.dst else info3 q.tid 4 q.place.addr) } else t

/-- The thread that waits for a load, once its data has set out for it. -/
theorem getTh_loadReturns (s : State) (q : Req) (cause : Nat) (l : List Byte) (k : Nat) (h : (getTh s k).wait = .load q.id) :
    ∃ back, getTh (loadReturns s q cause l) k = { getTh s k with wait := (.loaded back cause
      (if cause ≠ 0 then w64 q.index else if q.sext then BitVec.ofInt 64 (sx 32 (leNat l)) else w64 (leNat l))
      (if cause = 0 then q.dst else info3 q.tid 4 q.place.addr)) } := by
  have hmap (back : Nat) (v : W64) := tget_map (f := loadedThread q back cause v) (d := default) (if_neg Wait.noConfusion) s.threads k
  exact ⟨_, (hmap _ _).trans (if_pos h)⟩

/-- A load that no earlier store of its agent is before sees memory (R229). -/
theorem forward_none {s : State} {q : Req} (h : ∀ p ∈ s.reqs, p.store = true → p.core = q.core → p.asker = q.asker → q.id ≤ p.id) (l : List Byte) :
    forward s q l = l := by
  have hmine : (s.reqs.filter fun p => p.store && p.core == q.core && p.asker == q.asker && p.id < q.id && p.place.store == q.place.store) = [] := by
    refine List.filter_eq_nil_iff.2 fun p hp hx => ?_
    simp only [Bool.and_eq_true, beq_iff_eq, decide_eq_true_eq] at hx
    obtain ⟨⟨⟨⟨hst, hcore⟩, hasker⟩, hlt⟩, -⟩ := hx
    exact absurd (h p hp hst hcore hasker) (by omega)
  unfold forward
  rw [hmine]
  refine List.ext_getElem (by rw [List.length_map, List.length_range]) fun i hi hi' => ?_
  rw [List.getElem_map, List.getElem_range, List.foldl_nil, List.getD_eq_getElem _ _ hi']

/-- A load performs: it leaves the list with the bytes it has sampled (R230). -/
theorem performThread_load {s : State} {q : Req} {n : Nat} (h : Performs s q n) (hst : q.store = false)
    (hc : ((runOf s q.core n).map (·.chorus)).getD false = false) (hback : backDown s q.core q.place = false)
    (hown : ∀ p ∈ s.reqs, p.store = true → p.core = q.core → p.asker = q.asker → q.id ≤ p.id) :
    performThread s q n = loadReturns (dropReq (holdLines s q.place q.len) q.id) q 0 (rdMem s q.place q.len) := by
  obtain ⟨-, -, -, -, -, -, hfence, hgood⟩ := h
  rw [hst, if_neg (by decide)] at hfence hgood
  have hecc := eccAccess_good hgood false q.core
  rw [if_neg (by decide)] at hecc
  obtain ⟨cacheLines, hhold⟩ := holdLines_only s q.place q.len
  have hmem : SameMem s (holdLines s q.place q.len) := hhold ▸ ⟨rfl, rfl, rfl⟩
  have hforward : forward (holdLines s q.place q.len) q (rdMem s q.place q.len) = rdMem s q.place q.len := forward_none (hhold ▸ hown) _
  simp only [performThread, hst, Bool.false_eq_true, if_false, hecc, hfence, Bool.not_true, hmem.rdMem, hforward, hc, hback]

theorem loadPerformsRule : LoadPerformsRule := by
  intro s q n t h hst hc ht hwait hback hown x v
  have hexec := (exec_prompterPerform_thread h).trans (congrArg Host.Outcome.next (performThread_load h hst hc hback hown))
  obtain ⟨cacheLines, hhold⟩ := holdLines_only s q.place q.len
  rw [hhold] at hexec
  obtain ⟨back, hth⟩ := getTh_loadReturns (dropReq { s with cacheLines := cacheLines } q.id) q 0 (rdMem s q.place q.len) (thKey q.core n)
    ((congrArg Thread.wait ht).trans hwait)
  refine ⟨_, back, hexec, SameMem.sameBytes ⟨rfl, rfl, rfl⟩, hth.trans ?_⟩
  rw [if_neg (not_not_intro rfl), if_pos rfl]
  exact congrArg (fun t : Thread => { t with wait := .loaded back 0 v q.dst }) ht

theorem loadReturnsRule : LoadReturnsRule := by
  intro s t d m v ht
  refine ⟨wrReg { t with wait := .none } d v, wrote_wrReg _ d v, ?_⟩
  change getTh s (thKey s.cur.core s.cur.slot) = _ at ht
  simp only [dataBack, ne_eq, not_true_eq_false, if_false, ht]
  rfl

/-! ## Timeouts (R427) -/

/-- The request that has timed out. -/
theorem exec_cxlTimeout {s : State} {q : Req} (hflag : s.cur.flag = false) (hq : s.reqs.find? (·.id == s.cur.ix) = some q) (hdev : q.place.store ≠ .dev) :
    (q.store = false → exec .cxlTimeout s = .next (loadReturns (dropReq s q.id) q 0x069 []))
    ∧ (q.store = true → ∀ t r, q.asker = .thread t → runOf s q.core t = some r → ∃ w : Why, w.cause = 0x069
      ∧ exec .cxlTimeout s = .next (queueFor (dropReq s q.id) q.core r w)) := by
  refine ⟨fun hst => ?_, fun hst t r hasker hrun => ?_⟩
  · change execCxlTimeout s = _
    simp only [execCxlTimeout, hflag, hq, hst, if_neg hdev, Bool.false_eq_true, if_false]
  · change ∃ w : Why, w.cause = 0x069 ∧ execCxlTimeout s = _
    simp only [execCxlTimeout, hflag, hq, hst, if_neg hdev, Bool.false_eq_true, if_false, if_true, hasker, hrun]
    exact ⟨_, rfl, rfl⟩

theorem mem_dropReq {s : State} {id : Nat} {p : Req} (h : p ∈ (dropReq s id).reqs) : p.id ≠ id := by
  have := (List.mem_filter.1 h).2
  simpa using this

theorem hostTimeoutsRule : HostTimeoutsRule := by
  intro s q hflag hq hdev
  obtain ⟨hload, hstore⟩ := exec_cxlTimeout hflag hq hdev
  refine ⟨fun hst => ⟨_, hload hst, SameMem.sameBytes ⟨rfl, rfl, rfl⟩, fun p hp => mem_dropReq hp, fun k hk => ?_⟩, fun hst t r hasker hrun => ?_⟩
  · obtain ⟨back, hth⟩ := getTh_loadReturns (dropReq s q.id) q 0x069 [] k hk
    exact ⟨back, _, (congrArg Thread.wait hth).trans rfl⟩
  · obtain ⟨w, hw, hexec⟩ := hstore hst t r hasker hrun
    have hlog : Logged (dropReq s q.id) (queueFor (dropReq s q.id) q.core r w) := logged_queueWith _ _ _ _ _ _ _ _
    obtain ⟨x, hx, hcause⟩ : ∃ x ∈ (queueFor (dropReq s q.id) q.core r w).recs, x.2.cause = w.cause := mem_recs_queueWith _ _ _ _ _ _ _ _
    refine ⟨_, hexec, ?_, hlog.threads, fun p hp => mem_dropReq ((Ends.logged hlog).reqs hp), x, hx, hcause.trans hw⟩
    exact (SameMem.trans (t := dropReq s q.id) ⟨rfl, rfl, rfl⟩ (sameMem_queueFor _ _ _ _)).sameBytes

/-- Settles O8, by what a request of a thread does when it performs and when its port has timed out, and by what the thread's next slot does with its data. -/
theorem accessPerforms : Obligations.AccessPerforms := ⟨storePerformsRule, loadPerformsRule, loadReturnsRule, hostTimeoutsRule⟩

end Sys2Proof.Machine
end

section
/-! Starting, awaiting and stopping a region, and what refuses it (R240 to R242, R244, R267). -/

set_option Elab.async false

namespace Sys2Proof.Machine

open Safety

variable {s : State} {t : Thread} {r : Run}

/-! ## Elements of a region whose results are due before a cycle (R267) -/

/-- A table whose values pass through functions of their keys that keep the value of an absent key. -/
theorem tget_mapKey {α : Type} {f : Nat → α → α} {d : α} (hd : ∀ k, f k d = d) (t : Tab α) (k : Nat) :
    tget (t.map fun p => (p.1, f p.1 p.2)) d k = f k (tget t d k) := by
  rw [tget_eq_lookup, tget_eq_lookup, lookup_map (fun p => (p.1, f p.1 p.2)) fun _ => rfl]
  cases lookup t k with
  | none => exact (hd k).symm
  | some v => rfl

/-- The element at a key once the results of the region of key k are due by cycle n. -/
def dueElem (k n e : Nat) (x : Elem) : Elem :=
  if e / 256 = k then { x with pipe := x.pipe.map fun f => { f with due := min f.due (n - 1) } } else x

theorem deliverBy_eq (s : State) (k n : Nat) : deliverBy s k n = { s with elems := s.elems.map fun p => (p.1, dueElem k n p.1 p.2) } := by
  rw [deliverBy]
  congr 2
  funext p
  rw [dueElem]
  split <;> rfl

theorem getEl_dueElem (s : State) (k n e : Nat) :
    tget (s.elems.map fun p => (p.1, dueElem k n p.1 p.2)) default e = dueElem k n e (getEl s e) := by
  refine tget_mapKey (fun e => ?_) s.elems e
  rw [dueElem]
  split <;> rfl

/-- Of an element only its pipeline changes, and that by when its results are due. -/
theorem dueElem_own (k n e : Nat) (x : Elem) : { dueElem k (n + 4) e x with pipe := x.pipe } = x ∧ (e / 256 ≠ k → dueElem k (n + 4) e x = x)
    ∧ (e / 256 = k → (dueElem k (n + 4) e x).pipe.map (fun f => { f with due := 0 }) = x.pipe.map (fun f => { f with due := 0 })
      ∧ ∀ f ∈ (dueElem k (n + 4) e x).pipe, f.due ≤ n + 3) := by
  rw [dueElem]
  split
  next hk =>
    refine ⟨rfl, fun h => absurd hk h, fun _ => ⟨?_, fun f hf => ?_⟩⟩
    · rw [List.map_map]
      rfl
    · obtain ⟨g, -, rfl⟩ := List.mem_map.1 hf
      exact Nat.min_le_right _ _
  next hk => exact ⟨rfl, fun _ => rfl, fun h => absurd h hk⟩

/-! ## KSTART (R241) -/

/-- The region that starts, and its run. -/
def startedRegion (s : State) (r : Run) (g : Region) (n : Nat) : Region :=
  { g with runs := true, start := g.count, trip := n, stopReq := false, runNo := g.runNo + 1, fireTick := r.fire, starter := s.cur.slot }

section
variable (h : Runs s t r) {sl : Nat} (hm : MayControl s r sl) (a : Nat) (hi : ridle s s.cur.core sl = true)
include h hm hi

/-- A region whose pages lack a plane does not start (R244). -/
theorem execKstart_lacks (hp : pagesFull (hPages (getReg s (thKey s.cur.core sl)).hdr.toNat) (getReg s (thKey s.cur.core sl)) = false) :
    execKstart a sl s = .next (trapNow s 0x144 (encSY 0x18 0 a 0 0 sl) 0 0) := by
  unfold pagesFull at hp
  simp only [execKstart, onThread_runs h, controls_of_mayControl hm, holdsRegion_of_mayControl hm, hi, hp, Bool.not_true, Bool.not_false, Bool.or_self,
    Bool.false_eq_true, if_false, if_true]

variable (hp : pagesFull (hPages (getReg s (thKey s.cur.core sl)).hdr.toNat) (getReg s (thKey s.cur.core sl)) = true)
include hp

theorem execKstart_none (hn : (rdReg t a).toNat % 2 ^ 32 = 0) : execKstart a sl s = .next (goOn s t) := by
  unfold pagesFull at hp
  simp only [execKstart, onThread_runs h, controls_of_mayControl hm, holdsRegion_of_mayControl hm, hi, hp, Bool.not_true, Bool.or_self, Bool.false_eq_true,
    if_false, hn, if_true]

end

/-- Another slot's key is another one. -/
theorem thKey_ne {s : State} {sl : Nat} (h : sl ≠ s.cur.slot) : thKey s.cur.core sl ≠ curKey s := by
  unfold curKey thKey
  omega

/-- The state in which a region has started. -/
def started (s : State) (t : Thread) (r : Run) (k n : Nat) : State :=
  goOn (deliverBy (setTh (setReg s k (startedRegion s r (getReg s k) n)) k { getTh s k with flags := 0 }) k ((getReg s k).count + 4)) t

/-- Threads, regions and elements change alone. -/
theorem started_eq (s : State) (t : Thread) (r : Run) (k n : Nat) : started s t r k n = { s with
    threads := tput (tput s.threads default k { getTh s k with flags := 0 }) default (curKey s) (advance t)
    regions := tput s.regions default k (startedRegion s r (getReg s k) n)
    elems := s.elems.map fun p => (p.1, dueElem k ((getReg s k).count + 4) p.1 p.2) } := by
  rw [started, deliverBy_eq]
  simp only [goOn, putTh, setTh, setReg, curKey]

theorem onlyRegion_started (s : State) (t : Thread) (r : Run) (sl n : Nat) :
    OnlyRegion s { started s t r (thKey s.cur.core sl) n with elems := s.elems } sl := by
  rw [started_eq]
  exact ⟨rfl, SameMem.sameBytes ⟨rfl, rfl, rfl⟩, fun j hj => (tget_tput _ _ _ _ _).trans (if_neg hj)⟩
theorem getEl_started (s : State) (t : Thread) (r : Run) (k n e : Nat) :
    getEl (started s t r k n) e = dueElem k ((getReg s k).count + 4) e (getEl s e) := by
  rw [started_eq]
  exact getEl_dueElem s k _ e
theorem getReg_started (s : State) (t : Thread) (r : Run) (k n : Nat) : getReg (started s t r k n) k = startedRegion s r (getReg s k) n := by
  rw [started_eq]
  exact (tget_tput _ _ _ _ _).trans (if_pos rfl)
theorem getTh_started (s : State) (t : Thread) (r : Run) (k n : Nat) : getTh (started s t r k n) (curKey s) = advance t := by
  rw [started_eq]
  exact (tget_tput _ _ _ _ _).trans (if_pos rfl)
theorem getTh_started_slot (s : State) (t : Thread) (r : Run) {k : Nat} (n : Nat) (hk : k ≠ curKey s) :
    getTh (started s t r k n) k = { getTh s k with flags := 0 } := by
  rw [started_eq]
  exact (tget_tput _ _ _ _ _).trans ((if_neg hk).trans ((tget_tput _ _ _ _ _).trans (if_pos rfl)))

/-- A word of KSTART that starts instances. -/
theorem execKstart_starts (h : Runs s t r) {sl : Nat} (hm : MayControl s r sl) (a : Nat) (hi : ridle s s.cur.core sl = true)
    (hp : pagesFull (hPages (getReg s (thKey s.cur.core sl)).hdr.toNat) (getReg s (thKey s.cur.core sl)) = true)
    (hn : (rdReg t a).toNat % 2 ^ 32 ≠ 0) : execKstart a sl s = .next (started s (if sl = s.cur.slot then { t with flags := 0 } else t) r
      (thKey s.cur.core sl) ((rdReg t a).toNat % 2 ^ 32)) := by
  unfold pagesFull at hp
  simp only [execKstart, onThread_runs h, controls_of_mayControl hm, holdsRegion_of_mayControl hm, hi, hp, Bool.not_true, Bool.or_self, Bool.false_eq_true,
    if_false, if_neg hn]
  rfl

/-! ## KSTOP and KWAIT (R242) -/

section
variable (h : Runs s t r) (sl : Nat)
include h

theorem execKstop_running (hm : MayControl s r sl) (hr : (getReg s (thKey s.cur.core sl)).runs = true) :
    execKstop sl s = .next (goOn (setReg s (thKey s.cur.core sl) { getReg s (thKey s.cur.core sl) with stopReq := true }) t) := by
  simp only [execKstop, onThread_runs h, controls_of_mayControl hm, hr, Bool.not_true, Bool.false_eq_true, if_false, if_true]

theorem execKstop_idle (hm : MayControl s r sl) (hr : (getReg s (thKey s.cur.core sl)).runs = false) : execKstop sl s = .next (goOn s t) := by
  simp only [execKstop, onThread_runs h, controls_of_mayControl hm, hr, Bool.not_true, Bool.false_eq_true, if_false]

theorem execKwait_idle (hr : ridle s s.cur.core sl = true) (hd : didle s s.cur.core sl = true) : execKwait sl s = .next (goOn s t) := by
  simp only [execKwait, onThread_runs h, hr, hd, Bool.and_self, if_true]

theorem execKwait_busy (hb : (ridle s s.cur.core sl && didle s s.cur.core sl) = false) : execKwait sl s = .next (putTh s { t with wait := .kwait sl }) := by
  simp only [execKwait, onThread_runs h, hb, Bool.false_eq_true, if_false]

end

theorem kernelWordsRule : KernelWordsRule := by
  intro s t r a sl h hm k g n
  refine ⟨fun hi hfull => ⟨fun hn => ?none, fun hn => ?starts⟩, fun hrun => ?stops, fun hrun => ?stopped, fun hr hd => ?idle, fun hb => ?busy⟩
  case none =>
    change Safety.Passes s t (execKstart a sl s)
    rw [execKstart_none h hm a hi (pagesFull_iff.2 hfull) hn]
    exact becomes_putTh s (advance t)
  case starts =>
    have hreg := getReg_started s (if sl = s.cur.slot then { t with flags := 0 } else t) r k n
    refine ⟨_, if sl = s.cur.slot then { t with flags := 0 } else t, execKstart_starts h hm a hi (pagesFull_iff.2 hfull) hn, onlyRegion_started .., fun e => ?_,
      ?_, ?_, ?_, ?_, ?_, fun hsl => ?_, getTh_started .., fun hsl => ?_⟩
    · rw [getEl_started]
      exact dueElem_own k g.count e (getEl s e)
    · rw [hreg, startedRegion]
    · rw [hreg, startedRegion]
    · rw [hreg, startedRegion]
    · rw [hreg, startedRegion]
    · split <;> rfl
    · rw [if_pos hsl]
    · rw [getTh_started_slot s _ r _ (thKey_ne hsl)]
  case stops =>
    exact ⟨_, execKstop_running h sl hm hrun, onlyRegion_goOn (onlyRegion_setReg _ _ _) t, getReg_setReg_self _ _ _, getTh_goOn _ _⟩
  case stopped =>
    change Safety.Passes s t (execKstop sl s)
    rw [execKstop_idle h sl hm hrun]
    exact becomes_putTh s (advance t)
  case idle =>
    change Safety.Passes s t (execKwait sl s)
    rw [execKwait_idle h sl hr hd]
    exact becomes_putTh s (advance t)
  case busy =>
    change Becomes s { t with wait := .kwait sl } (execKwait sl s)
    rw [execKwait_busy h sl (by obtain hb | hb := hb <;> simp [hb])]
    exact becomes_putTh s _

/-! ## What is refused (R240, R244) -/

/-- A slot whose own thread runs is its own to control. -/
theorem controls_of_running {sl : Nat} (hne : sl ≠ s.cur.slot) (hrun : (runOf s s.cur.core sl).isSome = true) :
    controls s s.cur.core s.cur.slot sl r.part = false := by
  have hsome : (runOf s s.cur.core sl).isNone = false := by rw [← Option.not_isSome, hrun, Bool.not_true]
  simp [controls, hsome, hne]

theorem controlRefusedRule : ControlRefusedRule := by
  intro s t r a b sl h hplaced hpart
  have hold : holdsRegion s s.cur.core sl r.part = true := by simp [holdsRegion, hplaced, hpart]
  refine ⟨fun hne hrun i hi => ?_, fun hm hidle ⟨p, hp, hlack⟩ => ?_⟩
  · have hctl : controls s s.cur.core s.cur.slot sl r.part = false := controls_of_running hne hrun
    obtain rfl | rfl | ⟨p, rfl⟩ | ⟨j, rfl⟩ | rfl | rfl := hi
    · change ∃ w, Traps s 0x143 w 0 0 false (execKstart a sl s)
      simp only [execKstart, onThread_runs h, hctl, Bool.not_false, Bool.true_or, if_true]
      exact ⟨_, rfl⟩
    · change ∃ w, Traps s 0x143 w 0 0 false (execKstop sl s)
      simp only [execKstop, onThread_runs h, hctl, Bool.not_false, if_true]
      exact ⟨_, rfl⟩
    · change ∃ w, Traps s 0x143 w 0 0 false (execCfgld p a b sl s)
      simp only [execCfgld, onThread_runs h, hold, hctl, Bool.not_true, Bool.not_false, Bool.true_or, Bool.false_eq_true, if_false, if_true]
      exact ⟨_, rfl⟩
    · change ∃ w, Traps s 0x143 w 0 0 false (execConstw a b j sl s)
      simp only [execConstw, onThread_runs h, hold, hctl, Bool.not_true, Bool.not_false, Bool.false_eq_true, if_false, if_true]
      exact ⟨_, rfl⟩
    · change ∃ w, Traps s 0x143 w 0 0 false (execVsel a sl s)
      simp only [execVsel, onThread_runs h, hold, hctl, Bool.not_true, Bool.not_false, Bool.false_eq_true, if_false, if_true]
      exact ⟨_, rfl⟩
    · change ∃ w, Traps s 0x143 w 0 0 false (execEpsel a sl s)
      simp only [execEpsel, onThread_runs h, hold, hctl, Bool.not_true, Bool.not_false, Bool.false_eq_true, if_false, if_true]
      exact ⟨_, rfl⟩
  · have hlacks : pagesFull (hPages (getReg s (thKey s.cur.core sl)).hdr.toNat) (getReg s (thKey s.cur.core sl)) = false := by
      refine Bool.eq_false_iff.2 fun hfull => ?_
      obtain ⟨hop, hrt⟩ := pagesFull_iff.1 hfull p hp
      exact hlack.elim (· hop) (· hrt)
    exact ⟨_, execKstart_lacks h hm a hidle hlacks⟩

/-- Settles O12, by the cases of KSTART, KSTOP and KWAIT, and by the check of control that each word of the engine makes. -/
theorem kernelControl : Obligations.KernelControl := ⟨kernelWordsRule, controlRefusedRule⟩

end Sys2Proof.Machine
end

section
/-! Fences, releases and acquires (R252, R253, R337, R338, R340, R341, R355). -/

set_option Elab.async false

namespace Sys2Proof.Machine

open Safety

variable {s : State} {t : Thread} {r : Run}

/-! ## The requests of a fence to the engines that hold race tags (R355) -/

/-- The request to widen the tags that a die's engine holds. -/
def widenReq (s : State) (w : Who) (slot src dst id die : Nat) : SyncReq := {
  id := id, core := w.core, t := slot, home := die, p0 := (getPart s w.part).rt, op := 62, arg := src, val := dst, cmp := 0, d := 0
  arrive := s.cycle + oneWay w.core die, key := [w.part, w.scene, w.gslot, w.lc, w.voice] }

/-- One request sets out for each die. -/
theorem askWiden_only (s : State) (w : Who) (slot src dst : Nat) : ∃ nextId l, askWiden s w slot src dst = { s with nextId := nextId, syncQ := s.syncQ ++ l }
    ∧ l.map (·.home) = tagDies s w.core w.part ∧ ∀ q ∈ l, q.op = 62 ∧ q.arg = src ∧ q.val = dst ∧ q.core = w.core ∧ q.t = slot
      ∧ q.arrive = s.cycle + oneWay w.core q.home := by
  unfold askWiden
  generalize tagDies s w.core w.part = dies
  induction dies generalizing s with
  | nil => exact ⟨_, [], by rw [List.append_nil]; rfl, rfl, fun q hq => absurd hq List.not_mem_nil⟩
  | cons die dies ih =>
    obtain ⟨nextId, l, hs, hhome, hall⟩ := ih { s with nextId := s.nextId + 1, syncQ := s.syncQ ++ [widenReq s w slot src dst s.nextId die] }
    refine ⟨nextId, widenReq s w slot src dst s.nextId die :: l, ?_, congrArg (die :: ·) hhome,
      List.forall_mem_cons.2 ⟨⟨rfl, rfl, rfl, rfl, rfl, rfl⟩, hall⟩⟩
    rw [List.append_assoc, List.singleton_append] at hs
    exact hs

/-! ## A fence whose sources have performed (R340) -/

/-- A tag of the fence's logical core and phase is widened, any other is as before. -/
theorem mem_tags_widen (s : State) (w : Who) (src dst : Nat) {k : Nat} {g : RaceTag} (h : (k, g) ∈ s.tags) :
    (k, if k / 2 ^ 32 / 256 = w.scene ∧ g.wlc = w.lc ∧ g.phase = racePhase s w (tidOf s w.core w.part (k / 2 ^ 32 % 256)) ∧ g.wpath &&& src ≠ 0
      then { g with wpath := g.wpath ||| dst } else g) ∈ (widen s w src dst).tags := by
  refine List.mem_map.2 ⟨(k, g), h, ?_⟩
  dsimp only [Option.getD_none]
  simp only [and_true]
  split <;> rfl

theorem fenceArrives_near (s : State) (t : Thread) (r : Run) (src dst : Nat) (h : tagTrip s s.cur.core r.part = 0) :
    fenceArrives s t r src dst = goOn (widen s (whoOf s.cur.core r) src dst) { t with wait := .none } := if_pos h

theorem fenceArrives_far (s : State) (t : Thread) (r : Run) (src dst : Nat) (h : tagTrip s s.cur.core r.part ≠ 0) :
    fenceArrives s t r src dst = putTh (askWiden s (whoOf s.cur.core r) s.cur.slot src dst)
      { t with wait := .fenceTrip src dst (s.cycle + tagTrip s s.cur.core r.part) } := if_neg h

section
variable (h : Runs s t r)
include h

theorem execFenceP_eq (src dst : Nat) (sc : Scope) : execFenceP src dst sc s = .next (
    if settled s s.cur.core (fenceIds s s.cur.core s.cur.slot r.part src) then fenceArrives s t r src dst
    else putTh s { t with wait := .fence src dst (scopeCode sc) (fenceIds s s.cur.core s.cur.slot r.part src) }) := onThread_runs h _

theorem execFenceD_eq : execFenceD s = .next (
    if settled s s.cur.core (fenceDIds s s.cur.core s.cur.slot r.part) then fenceArrives s t r 63 63
    else putTh s { t with wait := .fence 63 63 12 (fenceDIds s s.cur.core s.cur.slot r.part) }) := onThread_runs h _

theorem execRel_eq (hc : r.chorus = false) (sc : Scope) : execRel sc s = .next (
    if settled s s.cur.core (relIds s s.cur.core s.cur.slot r.part) then goOn s { t with wait := .none }
    else putTh s { t with wait := .rel (relIds s s.cur.core s.cur.slot r.part) }) := by
  rw [execRel, onThread_runs h, comparePoint_alone s t hc]

end

/-- Settles O18, by what a fence does when its sources have performed, with and without tags to reach, and by the waits of those that have not. -/
theorem fencesAndReleases : Obligations.FencesAndReleases := by
  intro s t r src dst sc h hc core slot widens rel fp fd asks
  have hwidens (a b : Nat) (htrip : tagTrip s core r.part = 0) : widens a b (fenceArrives s t r a b) := by
    rw [fenceArrives_near s t r a b htrip]
    exact ⟨SameMem.sameBytes ⟨rfl, rfl, rfl⟩, fun k hk => (getTh_setTh _ _ _ _).trans (if_neg hk), getTh_goOn _ _,
      fun k g hg => mem_tags_widen s _ a b hg⟩
  have hasks (a b : Nat) (htrip : tagTrip s core r.part ≠ 0) : asks a b (fenceArrives s t r a b) := by
    obtain ⟨nextId, l, hask, hhome, hall⟩ := askWiden_only s (whoOf s.cur.core r) s.cur.slot a b
    rw [fenceArrives_far s t r a b htrip, hask]
    exact ⟨SameMem.sameBytes ⟨rfl, rfl, rfl⟩, fun k hk => (getTh_setTh _ _ _ _).trans (if_neg hk), rfl, getTh_setTh_self _ _ _, l, rfl, hhome, hall⟩
  have hfp : exec (.fenceP src dst sc) s = _ := execFenceP_eq h src dst sc
  have hfd : exec .fenceD s = _ := execFenceD_eq h
  have hrel : exec (.rel sc) s = _ := execRel_eq h hc sc
  refine ⟨fun hs ht => ⟨_, hfp, ?_⟩, fun hs ht => ⟨_, hfd, ?_⟩, fun hs ht => ⟨_, hfp, ?_⟩, fun hs ht => ⟨_, hfd, ?_⟩,
    fun hs => ⟨scopeCode sc, ?_⟩, fun hs => ?_, ?_, fun hs => ?_, fun hs => ?_, ?_⟩
  · rw [if_pos hs]
    exact hwidens src dst ht
  · rw [if_pos hs]
    exact hwidens 63 63 ht
  · rw [if_pos hs]
    exact hasks src dst ht
  · rw [if_pos hs]
    exact hasks 63 63 ht
  · rw [hfp, if_neg (Bool.eq_false_iff.1 hs)]
    exact becomes_putTh s _
  · rw [hfd, if_neg (Bool.eq_false_iff.1 hs)]
    exact becomes_putTh s _
  · change Becomes s _ (execFenceSc s)
    rw [execFenceSc, onThread_runs h]
    exact becomes_putTh s _
  · rw [hrel, if_pos hs]
    exact becomes_putTh s (advance { t with wait := .none })
  · rw [hrel, if_neg (Bool.eq_false_iff.1 hs)]
    exact becomes_putTh s _
  · change Safety.Passes s t (execAcq sc s)
    rw [execAcq, onThread_runs h]
    exact becomes_putTh s (advance t)

end Sys2Proof.Machine
end

section
/-! Taking a trap, the double fault, and the words that trap (R157, R158, R220, R257, R258, R359, R361, R366). -/

set_option Elab.async false

namespace Sys2Proof.Machine

open Safety

/-! ## Trap entry (R258, R366) -/

/-- The registers that a trap saves, and those it leaves. -/
theorem trapRegs_own (s : State) (t : Thread) (r : Run) (slot c i0 i1 i2 : Nat) (done : Bool) :
    let x := trapRegs s t r slot c i0 i1 i2 done
    (x.pmode = t.mode ∧ x.cause = c ∧ x.async = false ∧ x.traptick = BitVec.ofNat 64 s.tb.ticks)
    ∧ (x.info0 = BitVec.ofNat 64 i0 ∧ x.info1 = BitVec.ofNat 64 i1 ∧ x.info2 = BitVec.ofNat 64 i2)
    ∧ (x.g = t.g ∧ x.win = t.win ∧ x.depth = t.depth) ∧ x.branch = none
    ∧ (t.branch = none → x.ds = false ∧ x.taken = t.taken ∧ x.dsk = t.dsk ∧ x.skip = t.skip
        ∧ x.trappc = BitVec.ofNat 64 (if done then (t.pc + 4) % 2 ^ 32 else t.pc))
    ∧ ∀ b, t.branch = some b → x.ds = true ∧ x.taken = b.taken ∧ x.dsk = b.kind ∧ x.skip = done
        ∧ x.trappc = BitVec.ofNat 64 (t.pc + (if b.taken then b.target * 2 ^ 32 else 0)) := by
  unfold trapRegs
  cases hb : t.branch with
  | none =>
    refine ⟨⟨rfl, rfl, rfl, rfl⟩, ⟨rfl, rfl, rfl⟩, ⟨rfl, rfl, rfl⟩, rfl, fun _ => ⟨rfl, rfl, rfl, rfl, ?_⟩, fun b h => absurd h (by simp)⟩
    cases done <;> simp [trapAddr, trapPc, w64]
  | some b =>
    refine ⟨⟨rfl, rfl, rfl, rfl⟩, ⟨rfl, rfl, rfl⟩, ⟨rfl, rfl, rfl⟩, rfl, fun h => absurd h (by simp), fun c h => ?_⟩
    obtain rfl : b = c := Option.some.inj h
    refine ⟨rfl, rfl, rfl, rfl, ?_⟩
    simp [trapAddr, trapPc, w64]

/-- Registers are read from the global registers, the windows and the depth alone. -/
theorem rdReg_congr {t t' : Thread} (hg : t'.g = t.g) (hw : t'.win = t.win) (hd : t'.depth = t.depth) (x : Nat) : rdReg t' x = rdReg t x := by
  rw [rdReg, rdReg, hg, hw, hd]

theorem trapEntryRule : TrapEntryRule := by
  intro s t r core slot c i0 i1 i2 done hrun ht hm v h4 hlen h32 s' t'
  subst ht
  have hf : fetchable (vector (getTh s (thKey core slot)) c) r.len = true := by
    simp only [fetchable, Bool.and_eq_true, beq_iff_eq, decide_eq_true_eq]
    exact ⟨h4, hlen⟩
  have hs' := takeTrap_user hrun hm hf h32 i0 i1 i2 done
  obtain ⟨⟨h1, h2, h3, htick⟩, hinfo, ⟨hg, hw, hd⟩, hbranch, hnone, hsome⟩ := trapRegs_own s (getTh s (thKey core slot)) r slot c i0 i1 i2 done
  have ht' : t' = { trapRegs s (getTh s (thKey core slot)) r slot c i0 i1 i2 done with
      mode := true, pc := vector (getTh s (thKey core slot)) c, wait := .none } := (congrArg (getTh · (thKey core slot)) hs').trans (getTh_setTh_self _ _ _)
  generalize trapRegs s (getTh s (thKey core slot)) r slot c i0 i1 i2 done = x at *
  rw [ht', show s' = _ from hs']
  exact ⟨rfl, SameMem.sameBytes ⟨rfl, rfl, rfl⟩, fun k hk => (getTh_setTh _ _ _ _).trans (if_neg hk), rfl, rfl, h1.trans hm, h2, h3, hinfo.1, hinfo.2.1, hinfo.2.2,
    htick, rdReg_congr hg hw hd, hbranch, hnone, hsome⟩

/-! ## The double fault (R361) -/

/-- No thread changes when a cue fails. -/
theorem threads_cueFail (s : State) (core ix t fireN cause variant : Nat) : (cueFail s core ix t fireN cause variant).threads = s.threads := by
  by_cases hu : (getCue s (1024 * core + ix)).st = .under
  · unfold cueFail
    extract_lets k q g s1
    rw [if_pos (show q.st = .under from hu)]
    obtain ⟨-, -, -, hth⟩ := enterHeld_own (queueWith s core q.part { cause := 0x0C6, eng := 6, fatal := true, pos := ix, i0 := ix } q.lc
      (bits q.word0.toNat 51 40) ix (g.getD 0)) core ix fireN 0
    exact hth.trans (logged_queueWith _ _ _ _ _ _ _ _).threads
  · obtain ⟨-, -, -, -, hth⟩ := cueFail_own s core ix t fireN cause variant rfl hu
    exact hth

/-- The thread of a region sheet whose block is killed, in no chorus, stops. -/
theorem killFatal_stops {s : State} {core slot : Nat} {r : Run} (h : runOf s core slot = some r) (hs : slot ≠ 4) (hc : r.chorus = false) (w : Why) :
    (getTh (killFatal s core slot w) (thKey core slot)).running = false := by
  have hlog : Logged s (queueFor s core r { w with fatal := true }) := logged_queueWith _ _ _ _ _ _ _ _
  have hrun : runOf (queueFor s core r { w with fatal := true }) core slot = some r := (congrArg (lookup · _) hlog.runs).trans h
  unfold killFatal
  simp only [h]
  generalize queueFor s core r { w with fatal := true } = s0 at hrun
  have hd := discarded_discardBlock hrun hs
  simp only [endBlocks, hrun, hc, Bool.false_and, Bool.false_eq_true, if_false]
  exact (congrArg (fun l => (tget l default (thKey core slot)).running) (threads_cueFail _ _ _ _ _ _ _)).trans hd.stopped

theorem doubleFaultRule : DoubleFaultRule := by
  intro s r core slot c i0 i1 i2 done hslot hrun hc hm s'
  have hs' : s' = doubleFault s core slot c done := by simp only [s', takeTrap, hrun, hm, if_true]
  obtain ⟨w, hw, hfault⟩ : ∃ w : Why, w.cause = 0x00B ∧ doubleFault s core slot c done
      = devLogWhy (killFatal s core slot w) core w r.lc r.part r.block r.cue r.gang := by
    simp only [doubleFault, hrun]
    exact ⟨_, rfl, rfl⟩
  obtain ⟨-, hnone, x, hx, hcause⟩ := killFatal_ends hrun w
  have hstop := killFatal_stops hrun (by omega) hc w
  rw [hs', hfault]
  have hlog := logged_devLogWhy (killFatal s core slot w) core w r.lc r.part r.block r.cue r.gang
  obtain ⟨e, he, hecause⟩ := mem_evlog_devLogWhy (killFatal s core slot w) core w r.lc r.part r.block r.cue r.gang
  exact ⟨(congrArg (lookup · _) hlog.runs).trans hnone, (congrArg (fun l => (tget l default (thKey core slot)).running) hlog.threads).trans hstop,
    ⟨x, hlog.recs hx, hcause.trans hw⟩, e, he, hecause.trans hw⟩

/-! ## The words that trap (R157, R158, R220, R257) -/

theorem wordOf_trap (i : Nat) : wordOf (.trap i) = 0x30 * 2 ^ 26 + i := rfl

/-- The thread that BRK halts: where it goes on is saved as a trap's is (R257). -/
def haltedThread (s : State) (t : Thread) (r : Run) (i : Nat) : Thread :=
  let x := trapRegs s t r s.cur.slot 0x009 0 i 0 true
  { t with trappc := x.trappc, info1 := x.info1, ds := x.ds, taken := x.taken, dsk := x.dsk, skip := x.skip, pmode := t.mode, branch := none, halted := true }

/-- The halt is logged, and besides the event log only the ring that holds it changes. -/
theorem logHalt_own (s : State) (r : Run) (core slot : Nat) (t : Thread) :
    (logHalt s r core slot t).threads = s.threads ∧ (logHalt s r core slot t).mem = s.mem ∧ ∃ e ∈ (logHalt s r core slot t).evlog, e.cause = 0x16A := by
  unfold logHalt
  extract_lets w e
  have hlog := logged_ringWrite { s with evlog := s.evlog ++ [e] } 0 e
  exact ⟨hlog.threads, hlog.mem, e, hlog.evlog (List.mem_append_right _ (List.mem_singleton_self e)), rfl⟩

theorem trapWordsRule : TrapWordsRule := by
  intro s t r i w c h
  refine ⟨?trap, ?fetch, fun hw => ?illegal, fun hd => ?brk, fun hd => ?halt⟩
  case trap =>
    change Traps s _ _ _ _ _ (execTrap i s)
    rw [execTrap, onThread_runs h, wordOf_trap]
    rfl
  case fetch =>
    change Traps s _ _ _ _ _ (execFetchFault s)
    rw [execFetchFault, onThread_runs h]
    rfl
  case illegal =>
    have hth : getTh s (thKey s.cur.core s.cur.slot) = t := h.2.1
    change Traps s _ _ _ _ _ (execIllegalWord w s)
    simp only [execIllegalWord, hth, hw]
    rw [onThread_runs h]
    rfl
  case brk =>
    change ∃ w0, Traps s _ w0 _ _ _ (execBrk i s)
    simp only [execBrk, onThread_runs h, hd, Bool.not_false, if_true]
    exact ⟨_, rfl⟩
  case halt =>
    have hexec : exec (.brk i) s = .next (logHalt (putTh s (haltedThread s t r i)) r s.cur.core s.cur.slot (haltedThread s t r i)) := by
      change execBrk i s = _
      rw [execBrk, onThread_runs h]
      exact congrArg _ (if_neg (by rw [hd]; decide))
    obtain ⟨hth, hmem, e, he, hcause⟩ := logHalt_own (putTh s (haltedThread s t r i)) r s.cur.core s.cur.slot (haltedThread s t r i)
    have hget (k : Nat) : getTh (logHalt (putTh s (haltedThread s t r i)) r s.cur.core s.cur.slot (haltedThread s t r i)) k
        = if k = curKey s then haltedThread s t r i else getTh s k := (congrArg (tget · default k) hth).trans (tget_tput _ _ _ _ _)
    obtain ⟨-, ⟨-, hinfo, -⟩, -, -, hnone, hsome⟩ := trapRegs_own s t r s.cur.slot 0x009 0 i 0 true
    refine ⟨_, hexec, fun k hk => (hget k).trans (if_neg hk), hmem, ?_, e, he, hcause⟩
    rw [hget, if_pos rfl]
    refine ⟨rfl, rfl, rfl, hinfo, fun hb => ?_, fun b hb => ?_⟩
    · obtain ⟨hds, -, -, -, hpc⟩ := hnone hb
      exact ⟨hds, hpc⟩
    · obtain ⟨hds, htaken, hdsk, hskip, hpc⟩ := hsome b hb
      exact ⟨rfl, hds, htaken, hdsk, hskip, hpc⟩

/-- Settles O21, by what a trap saves, by the kill that a double fault is, and by the trap that each word takes. -/
theorem traps : Obligations.Traps := ⟨trapEntryRule, doubleFaultRule, trapWordsRule⟩

end Sys2Proof.Machine
end

section
/-! Return from a trap and from a debug halt, and the delivery of a record (R224, R237, R259, R359, R360, R366). -/

set_option Elab.async false

namespace Sys2Proof.Machine

open Safety

/-! ## The thread after a return (R259) -/

/-- Where TRAPPC sends a thread whose word trapped. -/
def savedPc (t : Thread) : Nat := t.trappc.toNat % 2 ^ 32
/-- Where the branch leads whose slot trapped. -/
def savedTarget (t : Thread) : Nat := t.trappc.toNat / 2 ^ 32

/-- Outside a delay slot the word trapped on comes again. -/
theorem trapReturn_word {t : Thread} (hds : t.ds = false) : trapReturn t = { t with
    mode := t.pmode, wait := .none, branch := none, pc := savedPc t, ds := false, skip := false } := by
  simp only [trapReturn, hds, Bool.false_eq_true, if_false]
  rfl

/-- A delay slot that has not completed comes again, as the slot of its branch. -/
theorem trapReturn_slot {t : Thread} (hds : t.ds = true) (hskip : t.skip = false) : trapReturn t = { t with
    mode := t.pmode, wait := .none, pc := savedPc t, branch := some ⟨(savedPc t + 2 ^ 32 - 4) % 2 ^ 32, t.dsk, t.taken, savedTarget t, true⟩ } := by
  rw [trapReturn, if_pos hds, if_neg (by rw [hskip]; decide)]
  rfl

/-- After a completed slot the thread goes where its branch leads, in the window that the branch leaves. -/
theorem trapReturn_done {t : Thread} (hds : t.ds = true) (hskip : t.skip = true) : ∃ win, trapReturn t = { t with
    mode := t.pmode, wait := .none, branch := none, pc := if t.taken then savedTarget t else (savedPc t + 4) % 2 ^ 32, ds := false, skip := false
    depth := if t.dsk = 1 then t.depth + 1 else if t.dsk = 2 then t.depth - 1 else t.depth, win := win } := by
  rw [trapReturn, if_pos hds, if_pos hskip]
  split
  · obtain ⟨win, hw⟩ := callEntry_only { t with mode := t.pmode, wait := .none, branch := none } ((savedPc t + 4) % 2 ^ 32)
    refine ⟨win, ?_⟩
    unfold savedPc at hw
    rw [hw]
    rfl
  · split
    · exact ⟨_, rfl⟩
    · exact ⟨_, rfl⟩

theorem trapReturn_wait (t : Thread) : (trapReturn t).wait = .none := by
  cases hds : t.ds with
  | false => rw [trapReturn_word hds]
  | true =>
    cases hskip : t.skip with
    | false => rw [trapReturn_slot hds hskip]
    | true =>
      obtain ⟨win, h⟩ := trapReturn_done hds hskip
      rw [h]

/-- The slot of a return that has trapped needs a slice that is not resident (R237). -/
def returnFills (t : Thread) : Bool := t.ds && t.dsk == 2 && t.depth != 0 && t.depth - 1 < t.winLo

theorem returnFills_iff {t : Thread} : returnFills t = true ↔ t.ds = true ∧ t.dsk = 2 ∧ t.depth ≠ 0 ∧ t.depth ≤ t.winLo := by
  simp only [returnFills, Bool.and_eq_true, beq_iff_eq, bne_iff_ne, decide_eq_true_eq, and_assoc]
  refine and_congr_right fun _ => and_congr_right fun _ => and_congr_right fun hd => ?_
  omega

section
variable {s : State} {t : Thread} (r : Run)

theorem trapBack_resident (hf : returnFills t = false) : trapBack s t r = putTh s (trapReturn t) := by
  unfold returnFills at hf
  simp only [trapBack, hf, Bool.false_eq_true, if_false]

theorem trapBack_fills (hf : returnFills t = true) : ∃ n, trapBack s t r
    = putTh (askSlice (drawn s) s.cur.core s.cur.slot r.part (t.depth - 1) false) (stall s (20 + n) (trapReturn t)) := by
  unfold returnFills at hf
  simp only [trapBack, hf, if_true]
  exact ⟨_, rfl⟩

end

/-- A return that brings back a slice: its request sets out, and the thread stalls. -/
theorem trapBack_asks {s : State} {t : Thread} (r : Run) (hf : returnFills t = true) : ∃ q n, (trapBack s t r).reqs = s.reqs ++ [q]
    ∧ q.asker = .spill s.cur.slot (t.depth - 1) ∧ q.core = s.cur.core ∧ q.sext = false ∧ SameBytes s (trapBack s t r) ∧ OtherThreads s (trapBack s t r)
    ∧ getTh (trapBack s t r) (curKey s) = { trapReturn t with wait := .untilN (nOf s s.cur.core + 20 + n) } := by
  obtain ⟨n, hback⟩ := trapBack_fills (s := s) r hf
  obtain ⟨id, dram, hask⟩ := askSlice_only (drawn s) s.cur.core s.cur.slot r.part (t.depth - 1) false
  rw [hback, hask]
  refine ⟨sliceReq (drawn s) s.cur.core s.cur.slot r.part (t.depth - 1) false, n, rfl, rfl, rfl, rfl, SameMem.sameBytes ⟨rfl, rfl, rfl⟩,
    fun k hk => (getTh_setTh _ _ _ _).trans (if_neg hk), (getTh_setTh_self _ _ _).trans ?_⟩
  rw [stall, Nat.add_assoc]

/-! ## ERET (R224, R259) -/

/-- What a return from the saved state makes of a thread, whatever it then waits for. -/
theorem trapReturn_returned (t : Thread) (w : Wait) :
    let lo := savedPc t
    let hi := savedTarget t
    let t' : Thread := { trapReturn t with wait := w }
    t'.mode = t.pmode
      ∧ (t.ds = false → t'.pc = lo ∧ t'.branch = none ∧ t'.ds = false ∧ t'.skip = false)
      ∧ (t.ds = true → t.skip = false → t'.pc = lo ∧ t'.branch = some ⟨(lo + 2 ^ 32 - 4) % 2 ^ 32, t.dsk, t.taken, hi, true⟩
          ∧ (advance t').ds = false ∧ (advance t').skip = false)
      ∧ (t.ds = true → t.skip = true → t'.branch = none ∧ t'.pc = (if t.taken then hi else (lo + 4) % 2 ^ 32) ∧ t'.ds = false ∧ t'.skip = false
          ∧ t'.depth = (if t.dsk = 1 then t.depth + 1 else if t.dsk = 2 then t.depth - 1 else t.depth)) := by
  intro lo hi
  cases hds : t.ds with
  | false =>
    rw [trapReturn_word hds]
    exact ⟨rfl, fun _ => ⟨rfl, rfl, rfl, rfl⟩, fun h => Bool.noConfusion h, fun h => Bool.noConfusion h⟩
  | true =>
    cases hskip : t.skip with
    | false =>
      rw [trapReturn_slot hds hskip]
      refine ⟨rfl, fun h => Bool.noConfusion h, fun _ _ => ⟨rfl, rfl, ?_, ?_⟩, fun _ h => Bool.noConfusion h⟩
      · rw [advance_some rfl]
        exact Bool.and_false _
      · rw [advance_some rfl]
        exact Bool.and_false _
    | true =>
      obtain ⟨win, h⟩ := trapReturn_done hds hskip
      rw [h]
      exact ⟨rfl, fun h => Bool.noConfusion h, fun _ h => Bool.noConfusion h, fun _ _ => ⟨rfl, rfl, rfl, rfl, rfl⟩⟩

theorem execEret_returns {s : State} {t : Thread} {r : Run} (h : Runs s t r) (hb : t.branch = none) (hm : t.mode = true) :
    execEret s = .next (trapBack s t r) := by
  simp only [execEret, onThread_runs h, hb, hm, Option.isSome_none, Bool.false_eq_true, if_false, Bool.not_true]

theorem trapReturnRule : TrapReturnRule := by
  intro s t r h lo hi fills returned
  refine ⟨fun hb hm hf => ?goes, fun hb hm hf => ?fills, fun hb hm => ?user, fun hb => ?slot⟩
  case goes =>
    have hres : returnFills t = false := Bool.eq_false_iff.2 (hf ∘ returnFills_iff.1)
    refine ⟨trapReturn t, ?_, trapReturn_returned t (trapReturn t).wait, trapReturn_wait t⟩
    change Becomes s _ (execEret s)
    rw [execEret_returns h hb hm, trapBack_resident r hres]
    exact becomes_putTh s _
  case fills =>
    obtain ⟨q, n, hreqs, hasker, hcore, hsext, hmem, hother, hth⟩ := trapBack_asks (s := s) r (returnFills_iff.2 hf)
    exact ⟨_, q, n, execEret_returns h hb hm, hreqs, hasker, hcore, hsext, hmem, hother, hth ▸ trapReturn_returned t _, congrArg Thread.wait hth⟩
  case user =>
    change ∃ w, Traps s _ w _ _ _ (execEret s)
    simp only [execEret, onThread_runs h, hb, hm, Option.isSome_none, Bool.false_eq_true, if_false, Bool.not_false, if_true]
    exact ⟨_, rfl⟩
  case slot =>
    change ∃ w, Traps s _ w _ _ _ (execEret s)
    simp only [execEret, onThread_runs h, hb, if_true]
    exact ⟨_, rfl⟩

/-! ## Delivery of a record (R360, R366) -/

/-- The state whose queue of a key has given its oldest record. -/
def unqueued (s : State) (k : Nat) (rest : List Record) : State :=
  { s with queues := if rest.isEmpty then tdel s.queues k else tins s.queues k rest, queueMore := s.queueMore.filter (· != k) }

theorem queues_unqueued (s : State) (k : Nat) (rest : List Record) : (lookup (unqueued s k rest).queues k).getD [] = rest := by
  unfold unqueued
  cases rest with
  | nil => exact congrArg (Option.getD · []) (lookup_tdel_same _ _)
  | cons x rest => exact congrArg (Option.getD · []) (lookup_tins_same _ _ _)

theorem getTh_unqueued (s : State) (k : Nat) (rest : List Record) (t : Thread) : getTh (putTh (unqueued s k rest) t) (curKey s) = t := getTh_setTh_self ..

theorem recordDeliveryRule : RecordDeliveryRule := by
  intro s t r x rest h hdue hq v h4 hlen h32
  have hf : fetchable (vector t x.cause) r.len = true := by
    simp only [fetchable, Bool.and_eq_true, beq_iff_eq, decide_eq_true_eq]
    exact ⟨h4, hlen⟩
  have hv : 32 ≤ vector (recordRegs t x (s.queueMore.contains (16 * s.cur.core + r.part))) x.cause := h32
  have hexec : exec .recordDelivery s = .next (putTh (unqueued s (16 * s.cur.core + r.part) rest)
      { recordRegs t x (s.queueMore.contains (16 * s.cur.core + r.part)) with pc := vector t x.cause }) := by
    change execRecordDelivery s = _
    simp only [execRecordDelivery, onThread_runs h, hq, Option.getD_some, hdue, Bool.not_true, Bool.false_eq_true, if_false]
    exact congrArg _ (if_pos (by rw [Bool.and_eq_true, decide_eq_true_eq]; exact ⟨hf, hv⟩))
  refine ⟨_, hexec, SameMem.sameBytes ⟨rfl, rfl, rfl⟩, fun k hk => (getTh_setTh _ _ _ _).trans (if_neg hk), queues_unqueued _ _ _, ?_⟩
  rw [getTh_unqueued]
  exact ⟨rfl, rfl, rfl, rfl, rfl, rfl, rfl, rfl, rfl, rfl, fun c => rfl⟩

/-- Settles O22, by the three ways on which a saved state goes on, with and without a slice to bring back, and by what a record leaves in the registers. -/
theorem trapReturns : Obligations.TrapReturns := ⟨trapReturnRule, recordDeliveryRule⟩

end Sys2Proof.Machine
end

section
/-! The debug resume, the debug port and STATERD (R222 to R224, R237, R257, R261, R366). -/

set_option Elab.async false

namespace Sys2Proof.Machine

open Safety

variable {s : State} {t : Thread} {r : Run}

/-! ## The debug resume (R257) -/

theorem exec_debugResume_halted (h : Runs s t r) (hh : t.halted = true) : exec .debugResume s = .next (trapBack s { t with halted := false } r) := by
  change execDebugResume s = _
  simp only [execDebugResume, onThread_runs h, hh, if_true]

/-- A return keeps whether the thread runs and whether it is halted. -/
theorem trapReturn_keeps (t : Thread) : (trapReturn t).running = t.running ∧ (trapReturn t).halted = t.halted := by
  cases hds : t.ds with
  | false => rw [trapReturn_word hds]; exact ⟨rfl, rfl⟩
  | true =>
    cases hskip : t.skip with
    | false => rw [trapReturn_slot hds hskip]; exact ⟨rfl, rfl⟩
    | true =>
      obtain ⟨win, h⟩ := trapReturn_done hds hskip
      rw [h]
      exact ⟨rfl, rfl⟩

theorem debugResumesRule : DebugResumesRule := by
  intro s t r h lo fills
  have hresumes (hh : t.halted = true) (hf : ¬ fills) : Becomes s (trapReturn { t with halted := false }) (exec .debugResume s) := by
    have hres : returnFills { t with halted := false } = false := Bool.eq_false_iff.2 (hf ∘ returnFills_iff.1)
    rw [exec_debugResume_halted h hh, trapBack_resident r hres]
    exact becomes_putTh s _
  obtain ⟨hrun, hhalted⟩ := trapReturn_keeps { t with halted := false }
  obtain ⟨hmode, hword, hslot, hdone⟩ := trapReturn_returned { t with halted := false } (trapReturn { t with halted := false }).wait
  refine ⟨fun hh hf => ?fills, fun hh hf => ?goes, fun hh hf hds hskip => ?done, fun hh => ?runs⟩
  case fills =>
    obtain ⟨q, n, hreqs, hasker, hcore, hsext, hmem, hother, hth⟩ := trapBack_asks (s := s) (t := { t with halted := false }) r (returnFills_iff.2 hf)
    exact ⟨_, q, exec_debugResume_halted h hh, hreqs, hasker, hcore, hsext, hmem, hother, (congrArg Thread.halted hth).trans hhalted,
      (congrArg Thread.mode hth).trans hmode⟩
  case goes =>
    refine ⟨_, hresumes hh hf, hhalted, hmode, hrun.trans h.2.2, fun hds => ?_, fun hds hskip => ?_⟩
    · obtain ⟨hpc, hb, -⟩ := hword hds
      exact ⟨hpc, hb⟩
    · obtain ⟨hpc, hb, -⟩ := hslot hds hskip
      exact ⟨hpc, Option.isSome_iff_exists.2 ⟨_, hb⟩⟩
  case done =>
    obtain ⟨hb, hpc, hds', -⟩ := hdone hds hskip
    exact ⟨_, hresumes hh hf, hb, hds', hpc⟩
  case runs =>
    change execDebugResume s = _
    simp only [execDebugResume, onThread_runs h, hh, Bool.false_eq_true, if_false]

/-! ## Registers of the debug port (R222, R366, log 52) -/

/-- The low bits of a word are those of its number. -/
theorem toNat_w64_mod (v : Nat) {k : Nat} (hk : k ≤ 64) : (w64 v).toNat % 2 ^ k = v % 2 ^ k := by
  rw [w64, BitVec.toNat_ofNat, Nat.mod_mod_of_dvd _ (Nat.pow_dvd_pow 2 hk)]

theorem getLsbD_w64 (v : Nat) {k : Nat} (hk : k < 64) : (w64 v).getLsbD k = v.testBit k := by
  rw [w64, BitVec.getLsbD_ofNat, decide_eq_true hk, Bool.true_and]

theorem bit_w64 (v : Nat) {k : Nat} (hk : k < 64) : bit (w64 v).toNat k = v.testBit k := by
  rw [bit_eq_testBit, BitVec.testBit_toNat, getLsbD_w64 v hk]

theorem debugWrite_cause (t : Thread) (v : Nat) :
    debugWrite t 0x100 v = { t with more := v.testBit 10, async := v.testBit 9, cause := v % 2 ^ 9 } := by
  have hcause : bits (w64 v).toNat 8 0 = v % 2 ^ 9 := by
    rw [bits, pow_zero, Nat.div_one]
    exact toNat_w64_mod v (by decide)
  change { t with more := bit (w64 v).toNat 10, async := bit (w64 v).toNat 9, cause := bits (w64 v).toNat 8 0 } = _
  rw [bit_w64 v (by decide), bit_w64 v (by decide), hcause]

/-- PRIV through the debug port, but for DBG. -/
theorem srWrite_priv_w64 (t : Thread) (v : Nat) : srWrite t 0x111 (w64 v) = { t with
    skip := v.testBit 6, dsk := if v / 16 % 4 = 3 then 0 else v / 16 % 4, taken := v.testBit 3, ds := v.testBit 2, pmode := v.testBit 1
    mode := v.testBit 0 } := by
  have hdsk : bits (w64 v).toNat 5 4 = v / 16 % 4 := by
    have := toNat_w64_mod v (k := 6) (by decide)
    unfold bits
    omega
  change { t with
    skip := bit (w64 v).toNat 6, dsk := if bits (w64 v).toNat 5 4 = 3 then 0 else bits (w64 v).toNat 5 4, taken := bit (w64 v).toNat 3
    ds := bit (w64 v).toNat 2, pmode := bit (w64 v).toNat 1, mode := bit (w64 v).toNat 0 } = _
  rw [bit_w64 v (by decide), bit_w64 v (by decide), bit_w64 v (by decide), bit_w64 v (by decide), bit_w64 v (by decide), hdsk]

/-- A special register number that no write reaches. -/
theorem debugWrite_other {t : Thread} {ix : Nat} (v : Nat) (h : 0x100 ≤ ix)
    (hn : ix ∉ [0x100, 0x101, 0x102, 0x103, 0x104, 0x105, 0x110, 0x111]) : debugWrite t ix v = t := by
  rw [debugWrite, if_neg (by omega), if_neg (by omega), if_neg (by omega), if_neg (by omega), srWrite]
  all_goals
    rintro rfl
    exact hn (by decide)

/-- A number that no register has reads the PC. -/
theorem debugRead_other {t : Thread} {ix : Nat} (h : 40 < ix)
    (hn : ix ∉ [0x100, 0x101, 0x102, 0x103, 0x104, 0x105, 0x106, 0x110, 0x111]) : debugRead t ix = t.pc := by
  rw [debugRead, if_neg (by omega), if_neg (by omega), if_neg (by omega)]
  all_goals
    rintro rfl
    exact hn (by decide)

/-! ## Accesses of the debug port (R257) -/

section
variable (h : Runs s t r)
include h

theorem debugAccess_priv (hf : s.cur.flag = true) (hix : s.cur.ix = 0x111) : exec .debugAccess s
    = .next (putTh s { (if t.halted then srWrite t 0x111 (w64 s.cur.val) else t) with dbg := bit s.cur.val 7 }) := by
  change execDebugAccess s = _
  simp only [execDebugAccess, onThread_runs h, hf, hix, beq_self_eq_true, Bool.and_self, if_true]

theorem debugAccess_running (hh : t.halted = false) (hn : s.cur.flag = false ∨ s.cur.ix ≠ 0x111) : exec .debugAccess s = .next s := by
  have hno : (s.cur.flag && s.cur.ix == 0x111) = false := by
    obtain hn | hn := hn
    · rw [hn, Bool.false_and]
    · rw [beq_eq_false_iff_ne.2 hn, Bool.and_false]
  change execDebugAccess s = _
  simp only [execDebugAccess, onThread_runs h, hno, hh, Bool.false_eq_true, if_false, Bool.not_false, if_true]

variable (hh : t.halted = true)
include hh

theorem debugAccess_write (hf : s.cur.flag = true) (hix : s.cur.ix ≠ 0x111) :
    exec .debugAccess s = .next (putTh s (debugWrite t s.cur.ix s.cur.val)) := by
  change execDebugAccess s = _
  simp only [execDebugAccess, onThread_runs h, hf, beq_eq_false_iff_ne.2 hix, hh, Bool.and_false, Bool.false_eq_true, if_false, Bool.not_true, if_true]

theorem debugAccess_read (hf : s.cur.flag = false) :
    exec .debugAccess s = .next { s with cur := { s.cur with val := debugRead t s.cur.ix } } := by
  change execDebugAccess s = _
  simp only [execDebugAccess, onThread_runs h, hf, hh, Bool.false_and, Bool.false_eq_true, if_false, Bool.not_true]

end

theorem debugPortRule : DebugPortRule := by
  intro s t r h ix v w reads
  refine ⟨fun hf hix hh => ?_, fun hf hix hh => ?_, debugAccess_running h, fun hh hf => ?writes, fun hh hf => ?reads⟩
  · rw [debugAccess_priv h hf hix, if_neg (by rw [hh]; decide), bit_eq_testBit]
    exact becomes_putTh s _
  · rw [debugAccess_priv h hf hix, if_pos hh, srWrite_priv_w64, bit_eq_testBit]
    exact becomes_putTh s _
  case writes =>
    have hw (x : Nat) (t' : Thread) (hix : ix = x) (hx : x ≠ 0x111) (ht : debugWrite t x v = t') : Becomes s t' (exec .debugAccess s) := by
      rw [debugAccess_write h hh hf (fun he => hx (hix.symm.trans he)), show s.cur.ix = x from hix, ht]
      exact becomes_putTh s _
    refine ⟨fun hix => ?_, fun h32 h40 => ?_, fun hix => hw 40 _ hix (by decide) rfl, fun h40 h100 => hw ix _ rfl (by omega) ?_,
      fun hix => hw 0x100 _ hix (by decide) (debugWrite_cause t v), fun hix => hw 0x101 _ hix (by decide) rfl, fun hix => hw 0x102 _ hix (by decide) rfl,
      fun hix => hw 0x103 _ hix (by decide) rfl, fun hix => hw 0x104 _ hix (by decide) rfl, fun hix => hw 0x105 _ hix (by decide) rfl,
      fun hix => hw 0x110 _ hix (by decide) rfl, fun h100 hn => hw ix _ rfl (fun he => hn (by rw [he]; decide)) (debugWrite_other v h100 hn)⟩
    · exact ⟨_, wrote_wrReg t ix w, hw ix _ rfl (by omega) (if_pos hix)⟩
    · refine ⟨{ t with k := tput t.k 0 (ix - 32) (BitVec.ofNat 32 v) }, fun j => tget_tput _ _ _ _ _, rfl, hw ix _ rfl (by omega) ?_⟩
      rw [debugWrite, if_neg (by omega), if_pos h40]
    · rw [debugWrite, if_neg (by omega), if_neg (by omega), if_neg (by omega), if_pos h100]
  case reads =>
    have hr (x y : Nat) (hix : ix = x) (hy : debugRead t x = y) : reads y := by
      refine (debugAccess_read h hh hf).trans ?_
      rw [show s.cur.ix = x from hix, hy]
    refine ⟨fun hix => hr ix _ rfl (if_pos hix), fun h32 h40 => hr ix _ rfl ?_, fun hix => hr 40 _ hix rfl, fun h40 h100 => hr ix _ rfl (debugRead_other h40 ?_),
      fun hix => hr 0x100 _ hix ?_, fun hix => hr 0x101 _ hix rfl, fun hix => hr 0x102 _ hix rfl, fun hix => hr 0x103 _ hix rfl, fun hix => hr 0x104 _ hix rfl,
      fun hix => hr 0x105 _ hix rfl, fun hix => hr 0x106 _ hix rfl, fun hix => hr 0x110 _ hix rfl, fun hix => hr 0x111 _ hix rfl,
      fun h100 hn => hr ix _ rfl (debugRead_other (by omega) hn)⟩
    · unfold debugRead
      rw [if_neg (by omega), if_pos h40]
    · have hge : ∀ x ∈ [0x100, 0x101, 0x102, 0x103, 0x104, 0x105, 0x106, 0x110, 0x111], 0x100 ≤ x := by decide
      exact fun hm => absurd (hge ix hm) (by omega)
    · change causeReg t = _
      unfold causeReg b2n
      split_ifs <;> omega

/-! ## STATERD (R219, R261) -/

theorem stateReadsRule : StateReadsRule := by
  intro s t r d a space h i core
  refine ⟨fun hm => ⟨_, wrote_wrReg t d (stateWord s core r space i), ?_⟩, fun hm => ?_, fun hi => ?_, fun hi => ?_, fun hi => ?_, fun hi => ?_, fun hi => ?_,
    fun hi => ?_⟩
  · change Becomes s _ (execStaterd d a space s)
    rw [execStaterd, asSupervisor, onThread_runs h, if_pos hm]
    exact becomes_putTh s _
  · change ∃ w, Traps s _ w _ _ _ (execStaterd d a space s)
    rw [execStaterd, asSupervisor, onThread_runs h, if_neg (by rw [hm]; decide)]
    exact ⟨_, rfl⟩
  · exact if_neg (by omega)
  · exact if_neg (by omega)
  · exact if_pos hi
  · exact if_pos hi
  · exact if_pos hi
  · change (if i < 10 then _ else if i = 10 then _ else if i = 11 then _ else 0) = _
    rw [if_neg (by omega), if_neg (by omega), if_neg (by omega)]

/-- Settles O24, by the return from the saved state, by the register that each number of the port names, and by the word that each index of a space names. -/
theorem debugAccess : Obligations.DebugAccess := ⟨debugResumesRule, debugPortRule, stateReadsRule⟩

end Sys2Proof.Machine
end

section
/-! Reads of special registers: what SRRD writes, and what each register holds (R222 to R224, R231). -/

set_option Elab.async false

namespace Sys2Proof.Machine

open Safety

/-! ## SRRD (R222, R231) -/

theorem specialReadsRule : SpecialReadsRule := by
  intro s t r d x h hsr huser hc
  change Result s t d _ (execSrrd d x s)
  have hallowed : (!t.mode && !srUser x) = false := by
    obtain hm | hu := huser
    · rw [hm, Bool.not_true, Bool.false_and]
    · rw [hu, Bool.not_true, Bool.and_false]
  rw [execSrrd, onThread_runs h, hsr, if_neg (by decide), if_neg (by rw [hallowed]; decide)]
  dsimp only
  by_cases hx : x = 0x020 ∨ x = 0x021
  · rw [if_pos hx]
    have hecho := result_echoRead h (hc.resolve_right (by omega)) d (srRead s s.cur.core s.cur.slot t r x)
    rw [onThread_runs h] at hecho
    exact hecho
  · rw [if_neg hx]
    exact result_writeBack d _

/-! ## Capability bits (R180, R222) -/

theorem testBit_capAll {i : Nat} (h : i < 64) : capAll.testBit i = decide (i < 48 ∧ i ≠ 22 ∧ i ≠ 23) := by
  revert i
  decide

theorem testBit_capMask (s : State) (core : Nat) {i : Nat} (h : i < 64) :
    (capMask s core).testBit i = (decide (i < 48 ∧ i ≠ 22 ∧ i ≠ 23) && !(getCore s core).capClr.getLsbD i) := by
  have hones : (0xFFFFFFFFFFFFFFFF).testBit i = true := by
    rw [show 0xFFFFFFFFFFFFFFFF = 2 ^ 64 - 1 from rfl, Nat.testBit_two_pow_sub_one, decide_eq_true h]
  rw [capMask, Nat.testBit_and, Nat.testBit_xor, testBit_capAll h, hones, BitVec.testBit_toNat, Bool.true_xor]

/-- A channel is fenced whose capability bit is 0. -/
theorem testBit_fencedCh (s : State) (core i : Nat) : (fencedCh s core).testBit i = (decide (i < 5) && !(capMask s core).testBit (32 + i)) := by
  have hlt : bits (capMask s core) 36 32 < 2 ^ 5 := Nat.mod_lt _ (by decide)
  rw [fencedCh, show 31 - bits (capMask s core) 36 32 = 2 ^ 5 - (bits (capMask s core) 36 32 + 1) by omega, Nat.testBit_two_pow_sub_succ hlt, bits,
    Nat.testBit_mod_two_pow, Nat.testBit_div_two_pow, Nat.add_comm i 32]
  by_cases hi : i < 5 <;> simp [hi]

/-! ## The registers of a thread (R31, R33, R97, R222, R223, R357) -/

/-- A difference of ticks, as a register holds it. -/
theorem w64_sub (a : Nat) {b : Nat} (h : b < 2 ^ 64) : w64 (a + 2 ^ 64 - b) = BitVec.ofNat 64 a - BitVec.ofNat 64 b := by
  apply BitVec.eq_of_toNat_eq
  rw [w64, BitVec.toNat_sub, BitVec.toNat_ofNat, BitVec.toNat_ofNat, BitVec.toNat_ofNat]
  omega

theorem specialValuesRule : SpecialValuesRule := by
  intro s core slot t r n b rd own now
  have htime : timeOn s core = now := timeOn_eq s core
  have h1 : rd 0x001 = n (timeOn s core).1 := rfl
  have h2 : rd 0x002 = w64 ((timeOn s core).1 + 2 ^ 64 - r.fire) := rfl
  have h3 : rd 0x003 = n ((timeOn s core).1 * 10 + (timeOn s core).2 * 10 / 2 ^ 32) := rfl
  have h4 : rd 0x004 = n (timeOn s core).2 := rfl
  have hpart : rd 0x00A = n (b (getPart s r.part).rt * 16 + r.part) := rfl
  have hcap (i : Nat) (hi : i < 64) : (rd 0x020).getLsbD i = (capMask s core).testBit i := getLsbD_w64 _ hi
  rw [htime] at h1 h2 h3 h4
  refine ⟨h1, fun hf => h2.trans (w64_sub _ hf), h3, h4, rfl, rfl, hpart.trans (by rw [Nat.mul_comm]), rfl, fun i hi => ?_, rfl, rfl, fun i hi => ?_, fun i hi => ?_,
    rfl, rfl, rfl, rfl, rfl, rfl, rfl, rfl, rfl, rfl, rfl, rfl⟩
  · rw [lineSeen, bit_eq_testBit]
    exact getLsbD_w64 _ (by omega)
  · rw [hcap i hi]
    exact testBit_capMask s core hi
  · refine (getLsbD_w64 (fencedCh s core) hi).trans ?_
    rw [testBit_fencedCh]
    by_cases h5 : i < 5
    · rw [hcap (32 + i) (by omega)]
    · simp [h5]

/-! ## Device registers (R34 to R36, R68, R116, R224, R403, R416 to R424, R434 to R438) -/

/-- From 0x400 on a register is the device's. -/
theorem srRead_device (s : State) (core slot : Nat) (t : Thread) (r : Run) {x : Nat} (h : 0x400 ≤ x) : srRead s core slot t r x = w64 (devRead s x) := by
  rw [srRead]
  all_goals
    rintro rfl
    exact absurd h (by decide)

theorem foldl_add_range_four (g : Nat → Nat) : (List.range 4).foldl (fun a d => a + g d) 0 = g 0 + g 1 + g 2 + g 3 := by
  rw [show List.range 4 = [0, 1, 2, 3] from rfl]
  simp only [List.foldl_cons, List.foldl_nil, Nat.zero_add]

/-- Four bytes, the first the lowest. -/
theorem foldl_bytes (f : Nat → Nat) : (List.range 4).foldl (fun a d => a + f d * 2 ^ (8 * d)) 0 = f 0 + f 1 * 2 ^ 8 + f 2 * 2 ^ 16 + f 3 * 2 ^ 24 := by
  rw [foldl_add_range_four fun d => f d * 2 ^ (8 * d), Nat.mul_zero, pow_zero, Nat.mul_one]

/-- THRSTAT: the trip level above the four temperatures. -/
theorem devRead_thrstat (s : State) : devRead s 0x453 = tripLevel s * 2 ^ 32 + (tget s.mgmt.tmax 0 0 % 256 + tget s.mgmt.tmax 0 1 % 256 * 2 ^ 8
    + tget s.mgmt.tmax 0 2 % 256 * 2 ^ 16 + tget s.mgmt.tmax 0 3 % 256 * 2 ^ 24) := by
  rw [← foldl_bytes fun d => tget s.mgmt.tmax 0 d % 256]
  unfold devRead
  iterate 10 rw [if_neg (by decide)]
  rw [if_pos rfl]

theorem tripLevel_eq (s : State) : tripLevel s = if s.mgmt.t3In then 3 else if s.mgmt.t2In ≠ [] then 2 else if s.mgmt.t1In then 1 else 0 := by
  unfold tripLevel
  cases s.mgmt.t2In <;> rfl

/-! The registers of which there is one for each partition, cluster or synchronizer. -/

section
variable (s : State) {p : Nat} (h : p < 16)
include h

theorem devRead_quant : devRead s (0x410 + p) = (getPart s p).quant * 256 + b2n (getPart s p).enable * 2 + b2n (getPart s p).rt := by
  unfold devRead
  iterate 3 rw [if_neg (by omega)]
  rw [if_pos (by omega)]
  dsimp only
  rw [Nat.add_sub_cancel_left]

theorem devRead_root : devRead s (0x420 + p) = (getPart s p).root * 4096 + b2n (getPart s p).rootEn := by
  unfold devRead
  iterate 4 rw [if_neg (by omega)]
  rw [if_pos (by omega)]
  dsimp only
  rw [Nat.add_sub_cancel_left]

theorem devRead_flr : devRead s (0x440 + p) = (getPart s p).flrState * 2 ^ 62 + (getPart s p).flrDrained * 2 ^ 32 + (getPart s p).flrTicks := by
  unfold devRead
  iterate 6 rw [if_neg (by omega)]
  rw [if_pos (by omega)]
  dsimp only
  rw [Nat.add_sub_cancel_left]

theorem devRead_level : devRead s (0x460 + p) = tget s.level 16 p := by
  unfold devRead
  iterate 12 rw [if_neg (by omega)]
  rw [if_pos (by omega), Nat.add_sub_cancel_left, levelOf]

theorem devRead_context : devRead s (0x500 + p) = (getPart s p).ctxBase * 2 ^ 21 + (getPart s p).ctxSize := by
  unfold devRead
  iterate 14 rw [if_neg (by omega)]
  rw [if_pos (by omega)]
  dsimp only
  rw [Nat.add_sub_cancel_left]

end

theorem devRead_sync (s : State) {i : Nat} (h : i < 128) : devRead s (0x480 + i) = (tget s.sync 0 i).toNat := by
  unfold devRead
  iterate 13 rw [if_neg (by omega)]
  rw [if_pos (by omega), Nat.add_sub_cancel_left]

theorem deviceValuesRule : DeviceValuesRule := by
  intro s core slot t r n b rd m temp
  have hdev {x v : Nat} (hx : 0x400 ≤ x) (hv : devRead s x = v) : rd x = n v := (srRead_device s core slot t r hx).trans (congrArg w64 hv)
  refine ⟨rfl, rfl, rfl, rfl, fun p hp => ⟨hdev (by omega) (devRead_quant s hp), hdev (by omega) (devRead_root s hp), hdev (by omega) (devRead_flr s hp),
    hdev (by omega) (devRead_level s hp), hdev (by omega) (devRead_context s hp)⟩, rfl, rfl, rfl, rfl, hdev (by omega) ?_, rfl, fun i hi => ?_, ?_⟩
  · rw [devRead_thrstat, tripLevel_eq]
  · exact (hdev (by omega) (devRead_sync s hi)).trans (w64_toNat _)
  · exact w64_toNat _

/-- Settles O9, by the register that each number names, and by the bits and sums that each register holds. -/
theorem specialReads : Obligations.SpecialReads := ⟨specialReadsRule, specialValuesRule, deviceValuesRule⟩

end Sys2Proof.Machine
end

section
/-! TID entries and residency bits (R112, R248, R249, R263). -/

set_option Elab.async false

namespace Sys2Proof.Machine

open Safety

variable {s : State} {t : Thread} {r : Run}

/-! ## TIDWR (R248) -/

/-- The thread after TIDWR has written its shadow. -/
def shadowed (t : Thread) (r : Run) (w : Nat) (v : W64) : Thread :=
  { t with shadow := tput t.shadow 0 w v, shadowPart := tput t.shadowPart 0 w (r.part + 1) }

theorem shadowed_rest (t : Thread) (r : Run) (w : Nat) (v : W64) : { shadowed t r w v with shadow := t.shadow, shadowPart := t.shadowPart } = t := rfl

/-- The entry that the shadow holds. -/
def shadowEntry (t : Thread) : TidV :=
  tidParse (tget t.shadow 0 0).toNat (tget t.shadow 0 1).toNat (tget t.shadow 0 2).toNat (tget t.shadow 0 3).toNat

/-- Why the commit of an entry is refused (R248). -/
def commitRefused (s : State) (r : Run) (tid : Nat) (e : TidV) : Bool :=
  (e.valid && !tidWf e r.part (!(getPart s r.part).rt)) || (copyRuns s s.cur.core r.part && inJournal s s.cur.core tid)

theorem commitRefused_eq_false {tid : Nat} {e : TidV} : commitRefused s r tid e = false
    ↔ (e.valid = true → tidWf e r.part (!(getPart s r.part).rt) = true) ∧ ¬ (copyRuns s s.cur.core r.part = true ∧ inJournal s s.cur.core tid = true) := by
  rw [commitRefused, Bool.or_eq_false_iff, ← Bool.and_eq_true, Bool.not_eq_true]
  refine and_congr_left fun _ => ?_
  cases e.valid <;> cases tidWf e r.part (!(getPart s r.part).rt) <;> decide

/-- The state after the commit of four words: the entry holds them, its residency bits are clear. -/
def committed (s : State) (r : Run) (tid : Nat) (x : Nat → W64) : State :=
  let core := s.cur.core
  let s1 := (List.range 4).foldl (fun s i => setTidWord s core r.part tid i (x i)) s
  resClearTid { s1 with tidFrom := tdel s1.tidFrom (tidKey core r.part tid) } core r.part tid

section
variable (h : Runs s t r) (d a tid : Nat)
include h

theorem execTidwr_user (hm : t.mode = false) (w : Nat) : ∃ i0, Traps s 0x004 i0 0 0 false (execTidwr d a tid w s) := by
  rw [execTidwr, asSupervisor, onThread_runs h, if_neg (by rw [hm]; decide)]
  exact ⟨_, rfl⟩

variable (hm : t.mode = true)
include hm

theorem execTidwr_shadow {w : Nat} (hw : w < 3) : execTidwr d a tid w s = .next (writeBack s (shadowed t r w (rdReg t a)) d 0) := by
  rw [execTidwr, asSupervisor, onThread_runs h, if_pos hm]
  exact congrArg _ (if_pos hw)

theorem execTidwr_waits (hi : s.todo.contains (.copyIssue s.cur.core) = true) : execTidwr d a tid 3 s
    = .next { s with todo := .copyIssue s.cur.core :: .thread s.cur.core s.cur.slot :: s.todo.filter (· != .copyIssue s.cur.core) } := by
  rw [execTidwr, asSupervisor, onThread_runs h, if_pos hm]
  dsimp only
  rw [if_neg (by decide), if_pos hi]

variable (hi : s.todo.contains (.copyIssue s.cur.core) = false)
include hi

theorem execTidwr_refused (hr : commitRefused s r tid (shadowEntry (shadowed t r 3 (rdReg t a))) = true) :
    execTidwr d a tid 3 s = .next (writeBack s (shadowed t r 3 (rdReg t a)) d 0x146) := by
  rw [execTidwr, asSupervisor, onThread_runs h, if_pos hm]
  dsimp only
  rw [if_neg (by decide), if_neg (by rw [hi]; decide)]
  exact congrArg _ (if_pos hr)

theorem execTidwr_commits (hr : commitRefused s r tid (shadowEntry (shadowed t r 3 (rdReg t a))) = false) : execTidwr d a tid 3 s
    = .next (writeBack (committed s r tid (tget (shadowed t r 3 (rdReg t a)).shadow 0)) (shadowed t r 3 (rdReg t a)) d 0) := by
  rw [execTidwr, asSupervisor, onThread_runs h, if_pos hm]
  dsimp only
  rw [if_neg (by decide), if_neg (by rw [hi]; decide)]
  exact congrArg _ (if_neg (Bool.eq_false_iff.1 hr))

end

/-- Words of an entry that are written one after the other. -/
theorem foldl_setTidWord (s : State) (core part tid : Nat) (x : Nat → W64) (n : Nat) :
    (List.range n).foldl (fun s i => setTidWord s core part tid i (x i)) s
      = { s with tids := (List.range n).foldl (fun w i => tput w 0 (4 * tidKey core part tid + i) (x i)) s.tids } := by
  induction n with
  | zero => rfl
  | succ n ih =>
    rw [List.range_succ, List.foldl_append, List.foldl_append, ih]
    rfl

/-- A commit changes the table of entries, the marks of saved entries and the residency bits. -/
theorem committed_only (s : State) (r : Run) (tid : Nat) (x : Nat → W64) : ∃ tidFrom, committed s r tid x = { s with
    tids := (List.range 4).foldl (fun w i => tput w 0 (4 * tidKey s.cur.core r.part tid + i) (x i)) s.tids, tidFrom := tidFrom
    resid := s.resid.filter fun k => k / 4096 != tidKey s.cur.core r.part tid } := by
  unfold committed
  extract_lets core s1
  have h1 : s1 = _ := foldl_setTidWord s core r.part tid x 4
  clear_value s1
  subst h1
  exact ⟨_, rfl⟩

/-- The words of the entry are those written, and every other entry's are as before; the residency bits of the TID are clear. -/
theorem committed_own (s : State) (r : Run) (tid : Nat) (x : Nat → W64) :
    let s' := committed s r tid x
    let key := tidKey s.cur.core r.part tid
    (∀ k, tget s'.tids 0 k = if 4 * key ≤ k ∧ k < 4 * key + 4 then x (k - 4 * key) else tget s.tids 0 k)
      ∧ s'.resid = s.resid.filter (fun k => k / 4096 != key) ∧ SameMem s s' ∧ s'.threads = s.threads ∧ s'.cur = s.cur := by
  intro s' key
  obtain ⟨tidFrom, hc⟩ := committed_only s r tid x
  rw [show s' = _ from hc]
  exact ⟨fun k => tget_foldl_tput_from 0 x s.tids _ k 4, rfl, ⟨rfl, rfl, rfl⟩, rfl, rfl⟩

theorem tidWordsRule : TidWordsRule := by
  intro s t r d a tid w h
  refine ⟨?rd, fun hm hw => ?shadow, fun hm hi => ?commit, fun hm hi => execTidwr_waits h d a tid hm hi, fun hm => execTidwr_user h d a tid hm w⟩
  case rd =>
    change Result s t d _ (execTidrd d tid w s)
    rw [execTidrd, onThread_runs h, tidWord, w64_toNat]
    exact result_writeBack d _
  case shadow =>
    refine ⟨shadowed t r w (rdReg t a), fun j => tget_tput _ _ _ _ _, shadowed_rest t r w _, ?_⟩
    change Result s _ d 0 (execTidwr d a tid w s)
    rw [execTidwr_shadow h d a tid hm hw]
    exact result_writeBack d _
  case commit =>
    intro x e ok
    have hx (j : Nat) : (tget (shadowed t r 3 (rdReg t a)).shadow 0 j).toNat = x j := by
      rw [show tget (shadowed t r 3 (rdReg t a)).shadow 0 j = _ from tget_tput _ _ _ _ _]
      exact apply_ite BitVec.toNat _ _ _
    have he : shadowEntry (shadowed t r 3 (rdReg t a)) = e := by rw [shadowEntry, hx, hx, hx, hx]
    refine ⟨fun hok => ?goes, fun hok => ?refused⟩
    case goes =>
      have hexec := execTidwr_commits h d a tid hm hi (he ▸ commitRefused_eq_false.2 hok)
      obtain ⟨htids, hresid, hmem, hth, hcur⟩ := committed_own s r tid (tget (shadowed t r 3 (rdReg t a)).shadow 0)
      generalize committed s r tid (tget (shadowed t r 3 (rdReg t a)).shadow 0) = s1 at hexec htids hresid hmem hth hcur
      have hget (k : Nat) : getTh (writeBack s1 (shadowed t r 3 (rdReg t a)) d 0) k
          = if k = curKey s then advance (wrReg (shadowed t r 3 (rdReg t a)) d 0) else getTh s k := by
        unfold writeBack putTh curKey getTh
        rw [hcur, ← hth]
        exact getTh_setTh _ _ _ _
      refine ⟨_, hexec, fun j hj => ?_, fun k hk => ?_, hresid, hmem.sameBytes, fun k hk => (hget k).trans (if_neg hk), shadowed t r 3 (rdReg t a), _,
        shadowed_rest t r 3 _, wrote_wrReg _ d 0, (hget _).trans (if_pos rfl)⟩
      · refine (congrArg BitVec.toNat (htids _)).trans ?_
        rw [if_pos (by omega), Nat.add_sub_cancel_left, hx]
      · exact (htids k).trans (if_neg (by omega))
    case refused =>
      have hr : commitRefused s r tid e = true := by
        rw [← Bool.not_eq_false, commitRefused_eq_false]
        exact hok
      refine ⟨shadowed t r 3 (rdReg t a), shadowed_rest t r 3 _, ?_⟩
      change Result s _ d _ (execTidwr d a tid 3 s)
      rw [execTidwr_refused h d a tid hm hi (he ▸ hr)]
      exact result_writeBack d _

/-! ## RESCLR and RESTST (R249) -/

section
variable (h : Runs s t r) (a tid : Nat) (f : Thread → Option Nat → State)
include h

theorem resOp_invalid (hv : (tidOf s s.cur.core r.part tid).valid = false) : resOp s a tid f
    = .next (trapNow s 0x060 (info3 tid (tidOf s s.cur.core r.part tid).space 0) ((rdReg t a).toNat % 2 ^ 32) pathE) := by
  simp only [resOp, onThread_runs h, hv, Bool.not_false, if_true]

variable (hv : (tidOf s s.cur.core r.part tid).valid = true)
include hv

theorem resOp_beyond (ht : (tidOf s s.cur.core r.part tid).tileCount ≤ (rdReg t a).toNat % 2 ^ 32) : resOp s a tid f
    = .next (trapNow s 0x062 (info3 tid (tidOf s s.cur.core r.part tid).space 0) ((rdReg t a).toNat % 2 ^ 32) pathE) := by
  simp only [resOp, onThread_runs h, hv, Bool.not_true, Bool.false_eq_true, if_false, if_pos ht]

variable (ht : (rdReg t a).toNat % 2 ^ 32 < (tidOf s s.cur.core r.part tid).tileCount)
include ht

theorem resOp_goes : resOp s a tid f = .next (f t (if (tidOf s s.cur.core r.part tid).restrk
    then some (resKey s.cur.core r.part tid ((rdReg t a).toNat % 2 ^ 32)) else none)) := by
  simp only [resOp, onThread_runs h, hv, Bool.not_true, Bool.false_eq_true, if_false, if_neg (Nat.not_le.2 ht)]

end

theorem residencyWordsRule : ResidencyWordsRule := by
  intro s t r d a tid h e tile k
  obtain ⟨f, hf⟩ : ∃ f, execRestst d a tid s = resOp s a tid f := ⟨_, by rw [execRestst]⟩
  obtain ⟨g, hg⟩ : ∃ g, execResclr a tid s = resOp s a tid g := ⟨_, by rw [execResclr]⟩
  refine ⟨fun hv ht hr => ⟨?_, ?_⟩, fun hv ht hr => ⟨?_, ?_⟩,
    fun hv => ⟨_, hf.trans (resOp_invalid h a tid f hv), hg.trans (resOp_invalid h a tid g hv)⟩,
    fun hv ht => ⟨_, hf.trans (resOp_beyond h a tid f hv ht), hg.trans (resOp_beyond h a tid g hv ht)⟩⟩
  · change Result s t d _ (execRestst d a tid s)
    rw [execRestst, resOp_goes h a tid _ hv ht, if_pos hr]
    have hbit : (if s.resid.contains k = true then 1 else 0 : W64) = w64 (b2n (resGet s k)) := by
      rw [resGet]
      cases s.resid.contains k <;> rfl
    rw [hbit]
    exact result_writeBack d _
  · have hexec : exec (.resclr a tid) s = .next (goOn (resClear s k) t) := by
      change execResclr a tid s = _
      rw [execResclr, resOp_goes h a tid _ hv ht, if_pos hr]
    exact ⟨_, hexec, rfl, getTh_setTh_self .., SameMem.sameBytes ⟨rfl, rfl, rfl⟩, fun k hk => (getTh_setTh _ _ _ _).trans (if_neg hk)⟩
  · change Result s t d _ (execRestst d a tid s)
    rw [execRestst, resOp_goes h a tid _ hv ht, if_neg (by rw [hr]; decide)]
    exact result_writeBack d _
  · change Safety.Passes s t (execResclr a tid s)
    rw [execResclr, resOp_goes h a tid _ hv ht, if_neg (by rw [hr]; decide)]
    exact becomes_putTh s (advance t)

/-- Settles O11, by the cases of the commit of an entry, and by the check that the residency words make first. -/
theorem tidTable : Obligations.TidTable := ⟨tidWordsRule, residencyWordsRule⟩

end Sys2Proof.Machine
end
